-- ==== Sys2Proof/Word.lean ====
section
/-! DEFINITION. The plain data the whole model is made of: words, bytes, and sparse tables kept in one canonical form. -/

namespace Sys2Proof

/-- One byte (R11: multi-byte values are little-endian lists of these). -/
abbrev Byte := BitVec 8

/-- A sparse table: index and value pairs, indices strictly rising, no value equal to the table's default. -/
abbrev SMap (α : Type) := List (Nat × α)

/-- The value a sparse table holds at an index: the listed one, or the default. -/
def SMap.get {α : Type} (d : α) : SMap α → Nat → α
  | [], _ => d
  | (k, v) :: t, i => if k = i then v else SMap.get d t i

/-- Sets one index of a sparse table, keeping the canonical form. -/
def SMap.set {α : Type} [DecidableEq α] (d : α) (m : SMap α) (i : Nat) (v : α) : SMap α :=
  m.filter (fun c => decide (c.1 < i)) ++ (if v = d then [] else [(i, v)]) ++ m.filter (fun c => decide (i < c.1))

/-- Changes the value at one index by a function. -/
def SMap.upd {α : Type} [DecidableEq α] (d : α) (m : SMap α) (i : Nat) (f : α → α) : SMap α :=
  SMap.set d m i (f (SMap.get d m i))

/-- The canonical form: strictly rising indices, all at least `lo`, and no default value listed. -/
def SMap.wfFrom {α : Type} [DecidableEq α] (d : α) : Nat → SMap α → Bool
  | _, [] => true
  | lo, (k, v) :: t => decide (lo ≤ k) && decide (v ≠ d) && SMap.wfFrom d (k + 1) t

/-- The canonical form of a sparse table. -/
def SMap.wf {α : Type} [DecidableEq α] (d : α) (m : SMap α) : Bool := SMap.wfFrom d 0 m

/-- A run of values laid at consecutive indices, without the defaults. -/
def SMap.run {α : Type} [DecidableEq α] (d : α) : Nat → List α → SMap α
  | _, [] => []
  | i, v :: t => if v = d then SMap.run d (i + 1) t else (i, v) :: SMap.run d (i + 1) t

/-- Writes a list of values at consecutive indices, keeping the canonical form. -/
def SMap.writeRun {α : Type} [DecidableEq α] (d : α) (m : SMap α) (i : Nat) (vs : List α) : SMap α :=
  m.filter (fun c => decide (c.1 < i)) ++ SMap.run d i vs ++ m.filter (fun c => decide (i + vs.length ≤ c.1))

/-- Reads a number of consecutive indices. -/
def SMap.readRun {α : Type} (d : α) (m : SMap α) (i n : Nat) : List α :=
  let w := m.filter (fun c => decide (i ≤ c.1) && decide (c.1 < i + n))
  (List.range n).map (fun k => SMap.get d w (i + k))

end Sys2Proof
end

