-- ==== Sys2Proof/Syntax.lean ====
section
/-! DEFINITION. The commands the block takes: one constructor per row of the spec's table, with the operands a row needs.
An operand is either what the row names (a cell, a context, a port) or what the world outside the block decides (an error
verdict, a message's contents, the outcome of a training). -/

namespace Sys2Proof

/-- A position P0 to P7 (R17). -/
abbrev Posn := Fin 8

/-- A context number (R257). -/
abbrev Ctx := BitVec 12

/-- A cell (x,y) of a position (R8). -/
structure CellId where
  posn : Posn
  x : Fin 16
  y : Fin 16
deriving DecidableEq, Repr

/-- What the storage codes of a cell find when words are read (R66): how many errors were corrected in line, and whether a
word, or an accumulator register, had an error that is not corrected. -/
structure ReadErr where
  corrected : Nat
  uncorrected : Bool
deriving DecidableEq, Repr

/-- An instruction of a cell, and what the fetch of its word met (R66). -/
structure Issue where
  cell : CellId
  fetch : ReadErr
deriving DecidableEq, Repr

/-- A VOP of a cell, what the fetch of its word met, and what its reads of the scratchpad meet (R66). -/
structure VopIssue where
  cell : CellId
  fetch : ReadErr
  err : ReadErr
deriving DecidableEq, Repr

/-- A cell, and what a read of its storage met (R66). -/
structure CellRead where
  cell : CellId
  err : ReadErr
deriving DecidableEq, Repr

/-- What a turn of a transfer engine meets: whether the destination has room for a chunk (R197), and what the code of the
stream-context store finds (R184). -/
structure TurnInput where
  credit : Bool
  store : ReadErr
deriving DecidableEq, Repr

/-- Why a stripe is remapped: it held a failed burst, or else gathered corrected ones (R186); and the bytes that the pull of its other
copy has brought (R190). -/
structure RemapCause where
  failed : Bool
  pulled : Option (List (Nat × Byte))
deriving DecidableEq, Repr

/-- A pseudo-channel that is mapped out: whether it fails at 4.8 Gb/s too (R188), and the bytes that the pulls have brought
(R190). -/
structure MapoutInput where
  pc : Fin 64
  dead : Bool
  pulled : Option (List (Nat × Byte))
deriving DecidableEq, Repr

/-- The cursors that a promoted spare takes: its own, and the copy of its partner's (R339). -/
structure PulledCursors where
  own : BitVec 64
  peer : BitVec 64
deriving DecidableEq, Repr

/-- What the burst decoder reports (R183). -/
inductive BurstResult where
  | clean
  | corrected
  | failed
deriving DecidableEq, Repr

/-- What was found in one 64-byte burst of the run that is read: its number in the run, whether the stack reports it corrected
(R182), and the decoder's own result, which is passed on in every case (R183). Bursts that are not listed are clean. -/
structure BurstErr where
  burst : Nat
  onDie : Bool
  result : BurstResult
deriving DecidableEq, Repr

/-- The masters: those that reach set-up registers, in the grant order of R439; VF functions, which reach their function
page; and base controllers and guest dies, which reach mailbox channels only (R216, R386, R437). -/
inductive Master where
  | pf0h0
  | pf0h1
  | tray
  | core (k : Fin 4)
  | test
  | vf (v : Fin 64)
  | base (n : Posn)
  | guest (g : Fin 2)
deriving DecidableEq, Repr

/-- The width of a register write (R435). -/
inductive AccessSize where
  | w32
  | w64
  | other
deriving DecidableEq, Repr

/-- The message kinds a D2D edge frame carries (R204). -/
inductive FrameType where
  | data
  | idle
  | nak
  | reserved
deriving DecidableEq, Repr

/-- A frame of one module of an edge (R204). Of the crossbar packet bytes in its payload the spec gives no layout: `packet` is the
edge sequence number of the packet they belong to (R206), and `last` says that they end it (log entry 126). -/
structure Frame where
  seq : BitVec 8
  ack : BitVec 8
  ftype : FrameType
  ctag : BitVec 4
  payload : List Byte
  crc : BitVec 32
  packet : Nat
  last : Bool
deriving DecidableEq, Repr

/-- The kinds of a Yalxo flit (R226). -/
inductive FlitKind where
  | data
  | idle
  | nak
  | linkctl
  | reserved
deriving DecidableEq, Repr

/-- A flit of a port (R226): CRL and CRT by class. -/
structure Flit where
  seq : BitVec 12
  ack : BitVec 12
  kind : FlitKind
  tc : Fin 4
  pool : Bool
  sop : Bool
  crl : List (BitVec 4)
  crt : List (BitVec 4)
  data : List Byte
  crc : BitVec 32
deriving DecidableEq, Repr

/-- A flit as it arrives: the lane of a codeword that the FEC cannot correct, and how many codewords it has corrected (R228,
R229). -/
structure FlitArrival where
  flit : Flit
  bad : Option (Fin 8)
  corrected : Nat
deriving DecidableEq, Repr

/-- How a read of host memory ends: with its data, an unsuccessful completion, a completion timeout or poisoned data (R259). -/
inductive HostReadEnd where
  | good
  | unsuccessful
  | timeout
  | poisoned
deriving DecidableEq, Repr

/-- The stamps of a time exchange in units of 0.5 ns (R246): the child's transmit, the parent's receive, the parent's transmit and
the child's receive. -/
structure TimeStamps where
  t1 : BitVec 64
  t2 : BitVec 64
  t3 : BitVec 64
  t4 : BitVec 64
deriving DecidableEq, Repr

/-- A coordinate of the torus (R232). -/
structure Coord where
  x : BitVec 5
  y : BitVec 5
  z : BitVec 5
deriving DecidableEq, Repr

/-- A packet: the header fields of R232 and its data bytes. -/
structure Packet where
  pid : BitVec 12
  pkind : BitVec 4
  len : BitVec 7
  dst : Coord
  src : Coord
  lport : BitVec 5
  lseq : BitVec 16
  target : BitVec 64
  aux : BitVec 64
  tc : Fin 4
  reserved : Bool
  data : List Byte
deriving DecidableEq, Repr

/-- The 32 data bytes of a TC0 message (R238), with its partition. -/
structure Tc0 where
  pid : BitVec 12
  mkind : BitVec 4
  attempt : BitVec 4
  cause : BitVec 8
  origin : BitVec 14
  step : BitVec 64
  body : BitVec 128
deriving DecidableEq, Repr

/-- The body fields of the FENCE messages between mirror partners (R309). -/
structure FenceBody where
  enabled : BitVec 8
  effective : BitVec 8
  partnum : BitVec 4
  reason : BitVec 4
  entry : BitVec 4
  own : BitVec 48
  mir : BitVec 48
  length : BitVec 40
  step : BitVec 64
  attempt : BitVec 4
  group : BitVec 22
  groups : BitVec 22
  digest : BitVec 64
deriving DecidableEq, Repr

/-- A commit read that failed (R313): the entry of the update list, the block within it (none: the entry's header), and
what the other copy gave: the block's master, moments and header bytes, or nothing when that copy is lost too. -/
structure CommitMiss where
  posn : Posn
  entry : Nat
  block : Option Nat
  pulled : Option (List (Nat × Byte))
deriving DecidableEq, Repr

/-- A mirror mapping entry that the partner sends to a spare (R339): whose it is, its number and its areas. -/
structure MirMap where
  mine : Bool
  entry : Fin 16
  own : BitVec 48
  mir : BitVec 48
  length : BitVec 40
deriving DecidableEq, Repr

/-- What became of a copy on its way to its destination (R175, R176, R362): accepted; a read of the source failed; the host path or
the peer was lost; or the peer discarded data outside its windows. -/
inductive CopyEnd where
  | accepted
  | readFailed
  | pathLost
  | peerRefused
deriving DecidableEq, Repr

/-- The sources of the error-rate watch (R348). -/
inductive WatchSource where
  | mem
  | fec
  | drop
  | retrain
deriving DecidableEq, Repr

/-- The PLLs of R408 and PWR_PLL_STATUS. -/
inductive Pll where
  | arith (n : Posn)
  | noc (n : Posn)
  | hbm (n : Posn)
  | hubNoc
  | d2d
  | mgmt
  | serdes
  | pcie
deriving DecidableEq, Repr

/-- The target a SCRUB command or a teardown scrub names (R390). -/
structure ScrubTarget where
  lo : BitVec 48
  hi : BitVec 48
  posns : BitVec 8
deriving DecidableEq, Repr

/-- A repair that FUSE_REPAIR names (R431): a MAC row or column of a cell, or a lane of an edge or stack. -/
inductive Repair where
  | macRow (c : CellId) (row : BitVec 7)
  | macCol (c : CellId) (col : BitVec 7)
  | lane (hub : Bool) (n : Posn) (edge : Fin 14) (module : Fin 16) (tx : Bool) (wire : BitVec 7)
  | hbmLane (n : Posn) (channel : Fin 32) (wire : BitVec 7)
deriving DecidableEq, Repr

/-- The fuses of one position the inventory reads (R212). -/
structure PosnFuses where
  dieStep : BitVec 8
  dieLevel : BitVec 8
  baseStep : BitVec 8
  baseLevel : BitVec 8
deriving DecidableEq, Repr

/-- One command to the block. -/
inductive Instr where
  -- tile sequencer (R72)
  | nop (op : Issue)
  | prog (op : Issue)
  | endBody (op : Issue)
  | seta (op : Issue)
  | adda (op : Issue)
  | loop (op : Issue)
  | endl (op : Issue)
  | waits (op : Issue)
  | mm (op : Issue) (err : ReadErr) (gap : Nat)
  | drain (op : Issue) (err : ReadErr)
  | sin (op : Issue)
  | sout (op : Issue) (err : ReadErr)
  -- vector operations (R111, R126, R139, R145)
  | cvt (op : VopIssue)
  | add (op : VopIssue)
  | sub (op : VopIssue)
  | mul (op : VopIssue)
  | div (op : VopIssue)
  | max (op : VopIssue)
  | min (op : VopIssue)
  | abs (op : VopIssue)
  | neg (op : VopIssue)
  | sqrt (op : VopIssue)
  | rsqrt (op : VopIssue)
  | recip (op : VopIssue)
  | exp (op : VopIssue)
  | log (op : VopIssue)
  | cmplt (op : VopIssue)
  | cmple (op : VopIssue)
  | cmpeq (op : VopIssue)
  | mulrow (op : VopIssue)
  | addrow (op : VopIssue)
  | pack4 (op : VopIssue)
  | rsumd (op : VopIssue)
  | rsuma (op : VopIssue)
  | rssqd (op : VopIssue)
  | rssqa (op : VopIssue)
  | rmvd (op : VopIssue)
  | rmva (op : VopIssue)
  | ramaxd (op : VopIssue)
  | ramaxa (op : VopIssue)
  | topk1 (op : VopIssue)
  | topk2 (op : VopIssue)
  | topk3 (op : VopIssue)
  | topk4 (op : VopIssue)
  | topk5 (op : VopIssue)
  | topk6 (op : VopIssue)
  | topk7 (op : VopIssue)
  | topk8 (op : VopIssue)
  | fcheck (op : VopIssue)
  | stclose (op : VopIssue)
  -- cell events
  | mmComplete (c : CellId) (stalls : Nat)
  | drainComplete (c : CellId)
  | vopComplete (c : CellId)
  | sinComplete (c : CellId)
  | soutComplete (c : CellId)
  | sorgSignalArrive (c : CellId)
  | drainBankFullStart (c : CellId)
  | knPartialLeft (r : CellRead)
  | bodyStart (c : CellId) (err : ReadErr)
  | epochStall (c : CellId)
  | streamUnitArrive (c : CellId) (sctx : BitVec 17) (unit : List Byte)
  | kindleStart (c : CellId)
  | kindleGapExpiry (c : CellId)
  | kindleRampStep (c : CellId)
  -- doorbells and descriptors (R267 to R286)
  | doorbellTail (f : Fin 64) (page : BitVec 12) (v : BitVec 32)
  | doorbellChead (f : Fin 64) (page : BitVec 12) (v : BitVec 32)
  | doorbellEhead (f : Fin 64) (page : BitVec 12) (v : BitVec 32)
  | descriptorFetch
  | descriptorStart (ctx : Ctx)
  | nopDescriptor (ctx : Ctx)
  | copy (ctx : Ctx)
  | stream (ctx : Ctx)
  | streamReduce (ctx : Ctx)
  | tile (ctx : Ctx)
  | programBody (ctx : Ctx)
  | cellConfig (ctx : Ctx)
  | modes (ctx : Ctx)
  | discard (ctx : Ctx)
  | fence (ctx : Ctx)
  | stepFence (ctx : Ctx)
  | syncSetValue (ctx : Ctx)
  | syncAdd (ctx : Ctx)
  | syncClearErr (ctx : Ctx)
  | syncRemoteAdd (ctx : Ctx)
  | syncObjectUpdate (obj : BitVec 16)
  | syncTimeout (ctx : Ctx)
  | stepOpen (ctx : Ctx)
  | stepDepthTimeout (ctx : Ctx)
  | stepVote (ctx : Ctx)
  | mirrorMap (ctx : Ctx)
  | mirrorUnmap (ctx : Ctx)
  | mirrorFill (ctx : Ctx)
  | mirrorAudit (ctx : Ctx)
  | bankStart (ctx : Ctx) (peer : List (Nat × Byte))
  | bankCancel (ctx : Ctx)
  | snap (ctx : Ctx)
  | restore (ctx : Ctx) (peer : List (Nat × Byte))
  | restoreComplete (ctx : Ctx) (peer : List (Nat × Byte))
  | variant (ctx : Ctx)
  | teardown (ctx : Ctx)
  -- context commands and set-up (R256 to R292)
  | ctxCreate (f : Fin 64) (ctx : Ctx) (read : HostReadEnd)
  | ctxTeardown (f : Fin 64) (ctx : Ctx)
  | ctxQuery (f : Fin 64) (ctx : Ctx)
  | hifFuncCfgWrite (f : Fin 64) (v : BitVec 64)
  | teardownGenerationChange (ctx : Ctx)
  | teardownFinish (ctx : Ctx)
  | firmwareScrub
  | functionLevelReset (f : Fin 64) (port : Fin 2)
  | perstAssert (port : Fin 2)
  | hostLinkDown (port : Fin 2)
  -- streams and memory (R184 to R198)
  | engineTurn (posn : Posn) (engine : Fin 32) (turn : TurnInput)
  | chunkReturn (posn : Posn) (sctx : BitVec 17) (errs : List BurstErr) (data : List Byte)
  | patrolRead (posn : Posn) (pc : Fin 64) (slot : BitVec 18) (errs : List BurstErr)
  | stripeRemap (posn : Posn) (stripe : BitVec 24) (why : RemapCause)
  | channelRetrain (posn : Posn) (ch : Fin 32)
  | retrainComplete (posn : Posn) (ch : Fin 32)
  | mapout (posn : Posn) (m : MapoutInput)
  | statPartialArrive (posn : Posn)
  | statRingTailWrite (posn : Posn) (v : BitVec 32)
  -- die-to-die edges and the guest firewall (R204 to R221)
  | edgeFrameReceive (e : Fin 14) (module : Fin 16) (fr : Frame)
  | edgeNakReceive (e : Fin 14) (module : Fin 16) (ack : BitVec 8)
  | edgeSbinitTimeout (e : Fin 14)
  | edgeModuleTrainingDone (e : Fin 14) (near far : BitVec 16)
  | edgeLinkinitDone (e : Fin 14)
  | edgeRetrainTrigger (e : Fin 14)
  | edgeQuarantine (e : Fin 14)
  | quarantineTimeout (e : Fin 14)
  | edgeSidebandPoll (e : Fin 14) (mask : BitVec 16) (ctag : BitVec 4)
  | guestFirewallCheck (g : Fin 2) (inbound : Bool) (unit : Option (List Byte)) (addr : BitVec 48) (mid : BitVec 8) (ctx : Ctx)
  -- Yalxo links and fabric (R226 to R252)
  | flitReceive (port : Fin 24) (a : FlitArrival)
  | flitNakReceive (port : Fin 24) (ack : BitVec 12)
  | laneDegrade (port : Fin 24)
  | laneTrainingDone (port : Fin 24) (near far : BitVec 8)
  | fabPortRetrain (m : Master)
  | packetReceive (port : Fin 24) (p : Packet)
  | linkctlIdent (port : Fin 24) (serial : BitVec 64) (farPort : BitVec 5) (digest : BitVec 64)
  | identTimeout (port : Fin 24)
  | pidBitmap (port : Fin 24) (pids : List (BitVec 12))
  | timeExchange (stamps : Option TimeStamps)
  | transitErrReceive (port : Fin 24) (pid : BitVec 12)
  | syncMessageReceive (pid : BitVec 12) (obj : BitVec 16) (value : BitVec 32)
  | reductionOperandArrive (redid shard : BitVec 16) (lo hi : BitVec 15) (offset : BitVec 40) (data : List (BitVec 32))
  | partitionValidSet (m : Master)
  | partitionValidClear (m : Master)
  | rankMapReload (m : Master) (v : BitVec 64)
  -- the step transaction (R295 to R319)
  | abortReceive (port : Fin 24) (msg : Tc0)
  | stepCtrlAbort
  | castResolveTimeout
  | voteReceive (child : BitVec 14) (msg : Tc0)
  | voteDrained (rollcall : Bool) (msg : Tc0)
  | resolve (port : Fin 24) (msg : Tc0)
  | resolveReplay (port : Fin 24) (msg : Tc0)
  | voteLeaseExpiry
  | ownerRoleDone (misses : List CommitMiss)
  | partnerRoleDone (record : BitVec 48) (block : Option (BitVec 48)) (misses : List CommitMiss)
  | abortDrainDone
  | roundLeaseExpiry
  | rollCallResend
  | rootFallback
  | roundHaltTimeout
  | promotionPullDone (pulled : List (Nat × Byte)) (maps : List MirMap) (lists : List (BitVec 48)) (embers : List (BitVec 64)) (stepNumber : BitVec 64) (cursors : PulledCursors) (next : BitVec 64)
  | pairTimeout
  | pair (b : FenceBody)
  | pairOk (b : FenceBody)
  | pairRefused (b : FenceBody)
  | map (b : FenceBody)
  | mapOk (b : FenceBody)
  | mapRefused (b : FenceBody)
  | unmap (b : FenceBody)
  | ownerDone (b : FenceBody)
  | mirrorDone (b : FenceBody)
  | auditStart (b : FenceBody)
  | auditLate (b : FenceBody)
  | auditDigest (b : FenceBody)
  | shadowCfgWrite (v : BitVec 32)
  | shadowStateLoaded (state : List (Nat × Byte)) (stepNumber cursor : BitVec 64)
  | shadowRecordReceive (step : BitVec 64) (outcome : BitVec 2) (mask : List (BitVec 32)) (digests : List (BitVec 64))
  | shadowTimeout
  -- snapshots and banking (R172 to R176, R348 to R369)
  | snapshotComplete (ctx : Ctx) (e : CopyEnd)
  | bankSign (e : CopyEnd)
  | bankDone
  | watchOccurrence (src : WatchSource) (stamp : BitVec 64)
  | watchWindowClose
  -- mailboxes and firmware (R380 to R390)
  | mailboxSend (ch : Fin 64) (mid : BitVec 8) (v : BitVec 32)
  | mailboxAck (ch : Fin 64) (mid : BitVec 8) (v : BitVec 32)
  | mailboxStatusClear (ch : Fin 64) (mid : BitVec 8) (v : BitVec 32)
  | mailboxTimeout (ch : Fin 64)
  | ping (ch : Fin 64)
  | info (ch : Fin 64)
  | attest (ch : Fin 64)
  | idChain (ch : Fin 64)
  | readCapture (ch : Fin 64)
  | scrub (ch : Fin 64) (target : ScrubTarget)
  | installTableWrite (ch : Fin 64)
  | fuseRepair (ch : Fin 64) (r : Repair) (readback : Bool)
  | rotateId (ch : Fin 64)
  | debugUnlock (ch : Fin 64)
  | mbxRebind (ch : Fin 64) (target : Fin 64) (v : BitVec 32)
  | mbxRebindGo (v : BitVec 32)
  | sealClear (ch : Fin 64)
  | firmwareCommandEnd (ticket : BitVec 8)
  -- presence, firmware leases, events (R378, R389, R392, R393)
  | presenceAssert
  | presenceEnd
  | sealOpened
  | sealToggle (returns : Bool)
  | fwLockExpired (lock : Fin 131) (core : Fin 4)
  | heartbeat
  | ptbSample
  | eventRecordWrite
  | evtRingEnable (v : BitVec 32)
  | evtRingTailWrite (v : BitVec 32)
  -- power-up (R372, R409)
  | managementBoot
  | dieInventory
  | hbmTraining (failed : List (Posn × Fin 64))
  | fabricDiscovery
  | hostLinkTraining (port : Fin 2) (width : BitVec 5) (rate : BitVec 7)
  -- resets and captures (R324 to R332)
  | rasResetEngine (m : Master) (v : BitVec 32) (captured : Bool)
  | rasResetPartition (m : Master) (v : BitVec 32) (captured : Bool)
  | rasResetChipRequest (m : Master) (v : BitVec 32)
  | engineWatchdog (posn : Posn) (engine : BitVec 6) (stateError : Bool) (captured : Bool)
  | captureLeaseExpiry
  | partitionResetDone (posn : Posn)
  | partitionResetTimeout (posn : Posn)
  | pkgResetAssert (captured : Bool)
  | pkgResetDeassert
  | pwrGoodRise (straps : BitVec 2)
  | pwrGoodFall
  -- power and clocks (R401 to R408)
  | thermtrip
  | pllLockLoss (p : Pll)
  | dampControl (avgW : Nat)
  | telemetryUpdate (tdie : BitVec 8) (tposn : Posn) (thub : BitVec 8) (pkgW : BitVec 16)
  -- the tray controller (R414 to R416)
  | i3cPrivateWrite (offset : BitVec 24) (data : List (BitVec 32))
  | i3cDynamicAddress (addr : BitVec 7)
  | flashRead
  | flashProgram
  | flashErase
  | flashOpDone
  -- test access (R427, R428)
  | extest
  | samplePreload
  | idcode
  | clamp
  | highz
  | extestPulse
  | extestTrain
  | posnSel
  | wirAccess
  | dwrAccess
  | mbist
  | laneTest
  | fuseAccess
  | bypass
  | debugWindowWrite (m : Master) (code : BitVec 8) (word : BitVec 9) (v : BitVec 64)
  -- register writes and the rest
  | registerWrite (m : Master) (offset : BitVec 27) (size : AccessSize) (v : BitVec 64)
  | edgeSidebandUp (e : Fin 14)
  | linkinitModuleFail (e : Fin 14) (module : Fin 16)
  | hostDmaError (ctx : Ctx)
  | contextResetTimeout (ctx : Ctx)
  | engineResetTimeout (posn : Posn) (engine : BitVec 6)
  | engineResetDone (posn : Posn) (engine : BitVec 6)
  | bankSignTimeout
  | vfEnable (port : Fin 2)
  | reservedOpcode (op : Issue)
deriving DecidableEq, Repr

end Sys2Proof
end

