-- ==== Sys2Proof/Decode.lean ====
section
/-! DEFINITION. The commands a word of the command table spells: the table gives bits for none of its rows, so a word
spells no command. -/

namespace Sys2Proof

/-- The command that a word spells by the table's bits: none, since the spec's table gives no row any bits. -/
def decodeTableWord (_nbits _w : Nat) : Option Instr := none

end Sys2Proof
end

