-- ==== Sys2Proof/Config.lean ====
section
/-! DEFINITION. What the spec leaves to the implementation or to a named outside standard: constants without a body,
so that no proof can lean on a value of theirs. -/

namespace Sys2Proof

/-- SHA-512 of a list of bytes, 64 bytes (R360, R371, R374: the standard's function, left uninterpreted; log entry 3). -/
opaque Config.sha512 : List Byte → Vector Byte 64

/-- The Ed25519 public key of a 32-byte secret (R374, R375; log entry 3). -/
opaque Config.ed25519Public : List Byte → Vector Byte 32

/-- The PureEd25519 signature of a message under a 32-byte secret (R374; log entry 3). -/
opaque Config.ed25519Sign : List Byte → List Byte → Vector Byte 64

/-- Whether, under a public key, a message has a signature that verifies: key, message, signature (R374; log entry 3). -/
opaque Config.ed25519Verify : List Byte → List Byte → List Byte → Bool

/-- A fresh free value: what the spec says results, without saying which value (log entry 4). -/
opaque Config.freeWord : Nat → BitVec 64

/-- The result of an operation of a fused vector list that is no elementwise code (R81, R73: the spec states none; log
entry 21): a function of its operands alone (R24), by VOPC, the 64 rows of the drain that enter the operation, the 64 rows at
the operation's offset register, and the row and lane of the result. -/
opaque Config.fusedOther : BitVec 6 → List (List (BitVec 32)) → List (List (BitVec 32)) → Nat → Nat → BitVec 32

/-- How far an event's stamp lies from the hub's PTB, before its reduction to the 81 values from −40 ns to +40 ns (R392; log
entry 116), by the source, its last PTB sample and the hub's PTB. -/
opaque Config.stampError : BitVec 12 → BitVec 64 → BitVec 64 → Nat

/-- Banks per pseudo-channel of the fitted stacks (MEM_GEOM.BANKS, R199: the stack's own value). -/
opaque Config.hbmBanks : BitVec 8

/-- Kudoga's manufacturing certificate of a serial (R376: its layout is not given). -/
opaque Config.certificate : BitVec 64 → List Byte

end Sys2Proof
end

