-- ==== Sys2Proof/Machine/Float.lean ====
section
/-! DEFINITION. Number formats, exact values, the one rounding of R96, the conversions of R99 to R104 and the FP32
operations of R105 to R112. -/

namespace Sys2Proof.Machine

/-- The formats of R71, MX element types among them. -/
inductive Fmt where
  | fp32
  | bf16
  | fp16
  | e4m3
  | e5m2
  | mxE4m3
  | mxE5m2
  | mxE3m2
  | mxE2m3
  | mxE2m1
  | int8
deriving DecidableEq, Repr

/-- Format codes (R71); codes 0xB to 0xF are reserved. -/
def Fmt.ofCode (c : BitVec 4) : Option Fmt :=
  match c.toNat with
  | 0 => some .fp32
  | 1 => some .bf16
  | 2 => some .fp16
  | 3 => some .e4m3
  | 4 => some .e5m2
  | 5 => some .mxE4m3
  | 6 => some .mxE5m2
  | 7 => some .mxE3m2
  | 8 => some .mxE2m3
  | 9 => some .mxE2m1
  | 10 => some .int8
  | _ => none

/-- The code of a format (R71). -/
def Fmt.code : Fmt → BitVec 4
  | .fp32 => 0
  | .bf16 => 1
  | .fp16 => 2
  | .e4m3 => 3
  | .e5m2 => 4
  | .mxE4m3 => 5
  | .mxE5m2 => 6
  | .mxE3m2 => 7
  | .mxE2m3 => 8
  | .mxE2m1 => 9
  | .int8 => 10

/-- Whether a format is a block-scaled element type. -/
def Fmt.isMx : Fmt → Bool
  | .mxE4m3 | .mxE5m2 | .mxE3m2 | .mxE2m3 | .mxE2m1 => true
  | _ => false

/-- Width of a code in bits (R90). -/
def Fmt.bits : Fmt → Nat
  | .fp32 => 32
  | .bf16 | .fp16 => 16
  | .e4m3 | .e5m2 | .mxE4m3 | .mxE5m2 | .int8 => 8
  | .mxE3m2 | .mxE2m3 => 6
  | .mxE2m1 => 4

/-- Mantissa bits (R90). -/
def Fmt.mant : Fmt → Nat
  | .fp32 => 23
  | .bf16 => 7
  | .fp16 => 10
  | .e4m3 | .mxE4m3 | .mxE2m3 => 3
  | .e5m2 | .mxE5m2 | .mxE3m2 => 2
  | .mxE2m1 => 1
  | .int8 => 0

/-- Exponent bias (R90). -/
def Fmt.bias : Fmt → Nat
  | .fp32 | .bf16 => 127
  | .fp16 | .e5m2 | .mxE5m2 => 15
  | .e4m3 | .mxE4m3 => 7
  | .mxE3m2 => 3
  | .mxE2m3 | .mxE2m1 => 1
  | .int8 => 0

/-- Weight exponent of the least significant mantissa bit of a subnormal (R91). -/
def Fmt.emin (f : Fmt) : Int := 1 - (f.bias : Int) - (f.mant : Int)

/-- The max finite magnitude as an integer times a power of two (R90). -/
def Fmt.maxFinite : Fmt → Nat × Int
  | .fp32 => (0xFFFFFF, 104)
  | .bf16 => (0xFF, 120)
  | .fp16 => (0x7FF, 5)
  | .e4m3 | .mxE4m3 => (14, 5)
  | .e5m2 | .mxE5m2 => (7, 13)
  | .mxE3m2 => (7, 2)
  | .mxE2m3 => (15, -1)
  | .mxE2m1 => (3, 1)
  | .int8 => (127, 0)

/-- The code of max finite with sign 0 (R90, R91). -/
def Fmt.maxCode : Fmt → Nat
  | .fp32 => 0x7F7FFFFF
  | .bf16 => 0x7F7F
  | .fp16 => 0x7BFF
  | .e4m3 | .mxE4m3 => 0x7E
  | .e5m2 | .mxE5m2 => 0x7B
  | .mxE3m2 | .mxE2m3 => 0x1F
  | .mxE2m1 => 0x7
  | .int8 => 0x7F

/-- The code of +infinity, where the format has one (R92). -/
def Fmt.infCode : Fmt → Option Nat
  | .fp32 => some 0x7F800000
  | .bf16 => some 0x7F80
  | .fp16 => some 0x7C00
  | .e5m2 | .mxE5m2 => some 0x7C
  | _ => none

/-- The canonical NaN code, where the format has one (R92). -/
def Fmt.nanCode : Fmt → Option Nat
  | .fp32 => some 0x7FC00000
  | .bf16 => some 0x7FC0
  | .fp16 => some 0x7E00
  | .e4m3 | .mxE4m3 => some 0x7F
  | .e5m2 | .mxE5m2 => some 0x7E
  | _ => none

/-- An exact value: NaN, an infinity, or a sign and m times 2 to the e, with a signed zero where m is 0. -/
inductive FVal where
  | nan
  | inf (neg : Bool)
  | fin (neg : Bool) (m : Nat) (e : Int)
deriving DecidableEq, Repr

/-- Decodes a floating-point code of a format (R91, R92). -/
def Fmt.decodeFloat (f : Fmt) (code : Nat) : FVal :=
  let mb := f.mant
  let eb := f.bits - 1 - mb
  let s := code.testBit (f.bits - 1)
  let e := (code / 2 ^ mb) % 2 ^ eb
  let m := code % 2 ^ mb
  let allOnes := decide (e = 2 ^ eb - 1)
  match f with
  | .fp32 | .bf16 | .fp16 | .e5m2 | .mxE5m2 =>
    if allOnes then (if m = 0 then .inf s else .nan)
    else if e = 0 then .fin s m f.emin else .fin s (2 ^ mb + m) (f.emin + (e : Int) - 1)
  | .e4m3 | .mxE4m3 =>
    if allOnes && decide (m = 7) then .nan
    else if e = 0 then .fin s m f.emin else .fin s (2 ^ mb + m) (f.emin + (e : Int) - 1)
  | _ => if e = 0 then .fin s m f.emin else .fin s (2 ^ mb + m) (f.emin + (e : Int) - 1)

/-- Decodes one element code, without a block scale (R91, R92). -/
def Fmt.decode (f : Fmt) (code : Nat) : FVal :=
  match f with
  | .int8 => if code % 256 < 128 then .fin false (code % 256) 0 else .fin true (256 - code % 256) 0
  | _ => f.decodeFloat code

/-- Rounds m over 2 to the k to the nearest integer, ties to even; `sticky` says that the true value lies a little
above m (R96). -/
def roundShift (m k : Nat) (sticky : Bool) : Nat :=
  if k = 0 then m
  else
    let q := m >>> k
    let r := m % 2 ^ k
    let half := 2 ^ (k - 1)
    if r > half || (r = half && (sticky || q % 2 = 1)) then q + 1 else q

/-- Rounds m times 2 to the e to a mantissa of mant + 1 bits with least exponent emin, exponent range unbounded above
(R96, R97). -/
def roundMag (mant : Nat) (emin : Int) (m : Nat) (e : Int) (sticky : Bool) : Nat × Int :=
  if m = 0 then (0, emin)
  else
    let byLen : Int := (Nat.log2 m : Int) - (mant : Int)
    let k : Int := max byLen (emin - e)
    if k ≤ 0 then (m, e) else (roundShift m k.toNat sticky, e + k)

/-- Whether m times 2 to the e is above a bound of the same form. -/
def magAbove (m : Nat) (e : Int) (bound : Nat × Int) : Bool :=
  if bound.2 ≤ e then decide (m * 2 ^ (e - bound.2).toNat > bound.1)
  else decide (m > bound.1 * 2 ^ (bound.2 - e).toNat)

/-- The magnitude bits of a value that a floating-point format represents (R91). -/
def Fmt.packMag (f : Fmt) (m : Nat) (e : Int) : Nat :=
  if m = 0 then 0
  else
    let top : Int := e + (Nat.log2 m : Int)
    let e' : Int := max f.emin (top - (f.mant : Int))
    let m' := if e' ≤ e then m * 2 ^ (e - e').toNat else m / 2 ^ (e' - e).toNat
    if m' < 2 ^ f.mant then m' else (e' - f.emin + 1).toNat * 2 ^ f.mant + (m' - 2 ^ f.mant)

/-- Puts a sign bit on a magnitude code. -/
def Fmt.withSign (f : Fmt) (neg : Bool) (mag : Nat) : Nat := if neg then 2 ^ (f.bits - 1) + mag else mag

/-- The outcome of one conversion: the code, whether it counts as saturated (R100), and whether it makes a block scale
NaN (R99, R101, R103). -/
structure Conv where
  code : Nat
  saturated : Bool
  poison : Bool
deriving DecidableEq, Repr

/-- Converts a finite value to an INT8 code (R102). -/
def convInt8 (neg : Bool) (m : Nat) (e : Int) (sticky : Bool) : Conv :=
  let q := if 0 ≤ e then m * 2 ^ e.toNat else roundShift m (-e).toNat sticky
  if neg then (if q > 128 then ⟨0x80, true, false⟩ else ⟨(256 - q) % 256, false, false⟩)
  else if q > 127 then ⟨0x7F, true, false⟩ else ⟨q, false, false⟩

/-- Converts a value to a format (R96 to R102), MX element types after their scaling. -/
def Fmt.convert (f : Fmt) (sat : Bool) (v : FVal) (sticky : Bool := false) : Conv :=
  match f, v with
  | .int8, .nan => ⟨0, true, false⟩
  | .int8, .inf neg => ⟨if neg then 0x80 else 0x7F, true, false⟩
  | .int8, .fin neg m e => convInt8 neg m e sticky
  | _, .nan =>
    match f.nanCode with
    | some c => ⟨c, false, false⟩
    | none => ⟨0, false, true⟩
  | _, .inf neg =>
    match f.infCode, f.nanCode with
    | some c, _ => ⟨f.withSign neg c, false, false⟩
    | none, some c => ⟨c, false, false⟩
    | none, none => ⟨0, false, true⟩
  | _, .fin neg m e =>
    let r := roundMag f.mant f.emin m e sticky
    if magAbove r.1 r.2 f.maxFinite then
      match f.infCode with
      | some c => ⟨f.withSign neg c, false, false⟩
      | none =>
        if sat then ⟨f.withSign neg f.maxCode, true, false⟩
        else
          match f.nanCode with
          | some c => ⟨c, false, false⟩
          | none => ⟨0, false, true⟩
    else ⟨f.withSign neg (f.packMag r.1 r.2), false, false⟩

/-- The value of an FP32 word. -/
def f32 (w : BitVec 32) : FVal := Fmt.fp32.decodeFloat w.toNat

/-- Rounds a value to FP32 (R96, R97). -/
def toF32 (v : FVal) (sticky : Bool := false) : BitVec 32 := BitVec.ofNat 32 (Fmt.fp32.convert false v sticky).code

/-! ### Exact operations (R105, R107) -/

/-- The signed integer of a finite value at a common exponent. -/
def scaledInt (neg : Bool) (m : Nat) (e base : Int) : Int :=
  let a : Int := (m * 2 ^ (e - base).toNat : Nat)
  if neg then -a else a

/-- The exact sum of two values; an exact zero is +0 unless both are −0. -/
def FVal.add : FVal → FVal → FVal
  | .nan, _ => .nan
  | _, .nan => .nan
  | .inf a, .inf b => if a = b then .inf a else .nan
  | .inf a, _ => .inf a
  | _, .inf b => .inf b
  | .fin s m e, .fin t n g =>
    let base := min e g
    let x := scaledInt s m e base + scaledInt t n g base
    if x = 0 then .fin (s && t && decide (m = 0) && decide (n = 0)) 0 0 else .fin (decide (x < 0)) x.natAbs base

/-- The negation of a value. -/
def FVal.neg : FVal → FVal
  | .nan => .nan
  | .inf s => .inf (!s)
  | .fin s m e => .fin (!s) m e

/-- The absolute value. -/
def FVal.abs : FVal → FVal
  | .nan => .nan
  | .inf _ => .inf false
  | .fin _ m e => .fin false m e

/-- The exact product; zero times infinity is invalid (R105). -/
def FVal.mul : FVal → FVal → FVal
  | .nan, _ => .nan
  | _, .nan => .nan
  | .inf a, .inf b => .inf (a != b)
  | .inf a, .fin t n _ => if n = 0 then .nan else .inf (a != t)
  | .fin s m _, .inf b => if m = 0 then .nan else .inf (s != b)
  | .fin s m e, .fin t n g => .fin (s != t) (m * n) (e + g)

/-- A value times a power of two. -/
def FVal.scale (v : FVal) (k : Int) : FVal :=
  match v with
  | .fin s m e => .fin s m (e + k)
  | w => w

/-- Whether a value is finite and not zero. -/
def FVal.isNonzero : FVal → Bool
  | .fin _ m _ => decide (m ≠ 0)
  | _ => false

/-- Whether a value is NaN or infinite. -/
def FVal.nonFinite : FVal → Bool
  | .fin _ _ _ => false
  | _ => true

/-- floor(log2 |v|) of a finite non-zero value. -/
def FVal.exponent : FVal → Int
  | .fin _ m e => e + (Nat.log2 m : Int)
  | _ => 0

/-! ### Correctly rounded FP32 operations (R111, R112) -/

/-- The FP32 sum. -/
def fadd (a b : BitVec 32) : BitVec 32 := toF32 ((f32 a).add (f32 b))

/-- The FP32 difference. -/
def fsub (a b : BitVec 32) : BitVec 32 := toF32 ((f32 a).add (f32 b).neg)

/-- The FP32 product. -/
def fmul (a b : BitVec 32) : BitVec 32 := toF32 ((f32 a).mul (f32 b))

/-- The quotient of two values, rounded to FP32; the remainder enters as a sticky bit (R112). -/
def divVal : FVal → FVal → BitVec 32
  | .nan, _ => toF32 .nan
  | _, .nan => toF32 .nan
  | .inf _, .inf _ => toF32 .nan
  | .inf a, .fin t _ _ => toF32 (.inf (a != t))
  | .fin s _ _, .inf b => toF32 (.fin (s != b) 0 0)
  | .fin s m e, .fin t n g =>
    if n = 0 then (if m = 0 then toF32 .nan else toF32 (.inf (s != t)))
    else if m = 0 then toF32 (.fin (s != t) 0 0)
    else
      let k := Nat.log2 n + 40
      let q := (m * 2 ^ k) / n
      let r := (m * 2 ^ k) % n
      toF32 (.fin (s != t) q (e - g - (k : Int))) (decide (r ≠ 0))

/-- The FP32 quotient. -/
def fdiv (a b : BitVec 32) : BitVec 32 := divVal (f32 a) (f32 b)

/-- Builds the integer square root of n from bit `bit` - 1 down. -/
def isqrtFrom : Nat → Nat → Nat → Nat
  | 0, _, acc => acc
  | bit + 1, n, acc =>
    let t := acc + 2 ^ bit
    isqrtFrom bit n (if t * t ≤ n then t else acc)

/-- The integer square root. -/
def isqrt (n : Nat) : Nat := isqrtFrom (Nat.log2 n / 2 + 1) n 0

/-- The FP32 square root (R112). -/
def fsqrt (a : BitVec 32) : BitVec 32 :=
  match f32 a with
  | .nan => toF32 .nan
  | .inf s => if s then toF32 .nan else toF32 (.inf false)
  | .fin s m e =>
    if m = 0 then toF32 (.fin s 0 0)
    else if s then toF32 .nan
    else
      let odd : Nat := (e % 2).toNat
      let m' := m * 2 ^ (80 + odd)
      let e' : Int := e - 80 - (odd : Int)
      let r := isqrt m'
      toF32 (.fin false r (e' / 2)) (decide (r * r ≠ m'))

/-- The FP32 reciprocal square root (R112). -/
def frsqrt (a : BitVec 32) : BitVec 32 :=
  match f32 a with
  | .nan => toF32 .nan
  | .inf s => if s then toF32 .nan else toF32 (.fin false 0 0)
  | .fin s m e =>
    if m = 0 then toF32 (.inf s)
    else if s then toF32 .nan
    else
      let odd : Nat := (e % 2).toNat
      let m' := m * 2 ^ odd
      let e' : Int := e - (odd : Int)
      let n := 2 ^ 160 / m'
      let r := isqrt n
      toF32 (.fin false r (-80 - e' / 2)) (decide (r * r * m' ≠ 2 ^ 160))

/-- The FP32 reciprocal (R112). -/
def frecip (a : BitVec 32) : BitVec 32 := divVal (.fin false 1 0) (f32 a)

/-- Fraction bits of the fixed-point work behind EXP and LOG: far more than any FP32 rounding decision needs. -/
def workBits : Nat := 300

/-- Sums a Taylor tail of the exponential in fixed point: the terms `k`, k+1, … after `term`. -/
def expTail : Nat → Nat → Nat → Nat → Nat → Nat
  | 0, _, _, _, acc => acc
  | fuel + 1, k, x, term, acc =>
    let next := term * x / 2 ^ workBits / k
    expTail fuel (k + 1) x next (acc + next)

/-- Squares a fixed-point number a number of times. -/
def sqTimes : Nat → Nat → Nat
  | 0, x => x
  | n + 1, x => sqTimes n (x * x / 2 ^ workBits)

/-- e to the x for a fixed-point x of at most 128: the argument is divided by 256 and the result squared 8 times. -/
def expFixed (x : Nat) : Nat := sqTimes 8 (expTail 60 1 (x / 256) (2 ^ workBits) (2 ^ workBits))

/-- The FP32 exponential (R112). A non-zero argument never gives an exact result, so the sticky bit is set. -/
def fexp (a : BitVec 32) : BitVec 32 :=
  match f32 a with
  | .nan => toF32 .nan
  | .inf s => if s then toF32 (.fin false 0 0) else toF32 (.inf false)
  | .fin s m e =>
    if m = 0 then toF32 (.fin false 1 0)
    else if magAbove m e (104, 0) then (if s then toF32 (.fin false 1 (-400)) else toF32 (.fin false 1 400))
    else if !(magAbove m e (1, -40)) then
      (if s then toF32 (.fin false (2 ^ 60 - 1) (-60)) true else toF32 (.fin false (2 ^ 60) (-60)) true)
    else
      let x := m * 2 ^ ((workBits : Int) + e).toNat
      let y := expFixed x
      if s then toF32 (.fin false (2 ^ (2 * workBits) / y) (-(workBits : Int))) true
      else toF32 (.fin false y (-(workBits : Int))) true

/-- Sums z + z³/3 + z⁵/5 + … in fixed point. -/
def atanhTail : Nat → Nat → Nat → Nat → Nat → Nat
  | 0, _, _, _, acc => acc
  | fuel + 1, k, z2, p, acc => atanhTail fuel (k + 2) z2 (p * z2 / 2 ^ workBits) (acc + p / k)

/-- Twice the inverse hyperbolic tangent of num/den, in fixed point. -/
def twoAtanh (num den : Nat) : Nat :=
  let z := num * 2 ^ workBits / den
  2 * atanhTail 110 1 (z * z / 2 ^ workBits) z 0

/-- ln 2 in fixed point. -/
def ln2Fixed : Nat := twoAtanh 1 3

/-- The FP32 natural logarithm (R112). -/
def flog (a : BitVec 32) : BitVec 32 :=
  match f32 a with
  | .nan => toF32 .nan
  | .inf s => if s then toF32 .nan else toF32 (.inf false)
  | .fin s m e =>
    if m = 0 then toF32 (.inf true)
    else if s then toF32 .nan
    else
      let l := Nat.log2 m
      -- the value is f times 2 to the n with f = m / 2^l' in [3/4, 3/2)
      let up := decide (2 * m ≥ 3 * 2 ^ l)
      let l' := if up then l + 1 else l
      let n : Int := e + (l' : Int)
      let d := 2 ^ l'
      if m = d && n = 0 then toF32 (.fin false 0 0)
      else
        let part : Int := if d ≤ m then (twoAtanh (m - d) (m + d) : Int) else -(twoAtanh (d - m) (m + d) : Int)
        let x : Int := n * (ln2Fixed : Int) + part
        toF32 (.fin (decide (x < 0)) x.natAbs (-(workBits : Int))) true

/-- Compares two numbers: whether a < b, for values that are not NaN. -/
def FVal.lt : FVal → FVal → Bool
  | .nan, _ => false
  | _, .nan => false
  | .inf a, .inf b => a && !b
  | .inf a, .fin _ _ _ => a
  | .fin _ _ _, .inf b => !b
  | .fin s m e, .fin t n g =>
    let base := min e g
    decide (scaledInt s m e base < scaledInt t n g base)

/-- Whether two values are equal as numbers; +0 and −0 are (R109). -/
def FVal.eqv (a b : FVal) : Bool :=
  match a, b with
  | .nan, _ => false
  | _, .nan => false
  | x, y => !(x.lt y) && !(y.lt x)

/-- Canonical form of an FP32 word: a NaN becomes the canonical NaN (R106). -/
def canon (a : BitVec 32) : BitVec 32 := if f32 a = .nan then 0x7FC00000 else a

/-- MAX of R108. -/
def fmax (a b : BitVec 32) : BitVec 32 :=
  match f32 a, f32 b with
  | .nan, _ => canon b
  | _, .nan => a
  | x, y => if x.lt y then b else if y.lt x then a else if a.msb then b else a

/-- MIN of R108. -/
def fmin (a b : BitVec 32) : BitVec 32 :=
  match f32 a, f32 b with
  | .nan, _ => canon b
  | _, .nan => a
  | x, y => if x.lt y then a else if y.lt x then b else if a.msb then a else b

/-- |a|, with the canonical NaN (R106). -/
def fabs (a : BitVec 32) : BitVec 32 := toF32 (f32 a).abs

/-- −a, with the canonical NaN (R106). -/
def fneg (a : BitVec 32) : BitVec 32 := toF32 (f32 a).neg

/-- 1.0 for true and +0 for false (R109). -/
def boolF32 (b : Bool) : BitVec 32 := if b then 0x3F800000 else 0

/-- An FP32 subnormal becomes a zero of its sign; the flag says so (R54). -/
def flushF32 (a : BitVec 32) : BitVec 32 × Bool :=
  let mag := a.toNat % 2 ^ 31
  if 0 < mag && mag < 2 ^ 23 then (a &&& 0x80000000, true) else (a, false)

/-- 2 to an integer power, or a natural number, as an exact value rounded to FP32. -/
def natF32 (n : Nat) : BitVec 32 := toF32 (.fin false n 0)

/-! ### Block scaling (R95, R103, R104) -/

/-- emax of R103. -/
def Fmt.emax : Fmt → Int
  | .mxE4m3 => 8
  | .mxE5m2 => 15
  | .mxE3m2 => 4
  | _ => 2

/-- The largest exponent floor(log2 |v|) over the finite non-zero values of a list. -/
def maxExponent : List FVal → Option Int
  | [] => none
  | v :: t =>
    let r := maxExponent t
    if v.isNonzero then
      match r with
      | none => some v.exponent
      | some x => some (max v.exponent x)
    else r

/-- A block's scale code and its element codes with their saturation flags (R103). Where an MXFP8 block holds no finite value,
amax is 0, so X is -127 and the scale code 0x00 (DESIGN CHOICE, log entry 115). -/
def convertBlock (f : Fmt) (sat : Bool) (vs : List FVal) : Nat × List (Nat × Bool) :=
  let bad := (0xFF, vs.map (fun _ => (0, false)))
  let narrow := f.nanCode.isNone
  if narrow && vs.any FVal.nonFinite then bad
  else
    let x : Int :=
      match maxExponent vs with
      | none => -127
      | some e => max (-127) (e - f.emax)
    if 127 < x then bad
    else
      let cs := vs.map (fun v => f.convert sat (v.scale (-x)))
      if cs.any Conv.poison then bad
      else ((x + 127).toNat, cs.map (fun c => (c.code, c.saturated)))

/-- Decodes an element under a scale code (R104). -/
def decodeScaled (f : Fmt) (scale code : Nat) : FVal :=
  if scale = 0xFF then .nan else (f.decode code).scale ((scale : Int) - 127)

end Sys2Proof.Machine
end

