-- ==== Sys2Proof/Machine/State.lean ====
section
/-! DEFINITION. The state of one package, as plain data, and the state right after reset. Everything indexed is a sparse
table (SMap) whose default is the reset value. -/

namespace Sys2Proof.Machine

/-- Why the block stops. -/
inductive Fault where
  /-- A command's operands break `Instr.wf` in a way no rule of the spec gives an effect for. No meaning of this model
  raises it: the spec gives every command an effect, and ill-formed operand lists are read as far as they go. Safe. -/
  | illFormed
deriving DecidableEq, Repr

/-- Why a command is not carried out. -/
inductive Refusal where
  /-- Raised only by an arm of `exec` whose command has no meaning yet; no such arm is left. Safe. -/
  | notModelled (mnemonic : String)
deriving DecidableEq, Repr

/-- One entry of memory: an address and its byte. -/
abbrev Mem := SMap Byte

/-! ### Identity and fuses (R2, R212, R375, R432, R443) -/

/-- The four part numbers (R1). -/
inductive PartNum where
  | zsn2
  | zsn4
  | zsn8
  | zsn8g
deriving DecidableEq, Repr

/-- What the fuses of the package hold. -/
structure Fuses where
  part : PartNum
  gradeE : Bool
  hubStep : BitVec 8
  hubLevel : BitVec 8
  hubMin : BitVec 8
  posn : SMap PosnFuses
  serial : BitVec 64
  fwKey : BitVec 256
  idSeed : BitVec 256
  idGen : BitVec 4
  factoryClosed : Bool
  /-- MAC repair map in force, the TEST_REPAIR_DATA word, by cell number posn·256 + 16y + x (R65, R432). -/
  macMap : SMap (BitVec 32)
  /-- MAC repair map as fused, in force after the next partition reset (R431). -/
  macMapFused : SMap (BitVec 32)
  /-- Field repair words used, by position; index 8 is the hub (R432). -/
  wordsUsed : SMap Nat
  /-- Lane repairs fused in the field (R431). -/
  laneRepairs : List Repair
deriving DecidableEq, Repr

/-! ### Cells (R37, R68 to R81) -/

/-- State of an accumulator bank (R78). -/
inductive BankState where
  | empty
  | busy
  | full
deriving DecidableEq, Repr

/-- One accumulator bank's control state; `kn` says that the last pass that targeted it here was a form KN pass whose
partial leaves this bank (R78). -/
structure Bank where
  st : BankState
  kn : Bool
deriving DecidableEq, Repr

/-- An instruction held by a unit, with the registers read at issue (R74, R75). -/
structure UnitOp where
  word : BitVec 64
  a : BitVec 20
  b : BitVec 20
  c : BitVec 20
  d : BitVec 20
  e : BitVec 20
  fused : List (BitVec 6 × BitVec 20)
  started : Bool
  left : Nat
  err : ReadErr
  gap : Nat
  slot : Nat
  step : Option (BitVec 64)
deriving DecidableEq, Repr

/-- A body in execution (R68, R69). -/
structure Run where
  ctx : Ctx
  key : Nat
  pid : BitVec 6
  first : Nat
  len : Nat
  pc : Nat
  kindle : Bool
  loops : List (Nat × Nat)
  aregs : SMap (BitVec 20)
  step : Option (BitVec 64)
deriving DecidableEq, Repr

/-- A TILE waiting for a cell (R68, R86). -/
structure TileWait where
  ctx : Ctx
  key : Nat
  pid : BitVec 6
  epoch : BitVec 16
  step : Option (BitVec 64)
  since : BitVec 64
deriving DecidableEq, Repr

/-- Gang shapes, rows by columns (R47). -/
inductive Shape where
  | s1x1
  | s1x2
  | s2x2
  | s2x4
  | s4x4
deriving DecidableEq, Repr

/-- A gang setting (R81). -/
structure Gang where
  shape : Shape
  x0 : BitVec 4
  y0 : BitVec 4
deriving DecidableEq, Repr

/-- A program table entry that is valid (R81, R283). -/
structure ProgEntry where
  first : Nat
  len : Nat
deriving DecidableEq, Repr

/-- A stream port of a cell (R81, R283). -/
structure PortCfg where
  sctx : BitVec 17
  out : Bool
  en : Bool
deriving DecidableEq, Repr

/-- A cell's configuration, active or shadow (R81); no gang: a 1×1 gang with the cell as its own origin (R327). -/
structure CellCfg where
  table : SMap (Option ProgEntry)
  gang : Option Gang
  ports : SMap PortCfg
  vlists : SMap (List (BitVec 6 × BitVec 4))
deriving DecidableEq, Repr

/-- A statistics partial (R138). -/
structure Partial where
  elements : Nat
  zeros : Nat
  flushed : Nat
  saturated : Nat
  posInf : Nat
  negInf : Nat
  nan : Nat
  maxabs : BitVec 32
  hist : SMap Nat
  fmt : BitVec 4
  mixed : Bool
  csat : Bool
  /-- cell number of the highest cell whose elements the partial holds (R141 FMT). -/
  cell : Nat
deriving DecidableEq, Repr

/-- Phases of kindling (R58 to R60). -/
inductive KindlePhase where
  | off
  | kindling
  | rampDown
  | rampUp
deriving DecidableEq, Repr

/-- One cell. -/
structure Cell where
  cfg : CellCfg
  shadow : CellCfg
  run : Option Run
  tiles : List TileWait
  sems : SMap (BitVec 8)
  unitM : List UnitOp
  unitD : List UnitOp
  unitI : List UnitOp
  unitO : List UnitOp
  bank0 : Bank
  bank1 : Bank
  fifoIn : SMap (List (List Byte))
  /-- units that SOUT has handed to an output port, each with the number of its acceptance on the position (R77). -/
  fifoOut : SMap (List (Nat × List Byte))
  partials : SMap Partial
  kPhase : KindlePhase
  kLevel : Nat
deriving DecidableEq, Repr

/-! ### Positions (R84, R137 to R145, R182 to R199) -/

/-- GLB_POSN_STATE.STATE (R222). -/
inductive PosState where
  | absent
  | disabledLevel
  | enabled
  | guest
  | inReset
  | outOfService
deriving DecidableEq, Repr

/-- NUM_SEQ_FAULT (R89). -/
structure SeqFault where
  x : BitVec 4
  y : BitVec 4
  code : BitVec 4
  pc : BitVec 12
  count : BitVec 32
deriving DecidableEq, Repr

/-- Partials of a slot merged by the base controller, and how many (R139). -/
structure Merged where
  count : Nat
  p : Partial
deriving DecidableEq, Repr

/-- A partial on its way to the base controller, with the step and attempt of the STCLOSE (R139, R141). -/
structure PartialMsg where
  slot : Nat
  p : Partial
  step : BitVec 64
  attempt : BitVec 4
deriving DecidableEq, Repr

/-- What the underflow watch keeps of a closed record (R153). -/
structure ClosedRec where
  slot : Nat
  step : BitVec 64
  attempt : BitVec 4
  zeros : Nat
  elements : Nat
deriving DecidableEq, Repr

/-- MEM_REMAP_DATA.STATE (R185). -/
inductive RemapState where
  | free
  | mapped
  | bad
deriving DecidableEq, Repr

/-- An entry of the stripe remap table (R185). -/
structure Remap where
  st : RemapState
  home : BitVec 24
deriving DecidableEq, Repr

/-- MEM_PC_STATUS.STATE (R199). -/
inductive PcState where
  | normal
  | retrain
  | limp
  | mapout
  | mapped
  | partly
deriving DecidableEq, Repr

/-- The controller state of a pseudo-channel (R182 to R189). -/
structure PChan where
  st : PcState
  wfrom : Option Nat
  /-- it fails at 4.8 Gb/s too: every burst counts as failed (R188). -/
  dead : Bool
  retrains : BitVec 32
  odce : BitVec 24
  ce : BitVec 24
  ue : BitVec 16
  /-- the last 16 stripes with a failed burst: logical stripes, and reserve stripe r as 12,386,304 + r (R184). -/
  ueHist : List Nat
deriving DecidableEq, Repr

/-- An access that waits in the queue of a held channel (R187): the chunk of a stream with what its return brings. `desc` is
the key of the descriptor that bound the stream. -/
structure HeldAccess where
  key : Nat
  desc : Nat
  errs : List BurstErr
  data : List Byte
deriving DecidableEq, Repr

/-- One position. -/
structure Pos where
  st : PosState
  activeEpoch : BitVec 16
  shadowEpoch : Option (BitVec 16)
  seqFault : SeqFault
  arrayBusy : BitVec 64
  bankStall : BitVec 64
  kindleCnt : BitVec 64
  /-- the position's count of corrected scratchpad and program-memory errors; no register reads it (R66). -/
  corrected : Nat
  /-- STAT_SLOT_CFG in force and as written, by slot (R144). -/
  slotCfg : SMap (BitVec 32)
  slotCfgW : SMap (BitVec 32)
  slotRun : SMap (BitVec 16)
  merged : SMap Merged
  partialQ : List PartialMsg
  closed : List ClosedRec
  ringBase : BitVec 48
  ringBaseW : BitVec 48
  ringCtrl : BitVec 32
  ringCtrlW : BitVec 32
  ringHead : BitVec 16
  ringTail : BitVec 16
  ringDropped : BitVec 32
  /-- steps for which STAT_RING_FULL has been raised (R143). -/
  ringFullSteps : List (BitVec 64)
  /-- round-robin turn pointers of the 32 transfer engines (R197). -/
  turnPtr : SMap Nat
  /-- engines in reset at engine level (R326). -/
  engReset : List Nat
  /-- the stripe remap table and the list of withdrawn stripes (R185, R189). -/
  remap : SMap Remap
  withdrawn : List Nat
  pchan : SMap PChan
  /-- corrected bursts per stripe since the last patrol pass (R186). -/
  stripeCe : SMap Nat
  /-- times of the corrected bursts of each channel in the last 1 ms (R187). -/
  chanCe : SMap (List (BitVec 64))
  /-- accesses that wait at held channels, by channel, in arrival order (R187). -/
  chanQ : SMap (List HeldAccess)
  /-- retrain save buffers: the content of reserve slot 196,607 of each pseudo-channel under retrain (R187). -/
  saveBuf : SMap (List Byte)
  /-- units accepted by the position's vertical ports since reset (R77). -/
  outSeq : Nat
  /-- stripes whose content was a failed burst and waits for its remap (R184, R186). -/
  failedStripes : List Nat
  /-- errata workarounds applied since inventory or the last partition reset (R214). -/
  errata : Bool
deriving DecidableEq, Repr

/-! ### Streams (R194 to R198) -/

/-- A side of a stream (R278). -/
inductive Side where
  | dpa (a : BitVec 48)
  | host (a : BitVec 57)
  | fabric (rank : BitVec 14) (a : BitVec 48)
deriving DecidableEq, Repr

/-- The states of a stream context (R196). -/
inductive StreamState where
  | free
  | ready
  | done
deriving DecidableEq, Repr

/-- A chunk in flight: offset from the stream's start, length in bytes, and the bytes read from a source
in this package (none for a fabric source, whose bytes come with the return). -/
structure Chunk where
  off : Nat
  len : Nat
  data : List Byte
deriving DecidableEq, Repr

/-- A stream context (R194); `ae` and `x` are the tag of R316. -/
structure StreamCtx where
  st : StreamState
  owner : Ctx
  gen : BitVec 8
  src : Side
  dst : Side
  length : Nat
  runU : Nat
  stepU : Nat
  tc : Fin 4
  port : Fin 2
  key : Nat
  ember : Option (BitVec 64)
  step : Option (BitVec 64)
  ae : BitVec 4
  x : Bool
  issued : Nat
  acked : Nat
  inflight : List Chunk
  /-- ember-mirror copies of its chunks that the partner has not acknowledged (R300). -/
  copies : Nat
deriving DecidableEq, Repr

/-! ### Host interface and contexts (R253 to R292) -/

/-- CTX_STATUS.STATE (R257). -/
inductive CtxState where
  | free
  | active
  | draining
deriving DecidableEq, Repr

/-- A descriptor in the part: fetched, started or complete. -/
structure Desc where
  key : Nat
  index : BitVec 16
  words : BitVec 512
  refetched : Bool
  step : Option (BitVec 64)
  attempt : BitVec 4
  cells : BitVec 256
deriving DecidableEq, Repr

/-- A wait of the front descriptor on its sync object (R274). -/
structure WaitRec where
  since : BitVec 64
  reached : Bool
deriving DecidableEq, Repr

/-- A memory window (R258). -/
structure Window where
  base : Nat
  limit : Nat
deriving DecidableEq, Repr

/-- An entry of a snapshot list (R173). -/
structure SnapEntry where
  src : Nat
  bytes : Nat
  dstOff : Nat
deriving DecidableEq, Repr

/-- An armed or running snapshot (R172 to R176). -/
structure Snapshot where
  key : Nat
  step : BitVec 64
  hostDest : Bool
  destAddr : BitVec 64
  peerRank : BitVec 14
  trailerOff : BitVec 64
  entries : List SnapEntry
  /-- the content at the boundary, once marked: one list of bytes per entry, and the boundary's PTB. -/
  taken : Option (List (List Byte) × BitVec 64)
deriving DecidableEq, Repr

/-- A context (R257, R258). -/
structure Context where
  st : CtxState
  gen : BitVec 8
  func : Fin 64
  port : Fin 2
  ver : BitVec 4
  posns : BitVec 8
  holdsStep : Bool
  vecCpl : BitVec 6
  vecEvt : BitVec 6
  dring : BitVec 64
  cring : BitVec 64
  ering : BitVec 64
  headwb : BitVec 64
  dlog2 : Nat
  clog2 : Nat
  elog2 : Nat
  windows : List Window
  syncBase : Nat
  syncCount : Nat
  sstepBase : Nat
  sstepCount : Nat
  fetch : Nat
  tail : Nat
  release : Nat
  cplWrite : Nat
  cplHead : Nat
  cplPhase : Bool
  evtWrite : Nat
  evtHead : Nat
  evtPhase : Bool
  evtLost : BitVec 16
  fetched : List Desc
  starting : Option Desc
  started : List Desc
  waiting : Option WaitRec
  /-- fetch is stopped: during an abort drain (R315), in HALTED (R317) and in DRAINING. -/
  fetchStopped : Bool
  /-- entries from RELEASE up to here are refetches (R287). -/
  refetchEnd : Option Nat
  ae : BitVec 4
  /-- steps held at the abort that the refetch replays (R287). -/
  replay : List (BitVec 64)
  outstanding : Nat
  snapshot : Option Snapshot
  /-- the running teardown: its descriptor, if by that path, and t0 once the generation has changed (R288). -/
  tearDesc : Option Desc
  tearT0 : Option (BitVec 64)
  /-- the context holds capacity withdrawn from under it until a RESTORE (R189). -/
  shrunk : Bool
deriving DecidableEq, Repr

/-- A sync object (R274). -/
structure SyncObj where
  value : BitVec 32
  error : Bool
deriving DecidableEq, Repr

/-- An update of a sync object (R274). -/
inductive SyncOp where
  | setValue (v : BitVec 32)
  | add (v : BitVec 32)
  | setError
  | clearErr
deriving DecidableEq, Repr

/-- An update waiting for its grant, with its requester (R274). -/
structure SyncUpd where
  obj : BitVec 16
  requester : Nat
  op : SyncOp
deriving DecidableEq, Repr

/-- What waits for the firmware scrub (R289, R390). -/
structure Scrub where
  ctx : Option Ctx
  ticket : BitVec 8
  windows : List Window
  posns : BitVec 8
deriving DecidableEq, Repr

/-- An MSI-X message sent. -/
structure Msix where
  func : Fin 64
  port : Fin 2
  vec : BitVec 6
deriving DecidableEq, Repr

/-- The function page registers (R292). -/
structure FuncPage where
  ctxBlock : BitVec 64
  statCtx : Ctx
  result : BitVec 4
  /-- the last command named a context of the function's range. -/
  inRange : Bool
  vfPages : Nat
deriving DecidableEq, Repr

/-- Host interface. -/
structure Hif where
  funcCfg : SMap (BitVec 64)
  syncWait : BitVec 32
  ctxs : SMap Context
  sync : SMap SyncObj
  syncQ : List SyncUpd
  syncPtr : SMap Nat
  fetchPtr : Nat
  nextKey : Nat
  scrubs : List Scrub
  pages : SMap FuncPage
  dropped : BitVec 48
  droppedCtx : Ctx
  vfEnabled : SMap Bool
  /-- VFPAGES in the VF BAR2 field of a port's SR-IOV capability, fixed as VF Enable is set there (R255). -/
  vfBar2 : SMap Nat
  /-- errors that a function's AER registers hold, oldest first; their layout is that of PCI Express (R253, R259). -/
  aer : SMap (List HostReadEnd)
  linkUp : SMap Bool
  perst : SMap Bool
  msix : List Msix
deriving DecidableEq, Repr

/-! ### Die-to-die edges and guest firewall (R203 to R222) -/

/-- PKG_EDGE_STATUS.STATE (R209). -/
inductive EdgeState where
  | reset
  | sbinit
  | mbinit
  | mbtrain
  | linkinit
  | active
  | retrain
  | quarantine
  | failed
  | disabled
deriving DecidableEq, Repr

/-- One module of an edge: sequence numbers, the replay buffer, the last ACK sent, the times of its CRC errors in the last 1 ms, and
good DATA frames that wait to be rejoined (R204, R205, R209). -/
structure EdgeModule where
  txNext : BitVec 8
  rxNext : BitVec 8
  ackFrom : BitVec 8
  ackSent : BitVec 8
  replay : List Frame
  discarding : Bool
  crcTimes : List (BitVec 64)
  arrived : List Frame
deriving DecidableEq, Repr

/-- A 248-byte piece of a crossbar packet: the packet's edge sequence number, whether it is the last piece, its bytes. -/
structure Piece where
  packet : Nat
  last : Bool
  bytes : List Byte
deriving DecidableEq, Repr

/-- One die-to-die edge. -/
structure Edge where
  st : EdgeState
  /-- training was entered from ACTIVE by RETRAIN (R209). -/
  fromRetrain : Bool
  /-- a quarantine has not ended in ACTIVE (R210). -/
  quarantined : Bool
  /-- the present RESET follows a partition reset that tries a FAILED edge once more (R209, R210). -/
  lastTry : Bool
  width : Nat
  ctag : BitVec 4
  mask : BitVec 16
  passing : BitVec 16
  retrains : BitVec 16
  quarantines : BitVec 16
  crc : BitVec 32
  replays : BitVec 32
  modules : SMap EdgeModule
  /-- traffic held while the edge trains (R206). -/
  holding : Bool
  /-- a module has failed in LINKINIT since the edge left RESET or ACTIVE (R209). -/
  linkFailed : Bool
  /-- crossbar packets that the other side has not acknowledged, oldest first, with their edge sequence numbers (R206). -/
  packets : List (Nat × List Byte)
  /-- the edge sequence number of the next packet. -/
  nextPacket : Nat
  /-- pieces not yet sent, and the module that the next one goes to (R204). -/
  pieces : List Piece
  sendTurn : Nat
  /-- frames sent by the near side, a log: module and frame. -/
  sent : List (Nat × Frame)
  /-- the module whose piece is joined next, the pieces of the packet that is not whole yet, and the edge sequence number of the
  next packet not yet held (R204, R206). -/
  joinTurn : Nat
  joining : List Byte
  expected : Nat
  /-- crossbar packets received whole, in order (R204). -/
  received : List (List Byte)
  /-- only IDLE frames are sent until a CTAG mismatch is resolved (R208). -/
  idleOnly : Bool
  /-- masks and CTAGs that the authority has sent to the other side over the sideband, a log (R208). -/
  sideband : List (BitVec 16 × BitVec 4)
  /-- mask and CTAG that the other side holds, as the authority knows them: as sent, or as read at a poll (R208). -/
  farMask : BitVec 16
  farCtag : BitVec 4
  enteredAt : BitVec 64
deriving DecidableEq, Repr

/-- A rule of the guest firewall (R217, R222). -/
structure GfwRule where
  base : BitVec 48
  limit : BitVec 48
  attr : BitVec 33
deriving DecidableEq, Repr

/-- A transfer of a guest die that the firewall has stamped with a context and its generation (R218). -/
structure GuestAccess where
  addr : BitVec 48
  write : Bool
  ctx : Ctx
  gen : BitVec 8
  data : List Byte
deriving DecidableEq, Repr

/-- The firewall of one guest (R217 to R222). -/
structure Gfw where
  en : Bool
  lock : Bool
  viol : BitVec 32
  vaddr : BitVec 64
  rules : SMap GfwRule
  lastEvent : Option (BitVec 64)
  /-- permitted outbound transfers on their way, oldest first (R218). -/
  passed : List GuestAccess
  /-- what accesses have been answered with, oldest first: the unit of a read, or an error (R219). -/
  answers : List (BitVec 48 × Option (List Byte))
deriving DecidableEq, Repr

/-- Package interconnect. -/
structure Pkg where
  edges : SMap Edge
  edgeCfg : BitVec 32
  edgeCfgW : BitVec 32
  gfw : SMap Gfw
  effective : BitVec 8
  /-- positions that read ENABLED after inventory: P of R177, fixed then (R213). -/
  invEnabled : BitVec 8
deriving DecidableEq, Repr

/-! ### Yalxo fabric (R223 to R252) -/

/-- FAB_PORT_STATUS.STATE (R252). -/
inductive PortState where
  | down
  | training
  | up
  | held
  | retrain
  | notCabled
deriving DecidableEq, Repr

/-- A packet at an output port: the pieces of it that are not sent yet once it has its LPORT and LSEQ (R230, R236). -/
structure OutPacket where
  p : Packet
  numbered : Bool
  left : List (List Byte)
deriving DecidableEq, Repr

/-- One Yalxo port. A pool is numbered by its class c if it is local and by c + 4 if it is a transit pool. -/
structure FabPort where
  st : PortState
  width : Nat
  lanes : BitVec 8
  nbr : BitVec 14
  nbrPort : BitVec 5
  degrades : BitVec 16
  feccw : BitVec 32
  crc : BitVec 16
  replays : BitVec 16
  cfg : BitVec 16
  cfgW : BitVec 16
  txNext : BitVec 12
  rxNext : BitVec 12
  ackFrom : BitVec 12
  /-- the last ACK sent. -/
  ackSent : BitVec 12
  /-- flits not yet acknowledged (R228). -/
  replay : List Flit
  /-- packets whose flits are not all acknowledged, with the number of the last flit of each (R230). -/
  unacked : List (BitVec 12 × Packet)
  discarding : Bool
  /-- times of the uncorrectable codewords of each lane in the last 1 ms (R229). -/
  fecTimes : SMap (List (BitVec 64))
  /-- output queues, by pool·26 + input (R236). -/
  queue : SMap (List OutPacket)
  /-- packets of a DOWN port that go out whole ahead of new ones, by pool (R230). -/
  resend : SMap (List OutPacket)
  /-- the packet whose flits are being sent, by pool (R227). -/
  sending : SMap (Option OutPacket)
  /-- pointers of the class and TC0 arbiters, of the pool arbiter by class, and of the input arbiter by pool (R236). -/
  classPtr : Nat
  tc0Ptr : Nat
  poolPtr : SMap Nat
  inPtr : SMap Nat
  /-- credits to send, by pool (R235). -/
  credits : SMap Nat
  /-- flits held in the receive buffer, by pool. -/
  held : SMap (List (List Byte))
  /-- flits freed since the last flit sent, by pool (R226). -/
  freed : SMap Nat
  /-- partition IDs valid at the neighbour (R243). -/
  pids : List (BitVec 12)
  /-- flits sent, a log. -/
  sent : List Flit
deriving DecidableEq, Repr

/-- What a LINKCTL flit carries (R227, R229, R241, R246). -/
inductive LinkMsg where
  | ident (serial : BitVec 64) (port : Nat) (digest : BitVec 64)
  | mask (lanes : BitVec 8)
  | bitmap (pids : List (BitVec 12))
  | time (stamp : BitVec 64)
deriving DecidableEq, Repr

/-- A partition entry (R242, R252). -/
structure Part where
  pid : BitVec 12
  valid : Bool
  ranked : Bool
  rank : BitVec 14
  ctx : Ctx
  box : BitVec 64
  rmap : BitVec 48
  result : BitVec 3
  gradeC : Bool
  /-- the rank map's copy in hub SRAM: the halfword of each rank (R242). -/
  map : SMap (BitVec 16)
  /-- highest (STEP, ATTEMPT) of an ABORT forwarded (R239). -/
  abortKey : Option (BitVec 64 × BitVec 4)
  /-- (STEP, ATTEMPT, SEG, OUTCOME) of each RESOLVE forwarded (R306). -/
  resolved : List (BitVec 64 × BitVec 4 × BitVec 4 × Bool)
deriving DecidableEq, Repr

/-- A node of a reduction's node list (R249). -/
structure RedNode where
  lo : Nat
  hi : Nat
  shard : Nat
  dest : Nat
  land : Bool
  bcast : Bool
deriving DecidableEq, Repr

/-- An operand waiting for its partner at a node (R249). -/
structure RedOperand where
  shard : Nat
  lo : Nat
  hi : Nat
  off : Nat
  data : List (BitVec 32)
deriving DecidableEq, Repr

/-- An open reduction (R248, R281). -/
structure Reduction where
  redid : BitVec 16
  key : Nat
  ctx : Ctx
  n : Nat
  gidx : Nat
  cfmt : BitVec 4
  sfmt : BitVec 4
  src : Nat
  landing : Nat
  elements : Nat
  /-- the stream context that its descriptor binds, by posn·131072 + number (R281). -/
  stream : Nat
  nodes : List RedNode
  operands : List RedOperand
  /-- elements sent, by position in the node list, and elements landed, by shard. -/
  sent : SMap Nat
  landed : SMap Nat
  /-- its descriptor has completed and its windows are free; late results still land (log entry 29). -/
  done : Bool
deriving DecidableEq, Repr

/-- A packet sent on a port, or the hub's delivery of one. -/
structure Sent where
  port : Nat
  p : Packet
deriving DecidableEq, Repr

/-- A TC0 message sent: on one port, or point to point to a coordinate index. -/
structure Tc0Sent where
  port : Option Nat
  dest : Option (BitVec 16)
  msg : Tc0
deriving DecidableEq, Repr

/-- The fabric block. -/
structure Fab where
  /-- install table in force, its bytes (R240); none loaded: none. -/
  table : Option (List Byte)
  selfIdx : Option Nat
  ports : SMap FabPort
  parts : SMap Part
  reductions : List Reduction
  windowsUsed : Nat
  drop : BitVec 64
  transitFwd : BitVec 32
  transitDrop : BitVec 32
  lseq : SMap (BitVec 16)
  /-- the last 1,024 LSEQs delivered, by direction group of arrival, LPORT and class (R230). -/
  delivered : SMap (List (BitVec 16))
  sent : List Sent
  tc0 : List Tc0Sent
  /-- LINKCTL messages sent: port and partition bitmap (R243). -/
  bitmaps : List (Nat × List (BitVec 12))
  /-- every LINKCTL message sent, a log: port and content. -/
  linkctl : List (Nat × LinkMsg)
  ptbState : BitVec 2
  /-- the first exchange has come (R247). -/
  ptbSet : Bool
  /-- the link delay to the parent in units of 0.5 ns (R246). -/
  ptbDelay : Int
  /-- what RATE has gained or lost short of a nanosecond, in 10⁻⁸ ns (R246). -/
  ptbFrac : Int
  ptbParent : Nat
  ptbOffset : BitVec 16
  ptbRate : BitVec 16
  ptbMissed : Nat
deriving DecidableEq, Repr

/-! ### The step transaction (R293 to R321) -/

/-- STEP_STATE.OLDEST (R295). -/
inductive HeldState where
  | opened
  | cast
  | committing
  | aborting
  | halted
deriving DecidableEq, Repr

/-- The outcome of a vote or step (R309). -/
inductive Outcome3 where
  | commit
  | skip
  | abort
deriving DecidableEq, Repr

/-- An entry of an update list with its parameter row and header address, as the commit store holds it (R149, R150). -/
structure UpdEntry where
  op : BitVec 8
  gfmt : BitVec 4
  wcopy : Bool
  elements : Nat
  g : Nat
  m : Nat
  v : Nat
  w : Nat
  wc : Nat
  hdr : Nat
  params : List (BitVec 32)
deriving DecidableEq, Repr

/-- A bound variant table (R156, R157): SLOT_BASE and SLOT_COUNT by variant, VARIANT by posn·256 + entry when BOUND. -/
structure VariantTable where
  nvar : Nat
  slots : List (Nat × Nat)
  owner : SMap (Option Nat)
deriving DecidableEq, Repr

/-- CHECKED and NONFINITE (R145). -/
structure CheckPair where
  checked : BitVec 32
  nonfinite : BitVec 32
deriving DecidableEq, Repr

/-- A VOTE message held: the sender's rank, whether it is a roll-call copy, and when it came (R305, R335). -/
structure VoteMsg where
  child : BitVec 14
  rollcall : Bool
  since : BitVec 64
  msg : Tc0
deriving DecidableEq, Repr

/-- A held step (R295). -/
structure Held where
  step : BitVec 64
  ctx : Ctx
  st : HeldState
  attempt : BitVec 4
  check : Bool
  cause : BitVec 8
  emberBase : Nat
  emberBytes : Nat
  inbytes : Nat
  broken : Bool
  checks : SMap CheckPair
  vnon : SMap (BitVec 32)
  variant : Option VariantTable
  umask : BitVec 8
  updl : SMap (BitVec 32)
  lists : SMap (List UpdEntry)
  vote : Option Outcome3
  mask : BitVec 1024
  voteKey : Option Nat
  castAt : BitVec 64
  resSegs : List (BitVec 4 × BitVec 64)
  abortAt : Option (BitVec 64)
  mirrored : Bool
  ownerDone : Bool
  mirrorDone : Bool
  index : BitVec 16
  words : BitVec 512
  /-- the number of the descriptor that opened it: every later one of the context has a higher number. -/
  openKey : Nat
  /-- no partition entry named the context as the step opened: it runs alone (R298). -/
  alone : Bool
  /-- the vote is formed, and the copy of the step record waits for its acknowledgement (R304). -/
  recordSent : Bool
  syncRec : SMap SyncObj
  /-- check sum over the data of each outbound tensor, by descriptor key (R345). -/
  outCrc : SMap (BitVec 64)
  /-- the subtree vote has left; the child that came last and its lag in µs (R305, R343). -/
  voted : Bool
  lag : Option (BitVec 14) × Nat
deriving DecidableEq, Repr

/-- A step of the partner's whose ember mirror this package holds (R301, R311). -/
structure PeerStep where
  step : BitVec 64
  mask : BitVec 1024
  /-- the step has resolved here, and whether as SKIP (R294). -/
  resolved : Bool
  skip : Bool
  partnerDone : Bool
  ownerDone : Bool
deriving DecidableEq, Repr

/-- A step that has resolved SKIP while an earlier commit runs: its number and cursor are written after it (R294, R311). -/
structure SkipStep where
  step : BitVec 64
  ctx : Ctx
  inbytes : Nat
  mirrored : Bool
deriving DecidableEq, Repr

/-- STEP_MIRROR.STATE (R321). -/
inductive MirrorState where
  | unpaired
  | paired
  | filling
  | synced
  | stale
  | lost
deriving DecidableEq, Repr

/-- A mirror mapping entry (R303). -/
structure MirEntry where
  own : Nat
  mir : Nat
  length : Nat
deriving DecidableEq, Repr

/-- A MIRROR MAP that waits for the partner (R302, R303). -/
structure MapWait where
  ctx : Ctx
  key : Nat
  entry : Nat
  e : MirEntry
  pairing : Bool
  since : BitVec 64
deriving DecidableEq, Repr

/-- A MIRROR FILL under way: what has not been acknowledged (R303). -/
structure FillRun where
  ctx : Ctx
  key : Nat
  left : Nat
deriving DecidableEq, Repr

/-- A running audit (R319), at the owner or at the partner. -/
structure Audit where
  ctx : Ctx
  key : Nat
  step : BitVec 64
  entry : Nat
  first : Nat
  groups : Nat
  compared : Nat
  differed : Nat
  /-- this side's group digests, once its boundary has come; and those of the other side, by group. -/
  digests : Option (List (BitVec 64))
  theirs : SMap (Option (BitVec 64))
deriving DecidableEq, Repr

/-- The round that follows an abort (R335, R336). -/
structure Round where
  step : BitVec 64
  attempt : BitVec 4
  startedAt : BitVec 64
  afterDecl : Bool
  ownDrained : Bool
  /-- the subtree's DRAINED has left. -/
  sentUp : Bool
  actingRoot : Bool
  /-- ranks whose promotion has not completed (R336). -/
  promoting : List (BitVec 14)
deriving DecidableEq, Repr

/-- The step engine. -/
structure StepEng where
  held : List Held
  next : BitVec 64
  number : BitVec 64
  cursor : BitVec 64
  cause : BitVec 8
  skips : BitVec 32
  aborts : BitVec 32
  waitLast : BitVec 32
  waitMax : BitVec 32
  dropped : BitVec 64
  cfg : BitVec 32
  cfgW : BitVec 32
  csync : BitVec 32
  csyncW : BitVec 32
  epochWait : BitVec 32
  lagChild : Option (BitVec 14)
  lag : BitVec 32
  vmask : BitVec 1024
  nskip : BitVec 11
  vskipTotal : BitVec 32
  /-- the check flag of the next step opened is cleared, by position or by the step engine (R66, R184, R296). -/
  clearNext : Bool
  /-- causes to abort that arise with no step held, or an ABORT received for a step not yet opened (R296, R297). -/
  abortNext : List (BitVec 64 × BitVec 4 × BitVec 8)
  openWaitSince : Option (BitVec 64)
  mirror : MirrorState
  reason : BitVec 4
  partner : BitVec 14
  entries : SMap (Option MirEntry)
  peerEntries : SMap (Option MirEntry)
  auditMismatch : BitVec 16
  mapWait : Option MapWait
  audit : Option Audit
  peerAudit : Option Audit
  fill : Option FillRun
  /-- bytes that have arrived of each group that the partner sends again, by the group's address (R319). -/
  peerResend : SMap Nat
  /-- the copy of the partner's step number and cursor held in its mirror (R294, R311). -/
  peerNumber : BitVec 64
  peerCursor : BitVec 64
  peerSteps : List PeerStep
  round : Option Round
  /-- VOTE messages held, those for steps and attempts not reached yet among them (R305). -/
  votes : List VoteMsg
  /-- the context, and its generation, whose first MAP has paired the package (R302). -/
  pairedCtx : Option (Ctx × BitVec 8)
  /-- the attempt under which a step that is not open here will open (R297, R339). -/
  openAttempt : Option (BitVec 64 × BitVec 4)
  skipQ : List SkipStep
  /-- steps whose ember this package pulled at its promotion: their descriptors run as refetches (R339). -/
  pulled : List (BitVec 64)
  /-- the spare that takes the partner's rank has paired, and waits for this package to send what it pulls (R339). -/
  pullFor : Bool
deriving DecidableEq, Repr

/-! ### Spares, shadows, captures (R324 to R347) -/

/-- RAS_SPARE_STATUS.STATE (R347). -/
inductive SpareState where
  | none
  | ready
  | pulling
  | promoted
  | declined
  | rankLost
deriving DecidableEq, Repr

/-- RAS_SHADOW_STATUS.STATE (R347). -/
inductive ShadowState where
  | off
  | loading
  | following
  | admitted
  | ejected
  | lost
deriving DecidableEq, Repr

/-- A reset waiting for its capture to end (R330). -/
structure PendingReset where
  level : Nat
  posn : Nat
  engine : Nat
  cause : Nat
deriving DecidableEq, Repr

/-- A spare that has been named for a rank and waits for the answer to its FENCE PAIR (R338): its partition entry, the rank, the
coordinate of the lost rank's mirror partner, and the step and attempt of the declaration. -/
structure SpareWait where
  entry : Nat
  rank : BitVec 14
  partner : Nat
  step : BitVec 64
  attempt : BitVec 4
  since : BitVec 64
deriving DecidableEq, Repr

/-- A shadow record of the leader's (R345): the step, its outcome and mask, and the digests. -/
structure ShadowRec where
  step : BitVec 64
  outcome : BitVec 2
  mask : BitVec 1024
  digests : List (BitVec 64)
deriving DecidableEq, Repr

/-- Resets, captures, spares and shadows. -/
structure Ras where
  reset : BitVec 32
  wdog : BitVec 32
  wdogW : BitVec 32
  /-- captures since power-up (R331). -/
  capCount : BitVec 32
  capSeq : BitVec 32
  capLevel : BitVec 3
  capPosn : BitVec 3
  capComplete : Bool
  capValid : Bool
  chipReq : Bool
  pending : List PendingReset
  /-- hub reduction units in reset at engine level, by engine code (R326). -/
  hubReset : List Nat
  spareCfg : BitVec 32
  spareCfgW : BitVec 32
  spareState : SpareState
  spareRank : BitVec 14
  sparePulled : BitVec 32
  spareWait : Option SpareWait
  shadowCfg : BitVec 32
  shadowAdmitW : BitVec 16
  shadowState : ShadowState
  shadowMatched : BitVec 16
  shadowMismatch : BitVec 32
  shadowEntry : Nat
  /-- the leader has sent its state to the follower (R344). -/
  shadowSent : Bool
  /-- records of the leader's that wait for the follower's own cast, oldest first. -/
  shadowQ : List ShadowRec
deriving DecidableEq, Repr

/-! ### Banking (R348 to R369) -/

/-- BANK_STATUS.STATE (R368). -/
inductive BankRunState where
  | idle
  | armed
  | banking
  | signing
deriving DecidableEq, Repr

/-- An entry of a bank list (R352). -/
structure BankEntry where
  src : Nat
  kind : Nat
  narrow : Bool
  dup : Bool
  size : Nat
  dstOff : Nat
deriving DecidableEq, Repr

/-- A bank list and the body that names it: also the template of auto banks (R351, R352). -/
structure BankPlan where
  step : BitVec 64
  slotBytes : Nat
  jobId : BitVec 64
  stageOff : Nat
  stageBytes : Nat
  entries : List BankEntry
  hostDest : Bool
  writer : Bool
  destAddr : BitVec 64
  peerRank : BitVec 14
deriving DecidableEq, Repr

/-- A bank armed or running (R356 to R359). -/
structure BankRun where
  ctx : Ctx
  key : Option Nat
  auto : Bool
  plan : BankPlan
  slot : Bool
  st : BankRunState
  nextStep : BitVec 64
  cursor : BitVec 64
  ptb : BitVec 64
  /-- stored bytes of each shard that is banked, with its list index, once taken (R357). -/
  shards : List (Nat × List Byte)
  /-- stripes read ahead of a commit write while the bank runs: their BANKED bits are set before their shard is sent (R357, R358). -/
  ahead : List Nat
  signature : List Byte
deriving DecidableEq, Repr

/-- BANK_RESTORE.STATE (R368). -/
inductive RestoreState where
  | none
  | running
  | failed
  | done
deriving DecidableEq, Repr

/-- Where a checkpoint lies: host memory at a bus address, or a rank's memory at a DPA (R363). -/
structure CkptLoc where
  host : Bool
  rank : Nat
  addr : Nat
deriving DecidableEq, Repr

/-- A shard that a RESTORE loads: its source, the bytes of the first pass, and where and how it is written (R364, R365). -/
structure RestoreShard where
  loc : CkptLoc
  first : List Byte
  kind : Nat
  narrow : Bool
  wcopy : Bool
  dst : Nat
  wc : Nat
deriving DecidableEq, Repr

/-- A RESTORE between its first pass and its end (R365, R366). -/
structure RestoreRun where
  ctx : Ctx
  key : Nat
  nextStep : BitVec 64
  cursor : BitVec 64
  signer : List Byte
  shards : List RestoreShard
deriving DecidableEq, Repr

/-- The bank engine and the error-rate watch. -/
structure BankEng where
  watchCfg : BitVec 64
  watchCfgW : BitVec 64
  thr : BitVec 64
  thrW : BitVec 64
  /-- counts of the present window and the window's number (R349). -/
  mem : BitVec 16
  fec : BitVec 32
  drop : BitVec 8
  retrain : BitVec 8
  window : Nat
  /-- occurrences stamped in the next window, counted when it opens (R349). -/
  early : List WatchSource
  /-- occurrences on their way to the watch, with their creation stamps (R349). -/
  arrivals : List (WatchSource × BitVec 64)
  advised : Bool
  advSrc : BitVec 4
  advCount : BitVec 32
  template : Option (Ctx × BankPlan)
  run : Option BankRun
  lastAuto : Bool
  lastSlot : Bool
  lost : BitVec 4
  throttle : BitVec 24
  pushed : BitVec 32
  bytes : BitVec 40
  shard : BitVec 13
  restore : RestoreState
  restoreStep : BitVec 32
  restoreRun : Option RestoreRun
  /-- the context, and its generation, whose RESTORE failed in its second pass (R365). -/
  restoreCtx : Option (Ctx × BitVec 8)
  /-- bytes written to a fabric peer by banks and snapshots: rank, peer DPA, bytes. -/
  toPeer : List (BitVec 14 × BitVec 48 × List Byte)
deriving DecidableEq, Repr

/-! ### Management (R370 to R396) -/

/-- A mailbox channel (R380 to R387). -/
structure Chan where
  bind : BitVec 32
  full : Bool
  collision : Bool
  acked : Bool
  words : BitVec 5
  sender : BitVec 8
  code : BitVec 16
  ackWords : BitVec 5
  acker : BitVec 8
  buf : SMap (BitVec 32)
  stageA : SMap (BitVec 32)
  stageB : SMap (BitVec 32)
  since : BitVec 64
deriving DecidableEq, Repr

/-- The event codes of R394. -/
abbrev EventCode := BitVec 16

/-- An event record (R391). -/
structure Event where
  code : EventCode
  src : BitVec 12
  seq : BitVec 32
  stamp : BitVec 64
  ctx : Option Ctx
  pid : Option (BitVec 12)
  posn : Option (BitVec 3)
  arg0 : BitVec 32
  arg1 : BitVec 64
deriving DecidableEq, Repr

/-- GLB_FW_STATUS.STATE (R396). -/
inductive FwState where
  | boot
  | running
  | recovery
deriving DecidableEq, Repr

/-- A firmware command that is still running (R384, R388), with the core that runs it. -/
structure LongCommand where
  core : Nat
  ticket : BitVec 8
  cmd : BitVec 16
  table : List Byte
  repair : Option Repair
  ok : Bool
deriving DecidableEq, Repr

/-- A notification sent by the mailbox block (R385). -/
structure Notify where
  mid : BitVec 8
  ch : Nat
  vec : BitVec 6
deriving DecidableEq, Repr

/-- The management complex. -/
structure Mgmt where
  fw : FwState
  fail : BitVec 4
  heartbeat : BitVec 32
  fwVersion : BitVec 32
  fwDigest : List Byte
  presence : Bool
  presenceLow : Bool
  sealClosed : Bool
  sealOpened : Bool
  sealLevel : Bool
  debug : Bool
  tamper : BitVec 8
  /-- install table copies in flash: in force at the next discovery (R370, R379). -/
  tableFlash : Option (List Byte)
  /-- configuration region: mailbox bindings by channel (R370, R386). -/
  bindFlash : SMap (BitVec 32)
  /-- configuration region: firewall rules by guest·32 + rule (R221, R370). -/
  gfwFlash : SMap GfwRule
  /-- configuration region: EN of each guest's firewall (R221, R370). -/
  gfwEnFlash : BitVec 2
  /-- RAS data region: remap tables by posn·196608 + entry, withdrawn lists, marks (R185, R370). -/
  remapFlash : SMap Remap
  withdrawnFlash : SMap (List Nat)
  wfromFlash : SMap (Option Nat)
  pcFlash : SMap PcState
  links : List (List Byte)
  mbxLock : Bool
  rebind : BitVec 32
  chans : SMap Chan
  notified : List Notify
  long : List LongCommand
  /-- how commands answered with ACCEPTED have ended: ticket and code (R384). -/
  ended : List (BitVec 8 × BitVec 16)
  locks : SMap (Option Nat)
  coreResets : List Nat
  queue : List Event
  kept : List Event
  fwQueue : List Event
  seqs : SMap (BitVec 32)
  evtBase : BitVec 64
  evtCtrl : BitVec 32
  evtHead : BitVec 16
  evtTail : BitVec 16
  evtLost : BitVec 32
  evtPhase : Bool
  ptb : BitVec 64
  ptbSample : BitVec 64
deriving DecidableEq, Repr

/-! ### Power, tray and test (R397 to R432) -/

/-- DRAUGHT codes (R284). -/
inductive Draught where
  | opened
  | steady
  | damped
deriving DecidableEq, Repr

/-- The modes in force (R404, R417). -/
structure Modes where
  draught : Draught
  mirror : Bool
  depth : Nat
  shadow : Bool
  autoBank : Bool
  stats : Bool
deriving DecidableEq, Repr

/-- Power, clocks, tray interface. -/
structure Pwr where
  modes : Modes
  /-- MODE words staged and not yet applied, by context (R82, R404); 0: none. -/
  staged : SMap (BitVec 16)
  cap : BitVec 32
  capW : BitVec 32
  frac : BitVec 7
  warn : BitVec 8
  warnW : BitVec 8
  telem : BitVec 64
  pll : BitVec 32
  stage : BitVec 4
  ms : BitVec 32
  /-- when stage 3 of the last power-up started (R417, PWR_UP.MS). -/
  upAt : BitVec 64
  alertTherm : Bool
  alertLimit : Bool
  alertMask : BitVec 5
  thermAt : Option (BitVec 64)
  limitAt : Option (BitVec 64)
  kindle : BitVec 32
  kindleW : BitVec 32
  thermtrip : Bool
  arithStopped : Bool
  pwrGood : Bool
  pkgReset : Bool
  i3cAddr : BitVec 7
  i3cDyn : Option (BitVec 7)
  i3cOffset : BitVec 24
  straps : BitVec 2
  flash : SMap Byte
  flashOp : BitVec 2
  flashBusy : Bool
  /-- the operation that GO has started and that has not acted yet: OP and ADDR (R416). -/
  flashRun : Option (BitVec 2 × BitVec 24)
  flashErr : Bool
  flashAddr : BitVec 24
  fbuf : SMap (BitVec 32)
  ibis : List (BitVec 8)
deriving DecidableEq, Repr

/-- The TAP and the TEST block (R65, R427, R447). -/
structure TestBlk where
  /-- the instruction in force. -/
  ir : BitVec 8
  /-- the last instruction was refused: bit 2 of the next Capture-IR. -/
  refused : Bool
  /-- bits of the selected data register; 0 for the boundary register and for chains whose length is not given. -/
  drBits : Nat
  /-- the package outputs are driven from the boundary register. -/
  boundary : Bool
  /-- the package outputs float. -/
  floated : Bool
  /-- data registers of the private instructions: code·512 + word. -/
  window : SMap (BitVec 64)
deriving DecidableEq, Repr

/-- The selector registers of one master class (R438). -/
structure Selectors where
  memPc : BitVec 32
  memRemap : BitVec 32
  statSlot : BitVec 32
  gfwRule : BitVec 32
  fabPort : BitVec 32
  fabPart : BitVec 32
  repair : BitVec 32
deriving DecidableEq, Repr

/-- MEM_CFG, MEM_RAS_CFG and STAT_UFW, one for the part (R153, R199). -/
structure MemRegs where
  localRows : BitVec 18
  lock : Bool
  rasCfg : BitVec 32
  rasCfgW : BitVec 32
  ufw : BitVec 64
  ufwW : BitVec 64
deriving DecidableEq, Repr

/-- The package. -/
structure State where
  /-- commands that wait, first in first out. -/
  pending : List Instr
  fuses : Fuses
  /-- cells by posn·256 + 16y + x. -/
  cells : SMap Cell
  /-- program memories: cell number·4096 + slot (R68). -/
  prog : SMap (BitVec 64)
  /-- where each slot was last loaded from: source DPA + 1 (R80). -/
  progSrc : SMap Nat
  /-- bodies to reload before a replay: cell, first slot, length (R80). -/
  progReload : List (Nat × Nat × Nat)
  /-- accumulators: (cell number·2 + bank)·4096 + 64·row + column (R37). -/
  acc : SMap (BitVec 32)
  /-- SORG signals on their way: origin cell number and semaphore (R76). -/
  sorg : List (Nat × Nat)
  posns : SMap Pos
  /-- stream contexts by posn·131072 + number (R194). -/
  streams : SMap StreamCtx
  /-- every byte the part addresses by DPA (R177). -/
  mem : Mem
  /-- bursts of HBM, by DPA / 64, that have failed and have not been written since (R184). -/
  failed : List Nat
  /-- host memory as the part reads and writes it over PCIe, by bus address. -/
  host : Mem
  memRegs : MemRegs
  hif : Hif
  pkg : Pkg
  fab : Fab
  step : StepEng
  ras : Ras
  bank : BankEng
  mgmt : Mgmt
  pwr : Pwr
  test : TestBlk
  /-- selector copies: 0 PF0, 1 to 4 firmware cores, 5 test access (R438). -/
  sel : SMap Selectors
  /-- the model's own counter that numbers free values. -/
  free : Nat
deriving DecidableEq, Repr

/-! ### Reset values (R441, R445; where the spec states none, log entry 5) -/

/-- An empty configuration (R327). -/
def CellCfg.init : CellCfg := { table := [], gang := none, ports := [], vlists := [] }

/-- A port entry at reset: disabled, input, stream context 0 (R327). -/
def PortCfg.init : PortCfg := { sctx := 0, out := false, en := false }

/-- A bank at reset: EMPTY (R78). -/
def Bank.init : Bank := { st := .empty, kn := false }

/-- A partial that has observed nothing (R138). -/
def Partial.init : Partial :=
  { elements := 0, zeros := 0, flushed := 0, saturated := 0, posInf := 0, negInf := 0, nan := 0, maxabs := 0
    hist := [], fmt := 0, mixed := false, csat := false, cell := 0 }

/-- A cell at reset (R60, R69, R78, R327). -/
def Cell.init : Cell :=
  { cfg := CellCfg.init, shadow := CellCfg.init, run := none, tiles := [], sems := []
    unitM := [], unitD := [], unitI := [], unitO := [], bank0 := Bank.init, bank1 := Bank.init
    fifoIn := [], fifoOut := [], partials := [], kPhase := .off, kLevel := 0 }

/-- No merged partial. -/
def Merged.init : Merged := { count := 0, p := Partial.init }

/-- A FREE remap entry (R185). -/
def Remap.init : Remap := { st := .free, home := 0 }

/-- A NORMAL pseudo-channel (R199). -/
def PChan.init : PChan :=
  { st := .normal, wfrom := none, dead := false, retrains := 0, odce := 0, ce := 0, ue := 0, ueHist := [] }

/-- Reset value of STAT_SLOT_CFG (R144). -/
def slotCfgInit : BitVec 32 := 0x00180C00

/-- A position at reset, before inventory (R67, R84, R89, R144, R145, R199, R222). -/
def Pos.init : Pos :=
  { st := .absent, activeEpoch := 0, shadowEpoch := none
    seqFault := { x := 0, y := 0, code := 0, pc := 0, count := 0 }
    arrayBusy := 0, bankStall := 0, kindleCnt := 0, corrected := 0
    slotCfg := [], slotCfgW := [], slotRun := [], merged := [], partialQ := [], closed := []
    ringBase := 0, ringBaseW := 0, ringCtrl := 6, ringCtrlW := 6, ringHead := 0, ringTail := 0, ringDropped := 0
    ringFullSteps := [], turnPtr := [], engReset := []
    remap := [], withdrawn := [], pchan := [], stripeCe := [], chanCe := [], chanQ := [], saveBuf := [], outSeq := 0, failedStripes := [], errata := false }

/-- A FREE stream context (R194). -/
def StreamCtx.init : StreamCtx :=
  { st := .free, owner := 0, gen := 0, src := .dpa 0, dst := .dpa 0, length := 0, runU := 0, stepU := 0, tc := 0
    port := 0, key := 0, ember := none, step := none, ae := 0, x := false, issued := 0, acked := 0, inflight := []
    copies := 0 }

/-- A FREE context (R257). -/
def Context.init : Context :=
  { st := .free, gen := 0, func := 0, port := 0, ver := 0, posns := 0, holdsStep := false, vecCpl := 0, vecEvt := 0
    dring := 0, cring := 0, ering := 0, headwb := 0, dlog2 := 0, clog2 := 0, elog2 := 0, windows := []
    syncBase := 0, syncCount := 0, sstepBase := 0, sstepCount := 0, fetch := 0, tail := 0, release := 0
    cplWrite := 0, cplHead := 0, cplPhase := false, evtWrite := 0, evtHead := 0, evtPhase := false, evtLost := 0
    fetched := [], starting := none, started := [], waiting := none, fetchStopped := false, refetchEnd := none
    ae := 0, replay := [], outstanding := 0, snapshot := none, tearDesc := none, tearT0 := none, shrunk := false }

/-- A sync object at reset (R257: CREATE sets it too). -/
def SyncObj.init : SyncObj := { value := 0, error := false }

/-- A function page at reset (R292). -/
def FuncPage.init : FuncPage := { ctxBlock := 0, statCtx := 0, result := 0, inRange := false, vfPages := 0 }

/-- Reset value of HIF_FUNC_CFG[0] (R291). -/
def funcCfg0 : BitVec 64 := 0x1000000001000000

/-- The host interface at reset (R256, R257, R291, R292). -/
def Hif.init : Hif :=
  { funcCfg := [(0, funcCfg0)], syncWait := 0x2710, ctxs := [], sync := [], syncQ := [], syncPtr := [], fetchPtr := 0
    nextKey := 1, scrubs := [], pages := [], dropped := 0, droppedCtx := 0, vfEnabled := [], vfBar2 := [], aer := [], linkUp := [], perst := []
    msix := [] }

/-- A module of an edge at reset. -/
def EdgeModule.init : EdgeModule :=
  { txNext := 0, rxNext := 0, ackFrom := 0, ackSent := 0xFF, replay := [], discarding := false, crcTimes := [], arrived := [] }

/-- An edge at reset (R222). -/
def Edge.init : Edge :=
  { st := .reset, fromRetrain := false, quarantined := false, lastTry := false, width := 0, ctag := 0
    mask := 0, passing := 0xFFFF, retrains := 0, quarantines := 0, crc := 0, replays := 0, modules := [], holding := false
    linkFailed := false, packets := [], nextPacket := 0, pieces := [], sendTurn := 0, sent := [], joinTurn := 0, joining := []
    expected := 0, received := [], idleOnly := false, sideband := [], farMask := 0, farCtag := 0, enteredAt := 0 }

/-- A firewall rule at reset (R222). -/
def GfwRule.init : GfwRule := { base := 0, limit := 0, attr := 0 }

/-- A guest's firewall at reset (R222). -/
def Gfw.init : Gfw :=
  { en := false, lock := false, viol := 0, vaddr := 0, rules := [], lastEvent := none, passed := [], answers := [] }

/-- Package interconnect at reset (R222). -/
def Pkg.init : Pkg := { edges := [], edgeCfg := 0x100, edgeCfgW := 0x100, gfw := [], effective := 0, invEnabled := 0 }

/-- A Yalxo port at reset (R252). -/
def FabPort.init : FabPort :=
  { st := .down, width := 0, lanes := 0, nbr := 0, nbrPort := 0, degrades := 0, feccw := 0, crc := 0, replays := 0
    cfg := 0x10, cfgW := 0x10, txNext := 0, rxNext := 0, ackFrom := 0, ackSent := 0xFFF, replay := [], unacked := []
    discarding := false, fecTimes := [], queue := [], resend := [], sending := [], classPtr := 0, tc0Ptr := 0, poolPtr := []
    inPtr := [], credits := [(0, 16), (1, 192), (2, 384), (3, 192), (4, 8), (5, 64), (6, 128), (7, 64)], held := []
    freed := [], pids := [], sent := [] }

/-- A partition entry at reset (R252). -/
def Part.init : Part :=
  { pid := 0, valid := false, ranked := false, rank := 0, ctx := 0, box := 0, rmap := 0, result := 0, gradeC := false
    map := [], abortKey := none, resolved := [] }

/-- The fabric at reset (R252). -/
def Fab.init : Fab :=
  { table := none, selfIdx := none, ports := [], parts := [], reductions := [], windowsUsed := 0, drop := 0
    transitFwd := 0, transitDrop := 0, lseq := [], delivered := [], sent := [], tc0 := [], bitmaps := [], linkctl := []
    ptbState := 0, ptbSet := false, ptbDelay := 0, ptbFrac := 0
    ptbParent := 0, ptbOffset := 0, ptbRate := 0, ptbMissed := 0 }

/-- No elements checked (R145). -/
def CheckPair.init : CheckPair := { checked := 0, nonfinite := 0 }

/-- The step engine at reset (R321). -/
def StepEng.init : StepEng :=
  { held := [], next := 0, number := 0, cursor := 0, cause := 0, skips := 0, aborts := 0, waitLast := 0, waitMax := 0
    dropped := 0, cfg := 0x000407D0, cfgW := 0x000407D0, csync := 0, csyncW := 0, epochWait := 0x2710
    lagChild := none, lag := 0, vmask := 0, nskip := 0, vskipTotal := 0, clearNext := false, abortNext := []
    openWaitSince := none, mirror := .unpaired, reason := 0, partner := 0, entries := [], peerEntries := [], fill := none, peerResend := []
    auditMismatch := 0, mapWait := none, audit := none, peerAudit := none, peerNumber := 0, peerCursor := 0
    peerSteps := [], round := none, votes := [], pairedCtx := none, openAttempt := none
    skipQ := [], pulled := [], pullFor := false }

/-- Resets, captures, spares and shadows at reset (R347). -/
def Ras.init : Ras :=
  { reset := 0, wdog := 0x1F4, wdogW := 0x1F4, capCount := 0, capSeq := 0, capLevel := 0, capPosn := 0, capComplete := false
    capValid := false, chipReq := false, pending := [], hubReset := [], spareCfg := 0x07D00014, spareCfgW := 0x07D00014
    spareState := .none, spareRank := 0, sparePulled := 0, spareWait := none, shadowCfg := 0x00640000
    shadowAdmitW := 0x64, shadowState := .off, shadowMatched := 0, shadowMismatch := 0, shadowEntry := 0, shadowSent := false, shadowQ := [] }

/-- Reset value of BANK_WATCH_CFG (R368). -/
def watchCfgInit : BitVec 64 := 0x00000000002103E8

/-- Reset value of BANK_WATCH_THR (R368). -/
def watchThrInit : BitVec 64 := 0x0010000004010100

/-- The bank engine at reset (R368). -/
def BankEng.init : BankEng :=
  { watchCfg := watchCfgInit, watchCfgW := watchCfgInit, thr := watchThrInit, thrW := watchThrInit, mem := 0, fec := 0
    drop := 0, retrain := 0, window := 0, early := [], arrivals := [], advised := false, advSrc := 0, advCount := 0, template := none
    run := none, lastAuto := false, lastSlot := false, lost := 0, throttle := 0, pushed := 0, bytes := 0, shard := 0
    restore := .none, restoreStep := 0, restoreRun := none, restoreCtx := none, toPeer := [] }

/-- A mailbox channel at reset, but for channel 1 (R396). -/
def Chan.init : Chan :=
  { bind := 0, full := false, collision := false, acked := false, words := 0, sender := 0, code := 0, ackWords := 0
    acker := 0, buf := [], stageA := [], stageB := [], since := 0 }

/-- The management complex at reset (R396). -/
def Mgmt.init : Mgmt :=
  { fw := .boot, fail := 0, heartbeat := 0, fwVersion := 0, fwDigest := [], presence := false, presenceLow := false
    sealClosed := false, sealOpened := false, sealLevel := false, debug := false, tamper := 0
    tableFlash := none, bindFlash := [], gfwFlash := [], gfwEnFlash := 0, remapFlash := [], withdrawnFlash := [], wfromFlash := []
    pcFlash := [], links := [], mbxLock := false, rebind := 0
    chans := [(1, { Chan.init with bind := 0x00405040 })], notified := [], long := [], ended := [], locks := [], coreResets := []
    queue := [], kept := [], fwQueue := [], seqs := [], evtBase := 0, evtCtrl := 6, evtHead := 0, evtTail := 0
    evtLost := 0, evtPhase := true, ptb := 0, ptbSample := 0 }

/-- The modes after reset: OPEN, MIRROR off, depth 2, STATS on (R417). -/
def Modes.init : Modes :=
  { draught := .opened, mirror := false, depth := 2, shadow := false, autoBank := false, stats := true }

/-- Reset value of PWR_CAP by part number (R417). -/
def capInit : PartNum → BitVec 32
  | .zsn2 => 0x070804EC
  | .zsn4 => 0x0C8008C0
  | .zsn8 => 0x17701068
  | .zsn8g => 0x17701068

/-- Reset value of PWR_THERM.WARN by grade (R417). -/
def warnInit (gradeE : Bool) : BitVec 8 := if gradeE then 0x64 else 0x5A

/-- The byte an erased flash cell holds (R416 says only that ERASE clears a sector; log entry 6). -/
def erasedByte : Byte := 0xFF

/-- Power, clocks and tray at reset (R414, R417). -/
def Pwr.init (f : Fuses) : Pwr :=
  { modes := Modes.init, staged := [], cap := capInit f.part, capW := capInit f.part, frac := 0x40
    warn := warnInit f.gradeE, warnW := warnInit f.gradeE, telem := 0, pll := 0, stage := 2, ms := 0, upAt := 0
    alertTherm := false, alertLimit := false, alertMask := 0x1F, thermAt := none, limitAt := none
    kindle := 0x09000BB8, kindleW := 0x09000BB8, thermtrip := false, arithStopped := false, pwrGood := true
    pkgReset := false, i3cAddr := 0x30, i3cDyn := none, i3cOffset := 0, straps := 0, flash := [], flashOp := 0
    flashBusy := false, flashRun := none, flashErr := false, flashAddr := 0, fbuf := [], ibis := [] }

/-- The TAP in Test-Logic-Reset (R423, R427): IDCODE selected. -/
def TestBlk.init : TestBlk :=
  { ir := 0x02, refused := false, drBits := 32, boundary := false, floated := false, window := [] }

/-- The selectors at reset (R445). -/
def Selectors.init : Selectors :=
  { memPc := 0, memRemap := 0, statSlot := 0, gfwRule := 0, fabPort := 0, fabPart := 0, repair := 0 }

/-- The registers one for the part of the memory and statistics blocks at reset (R153, R199). -/
def MemRegs.init : MemRegs :=
  { localRows := 0, lock := false, rasCfg := 0x18080040, rasCfgW := 0x18080040, ufw := 0x000003E80001863C
    ufwW := 0x000003E80001863C }

/-- Fuses of a position that are not blown. -/
def PosnFuses.init : PosnFuses := { dieStep := 0, dieLevel := 0, baseStep := 0, baseLevel := 0 }

/-- The fuses of the package that `State.reset` describes: a ZSN-8 of grade -C whose dies are all stepping B0 at level
0x12, with hub minimum level 0x10 (the figures of the example under R215; the rest is log entry 7). -/
def Fuses.example : Fuses :=
  { part := .zsn8, gradeE := false, hubStep := 0xB0, hubLevel := 0x12, hubMin := 0x10
    posn := (List.range 8).map (fun n => (n, { dieStep := 0xB0, dieLevel := 0x12, baseStep := 0xB0, baseLevel := 0x12 }))
    serial := 0, fwKey := 0, idSeed := 0, idGen := 0, factoryClosed := true, macMap := [], macMapFused := []
    wordsUsed := [], laneRepairs := [] }

/-- A package with given fuses right after PWR_GOOD, at the start of power-up stage 3 (R409, R441, R445). -/
def State.resetOf (f : Fuses) : State :=
  { pending := [], fuses := f, cells := [], prog := [], progSrc := [], progReload := [], acc := [], sorg := [], posns := []
    streams := [], mem := [], failed := []
    host := [], memRegs := MemRegs.init, hif := Hif.init, pkg := Pkg.init, fab := Fab.init, step := StepEng.init
    ras := Ras.init, bank := BankEng.init, mgmt := Mgmt.init, pwr := Pwr.init f, test := TestBlk.init, sel := []
    free := 0 }

/-- The machine right after reset. -/
def State.reset : State := State.resetOf Fuses.example

end Sys2Proof.Machine
end

