-- ==== Sys2Proof/Machine/Operands.lean ====
section
/-! DEFINITION. The operand forms: bit fields of words, little-endian bytes, scratchpad units, rows of 64 elements and
block-scaled areas (R11, R38, R70, R93 to R95, R159, R160). -/

namespace Sys2Proof.Machine

/-! ### Bits and bytes -/

/-- Bits [hi:lo] of a number. -/
def bitsOf (n hi lo : Nat) : Nat := n / 2 ^ lo % 2 ^ (hi + 1 - lo)

/-- Bits [hi:lo] of a word, as a number. -/
def fld {k : Nat} (w : BitVec k) (hi lo : Nat) : Nat := bitsOf w.toNat hi lo

/-- One bit of a word. -/
def bit {k : Nat} (w : BitVec k) (i : Nat) : Bool := w.getLsbD i

/-- A word with bits [hi:lo] replaced. -/
def setFld {k : Nat} (w : BitVec k) (hi lo v : Nat) : BitVec k :=
  BitVec.ofNat k (w.toNat - bitsOf w.toNat hi lo * 2 ^ lo + v % 2 ^ (hi + 1 - lo) * 2 ^ lo)

/-- The number a little-endian byte list holds (R11). -/
def leNat : List Byte → Nat
  | [] => 0
  | b :: t => b.toNat + 256 * leNat t

/-- The n low bytes of a number, least significant first. -/
def leBytes : Nat → Nat → List Byte
  | 0, _ => []
  | n + 1, v => BitVec.ofNat 8 v :: leBytes n (v / 256)

/-- A number at a byte offset of a byte list. -/
def leAt (bs : List Byte) (off n : Nat) : Nat := leNat ((bs.drop off).take n)

/-- Cuts a list into pieces of n, the last one short; `fuel` bounds their number. -/
def pieces {α : Type} (n : Nat) : Nat → List α → List (List α)
  | 0, _ => []
  | fuel + 1, l => if l.isEmpty then [] else l.take n :: pieces n fuel (l.drop n)

/-- Cuts a list into pieces of n. -/
def cut {α : Type} (n : Nat) (l : List α) : List (List α) := pieces n l.length l

/-! ### Scratchpad units (R38) -/

/-- The offset of the unit that holds a scratchpad offset, modulo 1 MiB. -/
def unitOff (off : Nat) : Nat := off % 2 ^ 20 / 64 * 64

/-- One 64-byte unit of a scratchpad. -/
def spUnit (mem : Mem) (base off : Nat) : List Byte := SMap.readRun 0 mem (base + unitOff off) 64

/-- A number of consecutive units, each offset modulo 2^20. -/
def spUnits (mem : Mem) (base off : Nat) : Nat → List Byte
  | 0 => []
  | n + 1 => spUnit mem base off ++ spUnits mem base (off + 64) n

/-- Writes bytes over consecutive units, each offset modulo 2^20. -/
def spWriteUnits (base : Nat) : Nat → List (List Byte) → Mem → Mem
  | _, [], mem => mem
  | off, u :: t, mem => spWriteUnits base (off + 64) t (SMap.writeRun 0 mem (base + unitOff off) u)

/-- Writes a byte list as consecutive units. -/
def spWrite (mem : Mem) (base off : Nat) (bs : List Byte) : Mem := spWriteUnits base off (cut 64 bs) mem

/-! ### Rows (R93) -/

/-- Units a row of a format occupies in the single layout. -/
def rowUnits : Fmt → Nat
  | .fp32 => 4
  | .bf16 | .fp16 => 2
  | _ => 1

/-- The 64 element codes of a row held in a byte list. -/
def rowCodes (f : Fmt) (bs : List Byte) : List Nat :=
  let n := leNat bs
  (List.range 64).map (fun e => n >>> (f.bits * e) % 2 ^ f.bits)

/-- Packs element codes, element 0 in the lowest bits. -/
def packCodes (w : Nat) : List Nat → Nat
  | [] => 0
  | c :: t => c % 2 ^ w + 2 ^ w * packCodes w t

/-- The bytes of a row. -/
def rowBytes (f : Fmt) (codes : List Nat) : List Byte := leBytes (64 * rowUnits f) (packCodes f.bits codes)

/-- The codes of row r of an area in the single layout. -/
def areaRow (mem : Mem) (base off : Nat) (f : Fmt) (r : Nat) : List Nat :=
  rowCodes f (spUnits mem base (off + 64 * rowUnits f * r) (rowUnits f))

/-- The codes of row r of an MXFP4 area in the paired layout (R94). -/
def pairedRow (mem : Mem) (base off r : Nat) : List Nat :=
  rowCodes .mxE2m1 ((spUnit mem base (off + 64 * (r / 2))).drop (32 * (r % 2)) |>.take 32)

/-- The scale codes that serve row r, whose scale units start at an offset (R95). -/
def scaleRow (mem : Mem) (base off r : Nat) : List Nat := (spUnit mem base (off + 64 * (r / 32))).map BitVec.toNat

/-- Row r of an area of n rows, decoded to FP32 (R95, R104). -/
def areaRowF32 (mem : Mem) (base off : Nat) (f : Fmt) (n r : Nat) : List (BitVec 32) :=
  let codes := areaRow mem base off f r
  if f.isMx then
    List.zipWith (fun s c => toF32 (decodeScaled f s c)) (scaleRow mem base (off + 64 * rowUnits f * n) r) codes
  else
    match f with
    | .fp32 => codes.map (BitVec.ofNat 32)
    | _ => codes.map (fun c => toF32 (f.decode c))

/-- All n rows of an area, decoded to FP32. -/
def areaF32 (mem : Mem) (base off : Nat) (f : Fmt) (n : Nat) : List (List (BitVec 32)) :=
  (List.range n).map (areaRowF32 mem base off f n)

/-- One element as the statistics unit sees it (R56, R138). -/
structure Seen where
  value : BitVec 32
  flushed : Bool
  saturated : Bool
deriving DecidableEq, Repr

/-- An area converted to a format: its bytes, element units first and scale units after them, and what the statistics
unit sees of each element. -/
structure Encoded where
  bytes : List Byte
  seen : List Seen
deriving DecidableEq, Repr

/-- One block of up to 32 rows converted to an MX format: its rows of codes with saturation flags, and its scales. -/
def encodeMxBlock (f : Fmt) (sat : Bool) (rows : List (List (BitVec 32))) : List (List (Nat × Bool)) × List Nat :=
  let cols := (List.range 64).map (fun e => convertBlock f sat (rows.map (fun r => f32 (r.getD e 0))))
  ((List.range rows.length).map (fun r => cols.map (fun c => c.2.getD r (0, false))), cols.map Prod.fst)

/-- Converts rows of FP32 values to an area of a format (R93, R95, R99 to R103); `flushed` marks the elements a drain
flushed, in element order. -/
def encodeArea (f : Fmt) (sat : Bool) (rows : List (List (BitVec 32))) (flushed : List (List Bool)) : Encoded :=
  if f.isMx then
    let blocks := (cut 32 rows).map (encodeMxBlock f sat)
    let codes := blocks.flatMap Prod.fst
    let seen := blocks.flatMap (fun b => b.1.flatMap (fun r =>
      List.zipWith (fun s c => (toF32 (decodeScaled f s c.1), c.2)) b.2 r))
    { bytes := codes.flatMap (fun r => rowBytes f (r.map Prod.fst))
        ++ blocks.flatMap (fun b => b.2.map (BitVec.ofNat 8))
      seen := List.zipWith (fun v fl => ⟨v.1, fl, v.2⟩) seen (flushed.flatten ++ List.replicate seen.length false) }
  else
    let codes := rows.map (fun r => r.map (fun w => f.convert sat (f32 w)))
    let flat := codes.flatten
    { bytes := codes.flatMap (fun r => rowBytes f (r.map Conv.code))
      seen := List.zipWith (fun c fl => ⟨toF32 (f.decode c.code), fl, c.saturated⟩) flat
        (flushed.flatten ++ List.replicate flat.length false) }

/-- A row-tag vector: the tag of each of the 64 rows, where valid (R159). -/
def tagVector (mem : Mem) (base off : Nat) : List (Option Nat) :=
  let bs := spUnits mem base off 2
  (List.range 64).map (fun p =>
    let h := leAt bs (2 * p) 2
    if bitsOf h 15 15 = 1 then some (bitsOf h 9 0) else none)

/-- A directory: tag and block offset of each of the 64 entries, where valid (R160). -/
def directory (mem : Mem) (base off : Nat) : List (Option (Nat × Nat)) :=
  let bs := spUnits mem base off 4
  (List.range 64).map (fun d =>
    let w := leAt bs (4 * d) 4
    if bitsOf w 31 31 = 1 then some (bitsOf w 25 16, 64 * bitsOf w 13 0) else none)

/-- The codes of K step k of an operand: 64 values along the rows of A or the columns of B (R42, R45, R94). -/
def stepCodes (mem : Mem) (base off : Nat) (f : Fmt) (paired : Bool) (k : Nat) : List Nat :=
  if paired then pairedRow mem base off k else areaRow mem base off f k

/-- The scale codes of K step k: 127 for an operand that is no MX type (R45, R119). -/
def stepScales (mem : Mem) (base off : Nat) (f : Fmt) (k : Nat) : List Nat :=
  if f.isMx then scaleRow mem base off k else List.replicate 64 127

end Sys2Proof.Machine
end

