-- ==== Sys2Proof/Machine/Flags.lean ====
section
/-! DEFINITION. The counts the part derives from results: what a statistics partial counts of an element, how partials
merge, the record they make, and the finite check's counts (R138 to R142, R145). -/

namespace Sys2Proof.Machine

/-- The value at which 32-bit counts stop. -/
def countMax : Nat := 0xFFFFFFFF

/-- Adds to a count that stops at 0xFFFF_FFFF (R139, R145). -/
def stopAdd (a b : Nat) : Nat := min (a + b) countMax

/-- A 32-bit counter that stops at 0xFFFF_FFFF. -/
def stopInc (c : BitVec 32) (n : Nat) : BitVec 32 := BitVec.ofNat 32 (stopAdd c.toNat n)

/-- STAT_SLOT_CFG.EN (R144). -/
def slotEn (cfg : BitVec 32) : Bool := bit cfg 0

/-- STAT_SLOT_CFG.UFW (R144). -/
def slotUfw (cfg : BitVec 32) : Bool := bit cfg 1

/-- Partials per record: CELLSM1 + 1 (R144). -/
def slotCells (cfg : BitVec 32) : Nat := fld cfg 9 2 + 1

/-- Exponents per bin (R144). -/
def slotStep (cfg : BitVec 32) : Nat := 2 ^ fld cfg 11 10

/-- HBASE as an integer (R144). -/
def slotBase (cfg : BitVec 32) : Int :=
  let b := fld cfg 20 12
  if b < 256 then (b : Int) else (b : Int) - 512

/-- The histogram bin of an exponent (R138). -/
def histBin (cfg : BitVec 32) (e : Int) : Nat :=
  (min 31 (max 0 ((e - slotBase cfg) / (slotStep cfg : Int)))).toNat

/-- Whether adding to a count would pass the value at which it stops; a sum that lands on that value exactly has not been
stopped (DESIGN CHOICE, log entry 109). -/
def stops (a b : Nat) : Bool := decide (countMax < a + b)

/-- One element observed by a cell for a slot (R138). -/
def observe (cfg : BitVec 32) (fmt : Fmt) (cell : Nat) (p : Partial) (s : Seen) : Partial :=
  let one := fun (b : Bool) => if b then 1 else 0
  let v := f32 s.value
  let isZero := match v with
    | .fin _ m _ => decide (m = 0)
    | _ => false
  let p1 : Partial :=
    { p with
      elements := stopAdd p.elements 1
      zeros := stopAdd p.zeros (one isZero)
      flushed := stopAdd p.flushed (one s.flushed)
      saturated := stopAdd p.saturated (one s.saturated)
      posInf := stopAdd p.posInf (one (decide (v = .inf false)))
      negInf := stopAdd p.negInf (one (decide (v = .inf true)))
      nan := stopAdd p.nan (one (decide (v = .nan)))
      maxabs := if v.nonFinite then p.maxabs else fmax p.maxabs (fabs s.value)
      fmt := fmt.code
      mixed := p.mixed || (decide (0 < p.elements) && p.fmt != fmt.code)
      csat := p.csat || stops p.elements 1
      cell := cell }
  if v.isNonzero then { p1 with hist := SMap.upd 0 p1.hist (histBin cfg v.exponent) (fun c => stopAdd c 1) } else p1

/-- The elements of one instruction observed by a cell, if the slot's EN bit is set (R137). -/
def observeAll (cfg : BitVec 32) (fmt : Fmt) (cell : Nat) (p : Partial) (seen : List Seen) : Partial :=
  if slotEn cfg then seen.foldl (observe cfg fmt cell) p else p

/-- Merges two partials: integer sums and MAX only (R139); the format is that of the highest-numbered cell that observed
any element (R141; for two partials of one cell, the one that comes later, log entry 24). -/
def mergePartials (a b : Partial) : Partial :=
  let takeB := decide (0 < b.elements) && (decide (a.elements = 0) || decide (a.cell ≤ b.cell))
  { elements := stopAdd a.elements b.elements
    zeros := stopAdd a.zeros b.zeros
    flushed := stopAdd a.flushed b.flushed
    saturated := stopAdd a.saturated b.saturated
    posInf := stopAdd a.posInf b.posInf
    negInf := stopAdd a.negInf b.negInf
    nan := stopAdd a.nan b.nan
    maxabs := fmax a.maxabs b.maxabs
    hist := b.hist.foldl (fun h kv => SMap.upd 0 h kv.1 (fun c => stopAdd c kv.2)) a.hist
    fmt := if takeB then b.fmt else a.fmt
    mixed := a.mixed || b.mixed || (decide (0 < a.elements) && decide (0 < b.elements) && a.fmt != b.fmt)
    csat := a.csat || b.csat || stops a.elements b.elements
    cell := if takeB then b.cell else a.cell }

/-- HSHIFT: the smallest shift up to 12 that brings every bin to 20 bits (R142). -/
def histShift (hist : SMap Nat) : Nat :=
  ((List.range 13).find? (fun k => hist.all (fun kv => decide (kv.2 / 2 ^ k ≤ 0xFFFFF)))).getD 12

/-- The histogram field: bin b in bits [20b+19:20b] (R141). -/
def histField (hist : SMap Nat) : Nat :=
  packCodes 20 ((List.range 32).map (fun b => SMap.get 0 hist b / 2 ^ histShift hist))

/-- What a record carries beside its partial (R141). -/
structure RecordTag where
  step : BitVec 64
  attempt : BitVec 4
  slot : Nat
  variant : Option Nat
  posn : Posn
  auto : Bool
  cfg : BitVec 32
  ptb : BitVec 64
deriving DecidableEq, Repr

/-- The 128 bytes of a statistics record (R141, R142); FMT is 0 when no element was observed (DESIGN CHOICE, log entry 110). -/
def recordBytes (t : RecordTag) (p : Partial) : List Byte :=
  let one := fun (b : Bool) => if b then 1 else 0
  let word1 := t.slot % 4096 + 2 ^ 12 * (t.variant.getD 0) + 2 ^ 22 * one t.variant.isSome + 2 ^ 23 * t.posn.val
    + 2 ^ 26 * t.attempt.toNat + 2 ^ 30 * one p.csat + 2 ^ 31 * one t.auto
  let word10 := histShift p.hist + 2 ^ 8 * p.fmt.toNat + 2 ^ 12 * one p.mixed + 2 ^ 13 * fld t.cfg 11 10
    + 2 ^ 16 * fld t.cfg 20 12
  leBytes 4 t.step.toNat ++ leBytes 4 word1 ++ leBytes 4 p.elements ++ leBytes 4 p.zeros ++ leBytes 4 p.flushed
    ++ leBytes 4 p.saturated ++ leBytes 4 p.posInf ++ leBytes 4 p.negInf ++ leBytes 4 p.nan
    ++ leBytes 4 p.maxabs.toNat ++ leBytes 4 word10 ++ leBytes 4 (t.ptb.toNat / 1024) ++ leBytes 80 (histField p.hist)

/-- NaN and infinite elements among those read (R145). -/
def nonFiniteCount (rows : List (List (BitVec 32))) : Nat :=
  (rows.map (fun r => (r.filter (fun w => (f32 w).nonFinite)).length)).sum

/-- Adds elements read to a step's pair (R145). -/
def addCheck (c : CheckPair) (elements nonfinite : Nat) : CheckPair :=
  { checked := stopInc c.checked elements, nonfinite := stopInc c.nonfinite nonfinite }

end Sys2Proof.Machine
end

