-- ==== Sys2Proof/Machine/Ops.lean ====
section
/-! DEFINITION. The named operations over the state that every family uses: indexed tables, the address map, time, events,
and what the install table and a partition entry say. -/

namespace Sys2Proof.Machine

/-- The outcomes of a command. -/
abbrev Out := Host.Outcome State Fault Refusal

/-- The package time base counts on by one nanosecond of its clock, steered by RATE in units of 0.01 ppm: what RATE gains or loses is
kept until it makes a nanosecond, and PTB never runs backward (R246, R247). -/
def idleTick (s : State) : State :=
  let f := s.fab.ptbFrac + s.fab.ptbRate.toInt
  let up : BitVec 64 := if 100000000 ≤ f then 2 else if f ≤ -100000000 then 0 else 1
  let f := if 100000000 ≤ f then f - 100000000 else if f ≤ -100000000 then f + 100000000 else f
  { s with mgmt := { s.mgmt with ptb := s.mgmt.ptb + up }, fab := { s.fab with ptbFrac := f } }

/-- Brings the time base up to a moment that has come (log entry 2). -/
def advanceTo (t : BitVec 64) (s : State) : State :=
  if s.mgmt.ptb < t then { s with mgmt := { s.mgmt with ptb := t } } else s

/-- A number of microseconds as nanoseconds of the time base. -/
def usec (n : Nat) : BitVec 64 := BitVec.ofNat 64 (n * 1000)

/-- A number of milliseconds as nanoseconds of the time base. -/
def msec (n : Nat) : BitVec 64 := BitVec.ofNat 64 (n * 1000000)

/-- A fresh free value (log entry 4). -/
def freeVal (s : State) : BitVec 64 × State := (Config.freeWord s.free, { s with free := s.free + 1 })

/-! ### Tables -/

/-- The number of a cell: posn·256 + 16y + x. -/
def cellNum (c : CellId) : Nat := c.posn.val * 256 + c.y.val * 16 + c.x.val

/-- The number of cell (x,y) of a position. -/
def cellAt (posn x y : Nat) : Nat := posn * 256 + y * 16 + x

/-- The position of a cell number. -/
def cellPosn (n : Nat) : Nat := n / 256

/-- The x coordinate of a cell number. -/
def cellX (n : Nat) : Nat := n % 16

/-- The y coordinate of a cell number. -/
def cellY (n : Nat) : Nat := n / 16 % 16

/-- A cell. -/
def getCell (s : State) (n : Nat) : Cell := SMap.get Cell.init s.cells n

/-- Changes a cell. -/
def modCell (n : Nat) (f : Cell → Cell) (s : State) : State := { s with cells := SMap.upd Cell.init s.cells n f }

/-- A position. -/
def getPos (s : State) (n : Nat) : Pos := SMap.get Pos.init s.posns n

/-- Changes a position. -/
def modPos (n : Nat) (f : Pos → Pos) (s : State) : State := { s with posns := SMap.upd Pos.init s.posns n f }

/-- A context. -/
def getCtx (s : State) (c : Ctx) : Context := SMap.get Context.init s.hif.ctxs c.toNat

/-- Changes the host interface. -/
def modHif (f : Hif → Hif) (s : State) : State := { s with hif := f s.hif }

/-- Changes a context. -/
def modCtx (c : Ctx) (f : Context → Context) (s : State) : State :=
  { s with hif := { s.hif with ctxs := SMap.upd Context.init s.hif.ctxs c.toNat f } }

/-- A stream context, by posn·131072 + number. -/
def getStream (s : State) (k : Nat) : StreamCtx := SMap.get StreamCtx.init s.streams k

/-- Changes a stream context. -/
def modStream (k : Nat) (f : StreamCtx → StreamCtx) (s : State) : State :=
  { s with streams := SMap.upd StreamCtx.init s.streams k f }

/-- A sync object. -/
def getSync (s : State) (o : Nat) : SyncObj := SMap.get SyncObj.init s.hif.sync o

/-- Changes the step engine. -/
def modStep (f : StepEng → StepEng) (s : State) : State := { s with step := f s.step }

/-- Changes the fabric. -/
def modFab (f : Fab → Fab) (s : State) : State := { s with fab := f s.fab }

/-- A Yalxo port. -/
def getPort (s : State) (p : Nat) : FabPort := SMap.get FabPort.init s.fab.ports p

/-- Changes a Yalxo port. -/
def modPort (p : Nat) (f : FabPort → FabPort) (s : State) : State :=
  { s with fab := { s.fab with ports := SMap.upd FabPort.init s.fab.ports p f } }

/-- A partition entry. -/
def getPart (s : State) (i : Nat) : Part := SMap.get Part.init s.fab.parts i

/-- Changes a partition entry. -/
def modPart (i : Nat) (f : Part → Part) (s : State) : State :=
  { s with fab := { s.fab with parts := SMap.upd Part.init s.fab.parts i f } }

/-- Changes the management complex. -/
def modMgmt (f : Mgmt → Mgmt) (s : State) : State := { s with mgmt := f s.mgmt }

/-- An occurrence for the error-rate watch, created now: it is on its way to the watch (R348, R349). -/
def occur (src : WatchSource) (s : State) : State :=
  { s with bank := { s.bank with arrivals := s.bank.arrivals ++ [(src, s.mgmt.ptb)] } }

/-- A counter that stops at all ones goes up. -/
def satUp {w : Nat} (c : BitVec w) (n : Nat) : BitVec w := BitVec.ofNat w (min (c.toNat + n) (2 ^ w - 1))

/-- The positions of a bit mask. -/
def maskPosns (m : BitVec 8) : List Nat := (List.range 8).filter (fun n => m.getLsbD n)

/-- The cells of a 256-bit mask of a position, as cell numbers. -/
def maskCells (posn : Nat) (m : BitVec 256) : List Nat :=
  ((List.range 256).filter (fun n => m.getLsbD n)).map (fun n => posn * 256 + n)

/-! ### Check sums (R175, R204, R345; log entry 33) -/

/-- One bit of CRC-64/ECMA. -/
def crc64Bit (c : BitVec 64) : BitVec 64 := if c.getLsbD 63 then (c <<< 1) ^^^ 0x42F0E1EBA9EA3693 else c <<< 1

/-- One byte of CRC-64/ECMA. -/
def crc64Byte (c : BitVec 64) (b : Byte) : BitVec 64 :=
  (List.range 8).foldl (fun c _ => crc64Bit c) (c ^^^ ((b.setWidth 64) <<< 56))

/-- CRC-64/ECMA of a list of bytes. -/
def crc64 (bs : List Byte) : BitVec 64 := bs.foldl crc64Byte 0

/-- One bit of the reflected CRC-32 of IEEE 802.3. -/
def crc32Bit (c : BitVec 32) : BitVec 32 := if c.getLsbD 0 then (c >>> 1) ^^^ 0xEDB88320 else c >>> 1

/-- One byte of CRC-32. -/
def crc32Byte (c : BitVec 32) (b : Byte) : BitVec 32 :=
  crc32Bit (crc32Bit (crc32Bit (crc32Bit (crc32Bit (crc32Bit (crc32Bit (crc32Bit (c ^^^ b.setWidth 32))))))))

/-- CRC-32 with the IEEE 802.3 polynomial of a list of bytes (R204, R226). -/
def crc32 (bs : List Byte) : BitVec 32 := ~~~(bs.foldl crc32Byte 0xFFFFFFFF)

/-- Applies a state change for each member of a list, in order. -/
def forAll {α : Type} (l : List α) (f : α → State → State) (s : State) : State := l.foldl (fun t a => f a t) s

/-- RAS_SHADOW_CFG.ROLE (R347). -/
def shadowRole (s : State) : Nat := fld s.ras.shadowCfg 15 14

/-- Whether this package follows a leader: nothing that it sends leaves the package (R345). -/
def follower (s : State) : Bool := decide (s.ras.shadowState = .loading) || decide (s.ras.shadowState = .following)

/-- The follower's coordinate index, while SHADOW is on at its leader (R344, R347). -/
def shadowPeer (s : State) : Option Nat :=
  if s.pwr.modes.shadow && decide (shadowRole s = 1) then some (fld s.ras.shadowCfg 13 0) else none

/-- Whether the check sums of output tensors are kept: while a shadow role is set (R345). -/
def tracksOutputs (s : State) : Bool := decide (shadowRole s = 1) || follower s

/-! ### The round-robin rule (R23) -/

/-- The first requesting index at or after the pointer, counting upward modulo the number of requesters. -/
def roundRobin (ptr n : Nat) (req : Nat → Bool) : Option Nat :=
  ((List.range n).map (fun i => (ptr + i) % n)).find? req

/-! ### The address map (R177, R180) -/

/-- The base DPA of a cell's scratchpad window. -/
def spBase (n : Nat) : Nat := 0x030000000000 + n * 0x100000

/-- The base DPA of a position's staging SRAM. -/
def stageBase (n : Nat) : Nat := 0x020000000000 + n * 0x10000000

/-- The base DPA of a position's local HBM region. -/
def localBase (n : Nat) : Nat := n * 0x001000000000

/-- The base DPA of the wide HBM region. -/
def wideBase : Nat := 0x010000000000

/-- L: local stripes per position. LOCAL_ROWS takes effect when LOCK is set, and until then its reset value 0 is in effect;
above 193,536 it acts as 193,536 (R177, R178, R199). -/
def localStripes (s : State) : Nat := if s.memRegs.lock then min s.memRegs.localRows.toNat 193536 * 64 else 0

/-- The positions that read ENABLED after die inventory, in increasing order (R177). -/
def compPosns (s : State) : List Nat := maskPosns s.pkg.invEnabled

/-- The number of positions a part number fits with compute dies (R2). -/
def fitsCompute (p : PartNum) (n : Nat) : Bool :=
  match p with
  | .zsn2 => decide (n < 2)
  | .zsn4 => decide (n < 4)
  | .zsn8 => decide (n < 8)
  | .zsn8g => decide (n < 6)

/-- Whether a position is a guest position of the part number. -/
def fitsGuest (p : PartNum) (n : Nat) : Bool :=
  match p with
  | .zsn8g => decide (6 ≤ n) && decide (n < 8)
  | _ => false

/-- What a DPA names (R177). -/
inductive Place where
  | local_ (posn off : Nat)
  | wide (off : Nat)
  | stage (posn off : Nat)
  | cell (n off : Nat)
  | unmapped
deriving DecidableEq, Repr

/-- Resolves a DPA to its range. -/
def place (s : State) (a : Nat) : Place :=
  if a < 0x008000000000 then
    let n := a / 0x001000000000
    let off := a % 0x001000000000
    if (fitsCompute s.fuses.part n || fitsGuest s.fuses.part n) && decide (off < 4096 * localStripes s) then
      .local_ n off
    else .unmapped
  else if wideBase ≤ a ∧ a < 0x020000000000 then
    let off := a - wideBase
    if off < 4096 * (compPosns s).length * (12386304 - localStripes s) then .wide off else .unmapped
  else if 0x020000000000 ≤ a ∧ a < 0x020080000000 then
    let n := (a - 0x020000000000) / 0x10000000
    let off := (a - 0x020000000000) % 0x10000000
    if (fitsCompute s.fuses.part n || fitsGuest s.fuses.part n) && decide (off < 0x8000000) then .stage n off else .unmapped
  else if 0x030000000000 ≤ a ∧ a < 0x030080000000 then
    let n := (a - 0x030000000000) / 0x100000
    if fitsCompute s.fuses.part (n / 256) then .cell n ((a - 0x030000000000) % 0x100000) else .unmapped
  else .unmapped

/-- Whether a DPA names HBM: it lies in a local region or in the wide region of R177, mapped or not. -/
def isHbm (a : Nat) : Bool := decide (a < 0x008000000000) || (decide (wideBase ≤ a) && decide (a < 0x020000000000))

/-- The bytes at a DPA. -/
def memRead (s : State) (a n : Nat) : List Byte := SMap.readRun 0 s.mem a n

/-- Writes bytes at a DPA. A burst of HBM that is written has fresh check symbols and reads without error (R184). -/
def memWrite (a : Nat) (bs : List Byte) (s : State) : State :=
  { s with
    mem := SMap.writeRun 0 s.mem a bs
    failed := s.failed.filter (fun b => !(decide (a < 64 * b + 64) && decide (64 * b < a + bs.length))) }

/-- The bytes at a host bus address. -/
def hostRead (s : State) (a n : Nat) : List Byte := SMap.readRun 0 s.host a n

/-- Writes bytes at a host bus address. -/
def hostWrite (a : Nat) (bs : List Byte) (s : State) : State := { s with host := SMap.writeRun 0 s.host a bs }

/-- The areas a context reaches: windows, and the staging SRAM and scratchpads of its positions (R260). -/
def reachAreas (c : Context) : List (Nat × Nat) :=
  c.windows.map (fun w => (w.base, w.limit))
    ++ (maskPosns c.posns).flatMap (fun n =>
      [(stageBase n, stageBase n + 0x8000000), (spBase (n * 256), spBase (n * 256) + 0x10000000)])

/-- How far some areas go on from an address: one pass over them. -/
def reachOnce (areas : List (Nat × Nat)) (a : Nat) : Nat :=
  areas.foldl (fun p w => if w.1 ≤ p ∧ p < w.2 then w.2 else p) a

/-- Whether a context reaches every byte of an area (R260): the areas that it reaches may join. -/
def reaches (c : Context) (a len : Nat) : Bool :=
  let areas := reachAreas c
  decide (a + len ≤ (areas.foldl (fun p _ => reachOnce areas p) a))

/-! ### Events (R391 to R394) -/

/-- The source number of a hub unit. -/
def hubUnit (u : Nat) : BitVec 12 := BitVec.ofNat 12 u

/-- The source number of a unit of a position. -/
def posUnit (n u : Nat) : BitVec 12 := BitVec.ofNat 12 (256 * (n + 1) + u)

/-- What an event names (R391, R462). -/
structure EvArgs where
  ctx : Option Ctx := none
  pid : Option (BitVec 12) := none
  posn : Option Nat := none
  arg0 : Nat := 0
  arg1 : Nat := 0
deriving DecidableEq, Repr

/-- The stamp a source gives an event: its last PTB sample plus the cycles of its own clock since then, in nanoseconds. The model
has no cycles of that clock, so within the ±40 ns of R392 the stamp is free: it depends on the source, on that sample and on the
hub's PTB (log entry 116). -/
def stampOf (s : State) (src : BitVec 12) : BitVec 64 :=
  BitVec.ofNat 64 (s.mgmt.ptb.toNat + Config.stampError src s.mgmt.ptbSample s.mgmt.ptb % 81 - 40)

/-- Raises an event: the source stamps it and numbers it, and it waits to be written to its rings; firmware receives it
through its own queue (R391 to R393). -/
def raise (code : EventCode) (src : BitVec 12) (a : EvArgs) (s : State) : State :=
  let seq := SMap.get 0 s.mgmt.seqs src.toNat
  let e : Event :=
    { code := code, src := src, seq := seq, stamp := stampOf s src, ctx := a.ctx, pid := a.pid
      posn := a.posn.map (BitVec.ofNat 3), arg0 := BitVec.ofNat 32 a.arg0, arg1 := BitVec.ofNat 64 a.arg1 }
  { s with mgmt := { s.mgmt with
      seqs := SMap.set 0 s.mgmt.seqs src.toNat (seq + 1)
      queue := s.mgmt.queue ++ [e]
      fwQueue := s.mgmt.fwQueue ++ [e] } }

/-- The context that holds a position. -/
def holderOf (s : State) (n : Nat) : Option Ctx :=
  (s.hif.ctxs.find? (fun kv => decide (kv.2.st ≠ .free) && kv.2.posns.getLsbD n)).map (fun kv => BitVec.ofNat 12 kv.1)

/-- The context that holds the step engine. -/
def stepHolder (s : State) : Option Ctx :=
  (s.hif.ctxs.find? (fun kv => decide (kv.2.st ≠ .free) && kv.2.holdsStep)).map (fun kv => BitVec.ofNat 12 kv.1)

/-! ### The install table (R240) -/

/-- The bytes of the table in force. -/
def tableBytes (s : State) : List Byte := s.fab.table.getD []

/-- Axis lengths. -/
def dims (t : List Byte) : Nat × Nat × Nat :=
  let w := leAt t 4 4
  (bitsOf w 5 0, bitsOf w 13 8, bitsOf w 21 16)

/-- The coordinate of an index. -/
def coordOf (t : List Byte) (i : Nat) : Nat × Nat × Nat :=
  let d := dims t
  (i % d.1, i / d.1 % d.2.1, i / (d.1 * d.2.1))

/-- The index of a coordinate. -/
def indexOf (t : List Byte) (x y z : Nat) : Nat :=
  let d := dims t
  x + d.1 * (y + d.2.1 * z)

/-- A field of the entry of a coordinate index: byte offset, bytes, high bit, low bit. -/
def entryField (t : List Byte) (i off n hi lo : Nat) : Nat := bitsOf (leAt t (64 + 128 * i + off) n) hi lo

/-- The mirror partner of an index. -/
def partnerOf (t : List Byte) (i : Nat) : Option Nat :=
  if entryField t i 0x10 4 15 15 = 1 then some (entryField t i 0x10 4 13 0) else none

/-- The designated spare of an index. -/
def spareOf (t : List Byte) (i : Nat) : Option Nat :=
  if entryField t i 0x10 4 31 31 = 1 then some (entryField t i 0x10 4 29 16) else none

/-- One transit pair of the table (R240). -/
structure Transit where
  pkg : Nat
  inPort : Nat
  outPort : Nat
  /-- sixteenths of the grants of TC1 to TC3 on OUT_PORT. -/
  share : Nat
deriving DecidableEq, Repr

/-- The transit entries of the table. -/
def transits (t : List Byte) : List Transit :=
  let d := dims t
  let base := 64 + 128 * (d.1 * d.2.1 * d.2.2)
  (List.range (leAt t 0x0C 2)).map (fun j =>
    let w := leAt t (base + 16 * j) 4
    { pkg := bitsOf w 13 0, inPort := bitsOf w 18 14, outPort := bitsOf w 23 19, share := bitsOf w 27 24 })

/-! ### Partition entries (R242) -/

/-- The index of the VALID entry bound to a context. -/
def boundEntry (s : State) (c : Ctx) : Option Nat :=
  (s.fab.parts.find? (fun kv => kv.2.valid && kv.2.ctx == c)).map Prod.fst

/-- The index of the VALID entry of a partition ID. -/
def entryOfPid (s : State) (pid : BitVec 12) : Option Nat :=
  (s.fab.parts.find? (fun kv => kv.2.valid && kv.2.pid == pid)).map Prod.fst

/-- Box origin, length and WRAP on an axis 0 to 2 (FAB_PART_BOX). -/
def boxAxis (box : BitVec 64) (axis : Nat) : Nat × Nat × Bool :=
  let lo := 12 * axis
  (fld box (lo + 4) lo, fld box (lo + 11) (lo + 6), bit box (lo + 5))

/-- Whether a coordinate along an axis of a given ring length lies in a box's range. -/
def inAxis (box : BitVec 64) (axis ring c : Nat) : Bool :=
  let b := boxAxis box axis
  decide (ring ≠ 0) && decide ((c + ring - b.1) % ring < b.2.1)

/-- Whether a coordinate index lies in a box. -/
def inBox (t : List Byte) (box : BitVec 64) (i : Nat) : Bool :=
  let d := dims t
  let c := coordOf t i
  inAxis box 0 d.1 c.1 && inAxis box 1 d.2.1 c.2.1 && inAxis box 2 d.2.2 c.2.2

/-- The direction group of a port: 0 XP, 1 XN, 2 YP, 3 YN, 4 ZP, 5 ZN. -/
def portGroup (p : Nat) : Nat := p / 4

/-- The axis of a port. -/
def portAxis (p : Nat) : Nat := p / 8

/-- Whether a port is UP. -/
def portUp (s : State) (p : Nat) : Bool := decide ((getPort s p).st = .up)

/-- Whether the next package along a port's axis, outside the box, is crossed by transit pairs of the table in both directions: a
transit reservation that the box's WRAP uses (R239, R242). -/
def crossesTransit (t : List Byte) (box : BitVec 64) (p nbr : Nat) : Bool :=
  let ax := portAxis p
  (boxAxis box ax).2.2 && !(inBox t box nbr) &&
    (let has := fun (inG outG : Nat) => (transits t).any (fun r =>
      decide (r.pkg = nbr) && decide (portGroup r.inPort = inG) && decide (portGroup r.outPort = outG))
    has (2 * ax) (2 * ax + 1) && has (2 * ax + 1) (2 * ax))

/-- The ports a flood of a partition leaves on: every UP port whose neighbour lies in the box or across a transit
reservation that the box's WRAP uses, but the arrival port (R239, R306). -/
def floodPorts (s : State) (e : Part) (arrival : Option Nat) : List Nat :=
  let t := tableBytes s
  (List.range 24).filter (fun p =>
    portUp s p && decide (arrival ≠ some p) &&
      (inBox t e.box (getPort s p).nbr.toNat || crossesTransit t e.box p (getPort s p).nbr.toNat))

/-- The number of ranks: one past the highest valid rank of the map. -/
def rankCount (e : Part) : Nat :=
  e.map.foldl (fun n kv => if kv.2.getLsbD 15 then max n (kv.1 + 1) else n) 0

/-- Whether a rank map is valid for exactly the ranks 0 to NR − 1 (R298). -/
def ranksDense (e : Part) : Bool :=
  (List.range (rankCount e)).all (fun r => (SMap.get 0 e.map r).getLsbD 15)

/-! ### Spares (R338, R347) -/

/-- Whether an entry of a spare meets the first two conditions of R338: VALID without a rank, and bound to a context that holds
the step engine and no step, in a package that is UNPAIRED. -/
def spareEntryReady (s : State) (e : Part) : Bool :=
  e.valid && !e.ranked && (getCtx s e.ctx).holdsStep && s.step.held.isEmpty && decide (s.step.mirror = .unpaired)

/-- RAS_SPARE_STATUS.STATE: a package that the install table reserves as a spare reads READY while an entry of its is ready. -/
def spareStateNow (s : State) : SpareState :=
  match s.ras.spareState, s.fab.selfIdx with
  | .none, some i =>
    if decide (entryField (tableBytes s) i 0x14 4 0 0 = 1) && s.fab.parts.any (fun kv => spareEntryReady s kv.2) then .ready
    else .none
  | st, _ => st

end Sys2Proof.Machine
end

