-- ==== Sys2Proof/Machine/CellOps.lean ====
section
/-! DEFINITION. Gangs, accumulator banks and the ways a cell is stopped or put to rest (R47, R78, R85, R315, R461). -/

namespace Sys2Proof.Machine

/-- Rows and columns of a gang shape (R47). -/
def shapeDims : Shape → Nat × Nat
  | .s1x1 => (1, 1)
  | .s1x2 => (1, 2)
  | .s2x2 => (2, 2)
  | .s2x4 => (2, 4)
  | .s4x4 => (4, 4)

/-- The gang setting of a cell; a cell outside every gang is a 1×1 gang (R47). -/
def gangOf (s : State) (n : Nat) : Gang :=
  (getCell s n).cfg.gang.getD { shape := .s1x1, x0 := BitVec.ofNat 4 (cellX n), y0 := BitVec.ofNat 4 (cellY n) }

/-- The cell at gang row i and gang column j of the gang that a cell belongs to. -/
def gangCell (s : State) (n i j : Nat) : Nat :=
  let g := gangOf s n
  cellAt (cellPosn n) ((g.x0.toNat + j) % 16) ((g.y0.toNat + i) % 16)

/-- The origin of a cell's gang. -/
def gangOrigin (s : State) (n : Nat) : Nat := gangCell s n 0 0

/-- Gang row of a cell. -/
def gangRow (s : State) (n : Nat) : Nat := (cellY n + 16 - (gangOf s n).y0.toNat) % 16

/-- Every cell of a gang, row by row. -/
def gangCells (s : State) (n : Nat) : List Nat :=
  let d := shapeDims (gangOf s n).shape
  (List.range d.1).flatMap (fun i => (List.range d.2).map (fun j => gangCell s n i j))

/-- A bank of a cell. -/
def bankOf (c : Cell) (b : Bool) : Bank := if b then c.bank1 else c.bank0

/-- Sets a bank of a cell. -/
def setBank (b : Bool) (k : Bank) (c : Cell) : Cell := if b then { c with bank1 := k } else { c with bank0 := k }

/-- Index of the first register of an accumulator bank. -/
def accBase (n : Nat) (b : Bool) : Nat := (n * 2 + (if b then 1 else 0)) * 4096

/-- One row of an accumulator bank. -/
def accRow (s : State) (n : Nat) (b : Bool) (r : Nat) : List (BitVec 32) := SMap.readRun 0 s.acc (accBase n b + 64 * r) 64

/-- Changes every listed cell whose number satisfies a test; a cell that is not listed is at its reset value. -/
def mapCells (p : Nat → Bool) (f : Cell → Cell) (s : State) : State :=
  forAll ((s.cells.map Prod.fst).filter p) (fun n => modCell n f) s

/-- Whether a cell number lies on one of the positions of a mask. -/
def onPosns (m : BitVec 8) (n : Nat) : Bool := m.getLsbD (cellPosn n)

/-- S0 to S7 to 0, banks to EMPTY, the array cold (R60, R69, R78, R85). What the last pass was that targeted a bank stays. -/
def restCell (c : Cell) : Cell :=
  { c with
    sems := [], bank0 := { c.bank0 with st := .empty }, bank1 := { c.bank1 with st := .empty }, kPhase := .off, kLevel := 0 }

/-- A cell on receipt of FENCE (R85). -/
def fenceCell (c : Cell) : Cell := restCell c

/-- A cell on receipt of APPLY: shadow to active, and the resets of a fence (R85). -/
def applyCell (c : Cell) : Cell := { restCell c with cfg := c.shadow }

/-- Adds 1 to a semaphore, which stays at 255 when it is there already (R76). -/
def bumpSem (c : Cell) (k : Nat) : Cell :=
  { c with sems := SMap.upd 0 c.sems k (fun v => if v = 255 then 255 else v + 1) }

/-- What a bank becomes when the work on it that had started runs to its end (R461, R78): a pass leaves it FULL, a gang
row's partial and a drain leave it EMPTY. -/
def settleBank (draining : Bool) (b : Bank) : Bank :=
  match b.st with
  | .busy => if b.kn then { b with st := .empty } else { b with st := .full }
  | .full => if draining then { b with st := .empty } else b
  | .empty => b

/-- Whether a started DRAIN of a unit queue drains a given bank. -/
def drains (q : List UnitOp) (bank1 : Bool) : Bool :=
  q.any (fun o => o.started && decide (fld o.word 63 58 = 0x18) && (bit o.word 36 == bank1))

/-- Stops issue in a cell without a fault and ends its work (R461). -/
def stopCell (c : Cell) : Cell :=
  { c with
    bank0 := settleBank (drains c.unitD false) c.bank0
    bank1 := settleBank (drains c.unitD true) c.bank1
    run := none, tiles := [], unitM := [], unitD := [], unitI := [], unitO := [] }

/-- Units that wait in a cell's port FIFOs. -/
def fifoUnits (c : Cell) : Nat :=
  (c.fifoIn.map (fun kv => kv.2.length)).sum + (c.fifoOut.map (fun kv => kv.2.length)).sum

/-- A stopped cell at stage 4 of an ABORT: banks EMPTY, semaphores 0, array cold, waiting units gone (R315). -/
def abortCell (c : Cell) : Cell := { restCell c with fifoIn := [], fifoOut := [] }

/-! ### Kindling that is counted (R62) -/

/-- Adds a length of kindling at an activity level to PWR_KINDLE_CNT, for every cell of the gang (R62; log entry 13). -/
def countKindle (n cycles level : Nat) (s : State) : State :=
  let add := cycles * level / 8 * (gangCells s n).length
  modPos (cellPosn n) (fun p => { p with kindleCnt := p.kindleCnt + BitVec.ofNat 64 add }) s

/-- Counts kindling at a level that ends before its time: a free number of cycles up to a limit (log entry 105). -/
def countPart (n limit level : Nat) (s : State) : State :=
  let r := freeVal s
  countKindle n (r.1.toNat % (limit + 1)) level r.2

/-- Counts what a cell's array has kindled of the gap, or of the ramp level, that comes to its end here (R59, R60, R62). -/
def countCooling (n : Nat) (s : State) : State :=
  let c := getCell s n
  match c.kPhase with
  | .off => s
  | .kindling => countPart n (fld s.pwr.kindle 19 0) 8 s
  | .rampDown => countPart n (fld s.pwr.kindle 27 20) c.kLevel s
  | .rampUp => countPart n (fld s.pwr.kindle 27 20) (c.kLevel + 1) s

/-- The listed cells that satisfy a test. -/
def listedCells (s : State) (p : Nat → Bool) : List Nat := (s.cells.map Prod.fst).filter p

/-- Puts every listed cell that satisfies a test to rest by a change that makes its array cold; what it had kindled counts. -/
def restCells (p : Nat → Bool) (f : Cell → Cell) (s : State) : State :=
  mapCells p f (forAll (listedCells s p) countCooling s)

end Sys2Proof.Machine
end

