-- ==== Sys2Proof/Machine/Complete.lean ====
section
/-! DEFINITION. Descriptors as the part holds them, completion records, sync updates, and the ring indices of a context
(R262 to R275, R287). -/

namespace Sys2Proof.Machine

/-! ### Status codes (R273, R320) -/

/-- OK. -/
def stOk : Nat := 0x00
/-- BAD_DESCRIPTOR. -/
def stBadDescriptor : Nat := 0x01
/-- BAD_TARGET. -/
def stBadTarget : Nat := 0x02
/-- SYNC_ERROR. -/
def stSyncError : Nat := 0x03
/-- SYNC_TIMEOUT. -/
def stSyncTimeout : Nat := 0x04
/-- ABORTED. -/
def stAborted : Nat := 0x05
/-- MODE_UNSUPPORTED. -/
def stModeUnsupported : Nat := 0x06
/-- MEM_UNLOCKED. -/
def stMemUnlocked : Nat := 0x07
/-- TILE_FAULT. -/
def stTileFault : Nat := 0x08
/-- EPOCH_AHEAD. -/
def stEpochAhead : Nat := 0x09
/-- EPOCH_STALL. -/
def stEpochStall : Nat := 0x0A
/-- CONFIG_CONFLICT. -/
def stConfigConflict : Nat := 0x0B
/-- BAD_EPOCH. -/
def stBadEpoch : Nat := 0x0C
/-- BAD_CONFIG. -/
def stBadConfig : Nat := 0x0D
/-- STREAM_ADDR. -/
def stStreamAddr : Nat := 0x10
/-- STREAM_UE. -/
def stStreamUe : Nat := 0x11
/-- STREAM_WITHDRAWN. -/
def stStreamWithdrawn : Nat := 0x12
/-- STREAM_WINDOW. -/
def stStreamWindow : Nat := 0x13
/-- STREAM_BUSY. -/
def stStreamBusy : Nat := 0x14
/-- DOMAIN_RESET. -/
def stDomainReset : Nat := 0x15
/-- RED_NOBUF. -/
def stRedNobuf : Nat := 0x18
/-- RED_PLAN. -/
def stRedPlan : Nat := 0x19
/-- BAD_VARIANT. -/
def stBadVariant : Nat := 0x20
/-- SNAP_LATE. -/
def stSnapLate : Nat := 0x21
/-- SNAP_REFUSED. -/
def stSnapRefused : Nat := 0x22
/-- SNAP_BUSY. -/
def stSnapBusy : Nat := 0x23
/-- SNAP_LOST. -/
def stSnapLost : Nat := 0x24
/-- TEARDOWN_LATE. -/
def stTeardownLate : Nat := 0x26
/-- STEP_ORDER. -/
def stStepOrder : Nat := 0x28
/-- STEP_DEPTH. -/
def stStepDepth : Nat := 0x29
/-- EMBER_BAD. -/
def stEmberBad : Nat := 0x2A
/-- MIRROR_REFUSED. -/
def stMirrorRefused : Nat := 0x2B
/-- MIRROR_BUSY. -/
def stMirrorBusy : Nat := 0x2C
/-- STEP_HALTED. -/
def stStepHalted : Nat := 0x2D
/-- MIRROR_LOST. -/
def stMirrorLost : Nat := 0x2E

/-! ### Descriptor fields (R262, R263) -/

/-- Bits [hi:lo] of the 32-bit word at a byte offset of a descriptor. -/
def dfld (w : BitVec 512) (off hi lo : Nat) : Nat := fld w (8 * off + hi) (8 * off + lo)

/-- OPCODE. -/
def dOpcode (w : BitVec 512) : Nat := fld w 7 0

/-- VER. -/
def dVer (w : BitVec 512) : Nat := fld w 11 8

/-- FLAGS.CPL. -/
def dCpl (w : BitVec 512) : Bool := bit w 12

/-- FLAGS.IRQ. -/
def dIrq (w : BitVec 512) : Bool := bit w 13

/-- FLAGS.WAIT. -/
def dWait (w : BitVec 512) : Bool := bit w 14

/-- FLAGS.SIG. -/
def dSig (w : BitVec 512) : Bool := bit w 15

/-- OPF bit 16: EMBER of COPY and STREAM, STEP of FENCE. -/
def dOpf0 (w : BitVec 512) : Bool := bit w 16

/-- WAIT_SYNC. -/
def dWaitSync (w : BitVec 512) : Nat := fld w 47 32

/-- SIG_SYNC. -/
def dSigSync (w : BitVec 512) : Nat := fld w 63 48

/-- WAIT_VALUE. -/
def dWaitValue (w : BitVec 512) : BitVec 32 := BitVec.ofNat 32 (fld w 95 64)

/-- TAG. -/
def dTag (w : BitVec 512) : Nat := fld w 127 96

/-! ### Ring indices and write-back (R266) -/

/-- A held step that has not resolved COMMIT or SKIP (R266). -/
def unresolved (h : Held) : Bool := decide (h.st ≠ .committing)

/-- RELEASE: the STEP_OPEN entry of the context's oldest step that has not resolved, or FETCH (R266). -/
def releaseOf (s : State) (c : Ctx) : Nat :=
  match s.step.held.find? (fun h => h.ctx == c && unresolved h) with
  | some h => h.index.toNat
  | none => (getCtx s c).fetch

/-- Sets RELEASE anew and writes RELEASE and FETCH to HEADWB (R266). -/
def headWriteBack (c : Ctx) (s : State) : State :=
  let r := releaseOf s c
  let x := getCtx s c
  let s := modCtx c (fun x => { x with release := r }) s
  hostWrite x.headwb.toNat (leBytes 8 (r + 65536 * x.fetch)) s

/-! ### Sync updates (R263, R274) -/

/-- Whether an object lies in a context's sync range. -/
def inSyncRange (x : Context) (o : Nat) : Bool := decide (x.syncBase ≤ o) && decide (o < x.syncBase + x.syncCount)

/-- Hands an update to the object's arbiter. -/
def syncRequest (o requester : Nat) (op : SyncOp) (s : State) : State :=
  modHif (fun h => { h with syncQ := h.syncQ ++ [{ obj := BitVec.ofNat 16 o, requester := requester, op := op }] }) s

/-- The SIG of a descriptor that completes (R263). -/
def signalDesc (c : Ctx) (w : BitVec 512) (ok : Bool) (requester : Nat) (s : State) : State :=
  if dSig w && inSyncRange (getCtx s c) (dSigSync w) then
    syncRequest (dSigSync w) requester (if ok then .add 1 else .setError) s
  else s

/-- The value an update leaves (R274). -/
def syncApply (o : SyncObj) : SyncOp → SyncObj
  | .setValue v => { o with value := v }
  | .add v => { o with value := o.value + v }
  | .setError => { o with error := true }
  | .clearErr => { o with error := false }

/-- Whether an object has reached a target (R274). -/
def syncReached (o : SyncObj) (target : BitVec 32) : Bool := decide ((o.value - target).toNat < 2 ^ 31)

/-! ### Completion records (R270, R271) -/

/-- Whether the part still writes records of a context (R288 stage 5). -/
def recordsOpen (x : Context) : Bool := decide (x.st ≠ .free) && x.tearT0.isNone

/-- Sends an MSI-X message of a context's function. -/
def sendMsix (x : Context) (vec : BitVec 6) (s : State) : State :=
  modHif (fun h => { h with msix := h.msix ++ [{ func := x.func, port := x.port, vec := vec }] }) s

/-- The 16 bytes of a completion record (R270). -/
def completionBytes (index : BitVec 16) (status opcode tag detail : Nat) (attempt : BitVec 4) (phase : Bool) : List Byte :=
  leBytes 2 index.toNat ++ leBytes 1 status ++ leBytes 1 opcode ++ leBytes 4 tag ++ leBytes 4 detail
    ++ leBytes 4 (attempt.toNat + (if phase then 2 ^ 31 else 0))

/-- Writes one record at the completion ring's write index and advances it (R270). -/
def writeCompletion (c : Ctx) (bytes : Bool → List Byte) (s : State) : State :=
  let x := getCtx s c
  let s := hostWrite (x.cring.toNat + 16 * x.cplWrite) (bytes x.cplPhase) s
  let nextIdx := (x.cplWrite + 1) % 2 ^ x.clog2
  modCtx c (fun x => { x with cplWrite := nextIdx, cplPhase := if nextIdx = 0 then !x.cplPhase else x.cplPhase }) s

/-- The record of a descriptor and the interrupt that follows it. -/
def recordDesc (c : Ctx) (d : Desc) (status detail : Nat) (s : State) : State :=
  let x := getCtx s c
  if recordsOpen x && (dCpl d.words || decide (status ≠ 0)) then
    let s := writeCompletion c (completionBytes d.index status (dOpcode d.words) (dTag d.words) detail d.attempt) s
    if dIrq d.words then sendMsix x x.vecCpl s else s
  else s

/-- Completes a descriptor: its record, its interrupt and its SIG (R263, R270). -/
def finishDesc (c : Ctx) (d : Desc) (status detail requester : Nat) (s : State) : State :=
  signalDesc c d.words (decide (status = 0)) requester (recordDesc c d status detail s)

/-- The started descriptor of a context with a key. -/
def startedDesc (s : State) (c : Ctx) (key : Nat) : Option Desc := (getCtx s c).started.find? (fun d => d.key == key)

/-- Completes the started descriptor with a key, if it has not completed already. -/
def completeKey (c : Ctx) (key status detail requester : Nat) (s : State) : State :=
  match startedDesc s c key with
  | none => s
  | some d =>
    finishDesc c d status detail requester
      (modCtx c (fun x => { x with started := x.started.filter (fun e => e.key != key) }) s)

/-- The descriptor that a family row executes: the context's starting one, when its OPCODE is the family's. -/
def startingOf (s : State) (c : Ctx) (opcode : Nat) : Option Desc :=
  match (getCtx s c).starting with
  | some d => if dOpcode d.words = opcode then some d else none
  | none => none

/-- The starting descriptor completes at once. -/
def finishStarting (c : Ctx) (d : Desc) (status detail : Nat) (s : State) : State :=
  finishDesc c d status detail 0 (modCtx c (fun x => { x with starting := none }) s)

/-- The starting descriptor joins those that have started and not completed. -/
def keepStarting (c : Ctx) (d : Desc) (s : State) : State :=
  modCtx c (fun x => { x with starting := none, started := x.started ++ [d] }) s

/-- Whether a descriptor that has passed its checks has started: a fence, and what acts as one, starts only when the earlier
descriptors have completed, and a STEP_OPEN when its ember slot is free (R156, R276, R287, R288, R298). -/
def startsAtOnce (w : BitVec 512) : Bool := !([0x05, 0x07, 0x0D, 0x0E].contains (dOpcode w))

/-- Completes with ABORTED the started descriptors from the STEP_OPEN of the oldest step that aborts on (log entry 9), and drops
those that have not started (R287): one that has left the ring for its checks but waits as a fence is among these, and its refetch
is its first execution. A STEP_OPEN whose step is held has started, whatever its fence still waits for (R298). -/
def abortDescs (c : Ctx) (openKey : Nat) (step : BitVec 64) (s : State) : State :=
  let x := getCtx s c
  let hit := fun (d : Desc) => decide (openKey ≤ d.key)
  let begun := fun (d : Desc) => startsAtOnce d.words || s.step.held.any (fun h => h.ctx == c && h.openKey == d.key)
  let all := x.started ++ x.starting.toList.filter begun
  let waits := x.starting.filter (fun d => !(begun d) && !d.refetched)
  let gone := all.filter hit
  let s := modCtx c (fun x => { x with
    started := all.filter (fun d => !(hit d)), fetched := [], starting := none, waiting := none
    refetchEnd := match waits with
      | some d => some d.index.toNat
      | none => x.refetchEnd }) s
  forAll gone (fun d t => finishDesc c d stAborted (step.toNat % 2 ^ 32) 0 t) s

/-- Restores the step-scoped sync objects of a context to a record (R275): a restored object reads as recorded. -/
def restoreSync (c : Ctx) (rec : SMap SyncObj) (s : State) : State :=
  let x := getCtx s c
  let objs := (List.range x.sstepCount).map (fun i => x.sstepBase + i)
  modHif (fun h => { h with
    sync := objs.foldl (fun m o => SMap.set SyncObj.init m o (SMap.get SyncObj.init rec o)) h.sync
    syncQ := h.syncQ.filter (fun u => !(objs.contains u.obj.toNat)) }) s

/-- The record of the step-scoped objects (R275). -/
def recordSync (s : State) (c : Ctx) : SMap SyncObj :=
  let x := getCtx s c
  s.hif.sync.filter (fun kv => decide (x.sstepBase ≤ kv.1) && decide (kv.1 < x.sstepBase + x.sstepCount))

end Sys2Proof.Machine
end

