-- ==== Sys2Proof/Machine/Crossbar.lean ====
section
/-! DEFINITION. The sending side of a die-to-die edge: crossbar packets cut into pieces, frames with their replay buffer, and what
is sent again (R204 to R206, R208). -/

namespace Sys2Proof.Machine

/-- An edge. -/
def getEdge (s : State) (e : Nat) : Edge := SMap.get Edge.init s.pkg.edges e

/-- Changes an edge. -/
def modEdge (e : Nat) (f : Edge → Edge) (s : State) : State :=
  { s with pkg := { s.pkg with edges := SMap.upd Edge.init s.pkg.edges e f } }

/-- A module of an edge. -/
def edgeModule (x : Edge) (m : Nat) : EdgeModule := SMap.get EdgeModule.init x.modules m

/-- Changes a module of an edge. -/
def modModule (m : Nat) (f : EdgeModule → EdgeModule) (x : Edge) : Edge :=
  { x with modules := SMap.upd EdgeModule.init x.modules m f }

/-- The code of a frame type; a reserved one has no single code. -/
def frameCode : FrameType → Nat
  | .data => 0
  | .idle => 1
  | .nak => 2
  | .reserved => 3

/-- Bytes 0 to 251 of a frame (R204). -/
def frameBytes (f : Frame) : List Byte :=
  leBytes 4 (f.seq.toNat + 2 ^ 8 * f.ack.toNat + 2 ^ 16 * frameCode f.ftype + 2 ^ 20 * f.ctag.toNat)
    ++ f.payload ++ List.replicate (248 - f.payload.length) 0

/-- Whether the CRC of a frame is good. -/
def frameGood (f : Frame) : Bool := f.crc == crc32 (frameBytes f)

/-- A frame leaves on a module: it takes the next number, carries ACK and the edge's CTAG, and stays in the replay buffer of 128
frames (R204, R205, R208). -/
def sendFrame (m : Nat) (k : FrameType) (pc : Piece) (x : Edge) : Edge :=
  let q := edgeModule x m
  let f0 : Frame :=
    { seq := q.txNext, ack := q.rxNext - 1, ftype := k, ctag := x.ctag, payload := pc.bytes, crc := 0, packet := pc.packet
      last := pc.last }
  let f := { f0 with crc := crc32 (frameBytes f0) }
  { (modModule m (fun q => { q with
      txNext := q.txNext + 1, ackSent := q.rxNext - 1
      replay := (q.replay ++ [f]).drop ((q.replay.length + 1) - 128) }) x) with
    sent := x.sent ++ [(m, f)] }

/-- No payload. -/
def noPiece : Piece := { packet := 0, last := false, bytes := [] }

/-- The active modules of an edge, lowest first. -/
def activeModules (x : Edge) : List Nat := (List.range 16).filter (fun m => x.mask.getLsbD m)

/-- The active module whose turn it is: the lowest at or after a number, else the lowest (R204). -/
def moduleTurn (x : Edge) (n : Nat) : Option Nat :=
  ((activeModules x).find? (fun m => decide (n ≤ m))).or (activeModules x).head?

/-- The pieces of a crossbar packet (R204). -/
def piecesOf (n : Nat) (bs : List Byte) : List Piece :=
  let l := cut 248 bs
  l.zipIdx.map (fun p => { packet := n, last := decide (p.2 + 1 = l.length), bytes := p.1 })

/-- A crossbar packet goes to an edge: it is kept with its edge sequence number until the other side has acknowledged it (R206). -/
def edgeQueue (e : Nat) (bs : List Byte) (s : State) : State :=
  modEdge e (fun x =>
    if x.st = .disabled ∨ x.st = .failed then x
    else { x with
      packets := x.packets ++ [(x.nextPacket, bs)], nextPacket := x.nextPacket + 1
      pieces := x.pieces ++ piecesOf x.nextPacket bs }) s

/-- Whether a packet still has a piece to send, or a frame that is not acknowledged. -/
def packetOpen (x : Edge) (n : Nat) : Bool :=
  x.pieces.any (fun p => decide (p.packet = n))
    || x.modules.any (fun kv => kv.2.replay.any (fun f => decide (f.ftype = .data) && decide (f.packet = n)))

/-- Frames up to an acknowledged number leave the replay buffer, and packets that are acknowledged whole are kept no more (R205,
R206). -/
def ackFrames (m : Nat) (ack : BitVec 8) (x : Edge) : Edge :=
  let y := modModule m (fun q => { q with
    ackFrom := ack + 1, replay := q.replay.filter (fun f => decide (128 ≤ (ack - f.seq).toNat)) }) x
  { y with packets := y.packets.filter (fun p => packetOpen y p.1) }

/-- The replay after a NAK: the frames from ACK + 1 are sent again with the bits they had (R205). -/
def replayFrames (m : Nat) (ack : BitVec 8) (x : Edge) : Edge :=
  let x := ackFrames m ack x
  { x with sent := x.sent ++ (edgeModule x m).replay.map (fun f => (m, f)), replays := satUp x.replays 1 }

/-- Packets that are not acknowledged go out again over the present modules, in their original order; the replay buffers start anew,
and what was not joined whole comes again (R206). -/
def resendPackets (x : Edge) : Edge :=
  let y := (List.range 16).foldl (fun y m => modModule m (fun q => { q with replay := [], arrived := [] }) y) x
  { y with
    pieces := x.packets.flatMap (fun p => piecesOf p.1 p.2), sendTurn := 0, joinTurn := 0, joining := [] }

/-- The active module, lowest first, whose last ACK sent is not the newest one. -/
def owesAck (x : Edge) : Option Nat :=
  (activeModules x).find? (fun m => (edgeModule x m).ackSent != (edgeModule x m).rxNext - 1)

/-- Whether an edge has a frame to send: it is ACTIVE, and IDLE frames, a piece or an ACK wait. -/
def edgeOwes (x : Edge) : Bool := decide (x.st = .active) && (x.idleOnly || !x.pieces.isEmpty || (owesAck x).isSome)

/-- One frame time of an edge: the next piece goes out on the next active module; while only IDLE frames are sent, or where an ACK
waits, an IDLE frame goes out (R204, R208). -/
def edgeTick (x : Edge) : Edge :=
  match moduleTurn x x.sendTurn with
  | none => x
  | some m =>
    if x.idleOnly then sendFrame m .idle noPiece { x with sendTurn := m + 1 }
    else
      match x.pieces with
      | pc :: rest => sendFrame m .data pc { x with pieces := rest, sendTurn := m + 1 }
      | [] =>
        match owesAck x with
        | some m => sendFrame m .idle noPiece x
        | none => x

end Sys2Proof.Machine
end

