-- ==== Sys2Proof/Machine/Route.lean ====
section
/-! DEFINITION. Coordinates, routes, and how packets and TC0 messages leave the package on a port (R226 to R238, R246,
R334). -/

namespace Sys2Proof.Machine

/-! ### Coordinates and hops (R232, R233, R246) -/

/-- The coordinate index of a packet's coordinate field, when it lies on the torus. -/
def coordIdx (t : List Byte) (c : Coord) : Option Nat :=
  let d := dims t
  if c.x.toNat < d.1 ∧ c.y.toNat < d.2.1 ∧ c.z.toNat < d.2.2 then some (indexOf t c.x.toNat c.y.toNat c.z.toNat) else none

/-- The coordinate field of an index. -/
def coordField (t : List Byte) (i : Nat) : Coord :=
  let c := coordOf t i
  { x := BitVec.ofNat 5 c.1, y := BitVec.ofNat 5 c.2.1, z := BitVec.ofNat 5 c.2.2 }

/-- The coordinate of an index along an axis 0 to 2. -/
def along (t : List Byte) (i axis : Nat) : Nat :=
  let c := coordOf t i
  match axis with
  | 0 => c.1
  | 1 => c.2.1
  | _ => c.2.2

/-- The ring length of an axis. -/
def ringLen (t : List Byte) (axis : Nat) : Nat :=
  let d := dims t
  match axis with
  | 0 => d.1
  | 1 => d.2.1
  | _ => d.2.2

/-- The direction along an axis from one coordinate to another: positive or not (R233). -/
def goesPositive (box : BitVec 64) (axis ring a b : Nat) (wrapAll : Bool) : Bool :=
  let x0 := (boxAxis box axis).1
  let rel := fun c => (c + ring - x0) % ring
  if wrapAll || (boxAxis box axis).2.2 then decide (2 * ((b + ring - a) % ring) ≤ ring)
  else decide (rel a < rel b)

/-- The direction group that a packet at one index takes toward another: X, then Y, then Z (R233). -/
def nextGroup (t : List Byte) (box : BitVec 64) (wrapAll : Bool) (i j : Nat) : Option Nat :=
  ((List.range 3).find? (fun ax => decide (along t i ax ≠ along t j ax))).map (fun ax =>
    if goesPositive box ax (ringLen t ax) (along t i ax) (along t j ax) wrapAll then 2 * ax else 2 * ax + 1)

/-- Hops between two indices over the whole torus (R246). -/
def torusHops (t : List Byte) (i j : Nat) : Nat :=
  ((List.range 3).map (fun ax =>
    let ring := ringLen t ax
    let f := (along t j ax + ring - along t i ax) % ring
    min f (ring - f))).sum

/-- The lowest-numbered UP port of a direction group. -/
def lowestUp (s : State) (g : Nat) : Option Nat := ((List.range 4).map (fun k => 4 * g + k)).find? (portUp s)

/-- Whether a port carries traffic: UP, or in a retrain that holds its traffic for up to 1 ms (R229). -/
def portLive (s : State) (p : Nat) : Bool := portUp s p || decide ((getPort s p).st = .retrain)

/-- The ports of a direction group. -/
def groupPorts (g : Nat) : List Nat := (List.range 4).map (fun k => 4 * g + k)

/-- The lowest-numbered UP port of a group; while every port that is left retrains, the lowest of these, which holds the traffic
(R229, R233). -/
def lowestLive (s : State) (g : Nat) : Option Nat := (lowestUp s g).or ((groupPorts g).find? (portLive s))

/-- The port of a group for a port index: the port of that index while it is not DOWN, else the next UP port in increasing index,
modulo 4 (R229, R230, R233). -/
def upFrom (s : State) (g k : Nat) : Option Nat :=
  let order := (List.range 4).map (fun i => 4 * g + (k + i) % 4)
  if portLive s (4 * g + k % 4) then some (4 * g + k % 4) else (order.find? (portUp s)).or (order.find? (portLive s))

/-! ### Sending packets (R230, R232) -/

/-- The number of a packet's traffic class in a table by port. -/
def lseqKey (port : Nat) (tc : Fin 4) : Nat := 4 * port + tc.val

/-- The 32-byte header of a packet (R232). -/
def packetHeader (p : Packet) : List Byte :=
  let c := fun (x : Coord) => x.x.toNat + 32 * x.y.toNat + 1024 * x.z.toNat
  leBytes 4 (p.pid.toNat + 2 ^ 12 * p.pkind.toNat + 2 ^ 16 * p.len.toNat) ++ leBytes 4 (c p.dst + 2 ^ 16 * c p.src)
    ++ leBytes 8 (p.lport.toNat + 2 ^ 16 * p.lseq.toNat) ++ leBytes 8 p.target.toNat ++ leBytes 8 p.aux.toNat

/-- Flits that a packet takes: header and data in pieces of 244 bytes (R226). -/
def flitCount (p : Packet) : Nat := (32 + p.data.length + 243) / 244

/-- The pool a packet is charged to at the neighbour: local when its bitmap names the PID (R235, R243). -/
def poolOf (q : FabPort) (p : Packet) : Nat := if q.pids.contains p.pid then p.tc.val else p.tc.val + 4

/-- Which queue of an output port holds the packets of an input in a pool (R236). -/
def outKey (pool input : Nat) : Nat := 26 * pool + input

/-- A packet goes to an output port, where it waits for the arbiters (R230, R236). -/
def emitOn (port input : Nat) (p : Packet) (s : State) : State :=
  let s := modFab (fun f => { f with sent := f.sent ++ [{ port := port, p := p }] }) s
  modPort port (fun q => { q with
    queue := SMap.upd [] q.queue (outKey (poolOf q p) input) (fun l => l ++ [{ p := p, numbered := false, left := [] }]) }) s

/-- The input of a packet of this package's own: 25 for the reduction units, 24 for the hub crossbar (R236). -/
def ownInput (p : Packet) : Nat := if p.pkind = 2 ∨ p.pkind = 3 then 25 else 24

/-- A packet of this package's own leaves on a port; a follower sends none (R345). -/
def sendOn (port : Nat) (p : Packet) (s : State) : State := if follower s then s else emitOn port (ownInput p) p s

/-- The output port of a packet in a direction group: a stream packet keeps its port index; others use the lowest (R233). -/
def outPort (s : State) (g k : Nat) (p : Packet) : Option Nat :=
  if p.pkind = 0 ∨ p.pkind = 1 then upFrom s g k else lowestLive s g

/-- Whether a package has transit pairs for both directions of an axis. -/
def hasTransit (t : List Byte) (pkg axis : Nat) : Bool :=
  let has := fun (inG outG : Nat) => (transits t).any (fun r =>
    decide (r.pkg = pkg) && decide (portGroup r.inPort = inG) && decide (portGroup r.outPort = outG))
  has (2 * axis) (2 * axis + 1) && has (2 * axis + 1) (2 * axis)

/-- The output port toward an index: the group of R233, or the other way round the ring when that group has no UP port and
the axis wraps (R334). -/
def routePort (s : State) (e : Part) (k i dst : Nat) (p : Packet) : Option Nat :=
  let t := tableBytes s
  match nextGroup t e.box false i dst with
  | none => none
  | some g =>
    match outPort s g k p with
    | some port => some port
    | none =>
      let ax := g / 2
      let b := boxAxis e.box ax
      if b.2.2 && (decide (ringLen t ax ≤ b.2.1) || hasTransit t i ax || inBox t e.box i) then
        outPort s (if g % 2 = 0 then g + 1 else g - 1) k p
      else none

/-- Sends a packet of a partition entry toward a coordinate index; without a way round it is dropped (R334). -/
def sendPacket (e : Part) (k dst : Nat) (p : Packet) (s : State) : State :=
  let t := tableBytes s
  match s.fab.selfIdx with
  | none => s
  | some i =>
    match routePort s e k i dst p with
    | none => modFab (fun f => { f with drop := satUp f.drop 1 }) s
    | some port => sendOn port { p with pid := e.pid, dst := coordField t dst, src := coordField t i } s

/-! ### TC0 messages (R232, R237, R238) -/

/-- The 32 data bytes of a TC0 message (R238). -/
def tc0Bytes (m : Tc0) : List Byte :=
  leBytes 8 (m.mkind.toNat + 2 ^ 4 * m.attempt.toNat + 2 ^ 8 * m.cause.toNat + 2 ^ 16 * m.origin.toNat)
    ++ leBytes 8 m.step.toNat ++ leBytes 16 m.body.toNat

/-- The packet of a TC0 message. -/
def tc0Packet (m : Tc0) : Packet :=
  { pid := m.pid, pkind := 4, len := 0, dst := ⟨0, 0, 0⟩, src := ⟨0, 0, 0⟩, lport := 0, lseq := 0, target := 0, aux := 0
    tc := 0, reserved := false, data := tc0Bytes m }

/-- Sends one TC0 message on a port, to the neighbour there. -/
def sendTc0On (msg : Tc0) (port : Nat) (s : State) : State :=
  let t := tableBytes s
  if follower s then s
  else
  let s := modFab (fun f => { f with tc0 := f.tc0 ++ [{ port := some port, dest := none, msg := msg }] }) s
  match s.fab.selfIdx with
  | none => s
  | some i => sendOn port { tc0Packet msg with
      dst := coordField t (getPort s port).nbr.toNat, src := coordField t i } s

/-- Sends one TC0 message on each of a list of ports. -/
def sendTc0 (ports : List Nat) (msg : Tc0) (s : State) : State := forAll ports (sendTc0On msg) s

/-- Sends one TC0 message point to point to a coordinate index. -/
def sendTc0To (e : Part) (dst : Nat) (msg : Tc0) (s : State) : State :=
  if follower s then s
  else
  let s := modFab (fun f => { f with
    tc0 := f.tc0 ++ [{ port := none, dest := some (BitVec.ofNat 16 dst), msg := msg }] }) s
  sendPacket e 0 dst (tc0Packet msg) s

/-- Sends one TC0 message point to point to the coordinate that the rank map gives a rank. -/
def sendTc0Rank (e : Part) (rank : Nat) (msg : Tc0) (s : State) : State :=
  sendTc0To e (fld (SMap.get 0 e.map rank) 13 0) msg s

/-! ### Flits (R226 to R228, R234 to R236) -/

/-- The code of a flit kind. -/
def flitCode : FlitKind → Nat
  | .data => 0
  | .idle => 1
  | .nak => 2
  | .linkctl => 3
  | .reserved => 4

/-- Freed counts as they stand in bytes 4 to 7. -/
def freedBits (l : List (BitVec 4)) : Nat := (l.zipIdx.map (fun x => x.1.toNat * 2 ^ (4 * x.2))).sum

/-- Bytes 0 to 251 of a flit (R226). -/
def flitBytes (f : Flit) : List Byte :=
  leBytes 4 (f.seq.toNat + 2 ^ 12 * f.ack.toNat + 2 ^ 24 * flitCode f.kind + 2 ^ 27 * f.tc.val + (if f.pool then 2 ^ 29 else 0)
      + (if f.sop then 2 ^ 30 else 0))
    ++ leBytes 4 (freedBits f.crl + 2 ^ 16 * freedBits f.crt) ++ f.data ++ List.replicate (244 - f.data.length) 0

/-- Whether the CRC of a flit is good. -/
def flitGood (f : Flit) : Bool := f.crc == crc32 (flitBytes f)

/-- The freed counts that the next flit returns for the pools from a number on: up to 15 each. -/
def freedNow (q : FabPort) (base : Nat) : List (BitVec 4) :=
  (List.range 4).map (fun c => BitVec.ofNat 4 (min 15 (SMap.get 0 q.freed (base + c))))

/-- A flit leaves: it takes the next number, carries ACK and the freed counts, and stays in the replay buffer (R226, R228). -/
def sendFlit (kind : FlitKind) (pool : Nat) (sop : Bool) (data : List Byte) (q : FabPort) : FabPort :=
  let f0 : Flit :=
    { seq := q.txNext, ack := q.rxNext - 1, kind := kind, tc := Fin.ofNat 4 pool, pool := decide (4 ≤ pool), sop := sop
      crl := freedNow q 0, crt := freedNow q 4, data := data, crc := 0 }
  let f := { f0 with crc := crc32 (flitBytes f0) }
  { q with
    txNext := q.txNext + 1, ackSent := q.rxNext - 1, replay := (q.replay ++ [f]).drop ((q.replay.length + 1) - 1024)
    freed := (List.range 8).foldl (fun m c => SMap.upd 0 m c (fun n => n - min 15 n)) q.freed
    sent := q.sent ++ [f] }

/-- Whether a pool of an output port has a flit to send. -/
def poolWaits (q : FabPort) (pool : Nat) : Bool :=
  (SMap.get none q.sending pool).isSome || !(SMap.get [] q.resend pool).isEmpty
    || (List.range 26).any (fun i => !(SMap.get [] q.queue (outKey pool i)).isEmpty)

/-- Whether a pool has a flit to send and holds a credit for it (R235). -/
def poolReady (q : FabPort) (pool : Nat) : Bool := poolWaits q pool && decide (0 < SMap.get 0 q.credits pool)

/-- The transit reservation of an output port: SHARE of its transit entry, 0 when none (R236, R240). -/
def shareOf (s : State) (port : Nat) : Nat :=
  (((transits (tableBytes s)).find? (fun r => decide (s.fab.selfIdx = some r.pkg) && decide (r.outPort = port))).map Transit.share).getD 0

/-- The pool that sends the next flit of an output port: TC0 ahead of every other class, between local and transit in turn; else
the class in turn, and by its 16 slots the transit or the local pool (R234, R236). A transit flit alone in its class goes where no
slot is its own (log entry 127). -/
def nextPool (share : Nat) (q : FabPort) : Option (Nat × FabPort) :=
  match roundRobin q.tc0Ptr 2 (fun i => poolReady q (4 * i)) with
  | some i => some (4 * i, { q with tc0Ptr := (i + 1) % 2 })
  | none =>
    match roundRobin q.classPtr 3 (fun c => poolReady q (c + 1) || poolReady q (c + 5)) with
    | none => none
    | some c =>
      let q1 := { q with classPtr := (c + 1) % 3 }
      match roundRobin (SMap.get 0 q.poolPtr c) 16 (fun k => poolReady q (if k < share then c + 5 else c + 1)) with
      | some k => some (if k < share then c + 5 else c + 1, { q1 with poolPtr := SMap.set 0 q.poolPtr c ((k + 1) % 16) })
      | none => some (c + 5, q1)

/-- The packet whose flit a pool sends next: the one under way; else one of a DOWN port; else that of the input in turn (R227,
R230, R236). -/
def nextPacket (pool : Nat) (q : FabPort) : Option (OutPacket × FabPort) :=
  match SMap.get none q.sending pool, SMap.get [] q.resend pool with
  | some o, _ => some (o, q)
  | none, o :: rest => some (o, { q with resend := SMap.set [] q.resend pool rest })
  | none, [] =>
    match roundRobin (SMap.get 0 q.inPtr pool) 26 (fun i => !(SMap.get [] q.queue (outKey pool i)).isEmpty) with
    | none => none
    | some i =>
      let l := SMap.get [] q.queue (outKey pool i)
      (l.head?).map (fun o => (o, { q with
        queue := SMap.set [] q.queue (outKey pool i) (l.drop 1), inPtr := SMap.set 0 q.inPtr pool ((i + 1) % 26) }))

/-- A packet that begins gets its LPORT and LSEQ, unless a DOWN port gave it them, and is cut into flits (R226, R230). -/
def beginPacket (port : Nat) (o : OutPacket) (s : State) : OutPacket × State :=
  if !o.left.isEmpty then (o, s)
  else
    let n := SMap.get 0 s.fab.lseq (lseqKey port o.p.tc)
    let p := if o.numbered then o.p else { o.p with lport := BitVec.ofNat 5 port, lseq := n }
    ({ p := p, numbered := true, left := cut 244 (packetHeader p ++ p.data) },
      if o.numbered then s else modFab (fun f => { f with lseq := SMap.set 0 f.lseq (lseqKey port o.p.tc) (n + 1) }) s)

/-- One flit of a packet goes out of a pool, and charges a credit; after the last one the packet waits for its acknowledgement. -/
def pushFlit (pool : Nat) (first : Bool) (o : OutPacket) (q : FabPort) : FabPort :=
  let r := sendFlit .data pool first (o.left.head?.getD []) q
  let rest := o.left.drop 1
  { r with
    credits := SMap.upd 0 r.credits pool (fun c => c - 1)
    sending := SMap.set none r.sending pool (if rest.isEmpty then none else some { o with left := rest })
    unacked := if rest.isEmpty then r.unacked ++ [(r.txNext - 1, o.p)] else r.unacked }

/-- Whether a port has freed counts or an ACK to return. -/
def owesFlit (q : FabPort) : Bool := !q.freed.isEmpty || q.ackSent != q.rxNext - 1

/-- One flit time of an UP port (R226 to R228, R234 to R236): a DATA flit, or an IDLE flit where freed counts or an ACK wait. -/
def portTick (port : Nat) (s : State) : State :=
  let q := getPort s port
  if q.st ≠ .up ∨ 1024 ≤ q.replay.length then s
  else
    match nextPool (shareOf s port) q with
    | none => if owesFlit q then modPort port (sendFlit .idle 0 false []) s else s
    | some (pool, q1) =>
      match nextPacket pool q1 with
      | none => s
      | some (o, q2) =>
        let b := beginPacket port o s
        modPort port (fun _ => pushFlit pool o.left.isEmpty b.1 q2) b.2

/-- A LINKCTL message goes out on a port: it bypasses the credits (R227). Its layout in the flit is not given (log entry 128). -/
def sendLink (port : Nat) (msg : LinkMsg) (s : State) : State :=
  modPort port (sendFlit .linkctl 0 false []) (modFab (fun f => { f with linkctl := f.linkctl ++ [(port, msg)] }) s)

/-! ### Data packets (R198, R344, R345) -/

/-- Bytes filled with zeros to whole units of 64: a packet's data are LEN × 64 bytes (R232; log entry 124). -/
def fill64 (bs : List Byte) : List Byte := bs ++ List.replicate ((64 - bs.length % 64) % 64) 0

/-- A stream data packet (R232). -/
def dataPacket (tc : Fin 4) (sctx off dpa : Nat) (bs : List Byte) : Packet :=
  { pid := 0, pkind := 0, len := BitVec.ofNat 7 ((bs.length + 63) / 64), dst := ⟨0, 0, 0⟩, src := ⟨0, 0, 0⟩, lport := 0, lseq := 0
    target := BitVec.ofNat 64 (dpa % 2 ^ 48), aux := BitVec.ofNat 64 (off % 2 ^ 40 + 2 ^ 40 * sctx), tc := tc
    reserved := false, data := fill64 bs }

/-- Fresh free bytes (log entry 4). -/
def freeBytes : Nat → State → List Byte × State
  | 0, s => ([], s)
  | n + 1, s =>
    let v := freeVal s
    let r := freeBytes n v.2
    (leBytes 8 v.1.toNat ++ r.1, r.2)

/-- Sends bytes to the follower, where the leader's SHADOW mode is on, at an address that the spec does not give (log entry
44). -/
def sendFollower (c : Ctx) (bs : List Byte) (s : State) : State :=
  match shadowPeer s, boundEntry s c with
  | some p, some e =>
    let v := freeVal s
    sendPacket (getPart v.2 e) 0 p (dataPacket 2 0 0 (fld v.1 47 0) bs) v.2
  | _, _ => s

/-- The leader sends its follower the 64-byte shadow record of a step that has resolved; its layout is not given, and its bytes
are free (R345; log entry 44). -/
def sendRecord (c : Ctx) (s : State) : State :=
  if (shadowPeer s).isSome then
    let r := freeBytes 8 s
    sendFollower c r.1 r.2
  else s

end Sys2Proof.Machine
end

