-- ==== Sys2Proof/Machine/Abort.lean ====
section
/-! DEFINITION. Causes to abort and what an ABORT does at this package: charging, injecting, the flood of TC0 ABORT, the
resolution of a step as ABORT, and halting (R239, R295 to R297, R315 to R317, R341). -/

namespace Sys2Proof.Machine

/-! ### Causes (R310) -/

/-- CHECK. -/
def causeCheck : BitVec 8 := 0x01
/-- LOSS. -/
def causeLoss : BitVec 8 := 0x02
/-- PROGRAM. -/
def causeProgram : BitVec 8 := 0x03
/-- CAPACITY. -/
def causeCapacity : BitVec 8 := 0x04
/-- TEARDOWN. -/
def causeTeardown : BitVec 8 := 0x05
/-- VOTE_TIMEOUT. -/
def causeVoteTimeout : BitVec 8 := 0x06
/-- EMBER. -/
def causeEmber : BitVec 8 := 0x07
/-- HOST. -/
def causeHost : BitVec 8 := 0x08
/-- MIRROR_LOST. -/
def causeMirrorLost : BitVec 8 := 0x09

/-- Changes one member of a list. -/
def mapAt {α : Type} (f : α → α) : Nat → List α → List α
  | _, [] => []
  | 0, a :: t => f a :: t
  | n + 1, a :: t => a :: mapAt f n t

/-- The place of the first member that satisfies a test. -/
def placeOf {α : Type} (p : α → Bool) : List α → Option Nat
  | [] => none
  | a :: t => if p a then some 0 else (placeOf p t).map (· + 1)

/-- Changes the held step at a place, oldest first. -/
def modHeld (i : Nat) (f : Held → Held) (s : State) : State := modStep (fun e => { e with held := mapAt f i e.held }) s

/-- The place of the oldest held step of a number. -/
def heldPlace (s : State) (n : BitVec 64) : Option Nat := placeOf (fun h => h.step == n) s.step.held

/-- The held step of a number. -/
def heldStep (s : State) (n : BitVec 64) : Option Held := s.step.held.find? (fun h => h.step == n)

/-- Whether a context's steps were opened under a partition entry that is VALID no more: the package takes no further part in them
(R314). -/
def lostEntry (s : State) (c : Ctx) : Bool :=
  (boundEntry s c).isNone && s.step.held.any (fun h => h.ctx == c && !h.alone)

/-- Whether this package is the root of a context's vote tree: rank 0, or alone without a partition entry (R298, R305),
or the acting root of a round (R336). -/
def isRoot (s : State) (c : Ctx) : Bool :=
  match boundEntry s c with
  | none => !(lostEntry s c)
  | some k =>
    let e := getPart s k
    e.ranked && !(follower s) && (decide (e.rank = 0) || (match s.step.round with
      | some r => r.actingRoot
      | none => false))

/-- This package's rank in the partition of a context. -/
def rankOf (s : State) (c : Ctx) : BitVec 14 :=
  match boundEntry s c with
  | none => 0
  | some k => (getPart s k).rank

/-- A TC0 message of the partition entry k about a step (R238). -/
def tc0Msg (s : State) (k : Nat) (kind : Nat) (attempt : BitVec 4) (cause : BitVec 8) (step : BitVec 64)
    (body : BitVec 128) : Tc0 :=
  { pid := (getPart s k).pid, mkind := BitVec.ofNat 4 kind, attempt := attempt, cause := cause
    origin := (getPart s k).rank, step := step, body := body }

/-- Whether an abort key is higher than the highest one forwarded (R239). -/
def keyHigher (step : BitVec 64) (attempt : BitVec 4) : Option (BitVec 64 × BitVec 4) → Bool
  | none => true
  | some (st, at_) => decide (st < step) || (st == step && decide (at_ < attempt))

/-- The router forwards an ABORT once per key, on every port of the flood but the arrival port (R239). -/
def floodAbort (k : Nat) (arrival : Option Nat) (msg : Tc0) (s : State) : State :=
  let e := getPart s k
  if keyHigher msg.step msg.attempt e.abortKey then
    sendTc0 (floodPorts s e arrival) msg (modPart k (fun e => { e with abortKey := some (msg.step, msg.attempt) }) s)
  else s

/-- The body of a RESOLVE or VOTE without a mask (R309): SEG 0, one message, and the outcome. -/
def outcomeBody (outcome : Nat) : BitVec 128 := BitVec.ofNat 128 (outcome * 2 ^ 72)

/-- Whether a stream's transfers are discarded on the abort epoch: not exempt and not of this epoch (R316). -/
def aeStale (x : Context) (t : StreamCtx) : Bool := !t.x && t.ae != x.ae

/-- Discards the streams of a context that a test picks: their chunks in flight leave the outstanding count and the
stream contexts go FREE. The number of chunks discarded is returned. -/
def dropStreams (c : Ctx) (p : StreamCtx → Bool) (s : State) : Nat × State :=
  let hit := s.streams.filter (fun kv => decide (kv.2.st ≠ .free) && kv.2.owner == c && p kv.2)
  let n := (hit.map (fun kv => kv.2.inflight.length)).sum
  (n, modCtx c (fun x => { x with outstanding := x.outstanding - n })
    { s with streams := hit.foldl (fun m kv => SMap.set StreamCtx.init m kv.1 StreamCtx.init) s.streams })

/-- Windows an open reduction holds: two for each internal node (R250). -/
def redWindows (r : Reduction) : Nat := if r.done then 0 else 2 * (r.nodes.filter (fun n => decide (n.lo + 1 < n.hi))).length

/-- The stream context of a reduction is FREE again, where the reduction still holds it (R281). -/
def freeRedStream (r : Reduction) (m : SMap StreamCtx) : SMap StreamCtx :=
  if (SMap.get StreamCtx.init m r.stream).key = r.key ∧ !r.done then SMap.set StreamCtx.init m r.stream StreamCtx.init else m

/-- Closes the reductions of a context (R251, R315). -/
def closeReductions (c : Ctx) (s : State) : State :=
  let gone := s.fab.reductions.filter (fun r => r.ctx == c)
  modFab (fun f => { f with
    reductions := f.reductions.filter (fun r => r.ctx != c)
    windowsUsed := f.windowsUsed - (gone.map redWindows).sum })
    { s with streams := gone.foldl (fun m r => freeRedStream r m) s.streams }

/-! ### Work that runs to its end (R145, R165, R461) -/

/-- The variant that a slot is bound to in a held step (R157, R164). -/
def slotVariant (h : Held) (slot : Nat) : Option Nat :=
  match h.variant with
  | none => none
  | some t => placeOf (fun p => decide (p.1 ≤ slot) && decide (slot < p.1 + p.2)) t.slots

/-- What an FCHECK that completes adds to its step's counts (R145, R165). -/
def checkAdd (n : Nat) (o : UnitOp) (h : Held) : Held :=
  let p := cellPosn n
  let elements := 64 * (fld o.word 8 0 + 1)
  let v := if bit o.word 21 then slotVariant h (fld o.word 20 9) else none
  match v with
  | none => { h with checks := SMap.upd CheckPair.init h.checks p (fun c => addCheck c elements o.left) }
  | some v => { h with
      checks := SMap.upd CheckPair.init h.checks p (fun c => addCheck c elements 0)
      vnon := SMap.upd 0 h.vnon (p * 1024 + v) (fun k => stopInc k o.left) }

/-- Whether an operation is an FCHECK. -/
def isFcheck (o : UnitOp) : Bool := decide (fld o.word 63 58 = 0x19) && decide (fld o.word 36 31 = 0x30)

/-- An FCHECK completes: it counts toward its step when that step is held and its vote is not cast (R145). -/
def fcheckDone (n : Nat) (o : UnitOp) (s : State) : State :=
  if isFcheck o then
    match o.step.bind (heldPlace s) with
    | some i => modHeld i (fun h => if h.st = .opened then checkAdd n o h else h) s
    | none => s
  else s

/-- The signal that an operation gives as it ends in a cell that has stopped: no fault comes of it (R76, R461). -/
def settleSignal (n : Nat) (o : UnitOp) (s : State) : State :=
  if bit o.word 53 then
    if bit o.word 52 && decide (1 < (gangCells s n).length) then
      { s with sorg := s.sorg ++ [(gangOrigin s n, fld o.word 51 49)] }
    else modCell n (fun c => bumpSem c (fld o.word 51 49)) s
  else s

/-- What a cell that is about to stop has started runs to its end: the array's cycles, the counts of an FCHECK and the
signals are those of an undisturbed end (R461). -/
def settleWork (n : Nat) (s : State) : State :=
  let c := getCell s n
  let m := c.unitM.filter UnitOp.started
  let d := c.unitD.filter UnitOp.started
  let s := modPos (cellPosn n) (fun p => { p with arrayBusy := p.arrayBusy + BitVec.ofNat 64 (m.map UnitOp.left).sum }) s
  forAll (m ++ d) (settleSignal n) (forAll d (fcheckDone n) s)

/-- Stops issue in the listed cells that satisfy a test and ends their work (R461). -/
def stopCells (p : Nat → Bool) (s : State) : State := mapCells p stopCell (forAll (listedCells s p) settleWork s)

/-- Every statistics partial that is not yet written is discarded, on every position of the package (R140). -/
def dropPartials (s : State) : State :=
  let s := mapCells (fun _ => true) (fun c => { c with partials := [] }) s
  forAll (List.range 8) (fun p => modPos p (fun q => { q with merged := [], partialQ := [] })) s

/-- The cells of a context's positions come to rest at an ABORT; the units discarded in their port FIFOs are counted
(R140, R315 stages 1 and 4). -/
def abortCells (c : Ctx) (s : State) : State :=
  let m := (getCtx s c).posns
  let n := (((s.cells.filter (fun kv => onPosns m kv.1)).map (fun kv => fifoUnits kv.2))).sum
  let s := restCells (onPosns m) abortCell (stopCells (onPosns m) s)
  let s := dropPartials { s with sorg := s.sorg.filter (fun g => !(onPosns m g.1)) }
  modStep (fun e => { e with dropped := satUp e.dropped n }) s

/-- A held step after it has resolved ABORT (R295): nothing of the attempt's vote is left. -/
def Held.toAborting (cause : BitVec 8) (h : Held) : Held :=
  { h with
    st := .aborting, cause := cause, vote := none, voteKey := none, castAt := 0, resSegs := [], abortAt := none
    outCrc := [], voted := false, recordSent := false, lag := (none, 0) }

/-- STEP_WAIT of a cast step that resolves, and STEP_LAGGARD where its subtree vote has left (R307, R343). -/
def recordWait (h : Held) (s : State) : State :=
  let us : BitVec 32 := satUp 0 ((s.mgmt.ptb - h.castAt).toNat / 1000)
  modStep (fun e => { e with
    waitLast := us, waitMax := if e.waitMax < us then us else e.waitMax
    lagChild := if h.voted then h.lag.1 else e.lagChild, lag := if h.voted then satUp 0 h.lag.2 else e.lag }) s

/-- Whether a held step follows an aborted one into ABORTING (R295). -/
def Held.abortable (c : Ctx) (h : Held) : Bool :=
  h.ctx == c && (decide (h.st = .opened) || decide (h.st = .cast))

/-- Changes every held step from a place on that satisfies a test. -/
def mapFrom (i : Nat) (p : Held → Bool) (f : Held → Held) (l : List Held) : List Held :=
  l.take i ++ (l.drop i).map (fun h => if p h then f h else h)

/-- The descriptor of the STEP_OPEN that opened a held step. -/
def Held.openDesc (h : Held) : Desc :=
  { key := 0, index := h.index, words := h.words, refetched := false, step := none, attempt := h.attempt, cells := 0 }

/-- The held step at a place enters HALTED, and its STEP_OPEN completes with a status (R317, R341). -/
def haltAt (i : Nat) (status : Nat) (detail : Held → Nat) (s : State) : State :=
  match s.step.held[i]? with
  | none => s
  | some h => finishDesc h.ctx h.openDesc status (detail h) 10 (modHeld i (fun k => { k with st := .halted }) s)

/-- A step halts with MIRROR_LOST (R341): no round goes on. -/
def haltLost (i : Nat) (s : State) : State :=
  haltAt i stMirrorLost (fun k => k.step.toNat % 2 ^ 32) (modStep (fun e => { e with round := none }) s)

/-- The round of DRAINED votes that an ABORT resolution starts (R335). -/
def newRound (h : Held) (now : BitVec 64) : Round :=
  { step := h.step, attempt := h.attempt + 1, startedAt := now, afterDecl := false
    ownDrained := false, sentUp := false, actingRoot := false, promoting := [] }

/-- Starts the round of an ABORT resolution. -/
def startRound (h : Held) (s : State) : State :=
  modStep (fun e => { e with round := some (newRound h s.mgmt.ptb) }) s

/-- A package resolves ABORT for the held step at a place and every later one: it stops the attempt's work, advances the
abort epoch, discards what carries the old one, completes the descriptors, restores the step-scoped sync objects and
raises STEP_ABORT (R287, R295, R315 stages 1 to 4, R316); cause MIRROR_LOST halts at once (R341). -/
def resolveAbort (i : Nat) (cause : BitVec 8) (s : State) : State :=
  match s.step.held[i]? with
  | none => s
  | some h =>
    if !(h.abortable h.ctx) then s
    else
      let c := h.ctx
      let s := forAll ((s.step.held.drop i).filter (fun k => k.ctx == c && decide (k.st = .cast))) recordWait s
      let s := modCtx c (fun x => { x with fetchStopped := true, ae := x.ae + 1 }) s
      let s := abortCells c s
      let r := dropStreams c (aeStale (getCtx s c)) s
      let s := modStep (fun e => { e with dropped := satUp e.dropped r.1 }) r.2
      let s := closeReductions c s
      let s := modCtx c (fun x => { x with
        replay := ((s.step.held.drop i).filter (fun k => k.ctx == c && decide (k.st ≠ .committing))).map Held.step }) s
      let s := modStep (fun e => { e with
        held := mapFrom i (Held.abortable c) (Held.toAborting cause) e.held
        cause := cause, aborts := satUp e.aborts 1, openWaitSince := none }) s
      let s := abortDescs c h.openKey h.step s
      let s := restoreSync c h.syncRec s
      let s := sendRecord c s
      let s := raise 0x0701 (hubUnit 1)
        { ctx := some c, arg0 := h.attempt.toNat + 16 * cause.toNat, arg1 := h.step.toNat } s
      if cause = causeMirrorLost then
        haltLost i (raise 0x0705 (hubUnit 1) { ctx := some c, arg1 := h.step.toNat } s)
      else startRound h s

/-- The later held steps of the context of the step at a place resolve ABORT at once (R297). -/
def resolveLater (i : Nat) (cause : BitVec 8) (s : State) : State :=
  match s.step.held[i]? with
  | none => s
  | some h =>
    match placeOf (Held.abortable h.ctx) (s.step.held.drop (i + 1)) with
    | none => s
    | some j => resolveAbort (i + 1 + j) cause s

/-- OUTCOME of a VOTE or RESOLVE. -/
def msgOutcome (m : Tc0) : Nat := fld m.body 73 72

/-- SEG of a VOTE or RESOLVE. -/
def msgSeg (m : Tc0) : Nat := fld m.body 67 64

/-- The key under which a member forwards a RESOLVE once: STEP, ATTEMPT and SEG, with the REPLAY of an attempt apart from the
attempt's resolution (R306; log entry 133). -/
def resolveKey (msg : Tc0) : BitVec 64 × BitVec 4 × BitVec 4 × Bool :=
  (msg.step, msg.attempt, BitVec.ofNat 4 (msgSeg msg), decide (msgOutcome msg = 3))

/-- The root floods a RESOLVE over a partition; it forwards none of its own that comes back (R306). -/
def floodOwn (k : Nat) (msg : Tc0) (s : State) : State :=
  let e := getPart s k
  sendTc0 (floodPorts s e none) msg (modPart k (fun e => { e with resolved := e.resolved ++ [resolveKey msg] }) s)

/-- The root resolves ABORT for a held step and floods RESOLVE (R306). -/
def rootAbort (i : Nat) (cause : BitVec 8) (s : State) : State :=
  match s.step.held[i]? with
  | none => s
  | some h =>
    let s := match boundEntry s h.ctx with
      | none => s
      | some k => floodOwn k (tc0Msg s k 3 h.attempt cause h.step (outcomeBody 2)) s
    resolveAbort i cause s

/-- What an ABORT that names the held step at a place does here (R295, R297, R306); a cast step whose partition entry is VALID no
more is left to the root (R314). -/
def abortNamed (i : Nat) (cause : BitVec 8) (s : State) : State :=
  match s.step.held[i]? with
  | none => s
  | some h =>
    match h.st with
    | .opened => if isRoot s h.ctx then rootAbort i cause s else resolveAbort i cause s
    | .cast =>
      if isRoot s h.ctx then rootAbort i cause s
      else if lostEntry s h.ctx then s
      else
        let at_ := if h.abortAt.isNone then some s.mgmt.ptb else h.abortAt
        let why := if h.abortAt.isNone then cause else h.cause
        resolveLater i cause (modHeld i (fun k => { k with abortAt := at_, cause := why }) s)
    | _ => s

/-- Injects ABORT for the held step at a place and acts on it here (R239, R296). A cause that arises in the drain of an
aborted step is charged to its next attempt (R335); a HALTED step runs no further attempt. -/
def injectAbort (i : Nat) (cause : BitVec 8) (s : State) : State :=
  match s.step.held[i]? with
  | none => s
  | some h =>
    match h.st with
    | .aborting => modStep (fun e => { e with abortNext := e.abortNext ++ [(h.step, h.attempt + 1, cause)] }) s
    | .halted => s
    | _ =>
      let s := match boundEntry s h.ctx with
        | none => s
        | some k => floodAbort k none (tc0Msg s k 1 h.attempt cause h.step 0) s
      abortNamed i cause s

/-- The place of the held step that a cause is charged to: the oldest whose vote is not cast, or the oldest unresolved
one when every vote is cast (R296). -/
def chargedPlace (s : State) : Option Nat :=
  match placeOf (fun h => decide (h.st = .opened) || decide (h.st = .aborting) || decide (h.st = .halted)) s.step.held with
  | some i => some i
  | none => placeOf unresolved s.step.held

/-- A cause to abort is charged under R296; when no step is unresolved the next step opened aborts (log entry 10). -/
def chargeCause (cause : BitVec 8) (s : State) : State :=
  match chargedPlace s with
  | some i => injectAbort i cause s
  | none => modStep (fun e => { e with clearNext := true, abortNext := e.abortNext ++ [(e.next, 0, cause)] }) s

/-- A check flag is cleared (R66, R184, R296): a cause to abort of its own. -/
def clearCheck (s : State) : State :=
  let s := match chargedPlace s with
    | some i => modHeld i (fun h => { h with check := false }) s
    | none => s
  chargeCause causeCheck s

end Sys2Proof.Machine
end

