-- ==== Sys2Proof/Machine/Doorbell.lean ====
section
/-! DEFINITION. Doorbells, descriptor fetch, the checks a descriptor passes when it starts, sync objects, NOP, SYNC and the
plain FENCE (R15, R261 to R278). -/

namespace Sys2Proof.Machine

/-! ### Function configuration (R256, R291) -/

/-- HIF_FUNC_CFG of a function. -/
def funcCfg (s : State) (f : Nat) : BitVec 64 := SMap.get 0 s.hif.funcCfg f

/-- First context of a function. -/
def fcBase (v : BitVec 64) : Nat := fld v 11 0

/-- Contexts of a function. -/
def fcCount (v : BitVec 64) : Nat := fld v 24 12

/-- First sync object of a function. -/
def fcSync (v : BitVec 64) : Nat := fld v 47 32

/-- Sync objects of a function. -/
def fcSyncCount (v : BitVec 64) : Nat := 16 * fld v 60 48

/-- The host port of a function (R254). -/
def fcPort (v : BitVec 64) : Fin 2 := if bit v 25 then 1 else 0

/-- Whether a context number lies in a function's range. -/
def inFuncRange (s : State) (f : Nat) (c : Nat) : Bool :=
  let v := funcCfg s f
  decide (fcBase v ≤ c) && decide (c < fcBase v + fcCount v)

/-- Whether a function can reach the part: PF0, or a VF while VFs are enabled on its port (R254, R255). -/
def funcLive (s : State) (f : Fin 64) : Bool :=
  decide (f = 0) || SMap.get false s.hif.vfEnabled (fcPort (funcCfg s f.val)).val

/-! ### Doorbells (R267) -/

/-- A doorbell write: to the ACTIVE context of a doorbell page, or to nothing. -/
def doorbellCtx (s : State) (f : Fin 64) (page : BitVec 12) : Option Ctx :=
  let v := funcCfg s f.val
  if funcLive s f && decide (page.toNat < fcCount v) then
    let c := BitVec.ofNat 12 (fcBase v + page.toNat)
    if (getCtx s c).st = .active then some c else none
  else none

/-- DOORBELL_BAD for a doorbell page (R462). -/
def doorbellBad (c : Ctx) (off v : Nat) (s : State) : State :=
  raise 0x0602 (hubUnit 0) { ctx := some c, arg0 := off + 65536 * v } s

/-- Whether a DB_TAIL value is accepted (R267). -/
def tailOk (x : Context) (t : Nat) : Bool :=
  let size := 2 ^ x.dlog2
  decide (t < size) && decide ((t + size - x.fetch) % size ≤ (x.release + 2 * size - 1 - x.fetch) % size)

/-- Whether a head value is accepted: below the ring's size, and not past the write index. -/
def headOk (log2 head write v : Nat) : Bool :=
  let size := 2 ^ log2
  decide (v < size) && decide ((v + size - head) % size ≤ (write + size - head) % size)

/-- DB_TAIL (R267). -/
def execDoorbellTail (f : Fin 64) (page : BitVec 12) (v : BitVec 32) (s : State) : Out :=
  match doorbellCtx s f page with
  | none => .next s
  | some c =>
    let t := fld v 15 0
    if tailOk (getCtx s c) t then .next (modCtx c (fun x => { x with tail := t }) s)
    else .next (doorbellBad c 0x000 t s)

/-- DB_CHEAD (R267). -/
def execDoorbellChead (f : Fin 64) (page : BitVec 12) (v : BitVec 32) (s : State) : Out :=
  match doorbellCtx s f page with
  | none => .next s
  | some c =>
    let x := getCtx s c
    let t := fld v 15 0
    if headOk x.clog2 x.cplHead x.cplWrite t then .next (modCtx c (fun x => { x with cplHead := t }) s)
    else .next (doorbellBad c 0x004 t s)

/-- DB_EHEAD (R267). -/
def execDoorbellEhead (f : Fin 64) (page : BitVec 12) (v : BitVec 32) (s : State) : Out :=
  match doorbellCtx s f page with
  | none => .next s
  | some c =>
    let x := getCtx s c
    let t := fld v 15 0
    if headOk x.elog2 x.evtHead x.evtWrite t then .next (modCtx c (fun x => { x with evtHead := t }) s)
    else .next (doorbellBad c 0x008 t s)

/-! ### Fetch (R268) -/

/-- Completion slots that can still be reserved: reserved slots and unread records together stay below the size less 1. -/
def freeSlots (x : Context) : Nat :=
  let size := 2 ^ x.clog2
  let reserved := x.fetched.length + x.started.length + (if x.starting.isSome then 1 else 0)
  (size - 1) - (reserved + (x.cplWrite + size - x.cplHead) % size)

/-- How many entries one read request of a context covers: up to 64, not past the ring's end or TAIL, and no more than
have a completion slot and room among the descriptors started. -/
def fetchCount (x : Context) : Nat :=
  let size := 2 ^ x.dlog2
  if x.st = .active && !x.fetchStopped && decide (x.started.length + x.starting.toList.length < 1024) then
    min (min 64 (size - x.fetch)) (min ((x.tail + size - x.fetch) % size) (freeSlots x))
  else 0

/-- Whether an entry was started before: it lies between RELEASE and the end of what has started (R287). -/
def wasStarted (s : State) (c : Ctx) (idx : Nat) : Bool :=
  let x := getCtx s c
  let size := 2 ^ x.dlog2
  match x.refetchEnd with
  | none => false
  | some e =>
    s.step.held.any (fun h => h.ctx == c && unresolved h)
      && decide ((idx + size - x.release) % size < (e + size - x.release) % size)

/-- One entry read from the ring. -/
def readDesc (s : State) (c : Ctx) (key idx : Nat) : Desc :=
  let x := getCtx s c
  { key := key, index := BitVec.ofNat 16 idx, words := BitVec.ofNat 512 (leNat (hostRead s (x.dring.toNat + 64 * idx) 64))
    refetched := wasStarted s c idx, step := none, attempt := 0, cells := 0 }

/-- DESCRIPTOR_FETCH: the next context in turn reads the descriptors posted to it (R23, R268). -/
def execDescriptorFetch (s : State) : Out :=
  match roundRobin s.hif.fetchPtr 4096 (fun c => decide (0 < fetchCount (SMap.get Context.init s.hif.ctxs c))) with
  | none => .next s
  | some i =>
    let c := BitVec.ofNat 12 i
    let x := getCtx s c
    let n := fetchCount x
    let ds := (List.range n).map (fun k => readDesc s c (s.hif.nextKey + k) (x.fetch + k))
    let s := modHif (fun h => { h with fetchPtr := (i + 1) % 4096, nextKey := h.nextKey + n }) s
    let s := modCtx c (fun x => { x with fetched := x.fetched ++ ds, fetch := (x.fetch + n) % 2 ^ x.dlog2 }) s
    .next (headWriteBack c s)

/-! ### Checks of a descriptor that starts (R15, R265, R278) -/

/-- Bits [hi:lo] at a byte offset, as a mask of the 64 bytes. -/
def maskAt (off hi lo : Nat) : Nat := (2 ^ (hi + 1 - lo) - 1) * 2 ^ (8 * off + lo)

/-- The bits of [0x10, 0x40) that a family's field map lists, and its OPF bit. -/
def bodyMask (w : BitVec 512) : Nat :=
  let streamHead := 2 ^ 16 + maskAt 0x10 25 0
  match dOpcode w with
  | 0x01 => 2 ^ 16 + maskAt 0x10 63 0 + maskAt 0x18 63 0 + maskAt 0x20 39 0
  | 0x02 =>
    if dfld w 0x10 23 20 = 1 then
      streamHead + maskAt 0x14 15 0 + maskAt 0x18 13 0 + maskAt 0x18 29 16 + maskAt 0x18 39 32 + maskAt 0x20 47 0
        + maskAt 0x28 47 0 + maskAt 0x30 39 0 + maskAt 0x38 63 0
    else
      streamHead + maskAt 0x18 63 0 + maskAt 0x20 63 0 + maskAt 0x28 39 0 + maskAt 0x30 31 0 + maskAt 0x34 31 0
  | 0x03 => maskAt 0x10 5 0 + maskAt 0x10 10 8 + maskAt 0x10 23 16 + maskAt 0x20 255 0
  | 0x04 =>
    maskAt 0x10 3 0 + maskAt 0x10 31 8 + maskAt 0x18 47 0 + maskAt 0x20 255 0
      + (if dfld w 0x10 3 0 = 3 then maskAt 0x14 13 0 else maskAt 0x14 11 0 + maskAt 0x14 27 16)
  | 0x05 => 2 ^ 16
  | 0x06 => maskAt 0x10 18 0 + maskAt 0x14 13 0 + maskAt 0x18 31 0
  | 0x07 => maskAt 0x10 63 0 + maskAt 0x18 47 0 + maskAt 0x20 39 0
  | 0x08 => maskAt 0x10 63 0 + maskAt 0x18 47 0 + maskAt 0x20 255 0
  | 0x09 => maskAt 0x10 3 0 + maskAt 0x10 11 8 + maskAt 0x18 47 0 + maskAt 0x20 47 0 + maskAt 0x28 39 0
  | 0x0A => maskAt 0x10 5 0 + maskAt 0x18 63 0 + maskAt 0x20 13 0 + maskAt 0x28 47 0
  | 0x0B => maskAt 0x10 63 0 + maskAt 0x18 47 0
  | 0x0C => maskAt 0x10 0 0 + maskAt 0x18 63 0 + maskAt 0x20 13 0 + maskAt 0x28 47 0
  | 0x0D => maskAt 0x10 47 0
  | _ => 0

/-- The bits of the header that are always defined: all but OPF. -/
def headMask : Nat := maskAt 0 15 0 + maskAt 0 31 24 + maskAt 4 31 0 + maskAt 8 63 0

/-- The byte that holds the lowest reserved bit set, if any (log entry 17). -/
def reservedAt (w : BitVec 512) : Option Nat :=
  let ok := headMask + bodyMask w
  (List.range 64).find? (fun b =>
    let v := bitsOf w.toNat (8 * b + 7) (8 * b)
    let m := bitsOf ok (8 * b + 7) (8 * b)
    decide (v &&& m ≠ v))

/-- Whether a locator is one of the kinds allowed, with its unused bits 0 and its address a multiple of 64 (R278). -/
def locatorOk (v : Nat) (peerOk : Bool) : Bool :=
  let kind := bitsOf v 63 62
  let used := match kind with
    | 0 => decide (bitsOf v 61 48 = 0)
    | 1 => decide (bitsOf v 61 57 = 0)
    | 2 => peerOk
    | _ => false
  used && decide (v % 64 = 0)

/-- Offending body fields that give BAD_DESCRIPTOR, by byte offset (R265, R278 to R286). A REDUCE names no side, and what it sends
travels on TC1: its TC is 0 or 1 (DESIGN CHOICE, log entry 123). -/
def badFields (w : BitVec 512) : List Nat :=
  let bad := fun (c : Bool) (off : Nat) => if c then [off] else []
  let l := fun (off : Nat) => dfld w off 63 0
  match dOpcode w with
  | 0x01 =>
    bad (!(locatorOk (l 0x10) false)) 0x10 ++ bad (!(locatorOk (l 0x18) false)) 0x18
      ++ bad (decide (dfld w 0x10 63 62 = 1) && decide (dfld w 0x18 63 62 = 1)) 0x18
      ++ bad (decide (dfld w 0x20 39 0 = 0) || decide (dfld w 0x20 39 0 % 64 ≠ 0)) 0x20
  | 0x02 =>
    match dfld w 0x10 23 20 with
    | 0 =>
      let peer := decide (dfld w 0x18 63 62 = 2) || decide (dfld w 0x20 63 62 = 2)
      bad (!(locatorOk (l 0x18) true)) 0x18 ++ bad (!(locatorOk (l 0x20) true)) 0x20
        ++ bad (peer != decide (dfld w 0x10 25 24 ≠ 0)) 0x13
        ++ bad (decide (dfld w 0x28 39 0 = 0) || decide (dfld w 0x28 39 0 % 64 ≠ 0)) 0x28
        ++ bad (decide (dfld w 0x34 31 0 < dfld w 0x30 31 0)) 0x34
    | 1 =>
      bad (decide (1 < dfld w 0x10 25 24)) 0x13 ++ bad (decide (2 < dfld w 0x18 35 32) || decide (2 < dfld w 0x18 39 36)) 0x1C
        ++ bad (decide (dfld w 0x20 47 0 % 64 ≠ 0)) 0x20 ++ bad (decide (dfld w 0x28 47 0 % 64 ≠ 0)) 0x28
        ++ bad (decide (dfld w 0x38 47 0 % 64 ≠ 0)) 0x38 ++ bad (decide (dfld w 0x38 63 48 = 0)) 0x3E
    | _ => [0x12]
  | 0x03 => bad (decide (dfld w 0x20 255 0 = 0)) 0x20
  | 0x04 =>
    match dfld w 0x10 3 0 with
    | 1 =>
      bad (decide (4095 < dfld w 0x14 11 0 + dfld w 0x14 27 16)) 0x14
        ++ bad (decide (dfld w 0x20 255 0 = 0)) 0x20
    | 2 => bad (decide (dfld w 0x18 47 0 % 64 ≠ 0)) 0x18 ++ bad (decide (dfld w 0x20 255 0 = 0)) 0x20
    | 3 => bad (decide (dfld w 0x14 1 0 = 3)) 0x14
    | 4 => []
    | _ => [0x10]
  | 0x06 => bad (decide (3 < dfld w 0x10 18 16)) 0x12
  | 0x09 =>
    bad (decide (dfld w 0x10 3 0 = 0) || decide (4 < dfld w 0x10 3 0)) 0x10
      ++ bad (decide (dfld w 0x28 39 0 % 4096 ≠ 0)) 0x28
  | 0x0A => bad (decide (dfld w 0x10 3 0 = 0) || decide (2 < dfld w 0x10 3 0)) 0x10
  | 0x0B => bad (decide (dfld w 0x18 47 0 % 64 ≠ 0)) 0x18
  | 0x0D => bad (decide (dfld w 0x10 47 0 % 64 ≠ 0)) 0x10
  | _ => []

/-- Offending body fields that name something the context does not hold, by byte offset (R83, R261, R265, R277, R280,
R283). -/
def targetFields (x : Context) (w : BitVec 512) : List Nat :=
  let bad := fun (c : Bool) (off : Nat) => if c then [off] else []
  let held := fun (n : Nat) => bit x.posns n
  match dOpcode w with
  | 0x02 => bad (decide (131040 ≤ dfld w 0x10 16 0)) 0x10 ++ bad (!(held (dfld w 0x10 19 17))) 0x12
  | 0x03 => bad (!(held (dfld w 0x10 10 8))) 0x11
  | 0x04 =>
    let m := BitVec.ofNat 8 (dfld w 0x10 15 8)
    let src := dfld w 0x18 47 0
    bad (if dfld w 0x10 3 0 = 3 then m != x.posns else decide (m &&& x.posns ≠ m)) 0x11
      ++ (match dfld w 0x10 3 0 with
        | 1 => bad (!(reaches x src (8 * (dfld w 0x14 27 16 + 1)))) 0x18
        | 2 => bad (!(reaches x src 576)) 0x18
        | _ => [])
  | 0x06 => bad (decide (dfld w 0x10 18 16 < 3) && !(inSyncRange x (dfld w 0x10 15 0))) 0x10
  | _ => []

/-- The families that need the step engine (R261). -/
def needsStep (opcode : Nat) : Bool := [0x07, 0x08, 0x09, 0x0A, 0x0B, 0x0C, 0x0D].contains opcode

/-- The offences of a descriptor against the rules of every family: byte offset and status (R15, R265). -/
def offences (x : Context) (w : BitVec 512) : List (Nat × Nat) :=
  let bad := fun (c : Bool) (off st : Nat) => if c then [(off, st)] else []
  bad (decide (0x0E < dOpcode w)) 0 stBadDescriptor
    ++ bad (decide (dVer w ≠ x.ver.toNat)) 1 stBadDescriptor
    ++ bad (dWait w && !(inSyncRange x (dWaitSync w))) 4 stBadTarget
    ++ bad (dSig w && !(inSyncRange x (dSigSync w))) 6 stBadTarget
    ++ (match reservedAt w with
      | some b => [(b, stBadDescriptor)]
      | none => [])
    ++ (badFields w).map (fun o => (o, stBadDescriptor)) ++ (targetFields x w).map (fun o => (o, stBadTarget))

/-- The offence at the lowest offset. -/
def firstOffence : List (Nat × Nat) → Option (Nat × Nat)
  | [] => none
  | a :: t =>
    match firstOffence t with
    | none => some a
    | some b => if b.1 < a.1 then some b else some a

/-- Whether a refetched descriptor completes OK at once (R287). -/
def refetchOk (w : BitVec 512) : Bool :=
  match dOpcode w with
  | 0x01 => dOpf0 w
  | 0x02 => dOpf0 w
  | 0x04 => true
  | 0x09 => true
  | 0x0A => true
  | 0x0B => true
  | 0x0C => true
  | 0x0D => true
  | _ => false

/-- The newest held step of a context (R299); a step that a replay has not reopened yet does not count (R287, log entry
42). -/
def newestHeld (s : State) (c : Ctx) : Option Held :=
  (s.step.held.filter (fun h => h.ctx == c && !((getCtx s c).replay.contains h.step))).getLast?

/-- The front descriptor leaves the fetched ones and starts: it belongs to the newest held step, and the checks of R265 and
R261 complete it or hand it to its family. -/
def startFront (c : Ctx) (d : Desc) (s : State) : State :=
  let h := newestHeld s c
  let pulled := match h with
    | some k => s.step.pulled.contains k.step
    | none => false
  let before := d.refetched
  let d := { d with step := h.map Held.step, attempt := (h.map Held.attempt).getD 0, refetched := d.refetched || pulled }
  let size := 2 ^ (getCtx s c).dlog2
  let s := modCtx c (fun x => { x with
    fetched := x.fetched.drop 1, waiting := none, starting := some d
    refetchEnd := if before then x.refetchEnd else some ((d.index.toNat + 1) % size) }) s
  let x := getCtx s c
  if d.refetched && refetchOk d.words then finishStarting c d stOk 0 s
  else
    match firstOffence (offences x d.words) with
    | some (off, st) => finishStarting c d st off s
    | none => if needsStep (dOpcode d.words) && !x.holdsStep then finishStarting c d stBadTarget 0 s else s

/-- A front descriptor that ends before it starts. -/
def failFront (c : Ctx) (d : Desc) (status detail : Nat) (s : State) : State :=
  let size := 2 ^ (getCtx s c).dlog2
  let s := modCtx c (fun x => { x with
    fetched := x.fetched.drop 1, waiting := none
    refetchEnd := if d.refetched then x.refetchEnd else some ((d.index.toNat + 1) % size) }) s
  finishDesc c { d with attempt := ((newestHeld s c).map Held.attempt).getD 0 } status detail 0 s

/-- DESCRIPTOR_START: the front descriptor waits on its sync object, fails on its ERROR, or starts (R265, R269, R274). -/
def execDescriptorStart (ctx : Ctx) (s : State) : Out :=
  let x := getCtx s ctx
  match x.fetched with
  | [] => .next s
  | d :: _ =>
    if decide (x.st ≠ .active) || x.starting.isSome || x.fetchStopped then .next s
    else if dWait d.words && inSyncRange x (dWaitSync d.words) then
      let o := getSync s (dWaitSync d.words)
      let latched := match x.waiting with
        | some wr => wr.reached
        | none => false
      if o.error && !latched then .next (failFront ctx d stSyncError (dWaitSync d.words) s)
      else if latched || syncReached o (dWaitValue d.words) then .next (startFront ctx d s)
      else
        match x.waiting with
        | some _ => .next s
        | none => .next (modCtx ctx (fun x => { x with waiting := some { since := s.mgmt.ptb, reached := false } }) s)
    else .next (startFront ctx d s)

/-! ### Sync objects (R274, R277) -/

/-- A context that waits on an object sees an update: ERROR ends the wait, a reached target is kept (R274). -/
def waiterSees (o : Nat) (c : Ctx) (s : State) : State :=
  let x := getCtx s c
  match x.waiting, x.fetched with
  | some wr, d :: _ =>
    if dWaitSync d.words = o then
      if wr.reached then s
      else if (getSync s o).error then failFront c d stSyncError o s
      else if syncReached (getSync s o) (dWaitValue d.words) then
        modCtx c (fun x => { x with waiting := some { wr with reached := true } }) s
      else s
    else s
  | _, _ => s

/-- Removes the first update of a requester for an object. -/
def takeUpdate (o : BitVec 16) (r : Nat) : List SyncUpd → Option (SyncUpd × List SyncUpd)
  | [] => none
  | u :: t =>
    if u.obj == o && u.requester == r then some (u, t)
    else (takeUpdate o r t).map (fun p => (p.1, u :: p.2))

/-- SYNC_OBJECT_UPDATE: the object's arbiter grants one update, and every wait on the object is evaluated (R23, R274). -/
def execSyncObjectUpdate (obj : BitVec 16) (s : State) : Out :=
  let o := obj.toNat
  match roundRobin (SMap.get 0 s.hif.syncPtr o) 11 (fun r => s.hif.syncQ.any (fun u => u.obj == obj && u.requester == r)) with
  | none => .next s
  | some r =>
    match takeUpdate obj r s.hif.syncQ with
    | none => .next s
    | some (u, rest) =>
      let s := modHif (fun h => { h with
        syncQ := rest, syncPtr := SMap.set 0 h.syncPtr o ((r + 1) % 11)
        sync := SMap.upd SyncObj.init h.sync o (fun v => syncApply v u.op) }) s
      .next (forAll (s.hif.ctxs.map Prod.fst) (fun k => waiterSees o (BitVec.ofNat 12 k)) s)

/-- SYNC_TIMEOUT: a wait has lasted for HIF_SYNC_WAIT.LIMIT (R274). -/
def execSyncTimeout (ctx : Ctx) (s : State) : Out :=
  let x := getCtx s ctx
  match x.waiting, x.fetched with
  | some wr, d :: _ =>
    if wr.reached then .next s
    else
      let lim := fld s.hif.syncWait 23 0
      let s := advanceTo (wr.since + msec (if lim = 0 then 10000 else lim)) s
      .next (failFront ctx d stSyncTimeout (dWaitSync d.words) s)
  | _, _ => .next s

/-- A SYNC descriptor with a given OP on an object of the context (R277). -/
def syncRow (ctx : Ctx) (op : Nat) (upd : BitVec 32 → SyncOp) (s : State) : State :=
  match startingOf s ctx 0x06 with
  | none => s
  | some d =>
    let w := d.words
    if dfld w 0x10 18 16 = op then
      let o := dfld w 0x10 15 0
      if inSyncRange (getCtx s ctx) o then
        finishStarting ctx d stOk 0 (syncRequest o 0 (upd (BitVec.ofNat 32 (dfld w 0x18 31 0))) s)
      else finishStarting ctx d stBadTarget 0x10 s
    else s

/-- SET VALUE (R277). -/
def execSyncSetValue (ctx : Ctx) (s : State) : Out := .next (syncRow ctx 0 SyncOp.setValue s)

/-- ADD (R277). -/
def execSyncAdd (ctx : Ctx) (s : State) : Out := .next (syncRow ctx 1 SyncOp.add s)

/-- CLEAR_ERR (R277). -/
def execSyncClearErr (ctx : Ctx) (s : State) : Out := .next (syncRow ctx 2 (fun _ => .clearErr) s)

/-- REMOTE_ADD: a TC0 SYNC message to the package of a rank (R277). -/
def execSyncRemoteAdd (ctx : Ctx) (s : State) : Out :=
  match startingOf s ctx 0x06 with
  | none => .next s
  | some d =>
    let w := d.words
    if dfld w 0x10 18 16 = 3 then
      let rank := dfld w 0x14 13 0
      match boundEntry s ctx with
      | none => .next (finishStarting ctx d stBadTarget 0x10 s)
      | some k =>
        let e := getPart s k
        if (SMap.get 0 e.map rank).getLsbD 15 then
          let body := BitVec.ofNat 128 (dfld w 0x10 15 0 + 2 ^ 32 * dfld w 0x18 31 0)
          .next (finishStarting ctx d stOk 0 (sendTc0Rank e rank (tc0Msg s k 5 0 0 0 body) s))
        else .next (finishStarting ctx d stBadTarget 0x14 s)
    else .next s

/-- A remote add arrives on behalf of the context bound to the entry of its PID (R277). -/
def syncArrives (pid : BitVec 12) (obj : BitVec 16) (value : BitVec 32) (s : State) : State :=
  match entryOfPid s pid with
  | none => modFab (fun f => { f with drop := satUp f.drop 1 }) s
  | some k =>
    let c := (getPart s k).ctx
    if inSyncRange (getCtx s c) obj.toNat then syncRequest obj.toNat 9 (.add value) s
    else raise 0x0603 (hubUnit 0) { ctx := some c, arg0 := obj.toNat } s

/-- SYNC_MESSAGE_RECEIVE (R277). -/
def execSyncMessageReceive (pid : BitVec 12) (obj : BitVec 16) (value : BitVec 32) (s : State) : Out :=
  .next (syncArrives pid obj value s)

/-! ### NOP and FENCE (R276, R286) -/

/-- NOP completes as soon as it starts (R286). -/
def execNopDescriptor (ctx : Ctx) (s : State) : Out :=
  match startingOf s ctx 0x00 with
  | none => .next s
  | some d => .next (finishStarting ctx d stOk 0 s)

/-- Whether every earlier descriptor of a context has completed. -/
def allComplete (s : State) (c : Ctx) : Bool := (getCtx s c).started.isEmpty

/-- FENCE without STEP: it completes when every earlier descriptor of its context has (R276). -/
def execFence (ctx : Ctx) (s : State) : Out :=
  match startingOf s ctx 0x05 with
  | none => .next s
  | some d =>
    if !(dOpf0 d.words) && allComplete s ctx then .next (finishStarting ctx d stOk 0 s) else .next s

end Sys2Proof.Machine
end

