-- ==== Sys2Proof/Machine/Fence.lean ====
section
/-! DEFINITION. The STEP fence: staged registers and modes take effect, pending shadows are applied or discarded, and every
cell of the context comes to rest (R85, R144, R283, R284, R404, R440). -/

namespace Sys2Proof.Machine

/-! ### Staged registers (R440) -/

/-- Replaces bits [15:0] of FAB_PORT_CFG in force by the value last written. -/
def applyPort (p : FabPort) : FabPort := { p with cfg := p.cfgW }

/-- Whether a slot holds statistics that no record has taken: a merged partial, or a cell partial that is not empty. -/
def slotHeld (s : State) (n slot : Nat) : Bool :=
  decide (0 < (SMap.get Merged.init (getPos s n).merged slot).count)
    || (getPos s n).partialQ.any (fun m => decide (m.slot = slot) && decide (m.p ≠ Partial.init))
    || s.cells.any (fun kv => decide (cellPosn kv.1 = n) && decide (SMap.get Partial.init kv.2.partials slot ≠ Partial.init))

/-- STAT_SLOT_CFG of a position at a fence: a new value waits while its slot holds statistics (R144). -/
def applySlots (s : State) (n : Nat) (p : Pos) : Pos :=
  { p with slotCfg := (p.slotCfg ++ p.slotCfgW).foldl (fun m kv =>
      if slotHeld s n kv.1 then m else SMap.set slotCfgInit m kv.1 (SMap.get slotCfgInit p.slotCfgW kv.1)) p.slotCfg }

/-- STAT_RING_BASE and STAT_RING_CTRL of a position at a fence: a new base or size empties the ring (R144); a value written
again that is the one in force is not new (DESIGN CHOICE, log entry 113). -/
def applyRing (p : Pos) : Pos :=
  let fresh := p.ringBase != p.ringBaseW || decide (fld p.ringCtrl 4 0 ≠ fld p.ringCtrlW 4 0)
  { p with
    ringBase := p.ringBaseW, ringCtrl := p.ringCtrlW
    ringHead := if fresh then 0 else p.ringHead
    ringTail := if fresh then 0 else p.ringTail }

/-- Every staged write that waits takes effect, whichever context fences (R440). -/
def applyStaged (s : State) : State :=
  { s with
    memRegs := { s.memRegs with rasCfg := s.memRegs.rasCfgW, ufw := s.memRegs.ufwW }
    posns := (s.posns.map Prod.fst).foldl (fun m n =>
      SMap.upd Pos.init m n (fun p => applyRing (applySlots s n p))) s.posns
    pkg := { s.pkg with edgeCfg := s.pkg.edgeCfgW }
    fab := { s.fab with ports := (s.fab.ports.map Prod.fst).foldl (fun m p => SMap.upd FabPort.init m p applyPort) s.fab.ports }
    step := { s.step with cfg := s.step.cfgW, csync := s.step.csyncW }
    ras := { s.ras with
      wdog := s.ras.wdogW, spareCfg := s.ras.spareCfgW
      shadowCfg := setFld s.ras.shadowCfg 31 16 s.ras.shadowAdmitW.toNat }
    bank := { s.bank with watchCfg := s.bank.watchCfgW, thr := s.bank.thrW }
    pwr := { s.pwr with cap := s.pwr.capW, warn := s.pwr.warnW, kindle := s.pwr.kindleW } }

/-! ### Modes (R284, R404) -/

/-- One MODE word staged over another: a field whose SET bit is set replaces the one staged before (log entry 25). -/
def mergeMode (old new : BitVec 16) : BitVec 16 :=
  let take := fun (setBit hi lo : Nat) (w : BitVec 16) =>
    if bit new setBit then setFld (setFld w hi lo (fld new hi lo)) setBit setBit 1 else w
  take 13 12 12 (take 11 10 10 (take 9 8 8 (take 7 6 5 (take 4 3 3 (take 2 1 0 old)))))

/-- The modes that a MODE word asks for. -/
def modesAfter (m : Modes) (w : BitVec 16) : Modes :=
  { draught := if bit w 2 then (match fld w 1 0 with
      | 0 => .opened
      | 1 => .steady
      | _ => .damped) else m.draught
    mirror := if bit w 4 then bit w 3 else m.mirror
    depth := if bit w 7 then fld w 6 5 + 1 else m.depth
    shadow := if bit w 9 then bit w 8 else m.shadow
    autoBank := if bit w 11 then bit w 10 else m.autoBank
    stats := if bit w 13 then bit w 12 else m.stats }

/-- Whether the package runs under the -C limits of R5 (R6). -/
def limitsC (s : State) : Bool :=
  !s.fuses.gradeE || (match stepHolder s with
    | none => false
    | some c => match boundEntry s c with
      | none => false
      | some k => (getPart s k).gradeC)

/-- This package's mirror partner by the install table in force. -/
def ownPartner (s : State) : Option Nat := s.fab.selfIdx.bind (partnerOf (tableBytes s))

/-- The package that mirrors this one: as paired, or as the install table names it (R302, R338). -/
def mirrorPartner (s : State) : Option Nat :=
  if s.step.mirror = .unpaired then ownPartner s else some s.step.partner.toNat

/-- Whether a MODE word is refused (R6, R36, R303, R344, R404). -/
def modeRefused (s : State) (w : BitVec 16) : Bool :=
  let m := modesAfter s.pwr.modes w
  (limitsC s && m.mirror && decide (m.depth = 4))
    || (m.mirror && (ownPartner s).isNone)
    || (bit w 4 && bit w 3 && decide (s.step.mirror ≠ .synced))
    || (bit w 9 && bit w 8 && decide (shadowRole s ≠ 1))

/-- Puts modes in force; FRAC reads 64 outside DAMPED (R401). -/
def setModes (m : Modes) (s : State) : State :=
  { s with pwr := { s.pwr with modes := m, frac := if m.draught = .damped then s.pwr.frac else 64 } }

/-- The refusal of a fence's stage 3 (R85): the status of the staged word, which is dropped in every case. -/
def applyModes (c : Ctx) (s : State) : Option (Nat × Nat) × State :=
  let w := SMap.get 0 s.pwr.staged c.toNat
  let s1 := { s with pwr := { s.pwr with staged := SMap.set 0 s.pwr.staged c.toNat 0 } }
  if w = 0 then (none, s)
  else if modeRefused s w then (some (stModeUnsupported, w.toNat), s1)
  else (none, setModes (modesAfter s.pwr.modes w) s1)

/-! ### Shadows (R85, R283) -/

/-- The cells of a gang setting on a position. -/
def gangMembers (n : Nat) (g : Gang) : List Nat :=
  let d := shapeDims g.shape
  (List.range d.1).flatMap (fun i => (List.range d.2).map (fun j =>
    cellAt n ((g.x0.toNat + j) % 16) ((g.y0.toNat + i) % 16)))

/-- The first cell of a position whose shadow gang is not named alike by every cell of the gang. -/
def gangClash (s : State) (n : Nat) : Option Nat :=
  ((List.range 256).map (fun k => n * 256 + k)).find? (fun k =>
    match (getCell s k).shadow.gang with
    | none => false
    | some g => !((gangMembers n g).all (fun m => decide ((getCell s m).shadow.gang = some g))))

/-- DETAIL of BAD_CONFIG for a cell: y·16 + x, and POSN in [10:8] (R273). -/
def cellDetail (k : Nat) : Nat := k % 256 + 256 * cellPosn k

/-- Stage 4 and 5 of a STEP fence on one position: APPLY, or FENCE; the cell that discards a shadow, if one does. -/
def fencePosn (n : Nat) (s : State) : Option Nat × State :=
  let here := fun k => decide (cellPosn k = n)
  match (getPos s n).shadowEpoch with
  | none => (none, restCells here fenceCell s)
  | some e =>
    match gangClash s n with
    | some k => (some k, restCells here fenceCell (modPos n (fun p => { p with shadowEpoch := none }) s))
    | none => (none, restCells here applyCell (modPos n (fun p => { p with activeEpoch := e, shadowEpoch := none }) s))

/-- Stages 4 and 5 on every position of a context. -/
def fencePosns : List Nat → State → Option Nat × State
  | [], s => (none, s)
  | n :: t, s =>
    let a := fencePosn n s
    let b := fencePosns t a.2
    (if a.1.isSome then a.1 else b.1, b.2)

/-- Whether every cell sequencer of a context is idle. -/
def cellsIdle (s : State) (c : Ctx) : Bool :=
  s.cells.all (fun kv => !(onPosns (getCtx s c).posns kv.1) || kv.2.run.isNone)

/-- A STEP fence that has drained: its completion status and DETAIL, and the state after it (R85). -/
def stepFence (c : Ctx) (s : State) : (Nat × Nat) × State :=
  let a := applyModes c s
  let b := fencePosns (maskPosns (getCtx s c).posns) a.2
  let st := match a.1, b.1 with
    | some r, _ => r
    | none, some k => (stBadConfig, cellDetail k)
    | none, none => (stOk, 0)
  (st, applyStaged b.2)

/-- FENCE with STEP: it starts when every earlier descriptor has completed and every cell is idle (R85, R276). -/
def execStepFence (ctx : Ctx) (s : State) : Out :=
  match startingOf s ctx 0x05 with
  | none => .next s
  | some d =>
    if dOpf0 d.words && allComplete s ctx && cellsIdle s ctx then
      let r := stepFence ctx s
      .next (finishStarting ctx d r.1.1 r.1.2 r.2)
    else .next s

end Sys2Proof.Machine
end

