-- ==== Sys2Proof/Machine/Configure.lean ====
section
/-! DEFINITION. The descriptors that place work and configuration in the cells: TILE, the four kinds of CONFIG, and
VARIANT (R68, R82 to R86, R156 to R158, R282, R283). -/

namespace Sys2Proof.Machine

/-! ### TILE (R68, R86, R282) -/

/-- The epoch a TILE was compiled for: EPOCH_HI·256 + EPOCH_LO. -/
def tileEpoch (w : BitVec 512) : BitVec 16 := BitVec.ofNat 16 (dfld w 0x10 23 16 * 256 + fld w 31 24)

/-- TILE: every named cell is given the body to run (R68). -/
def execTile (ctx : Ctx) (s : State) : Out :=
  match startingOf s ctx 0x03 with
  | none => .next s
  | some d =>
    let cells := BitVec.ofNat 256 (dfld d.words 0x20 255 0)
    let t : TileWait :=
      { ctx := ctx, key := d.key, pid := BitVec.ofNat 6 (dfld d.words 0x10 5 0), epoch := tileEpoch d.words
        step := d.step, since := s.mgmt.ptb }
    let s := keepStarting ctx { d with cells := cells } s
    .next (forAll (maskCells (dfld d.words 0x10 10 8) cells) (fun n => modCell n (fun c => { c with tiles := c.tiles ++ [t] })) s)

/-! ### CONFIG (R82 to R84, R283, R284) -/

/-- The starting CONFIG of a given kind. -/
def startingConfig (s : State) (c : Ctx) (kind : Nat) : Option Desc :=
  (startingOf s c 0x04).filter (fun d => dfld d.words 0x10 3 0 = kind)

/-- The positions a CONFIG names. -/
def configPosns (w : BitVec 512) : List Nat := maskPosns (BitVec.ofNat 8 (dfld w 0x10 15 8))

/-- The cells a CONFIG names, on every named position. -/
def configCells (w : BitVec 512) : List Nat :=
  (configPosns w).flatMap (fun n => maskCells n (BitVec.ofNat 256 (dfld w 0x20 255 0)))

/-- The first slot that a load of a cell would write inside a body of its active program table (R83). -/
def bodyClash (s : State) (slot len n : Nat) : Option Nat :=
  ((getCell s n).cfg.table.filterMap (fun kv => kv.2)).foldl (fun m e =>
    if e.first < slot + len ∧ slot < e.first + e.len then some (min (m.getD 4096) (max e.first slot)) else m) none

/-- The lowest of some slots. -/
def lowest (l : List (Option Nat)) : Option Nat :=
  l.foldl (fun m o => match m, o with
    | some a, some b => some (min a b)
    | none, b => b
    | a, none => a) none

/-- Whether a descriptor names HBM before the layout is locked (R178). -/
def unlocked (s : State) (a : Nat) : Bool := !s.memRegs.lock && isHbm a

/-- PROGRAM_BODY: copies instructions into program memory of the named cells at once (R82, R83). -/
def execProgramBody (ctx : Ctx) (s : State) : Out :=
  match startingConfig s ctx 1 with
  | none => .next s
  | some d =>
    let w := d.words
    let slot := dfld w 0x14 11 0
    let len := dfld w 0x14 27 16 + 1
    let src := dfld w 0x18 47 0
    if unlocked s src then .next (finishStarting ctx d stMemUnlocked 0 s)
    else
      match lowest ((configCells w).map (bodyClash s slot len)) with
      | some k => .next (finishStarting ctx d stConfigConflict k s)
      | none =>
        let bs := memRead s src (8 * len)
        let words := (List.range len).map (fun i => BitVec.ofNat 64 (leAt bs (8 * i) 8))
        let from_ := (List.range len).map (fun i => src + 8 * i + 1)
        let s := forAll (configCells w) (fun n s => { s with
          prog := SMap.writeRun 0 s.prog (n * 4096 + slot) words
          progSrc := SMap.writeRun 0 s.progSrc (n * 4096 + slot) from_ }) s
        .next (finishStarting ctx d stOk 0 s)

/-- Whether a position takes a CONFIG of target epoch E (R84). -/
def epochTaken (s : State) (e : BitVec 16) (n : Nat) : Bool :=
  let p := getPos s n
  match p.shadowEpoch with
  | none => e == p.activeEpoch + 1
  | some f => e == f

/-- The DETAIL of BAD_EPOCH (R273). -/
def epochDetail (s : State) (n : Nat) : Nat :=
  let p := getPos s n
  p.activeEpoch.toNat + 65536 * (p.shadowEpoch.getD 0).toNat

/-- Opens the shadow of a position with an epoch, when none is open: every cell's active configuration is copied (R84). -/
def openShadow (e : BitVec 16) (n : Nat) (s : State) : State :=
  match (getPos s n).shadowEpoch with
  | some _ => s
  | none =>
    mapCells (fun k => decide (cellPosn k = n)) (fun c => { c with shadow := c.cfg })
      (modPos n (fun p => { p with shadowEpoch := some e }) s)

/-- What a CONFIG of target epoch E does on the positions it names: BAD_EPOCH when one refuses it, and nothing is written;
else the shadows open (R84; log entry 26). -/
def openShadows (e : BitVec 16) (posns : List Nat) (s : State) : Nat ⊕ State :=
  match posns.find? (fun n => !(epochTaken s e n)) with
  | some n => .inl (epochDetail s n)
  | none => .inr (forAll posns (openShadow e) s)

/-- A gang shape code (R283). -/
def shapeOfCode : Nat → Option Shape
  | 0 => some .s1x1
  | 1 => some .s1x2
  | 2 => some .s2x2
  | 3 => some .s2x4
  | 4 => some .s4x4
  | _ => none

/-- The reserved bits of an image word by its byte offset, for the items ITEMS selects (R283). -/
def imageMask (off : Nat) : Nat :=
  if off = 0 then 0xF
  else if off < 0x40 then 0
  else if off < 0x140 then 0xFFF + 0x1FFF * 2 ^ 12 + 2 ^ 31
  else if off = 0x140 then 0x7 + 0xFF * 2 ^ 8
  else if off < 0x180 then 0
  else if off < 0x1C0 then 0x1FFFF + 3 * 2 ^ 24
  else if off < 0x238 then 0x0F3F0F3F
  else 0

/-- Whether ITEMS selects the item a byte offset of the image lies in; the header is always examined (log entry 27). -/
def imageItem (items off : Nat) : Bool :=
  if off < 0x40 then true
  else if off < 0x140 then decide (bitsOf items 0 0 = 1)
  else if off < 0x180 then decide (bitsOf items 1 1 = 1)
  else if off < 0x1C0 then decide (bitsOf items 2 2 = 1)
  else decide (bitsOf items 3 3 = 1)

/-- The byte offsets of an image that offend: a reserved bit, and a program-table entry out of range (R283). -/
def imageBad (bs : List Byte) : List Nat :=
  let items := leAt bs 0 1 % 16
  (List.range 144).flatMap (fun i =>
    let off := 4 * i
    let v := leAt bs off 4
    if imageItem items off then
      let extra := v - (v &&& imageMask off)
      (if extra = 0 then [] else [off + ((List.range 4).find? (fun b => decide (bitsOf extra (8 * b + 7) (8 * b) ≠ 0))).getD 0])
        ++ (if 0x40 ≤ off ∧ off < 0x140 ∧ bitsOf v 31 31 = 1 then
            if bitsOf v 24 12 = 0 then [off + 1]
            else if 4096 < bitsOf v 11 0 + bitsOf v 24 12 then [off] else []
          else [])
    else [])

/-- The least of a list of offsets. -/
def leastOf : List Nat → Option Nat
  | [] => none
  | a :: t => some (t.foldl min a)

/-- The gang setting of an image. -/
def imageGang (bs : List Byte) : Option Gang :=
  let v := leAt bs 0x140 4
  (shapeOfCode (bitsOf v 2 0)).map (fun sh =>
    { shape := sh, x0 := BitVec.ofNat 4 (bitsOf v 11 8), y0 := BitVec.ofNat 4 (bitsOf v 15 12) })

/-- Whether a gang setting obeys R47 for a cell that names it. -/
def gangFits (g : Option Gang) (n : Nat) : Bool :=
  match g with
  | none => false
  | some g =>
    let d := shapeDims g.shape
    let x0 := g.x0.toNat
    let y0 := g.y0.toNat
    decide (x0 % d.2 = 0) && decide (y0 % d.1 = 0) && decide (x0 ≤ cellX n) && decide (cellX n < x0 + d.2)
      && decide (y0 ≤ cellY n) && decide (cellY n < y0 + d.1)

/-- The program table of an image. -/
def imageTable (bs : List Byte) : SMap (Option ProgEntry) :=
  (List.range 64).foldl (fun m p =>
    let v := leAt bs (0x40 + 4 * p) 4
    if bitsOf v 31 31 = 1 then SMap.set none m p (some { first := bitsOf v 11 0, len := bitsOf v 24 12 }) else m) []

/-- The stream ports of an image. -/
def imagePorts (bs : List Byte) : SMap PortCfg :=
  (List.range 16).foldl (fun m k =>
    let v := leAt bs (0x180 + 4 * k) 4
    SMap.set PortCfg.init m k
      { sctx := BitVec.ofNat 17 (bitsOf v 16 0), out := decide (bitsOf v 24 24 = 1), en := decide (bitsOf v 25 25 = 1) }) []

/-- One fused vector list of an image: operations up to the one that ends it. -/
def imageList (bs : List Byte) (l : Nat) : List (BitVec 6 × BitVec 4) :=
  ((List.range 4).map (fun i =>
    let v := leAt bs (0x1C0 + 8 * (l - 1) + 2 * i) 2
    (BitVec.ofNat 6 (bitsOf v 5 0), BitVec.ofNat 4 (bitsOf v 11 8)))).takeWhile (fun o => o ≠ (0, 0))

/-- The fused vector lists of an image. -/
def imageLists (bs : List Byte) : SMap (List (BitVec 6 × BitVec 4)) :=
  (List.range 15).foldl (fun m k => SMap.set [] m (k + 1) (imageList bs (k + 1))) []

/-- Writes the items an image selects into a shadow configuration (R81, R283). -/
def writeItems (bs : List Byte) (c : CellCfg) : CellCfg :=
  let items := leAt bs 0 1
  { table := if bitsOf items 0 0 = 1 then imageTable bs else c.table
    gang := if bitsOf items 1 1 = 1 then imageGang bs else c.gang
    ports := if bitsOf items 2 2 = 1 then imagePorts bs else c.ports
    vlists := if bitsOf items 3 3 = 1 then imageLists bs else c.vlists }

/-- The DETAIL of BAD_CONFIG for an image and the cells named, if it is refused (R47, R283). -/
def imageRefused (bs : List Byte) (cells : List Nat) : Option Nat :=
  match leastOf (imageBad bs) with
  | some o => some (0x80000000 + o)
  | none =>
    if bitsOf (leAt bs 0 1) 1 1 = 1 then (cells.find? (fun n => !(gangFits (imageGang bs) n))).map cellDetail else none

/-- CELL_CONFIG: writes the items of an image into the shadow of every named cell (R82, R84, R283). -/
def execCellConfig (ctx : Ctx) (s : State) : Out :=
  match startingConfig s ctx 2 with
  | none => .next s
  | some d =>
    let w := d.words
    let src := dfld w 0x18 47 0
    if unlocked s src then .next (finishStarting ctx d stMemUnlocked 0 s)
    else
      let bs := memRead s src 576
      match openShadows (BitVec.ofNat 16 (dfld w 0x10 31 16)) (configPosns w) s with
      | .inl k => .next (finishStarting ctx d stBadEpoch k s)
      | .inr t =>
        match imageRefused bs (configCells w) with
        | some k => .next (finishStarting ctx d stBadConfig k s)
        | none =>
          .next (finishStarting ctx d stOk 0 (forAll (configCells w) (fun n =>
            modCell n (fun c => { c with shadow := writeItems bs c.shadow })) t))

/-- MODES: stages the mode changes under target epoch E (R82, R84, R284). -/
def execModes (ctx : Ctx) (s : State) : Out :=
  match startingConfig s ctx 3 with
  | none => .next s
  | some d =>
    let w := d.words
    match openShadows (BitVec.ofNat 16 (dfld w 0x10 31 16)) (configPosns w) s with
    | .inl k => .next (finishStarting ctx d stBadEpoch k s)
    | .inr t =>
      let word := BitVec.ofNat 16 (dfld w 0x14 15 0)
      let pwr := { t.pwr with staged := SMap.upd 0 t.pwr.staged ctx.toNat (fun old => mergeMode old word) }
      .next (finishStarting ctx d stOk 0 { t with pwr := pwr })

/-- DISCARD: drops the pending shadow and its epoch on the named positions (R82; log entry 28). -/
def execDiscard (ctx : Ctx) (s : State) : Out :=
  match startingConfig s ctx 4 with
  | none => .next s
  | some d =>
    .next (finishStarting ctx d stOk 0 (forAll (configPosns d.words)
      (fun n => modPos n (fun p => { p with shadowEpoch := none })) s))

/-! ### VARIANT (R156 to R158) -/

/-- Offending byte offsets of a variant block for the positions a context holds: reserved bits, NVAR 0, and slot ranges
and owners out of range. -/
def variantBad (posns : BitVec 8) (bs : List Byte) : List Nat :=
  let nvar := leAt bs 0 2 % 2048
  let head := (List.range 64).filter (fun b =>
    let v := leAt bs b 1
    if b = 0 then decide (nvar = 0) || decide (1024 < nvar) else if b = 1 then decide (8 ≤ v) else decide (v ≠ 0))
  let vars := (List.range 1024).filterMap (fun v =>
    let o := 0x40 + 8 * v
    let w := leAt bs o 8
    if nvar ≤ v then (if w = 0 then none else some o)
    else if w / 2 ^ 25 ≠ 0 then some (o + 3)
    else if 4096 < bitsOf w 11 0 + bitsOf w 24 12 then some o
    else if 4096 < bitsOf w 24 12 then some o else none)
  let maps := (List.range 2048).filterMap (fun k =>
    let o := 0x2040 + 2 * k
    let h := leAt bs o 2
    if !(bit posns (k / 256)) then (if h = 0 then none else some o)
    else if bitsOf h 14 10 ≠ 0 then some (o + 1)
    else if bitsOf h 15 15 = 1 ∧ nvar ≤ bitsOf h 9 0 then some o else none)
  head ++ vars ++ maps

/-- The slot ranges of a variant block. -/
def variantSlots (bs : List Byte) : List (Nat × Nat) :=
  (List.range (leAt bs 0 2 % 2048)).map (fun v =>
    let w := leAt bs (0x40 + 8 * v) 8
    (bitsOf w 11 0, bitsOf w 24 12))

/-- Whether two slot ranges share a slot. -/
def rangesMeet (a b : Nat × Nat) : Bool :=
  decide (0 < a.2) && decide (0 < b.2) && decide (a.1 < b.1 + b.2) && decide (b.1 < a.1 + a.2)

/-- The offset of the first variant whose slot range overlaps that of an earlier one. -/
def slotsMeet (l : List (Nat × Nat)) : Option Nat :=
  (placeOf (fun p => (l.take p.2).any (rangesMeet p.1)) (l.zip (List.range l.length))).map (fun v => 0x40 + 8 * v)

/-- The variant table of a block (R157). -/
def variantTable (bs : List Byte) : VariantTable :=
  { nvar := leAt bs 0 2 % 2048, slots := variantSlots bs
    owner := (List.range 2048).foldl (fun m k =>
      let h := leAt bs (0x2040 + 2 * k) 2
      if bitsOf h 15 15 = 1 then SMap.set none m k (some (bitsOf h 9 0)) else m) [] }

/-- VARIANT: binds a variant table to the step open in its context, the newest held one; where that one is not OPEN, no step is open
(R156 to R158). It starts as a fence when every earlier descriptor of its context has completed. -/
def execVariant (ctx : Ctx) (s : State) : Out :=
  match startingOf s ctx 0x0D with
  | none => .next s
  | some d =>
    let a := dfld d.words 0x10 47 0
    if !(allComplete s ctx) then .next s
    else match d.step.bind (heldPlace s) with
    | none => .next (finishStarting ctx d stBadVariant 0 s)
    | some i =>
      let refuse := fun (o : Nat) =>
        let s := finishStarting ctx d stBadVariant o s
        Host.Outcome.next (injectAbort i causeProgram s)
      match s.step.held[i]? with
      | none => .next (finishStarting ctx d stBadVariant 0 s)
      | some h =>
        if h.st ≠ .opened then .next (finishStarting ctx d stBadVariant 0 s)
        else
        let bs := memRead s a 12352
        let inside := decide (h.emberBase ≤ a) && decide (a + 12352 ≤ h.emberBase + h.emberBytes)
        if h.variant.isSome || !inside || !(reaches (getCtx s ctx) a 12352) then refuse 0
        else
          match leastOf (variantBad (getCtx s ctx).posns bs ++ (slotsMeet (variantSlots bs)).toList) with
          | some o => refuse o
          | none => .next (finishStarting ctx d stOk 0 (modHeld i (fun h => { h with variant := some (variantTable bs) }) s))

end Sys2Proof.Machine
end

