-- ==== Sys2Proof/Machine/Partition.lean ====
section
/-! DEFINITION. Coordinates, routes and partition entries: what setting VALID checks, the rank map, the partition bitmaps,
and how a packet leaves the package (R230, R232, R233, R242 to R246). -/

namespace Sys2Proof.Machine

/-! ### Partition bitmaps (R243) -/

/-- The PIDs that are VALID here. -/
def validPids (s : State) : List (BitVec 12) := (s.fab.parts.filter (fun kv => kv.2.valid)).map (fun kv => kv.2.pid)

/-- Sends the bitmap of valid PIDs on ports, in LINKCTL. -/
def sendBitmaps (ports : List Nat) (s : State) : State :=
  let b := validPids s
  forAll ports (fun p => sendLink p (.bitmap b))
    (modFab (fun f => { f with bitmaps := f.bitmaps ++ ports.map (fun p => (p, b)) }) s)

/-- The UP ports. -/
def upPorts (s : State) : List Nat := (List.range 24).filter (portUp s)

/-! ### Setting VALID (R242) -/

/-- Whether a coordinate range lies on an axis and holds the own coordinate. -/
def boxFits (t : List Byte) (box : BitVec 64) (own : Nat) : Bool :=
  (List.range 3).all (fun ax =>
    let b := boxAxis box ax
    decide (0 < b.2.1) && decide (b.1 + b.2.1 ≤ ringLen t ax) && inAxis box ax (ringLen t ax) (along t own ax))

/-- The index at a coordinate along an axis, on the ring through another index. -/
def onRing (t : List Byte) (own axis c : Nat) : Nat :=
  let o := coordOf t own
  match axis with
  | 0 => indexOf t c o.2.1 o.2.2
  | 1 => indexOf t o.1 c o.2.2
  | _ => indexOf t o.1 o.2.1 c

/-- Whether every axis that wraps outside its box has its transit pairs, on the rings through this package. -/
def transitsOk (t : List Byte) (box : BitVec 64) (own : Nat) : Bool :=
  (List.range 3).all (fun ax =>
    let b := boxAxis box ax
    let ring := ringLen t ax
    !b.2.2 || decide (ring ≤ b.2.1) || (List.range ring).all (fun c =>
      inAxis box ax ring c || hasTransit t (onRing t own ax c) ax))

/-- The direction groups that a box's routes use at an index: those that R233 takes toward some coordinate of the box (R242). -/
def groupsUsed (t : List Byte) (box : BitVec 64) (own : Nat) : List Nat :=
  (List.range 6).filter (fun g =>
    let ax := g / 2
    let ring := ringLen t ax
    let a := along t own ax
    (List.range ring).any (fun b =>
      inAxis box ax ring b && decide (b ≠ a) && (goesPositive box ax ring a b false == decide (g % 2 = 0))))

/-- DEGRADED_OK of the table (R240). -/
def degradedOk (t : List Byte) : Bool := decide (bitsOf (leAt t 8 4) 0 0 = 1)

/-- Whether every group the routes use has enough UP ports. -/
def linksOk (s : State) (box : BitVec 64) (own : Nat) : Bool :=
  let t := tableBytes s
  let need := if degradedOk t then 1 else 4
  (groupsUsed t box own).all (fun g =>
    decide (need ≤ (((List.range 4).map (fun k => 4 * g + k)).filter (portUp s)).length))

/-- The rank map at a DPA: the halfwords of its 16,384 ranks that are not 0. -/
def readMap (s : State) (dpa : Nat) : SMap (BitVec 16) :=
  let bs := memRead s dpa 32768
  SMap.run 0 0 ((List.range 16384).map (fun r => BitVec.ofNat 16 (leAt bs (2 * r) 2)))

/-- The coordinate indices that a map names as valid. -/
def mapCoords (m : SMap (BitVec 16)) : List Nat :=
  (m.filter (fun kv => kv.2.getLsbD 15)).map (fun kv => fld kv.2 13 0)

/-- Whether a rank map is good for an entry: inside the bound context's windows, every coordinate inside the box. -/
def mapOk (s : State) (e : Part) (m : SMap (BitVec 16)) : Bool :=
  let t := tableBytes s
  let d := dims t
  reaches (getCtx s e.ctx) e.rmap.toNat 32768
    && (mapCoords m).all (fun i => decide (i < d.1 * d.2.1 * d.2.2) && inBox t e.box i)

/-- A coordinate and the spares on its chain, up to four links (R242, R337). -/
def spareChain (t : List Byte) : Nat → Nat → List Nat
  | 0, i => [i]
  | n + 1, i => i :: (match spareOf t i with
    | none => []
    | some j => spareChain t n j)

/-- GRADE_C of a rank map (R242). -/
def gradeOf (t : List Byte) (m : SMap (BitVec 16)) : Bool :=
  (mapCoords m).any (fun i => (spareChain t 4 i).any (fun j => decide (entryField t j 0x14 4 8 8 = 0)))

/-- The RESULT of setting VALID in an entry: the first check of R242 that fails, or 0. -/
def validResult (s : State) (k : Nat) : Nat :=
  let e := getPart s k
  let t := tableBytes s
  if s.fab.parts.any (fun kv => decide (kv.1 ≠ k) && kv.2.valid && kv.2.pid == e.pid) then 3
  else
    match s.fab.selfIdx with
    | none => 2
    | some own =>
      let m := readMap s e.rmap.toNat
      if !(boxFits t e.box own) then 2
      else if !(transitsOk t e.box own) then 4
      else if !(linksOk s e.box own) then 1
      else if !(mapOk s e m) then 5
      else if gradeOf t m && s.pwr.modes.mirror && decide (s.pwr.modes.depth = 4) then 6
      else 0

/-- Sets VALID in an entry when every check passes: GRADE_C is computed, the rank map copied, and the bitmaps sent. -/
def setValid (k : Nat) (s : State) : State :=
  let r := validResult s k
  if r = 0 then
    let m := readMap s (getPart s k).rmap.toNat
    let s := modPart k (fun e => { e with
      valid := true, result := 0, gradeC := gradeOf (tableBytes s) m, map := m, abortKey := none, resolved := [] }) s
    sendBitmaps (upPorts s) s
  else modPart k (fun e => { e with result := BitVec.ofNat 3 r }) s

/-- Clears VALID in an entry, and sends the bitmaps. -/
def clearValid (k : Nat) (s : State) : State :=
  if (getPart s k).valid then
    let s := modPart k (fun e => { e with valid := false }) s
    sendBitmaps (upPorts s) s
  else s

/-- Writes FAB_PART_RMAP of an entry; while VALID is 1 the map is reloaded. -/
def writeRmap (k : Nat) (v : BitVec 64) (s : State) : State :=
  let s := modPart k (fun e => { e with rmap := BitVec.ofNat 48 (fld v 47 0) }) s
  if (getPart s k).valid then modPart k (fun e => { e with map := readMap s e.rmap.toNat }) s else s

/-! ### Losing a rank (R333) -/

/-- This package gives up the rank it holds in an entry: it casts nothing in that partition any more. -/
def loseRankIn (k : Nat) (s : State) : State :=
  let e := getPart s k
  if e.valid && e.ranked then
    let s := modPart k (fun e => { e with ranked := false }) s
    raise 0x0803 (hubUnit 1) { ctx := some e.ctx, pid := some e.pid }
      { s with ras := { s.ras with spareState := .rankLost, spareRank := e.rank } }
  else s

/-- A fault that costs the rank: ABORT with cause LOSS, then every rank the package holds is given up (R323, R333). -/
def loseRanks (s : State) : State :=
  if s.fab.parts.any (fun kv => kv.2.valid && kv.2.ranked) then
    forAll (s.fab.parts.map Prod.fst) loseRankIn (chargeCause causeLoss s)
  else s

/-- The selector copy of a master: 0 PF0, 1 to 4 the firmware cores, 5 test access; no other master has one (R438). -/
def selIndex : Master → Option Nat
  | .pf0h0 => some 0
  | .pf0h1 => some 0
  | .core k => some (1 + k.val)
  | .test => some 5
  | .tray => none
  | .vf _ => none
  | .base _ => none
  | .guest _ => none

/-- The selectors a master uses. -/
def selectors (s : State) (m : Master) : Option Selectors := (selIndex m).map (SMap.get Selectors.init s.sel)

/-- The partition entry a master has selected. -/
def selPart (s : State) (m : Master) : Option Nat := (selectors s m).map (fun x => fld x.fabPart 3 0)

/-- PARTITION_VALID_SET: FAB_PART_CFG.VALID is written 1 in the selected entry while it reads 0 (R242). -/
def execPartitionValidSet (m : Master) (s : State) : Out :=
  match selPart s m with
  | none => .next s
  | some k => if (getPart s k).valid then .next s else .next (setValid k s)

/-- PARTITION_VALID_CLEAR (R242, R243). -/
def execPartitionValidClear (m : Master) (s : State) : Out :=
  match selPart s m with
  | none => .next s
  | some k => .next (clearValid k s)

/-- RANK_MAP_RELOAD: FAB_PART_RMAP of the selected entry is written (R242). -/
def execRankMapReload (m : Master) (v : BitVec 64) (s : State) : Out :=
  match selPart s m with
  | none => .next s
  | some k => .next (writeRmap k v s)

end Sys2Proof.Machine
end

