-- ==== Sys2Proof/Machine/Hbm.lean ====
section
/-! DEFINITION. Stripes, pseudo-channels and the remap table: where a DPA lies, what a failed burst does, and the commands of
the memory controllers (R180, R182 to R191). -/

namespace Sys2Proof.Machine

/-! ### Where a DPA lies (R180) -/

/-- Home slots of a pseudo-channel. -/
def homeSlots : Nat := 193536

/-- Logical stripes of a position. -/
def stripesPerPosn : Nat := 12386304

/-- Entries of a remap table. -/
def remapEntries : Nat := 196608

/-- The position and logical stripe of an HBM address. -/
def stripeOf (s : State) (a : Nat) : Option (Nat × Nat) :=
  match place s a with
  | .local_ n off => some (n, off / 4096)
  | .wide off =>
    let p := (compPosns s).length
    let j := off / 4096
    ((compPosns s)[j % p]?).map (fun n => (n, localStripes s + j / p))
  | _ => none

/-- The position of a DPA. -/
def placePosn (s : State) (a : Nat) : Option Nat :=
  match place s a with
  | .local_ n _ => some n
  | .wide _ => (stripeOf s a).map Prod.fst
  | .stage n _ => some n
  | .cell n _ => some (cellPosn n)
  | .unmapped => none

/-- The DPA of a logical stripe of a position, if the layout maps one. -/
def stripeDpa (s : State) (n l : Nat) : Option Nat :=
  if l < localStripes s then some (localBase n + 4096 * l)
  else
    match placeOf (fun m => decide (m = n)) (compPosns s) with
    | none => none
    | some i => if l < stripesPerPosn then some (wideBase + 4096 * ((l - localStripes s) * (compPosns s).length + i)) else none

/-- The home pseudo-channel and slot of a logical stripe. -/
def homeOf (l : Nat) : Nat × Nat := (2 * (l % 32) + l / 32 % 2, l / 64)

/-- The logical stripe whose home is a slot. -/
def homeStripe (q slot : Nat) : Nat := 64 * slot + 32 * (q % 2) + q / 2

/-- The pseudo-channel of a reserve stripe. -/
def reserveChan (r : Nat) : Nat := r / 3072

/-- The remap entry that holds a logical stripe. -/
def remapOf (p : Pos) (l : Nat) : Option Nat :=
  (p.remap.find? (fun kv => decide (kv.2.st = .mapped) && decide (kv.2.home.toNat = l))).map Prod.fst

/-- A pseudo-channel of a position. -/
def getChan (p : Pos) (q : Nat) : PChan := SMap.get PChan.init p.pchan q

/-- Changes a pseudo-channel. -/
def modChan (n q : Nat) (f : PChan → PChan) (s : State) : State :=
  modPos n (fun p => { p with pchan := SMap.upd PChan.init p.pchan q f }) s

/-- The pseudo-channel a logical stripe lies in now. -/
def chanOf (p : Pos) (l : Nat) : Nat :=
  match remapOf p l with
  | some r => reserveChan r
  | none => (homeOf l).1

/-- Whether a logical stripe is withdrawn: in the list, or at or past its pseudo-channel's mark (R185, R189). -/
def withdrawn (p : Pos) (l : Nat) : Bool :=
  p.withdrawn.contains l || ((remapOf p l).isNone && (match (getChan p (homeOf l).1).wfrom with
    | some w => decide (w ≤ (homeOf l).2)
    | none => false))

/-- Whether a logical stripe's home slot lies at or past its pseudo-channel's withdrawal mark. -/
def pastMark (p : Pos) (l : Nat) : Bool :=
  match (getChan p (homeOf l).1).wfrom with
  | some w => decide (w ≤ (homeOf l).2)
  | none => false

/-- Logical stripes that the marks withdraw: home slots past WFROM, but for stripes that a reserve slot holds (R185, R189). -/
def markHoles (p : Pos) : Nat :=
  (p.pchan.map (fun kv => match kv.2.wfrom with
    | some w => homeSlots - w
    | none => 0)).sum - (p.remap.filter (fun kv => decide (kv.2.st = .mapped) && pastMark p kv.2.home.toNat)).length

/-- MEM_CAP.MAPPED: logical stripes not withdrawn. -/
def mappedStripes (p : Pos) : Nat :=
  stripesPerPosn - markHoles p - (p.withdrawn.filter (fun l => !(pastMark p l && (remapOf p l).isNone))).length

/-- Whether accesses to a pseudo-channel are held (R187, R188). -/
def chanHeld (c : PChan) : Bool := decide (c.st = .retrain) || decide (c.st = .limp) || decide (c.st = .mapout)

/-- Whether a DPA lies in a pseudo-channel whose accesses are held, and if so the position and channel (R187, R188). -/
def heldChan (s : State) (a : Nat) : Option (Nat × Nat) :=
  match stripeOf s a with
  | some (n, l) =>
    let q := chanOf (getPos s n) l
    if chanHeld (getChan (getPos s n) q) then some (n, q / 2) else none
  | none => none

/-- The status that ends a transfer at a DPA, if one does: no range holds it, its stripe is withdrawn, or its position is in
reset or out of service (R177, R185, R196). -/
def dpaStop (s : State) (a : Nat) : Option Nat :=
  if place s a = .unmapped then some stStreamAddr
  else if (stripeOf s a).any (fun x => withdrawn (getPos s x.1) x.2) then some stStreamWithdrawn
  else
    match placePosn s a with
    | some n => if (getPos s n).st = .enabled ∨ (getPos s n).st = .guest then none else some stDomainReset
    | none => none

/-! ### Retrain (R187) -/

/-- What a slot of a pseudo-channel holds for a patrol read: a logical stripe, or the number of a reserve stripe that holds
none. A home slot is that of its stripe, wherever the stripe lies now. -/
inductive SlotStripe where
  | logical (l : Nat)
  | reserve (r : Nat) (free : Bool)
deriving DecidableEq, Repr

/-- The stripe of a slot (R179, R185). -/
def slotStripe (p : Pos) (q slot : Nat) : SlotStripe :=
  if slot < homeSlots then .logical (homeStripe q slot)
  else
    let r := 3072 * q + (slot - homeSlots)
    let e := SMap.get Remap.init p.remap r
    if e.st = .mapped then .logical e.home.toNat else .reserve r (decide (e.st = .free))

/-- The bytes of reserve slot 196,607 of a pseudo-channel, where it holds a logical stripe. -/
def saveSlot (s : State) (n q : Nat) : List Byte :=
  match slotStripe (getPos s n) q 196607 with
  | .logical l => (match stripeDpa s n l with
    | some a => memRead s a 4096
    | none => [])
  | .reserve _ _ => []

/-- A channel that runs is held and retrained, in both pseudo-channels; the save buffer takes their reserve slots 196,607
(R187). -/
def retrainChannel (n ch : Nat) (s : State) : State :=
  let qs := [2 * ch, 2 * ch + 1].filter (fun q => decide ((getChan (getPos s n) q).st = .normal))
  if qs.isEmpty then s
  else
    let s := forAll qs (fun q t => modPos n (fun p => { p with saveBuf := SMap.set [] p.saveBuf q (saveSlot s n q) })
      (modChan n q (fun c => { c with st := .retrain, retrains := satUp c.retrains 1 }) t)) s
    occur .retrain (raise 0x0303 (posUnit n (0x40 + 2 * ch)) { posn := some n } s)

/-- The saved bursts of a pseudo-channel are written back bit for bit (R187). -/
def writeBack (n q : Nat) (s : State) : State :=
  let bs := SMap.get [] (getPos s n).saveBuf q
  let s := modPos n (fun p => { p with saveBuf := SMap.set [] p.saveBuf q [] }) s
  match slotStripe (getPos s n) q 196607 with
  | .logical l => (match stripeDpa s n l with
    | some a => if bs.isEmpty then s else { s with mem := SMap.writeRun 0 s.mem a bs }
    | none => s)
  | .reserve _ _ => s

/-- CHANNEL_RETRAIN: the drift monitor or firmware triggers a retrain of a channel (R187). -/
def execChannelRetrain (posn : Posn) (ch : Fin 32) (s : State) : Out := .next (retrainChannel posn.val ch.val s)

/-! ### Bursts (R182 to R184) -/

/-- Counts a corrected burst of a channel, and retrains the channel when it corrects more than RETRAIN_CE in 1 ms (R187). -/
def countChannel (n ch : Nat) (s : State) : State :=
  let now := s.mgmt.ptb
  let recent := ((SMap.get [] (getPos s n).chanCe ch).filter (fun t => decide ((now - t).toNat < 1000000))) ++ [now]
  let s := modPos n (fun p => { p with chanCe := SMap.set [] p.chanCe ch recent }) s
  let lim := fld s.memRegs.rasCfg 15 0
  if lim ≠ 0 ∧ lim < recent.length then retrainChannel n ch s else s

/-- Counts a burst corrected by the controller, for its pseudo-channel, its channel, its stripe and the error-rate watch
(R183, R186, R187, R348). -/
def countCorrected (n q : Nat) (l : Option Nat) (s : State) : State :=
  let s := modChan n q (fun c => { c with ce := satUp c.ce 1 }) s
  let s := match l with
    | some l => modPos n (fun p => { p with stripeCe := SMap.upd 0 p.stripeCe l (fun c => c + 1) }) s
    | none => s
  countChannel n (q / 2) (occur .mem s)

/-- Counts a read the stack reports as corrected (R182). -/
def countOnDie (n q : Nat) (s : State) : State := modChan n q (fun c => { c with odce := satUp c.odce 1 }) s

/-- The controller counts a failed burst and records its stripe in the UE history (R184). -/
def countFailed (n q l : Nat) (s : State) : State :=
  modChan n q (fun c => { c with ue := satUp c.ue 1, ueHist := (c.ueHist ++ [l]).reverse.take 16 |>.reverse }) s

/-- Records a failed burst: the count, the UE history, the stripe that waits for its remap, and the event (R183, R184). -/
def recordFailed (n q l arg1 : Nat) (s : State) : State :=
  let s := modPos n (fun p => { p with
    failedStripes := if p.failedStripes.contains l then p.failedStripes else p.failedStripes ++ [l] }) (countFailed n q l s)
  raise 0x0301 (posUnit n (0x40 + q)) { posn := some n, arg0 := q, arg1 := arg1 } s

/-- A burst of HBM has failed: it fails at every later read until it is written (R184). -/
def markFailed (a : Nat) (s : State) : State :=
  if s.failed.contains (a / 64) then s else { s with failed := s.failed ++ [a / 64] }

/-- A failed burst of mapped content: it also clears the check flag (R184). -/
def failedBurst (n l a : Nat) (s : State) : State :=
  clearCheck (recordFailed n (chanOf (getPos s n) l) l a (markFailed a s))

/-- What the decoder reports for a burst: a burst that has failed before fails again (R184), and so does every burst of a
pseudo-channel that fails at 4.8 Gb/s too (R188). -/
def burstResult (s : State) (n q : Nat) (a : Option Nat) (r : BurstResult) : BurstResult :=
  if (getChan (getPos s n) q).dead || a.any (fun a => s.failed.contains (a / 64)) then .failed else r

/-- The bursts of a run that are not clean: those listed, and those that have failed before. -/
def burstsOf (s : State) (a len : Nat) (errs : List BurstErr) : List BurstErr :=
  let known := (List.range (len / 64)).filter (fun i =>
    s.failed.contains (a / 64 + i) && !(errs.any (fun e => decide (e.burst = i))))
  errs.filter (fun e => decide (e.burst < len / 64)) ++ known.map (fun i => ⟨i, false, .failed⟩)

/-- One burst of a logical stripe that a requester reads: whether it failed, and the counts (R182 to R184). -/
def readBurst (n l a : Nat) (e : BurstErr) (s : State) : Bool × State :=
  let q := chanOf (getPos s n) l
  let s := if e.onDie then countOnDie n q s else s
  match burstResult s n q (some a) e.result with
  | .clean => (false, s)
  | .corrected => (false, countCorrected n q (some l) s)
  | .failed => (true, failedBurst n l a s)

/-- The bursts of a stripe's run at a DPA, in order: whether one failed (R182 to R184). -/
def readBursts (n l a : Nat) : List BurstErr → State → Bool × State
  | [], s => (false, s)
  | e :: t, s =>
    let r := readBurst n l (a + 64 * e.burst) e s
    let u := readBursts n l a t r.2
    (r.1 || u.1, u.2)

/-- The contexts that hold a position, or the step engine while one does. -/
def shrinkContexts (n : Nat) (s : State) : State :=
  modHif (fun h => { h with ctxs := h.ctxs.map (fun kv =>
    if kv.2.st ≠ .free ∧ (kv.2.posns.getLsbD n ∨ kv.2.holdsStep) then (kv.1, { kv.2 with shrunk := true }) else kv) }) s

/-- Capacity has shrunk: the event, and every step the package votes on ends in ABORT until a RESTORE (R189). -/
def shrink (n first : Nat) (s : State) : State :=
  let s := raise 0x0306 (posUnit n (0x40 + (homeOf first).1))
    { posn := some n, arg0 := mappedStripes (getPos s n), arg1 := first } s
  chargeCause causeCapacity (shrinkContexts n s)

/-! ### Restoring content (R190) -/

/-- Whether two areas have a byte in common. -/
def meets (a la b lb : Nat) : Bool := decide (a < b + lb) && decide (b < a + la)

/-- Whether a byte range meets the mirrored areas: an owned area, an area mirrored for the partner, or the ember of a held
step. -/
def mirroredArea (s : State) (a len : Nat) : Bool :=
  s.step.entries.any (fun kv => match kv.2 with
      | some e => meets a len e.own e.length
      | none => false)
    || s.step.peerEntries.any (fun kv => match kv.2 with
      | some e => meets a len e.mir e.length
      | none => false)
    || s.step.held.any (fun h => meets a len h.emberBase h.emberBytes)

/-- The step engine declares MIRROR_LOST: persistent state no longer exists (R190, R313, R341). -/
def declareMirrorLost (s : State) : State :=
  let c := stepHolder s
  let s := modStep (fun e => { e with mirror := .lost }) s
  chargeCause causeMirrorLost (raise 0x0705 (hubUnit 1) { ctx := c } s)

/-- Whether a commit of persistent state is in progress here, in owner or partner role (R190). -/
def commitRunning (s : State) : Bool :=
  s.step.held.any (fun h => decide (h.st = .committing) && !h.ownerDone)
    || s.step.peerSteps.any (fun p => p.resolved && !p.skip && !p.partnerDone)

/-- The content that a restored stripe takes: the pulled bytes of its mirrored part, and zeros (R190). -/
def restoredBytes (s : State) (a : Nat) (l : List (Nat × Byte)) : List Byte :=
  (List.range 4096).map (fun i =>
    if mirroredArea s (a + i) 1 then ((l.find? (fun c => decide (c.1 = a + i))).map Prod.snd).getD 0 else 0)

/-- Restores a stripe: the other copy of its mirrored bytes, as the step engine pulls it over TC2, MIRROR_LOST where there
should be one and is none, and zeros for every other byte (R190; log entry 30). -/
def restoreStripe (n l : Nat) (pulled : Option (List (Nat × Byte))) (s : State) : State :=
  match stripeDpa s n l with
  | none => s
  | some a =>
    if mirroredArea s a 4096 then
      match pulled, s.pwr.modes.mirror && decide (s.step.mirror = .synced) with
      | some bs, true => memWrite a (restoredBytes s a bs) s
      | _, _ => declareMirrorLost s
    else memWrite a (List.replicate 4096 0) s

/-! ### Remap (R186) -/

/-- The lowest index not listed in a table whose default is FREE, from a start. -/
def lowestFreeFrom : Nat → SMap Remap → Nat
  | i, [] => i
  | i, (k, _) :: t => if k = i then lowestFreeFrom (i + 1) t else i

/-- The lowest FREE remap entry of a position. -/
def lowestFree (p : Pos) : Option Nat :=
  let i := lowestFreeFrom 0 p.remap
  if i < remapEntries then some i else none

/-- The state of a pseudo-channel that its marks give: a state of a retrain or a map-out under way is not saved (R185). -/
def settledState : PcState → PcState
  | .mapped => .mapped
  | .partly => .partly
  | _ => .normal

/-- Saves the tables of a position to the flash (R185). -/
def saveRemap (n : Nat) (s : State) : State :=
  let p := getPos s n
  modMgmt (fun m => { m with
    remapFlash := p.remap.foldl (fun f kv => SMap.set Remap.init f (n * remapEntries + kv.1) kv.2)
      (m.remapFlash.filter (fun kv => decide (kv.1 / remapEntries ≠ n)))
    withdrawnFlash := SMap.set [] m.withdrawnFlash n p.withdrawn
    wfromFlash := (List.range 64).foldl (fun f q => SMap.set none f (n * 64 + q) (getChan p q).wfrom) m.wfromFlash
    pcFlash := (List.range 64).foldl (fun f q => SMap.set PcState.normal f (n * 64 + q) (settledState (getChan p q).st)) m.pcFlash }) s

/-! ### Patrol (R184) -/

/-- The DPA of a slot's stripe, if the layout maps one. -/
def slotDpa (s : State) (n : Nat) : SlotStripe → Option Nat
  | .logical l => stripeDpa s n l
  | .reserve _ _ => none

/-- The stripe number that the UE history records for a slot. -/
def SlotStripe.number : SlotStripe → Nat
  | .logical l => l
  | .reserve r _ => stripesPerPosn + r

/-- The logical stripe of a slot that holds its content now: not a home slot whose stripe lies elsewhere. -/
def slotHolds (p : Pos) (q slot : Nat) : Option Nat :=
  match slotStripe p q slot with
  | .logical l => if slot < homeSlots ∧ ((remapOf p l).isSome ∨ withdrawn p l) then none else some l
  | .reserve _ _ => none

/-- MEM_UE's ARG1 for a slot that no DPA names. -/
def slotArg (q slot : Nat) : Nat := 2 ^ 63 + 2 ^ 56 * q + slot

/-- A patrol read finds a failed burst: as R184, but the check flag stays when the stripe is FREE in the remap table or lies
outside every mapped range. A BAD slot is neither FREE nor outside (DEDUCED, log entry 119). -/
def patrolFailed (n q slot i : Nat) (s : State) : State :=
  let w := slotStripe (getPos s n) q slot
  let a := slotDpa s n w
  let held := (slotHolds (getPos s n) q slot).isSome
  let s := match a with
    | some a => if held then markFailed (a + 64 * i) s else s
    | none => s
  let s := recordFailed n q w.number (match a with
    | some a => if held then a + 64 * i else slotArg q slot
    | none => slotArg q slot) s
  let spare := match w with
    | .reserve _ free => free
    | .logical _ => a.isNone
  if spare then s else clearCheck s

/-- One burst of a slot that the patrol reads. -/
def patrolBurst (n q slot : Nat) (e : BurstErr) (s : State) : State :=
  let s := if e.onDie then countOnDie n q s else s
  let holds := slotHolds (getPos s n) q slot
  let a := (holds.bind (fun l => stripeDpa s n l)).map (fun a => a + 64 * e.burst)
  match burstResult s n q a e.result with
  | .clean => s
  | .corrected => countCorrected n q holds s
  | .failed => patrolFailed n q slot e.burst s

/-- PATROL_READ: the controller reads every burst of one slot; a corrected burst is written back, a failed one acts as for a read
(R184). -/
def execPatrolRead (posn : Posn) (pc : Fin 64) (slot : BitVec 18) (errs : List BurstErr) (s : State) : Out :=
  let n := posn.val
  let q := pc.val
  let holds := slotHolds (getPos s n) q slot.toNat
  let s := match holds with
    | some l => modPos n (fun p => { p with stripeCe := SMap.set 0 p.stripeCe l 0 }) s
    | none => s
  let all := match holds.bind (fun l => stripeDpa s n l) with
    | some a => burstsOf s a 4096 errs
    | none => errs
  .next (forAll all (patrolBurst n q slot.toNat) s)

end Sys2Proof.Machine
end

