-- ==== Sys2Proof/Machine/Firewall.lean ====
section
/-! DEFINITION. The guest firewall: its rules, a check of one 64-byte unit, and what a denial leaves (R216 to R222). -/

namespace Sys2Proof.Machine

/-- A guest's firewall. -/
def getGfw (s : State) (g : Nat) : Gfw := SMap.get Gfw.init s.pkg.gfw g

/-- Changes a guest's firewall. -/
def modGfw (g : Nat) (f : Gfw → Gfw) (s : State) : State :=
  { s with pkg := { s.pkg with gfw := SMap.upd Gfw.init s.pkg.gfw g f } }

/-- Rule i of a firewall. -/
def gfwRule (w : Gfw) (i : Nat) : GfwRule := SMap.get GfwRule.init w.rules i

/-- Whether a rule is the one that decides an access (R217). -/
def GfwRule.applies (r : GfwRule) (inbound : Bool) (unit mid : Nat) (ctx : Ctx) : Bool :=
  bit r.attr 0 && (bit r.attr 1 == inbound)
    && decide (r.base.toNat ≤ unit) && decide (unit + 64 ≤ r.limit.toNat)
    && (!inbound || (decide (fld r.attr 11 4 ≤ mid) && decide (mid ≤ fld r.attr 19 12)
      && (bit r.attr 32 || decide (fld r.attr 31 20 = ctx.toNat))))

/-- Whether a DPA lies in the cell scratchpad regions. -/
def inScratchpads (a : Nat) : Bool := decide (0x030000000000 ≤ a) && decide (a < 0x030080000000)

/-- The rule that decides an access: the lowest that applies. An outbound access aimed at a cell scratchpad matches none. -/
def gfwMatch (w : Gfw) (inbound : Bool) (unit mid : Nat) (ctx : Ctx) : Option GfwRule :=
  if !inbound && inScratchpads unit then none
  else ((List.range 32).map (gfwRule w)).find? (fun r => r.applies inbound unit mid ctx)

/-- Whether an access passes, and the context it carries then: the requester's inbound, the rule's outbound, whose windows
it must also meet (R217). -/
def gfwPermit (s : State) (g : Nat) (inbound write : Bool) (addr mid : Nat) (ctx : Ctx) : Option Ctx :=
  let w := getGfw s g
  let unit := addr / 64 * 64
  if !w.en then none
  else
    match gfwMatch w inbound unit mid ctx with
    | none => none
    | some r =>
      let c := if inbound then ctx else BitVec.ofNat 12 (fld r.attr 31 20)
      if (if write then bit r.attr 3 else bit r.attr 2) && (inbound || reaches (getCtx s c) unit 64) then some c else none

/-- PKG_GFW_VADDR of a denial (R222). -/
def gfwVaddr (inbound write : Bool) (addr mid : Nat) : BitVec 64 :=
  BitVec.ofNat 64 (addr / 64 * 64 % 2 ^ 48 + 2 ^ 48 * (mid % 256) + (if inbound then 2 ^ 56 else 0)
    + (if write then 2 ^ 57 else 0) + 2 ^ 63)

/-- A denial: the count, the capture of the first one, and the event at most once per 100 µs (R219). -/
def gfwDeny (g : Nat) (inbound write : Bool) (addr mid : Nat) (s : State) : State :=
  let w := getGfw s g
  let s := modGfw g (fun w => { w with
    viol := satUp w.viol 1
    vaddr := if bit w.vaddr 63 then w.vaddr else gfwVaddr inbound write addr mid }) s
  let due := match w.lastEvent with
    | none => true
    | some t => decide (100000 ≤ (s.mgmt.ptb - t).toNat)
  if due then
    raise 0x0406 (hubUnit 7) { posn := some (6 + g) } (modGfw g (fun w => { w with lastEvent := some s.mgmt.ptb }) s)
  else s

/-- Checks one access across the firewall of a guest: the context that a permitted one carries, and the state after the check. A
guest position in reset has its outbound traffic dropped without a check (R220). -/
def gfwCheck (g : Nat) (inbound write : Bool) (addr mid : Nat) (ctx : Ctx) (s : State) : Option Ctx × State :=
  if !inbound && decide ((getPos s (6 + g)).st = .inReset) then (none, s)
  else
    match gfwPermit s g inbound write addr mid ctx with
    | some c => (some c, s)
    | none => (none, gfwDeny g inbound write addr mid s)

/-- Checks every unit of an inbound transfer: the addresses of those denied (R217, R219). -/
def gfwRange (g : Nat) (write : Bool) (mid : Nat) (ctx : Ctx) : List Nat → State → List Nat × State
  | [], s => ([], s)
  | a :: t, s =>
    let r := gfwCheck g true write a mid ctx s
    let u := gfwRange g write mid ctx t r.2
    (if r.1.isSome then u.1 else a :: u.1, u.2)

/-- The guest whose memory a DPA names, on a part with guests (R216, R217). -/
def guestOf (s : State) (a : Nat) : Option Nat :=
  match place s a with
  | .local_ n _ => if fitsGuest s.fuses.part n then some (n - 6) else none
  | .stage n _ => if fitsGuest s.fuses.part n then some (n - 6) else none
  | _ => none

/-- Whether an area has a byte in the memory of a guest position (R4). -/
def guestHolds (s : State) (a len : Nat) : Bool :=
  [6, 7].any (fun n => fitsGuest s.fuses.part n
    && (meets a len (localBase n) 0x001000000000 || meets a len (stageBase n) 0x8000000))

/-- The addresses of the 64-byte units that an area touches. -/
def unitsOf (a len : Nat) : List Nat := (List.range ((a + len + 63) / 64 - a / 64)).map (fun i => 64 * (a / 64 + i))

/-- Bytes written at an address by a requester of this package: in the memory of a guest, the units that its firewall denies are
dropped (R217, R219). -/
def guardedWrite (mid : Nat) (ctx : Ctx) (a : Nat) (bs : List Byte) (s : State) : State :=
  match guestOf s a with
  | none => memWrite a bs s
  | some g =>
    let r := gfwRange g true mid ctx (unitsOf a bs.length) s
    if r.1.isEmpty then memWrite a bs r.2
    else
      forAll ((cut 64 bs).zipIdx) (fun u s =>
        if r.1.contains ((a + 64 * u.2) / 64 * 64) then s else memWrite (a + 64 * u.2) u.1 s) r.2

/-- Whether a requester of this package may read an area, and the state after the check (R217, R219). -/
def guardedRead (mid : Nat) (ctx : Ctx) (a len : Nat) (s : State) : Bool × State :=
  match guestOf s a with
  | none => (true, s)
  | some g =>
    let r := gfwRange g false mid ctx (unitsOf a len) s
    (r.1.isEmpty, r.2)

/-- The master ID under which what the fabric brings is placed in the memory of a DPA: that of the engines of its position (R20,
R217; log entry 120). -/
def placerMid (s : State) (a : Nat) : Nat := 0x48 + (placePosn s a).getD 0

/-! ### A guest's own transfers (R216, R218, R219) -/

/-- What an access of a guest, or to its memory, is answered with. -/
def gfwAnswer (g : Nat) (addr : BitVec 48) (a : Option (List Byte)) (s : State) : State :=
  modGfw g (fun w => { w with answers := w.answers ++ [(addr, a)] }) s

/-- One unit moves to or from the memory that its address names; an access that meets no memory that answers is an error. -/
def unitMove (g : Nat) (write : Bool) (addr : BitVec 48) (data : List Byte) (s : State) : State :=
  let a := addr.toNat / 64 * 64
  if (dpaStop s a).isSome then (if write then s else gfwAnswer g addr none s)
  else if write then memWrite a data s
  else gfwAnswer g addr (some (memRead s a 64)) s

/-- Counts transfers of a context discarded on the generation check (R198). -/
def countDropped (c : Ctx) (n : Nat) (s : State) : State :=
  if n = 0 then s else modHif (fun h => { h with dropped := satUp h.dropped n, droppedCtx := c }) s

/-- The outstanding count of a context falls by one for a transfer stamped with a generation, while it still counts those of that
generation (R288). -/
def outDown (c : Ctx) (gen : BitVec 8) (s : State) : State :=
  let x := getCtx s c
  if gen == x.gen || (x.tearT0.isSome && gen + 1 == x.gen) then
    modCtx c (fun x => { x with outstanding := x.outstanding - 1 }) s
  else s

/-- A permitted outbound access, stamped with its context and the generation the hub holds, is on its way (R218). -/
def gfwPass (g : Nat) (write : Bool) (addr : BitVec 48) (c : Ctx) (data : List Byte) (s : State) : State :=
  modCtx c (fun x => { x with outstanding := x.outstanding + 1 })
    (modGfw g (fun w => { w with
      passed := w.passed ++ [{ addr := addr, write := write, ctx := c, gen := (getCtx s c).gen, data := data }] }) s)

/-- A guest's transfer arrives: a stage that holds another generation discards it, and another guest's firewall checks it
(R217, R218). -/
def guestArrive (g : Nat) (x : GuestAccess) (s : State) : State :=
  let s := outDown x.ctx x.gen s
  if x.gen ≠ (getCtx s x.ctx).gen then countDropped x.ctx 1 s
  else
    match guestOf s x.addr.toNat with
    | none => unitMove g x.write x.addr x.data s
    | some h =>
      let r := gfwCheck h true x.write x.addr.toNat (0x60 + g) x.ctx s
      if r.1.isSome then unitMove g x.write x.addr x.data r.2
      else if x.write then r.2
      else gfwAnswer g x.addr none r.2

/-- Every transfer of a guest that is on its way arrives. -/
def deliverGuest (g : Nat) (s : State) : State :=
  if (getGfw s g).passed.isEmpty then s
  else forAll (getGfw s g).passed (guestArrive g) (modGfw g (fun w => { w with passed := [] }) s)

/-- An access of a guest die: to its own region it goes directly; every other DPA is checked, and what passes is on its way
(R216, R218, R219). -/
def guestOut (g : Nat) (write : Bool) (addr : BitVec 48) (data : List Byte) (s : State) : State :=
  if guestOf s addr.toNat = some g then unitMove g write addr data s
  else
    let r := gfwCheck g false write addr.toNat 0 0 s
    match r.1 with
    | some c => gfwPass g write addr c data r.2
    | none => if write then r.2 else gfwAnswer g addr none r.2

/-- An access to the memory of a guest (R217, R219). -/
def guestIn (g : Nat) (write : Bool) (addr : BitVec 48) (mid : Nat) (ctx : Ctx) (data : List Byte) (s : State) : State :=
  let r := gfwCheck g true write addr.toNat mid ctx s
  if r.1.isSome && decide (guestOf s addr.toNat = some g) then unitMove g write addr data r.2
  else if write then r.2
  else gfwAnswer g addr none r.2

/-- GUEST_FIREWALL_CHECK: one 64-byte access at the firewall of P6 or P7, a write of `unit` or a read; only the ZSN-8G has one (R216
to R219, R221). -/
def execGuestFirewallCheck (g : Fin 2) (inbound : Bool) (unit : Option (List Byte)) (addr : BitVec 48) (mid : BitVec 8) (ctx : Ctx)
    (s : State) : Out :=
  let write := unit.isSome
  let data := unit.getD []
  if s.fuses.part = .zsn8g then
    .next (if inbound then guestIn g.val write addr mid.toNat ctx data s else guestOut g.val write addr data s)
  else .next s

end Sys2Proof.Machine
end

