-- ==== Sys2Proof/Machine/Mac.lean ====
section
/-! DEFINITION. The arithmetic of one MAC site: products, chunks, the chunk adder, FP32 matrix mode and the gang combine
(R45, R46, R107, R115 to R123). -/

namespace Sys2Proof.Machine

/-- What an operand pair needs: chunk length, fixed or floating window (R45, R116). -/
structure PairRule where
  chunk : Nat
  exact : Bool
  fp32 : Bool
deriving DecidableEq, Repr

/-- The rule of an operand pair, or nothing when R45 does not list the pair. -/
def pairRule (a b : Fmt) : Option PairRule :=
  match a, b with
  | .fp32, .fp32 => some ⟨8, false, true⟩
  | .bf16, .bf16 => some ⟨8, false, false⟩
  | .fp16, .fp16 => some ⟨16, false, false⟩
  | .e4m3, .e4m3 => some ⟨16, true, false⟩
  | .e4m3, .e5m2 => some ⟨16, false, false⟩
  | .e5m2, .e4m3 => some ⟨16, false, false⟩
  | .e5m2, .e5m2 => some ⟨16, false, false⟩
  | .int8, .int8 => some ⟨16, true, false⟩
  | .int8, .e4m3 => some ⟨16, true, false⟩
  | .e4m3, .int8 => some ⟨16, true, false⟩
  | x, y => if x.isMx && y.isMx then some ⟨16, true, false⟩ else none

/-- Whether K suits a pair on one cell, or on each of m gang rows in form KN (R46, R48). -/
def kLegal (a b : Fmt) (r : PairRule) (k m : Nat) : Bool :=
  let unit := if a.isMx || b.isMx then 32 else r.chunk
  decide (k % (m * unit) = 0) && decide (k % (m * r.chunk) = 0) && decide (k ≤ 65536)

/-- The exact sum of finite values: an exact zero is +0 unless every term is −0 (R118). -/
def sumVals : List FVal → FVal
  | [] => .fin false 0 0
  | [v] => v
  | v :: t => v.add (sumVals t)

/-- Truncates a finite value toward zero to a multiple of 2 to the q (R117). -/
def truncVal (q : Int) : FVal → FVal
  | .fin s m e => if q ≤ e then .fin s m e else .fin s (m / 2 ^ (q - e).toNat) q
  | v => v

/-- The total of one chunk's finite products: exact, or in the floating window of R117. -/
def windowTotal (exact : Bool) (ps : List FVal) : FVal :=
  if exact then sumVals ps
  else
    match maxExponent ps with
    | none => sumVals ps
    | some etop => sumVals (ps.map (truncVal (etop - 48)))

/-- Whether +∞, or −∞, is among some values. -/
def hasInf (neg : Bool) (ps : List FVal) : Bool := ps.any (fun v => decide (v = .inf neg))

/-- The total of one chunk rounded to FP32 (R107, R118, R119): `scale` is the sum of the block exponents. -/
def chunkTotal (exact : Bool) (scale : Int) (ps : List FVal) : BitVec 32 :=
  if ps.any (fun v => decide (v = .nan)) then toF32 .nan
  else
    let pos := hasInf false ps
    let neg := hasInf true ps
    if pos && neg then toF32 .nan
    else if pos then toF32 (.inf false)
    else if neg then toF32 (.inf true)
    else toF32 ((windowTotal exact ps).scale scale)

/-- Whether an FP32 word is an infinity. -/
def isInf32 (b : BitVec 32) : Bool := b == 0x7F800000 || b == 0xFF800000

/-- Adds one chunk into an accumulator: one rounding of the total and one FP32 addition (R118). An infinite accumulator keeps
its infinity over a chunk of finite products, whatever their sum rounds to: the third test of R107 comes before any sum. -/
def addChunk (exact : Bool) (scale : Int) (acc : BitVec 32) (ps : List FVal) : BitVec 32 :=
  if isInf32 acc && !(ps.any FVal.nonFinite) then acc else fadd acc (chunkTotal exact scale ps)

/-- Keeps the 8 leading significant bits of a magnitude (R120). -/
def lead8 (m : Nat) : Nat :=
  let l := Nat.log2 m
  if l < 8 then m else m / 2 ^ (l - 7) * 2 ^ (l - 7)

/-- The three parts of an FP32 operand (R120). -/
def split3 : FVal → FVal × FVal × FVal
  | .fin s m e =>
    let h := lead8 m
    let r := m - h
    let mid := lead8 r
    (.fin s h e, .fin s mid e, .fin s (r - mid) e)
  | v => (v, v, v)

/-- The products one K step gives to the split passes L, M and H (R120). -/
def splitProducts (a b : FVal) : List FVal × List FVal × List FVal :=
  if a.nonFinite || b.nonFinite then ([.fin false 0 0], [.fin false 0 0], [a.mul b])
  else
    let (ah, am, al) := split3 a
    let (bh, bm, bl) := split3 b
    ([al.mul bh, al.mul bm], [am.mul bh, am.mul bm, am.mul bl], [ah.mul bh, ah.mul bm, ah.mul bl])

/-- One K group of FP32 matrix mode: the chunks L, M and H in that order (R121). -/
def addGroup32 (acc : BitVec 32) (ps : List (FVal × FVal)) : BitVec 32 :=
  let parts := ps.map (fun p => splitProducts p.1 p.2)
  let l := parts.flatMap (fun x => x.1)
  let m := parts.flatMap (fun x => x.2.1)
  let h := parts.flatMap (fun x => x.2.2)
  addChunk false 0 (addChunk false 0 (addChunk false 0 acc l) m) h

/-- One K step at a site: the element values and the scale codes of the operands (127 for an operand without one). -/
structure SiteStep where
  a : FVal
  b : FVal
  sa : Nat
  sb : Nat
deriving DecidableEq, Repr

/-- Adds one chunk of K steps (R115, R118, R119, R121). A scale of 0xFF makes its products NaN. -/
def addSteps (r : PairRule) (acc : BitVec 32) (ks : List SiteStep) : BitVec 32 :=
  if r.fp32 then addGroup32 acc (ks.map (fun k => (k.a, k.b)))
  else
    match ks with
    | [] => acc
    | k :: _ =>
      if k.sa = 0xFF || k.sb = 0xFF then toF32 .nan
      else addChunk r.exact ((k.sa : Int) + (k.sb : Int) - 254) acc (ks.map (fun x => x.a.mul x.b))

/-- Adds the chunks of a list of K steps in increasing order: S(v; a, b) of R122. `n` bounds the number of chunks. -/
def addChunks (r : PairRule) : Nat → BitVec 32 → List SiteStep → BitVec 32
  | 0, acc, _ => acc
  | n + 1, acc, ks => addChunks r n (addSteps r acc (ks.take r.chunk)) (ks.drop r.chunk)

/-- S(v; 0, K) over all the K steps given (R122). -/
def siteSum (r : PairRule) (v : BitVec 32) (ks : List SiteStep) : BitVec 32 :=
  addChunks r (ks.length / r.chunk) v ks

/-- The gang combine tree over the partials of a gang column, gang row 0 first (R123). -/
def combineKN : List (BitVec 32) → BitVec 32
  | [a] => a
  | [a, b] => fadd a b
  | [a, b, c, d] => fadd (fadd a b) (fadd c d)
  | _ => 0

end Sys2Proof.Machine
end

