-- ==== Sys2Proof/Machine/Vector.lean ====
section
/-! DEFINITION. The vector unit's arithmetic on rows of FP32 values: elementwise operations, reductions and top-k (R108 to
R113, R126 to R131), and the fused list of a drain (R81). -/

namespace Sys2Proof.Machine

/-- A row of 64 FP32 values. -/
abbrev Row := List (BitVec 32)

/-- The elementwise operations of R111, codes 0x00 to 0x12. -/
def elementwise (vopc : Nat) (a b : BitVec 32) : Option (BitVec 32) :=
  match vopc with
  | 0x00 => some (canon a)
  | 0x01 => some (fadd a b)
  | 0x02 => some (fsub a b)
  | 0x03 => some (fmul a b)
  | 0x04 => some (fdiv a b)
  | 0x05 => some (fmax a b)
  | 0x06 => some (fmin a b)
  | 0x07 => some (fabs a)
  | 0x08 => some (fneg a)
  | 0x09 => some (fsqrt a)
  | 0x0A => some (frsqrt a)
  | 0x0B => some (frecip a)
  | 0x0C => some (fexp a)
  | 0x0D => some (flog a)
  | 0x0E => some (boolF32 ((f32 a).lt (f32 b)))
  | 0x0F => some (boolF32 ((f32 a).lt (f32 b) || (f32 a).eqv (f32 b)))
  | 0x10 => some (boolF32 ((f32 a).eqv (f32 b)))
  | 0x11 => some (fmul a b)
  | 0x12 => some (fadd a b)
  | _ => none

/-- Whether an elementwise code takes a second source. -/
def isBinary (vopc : Nat) : Bool :=
  (decide (1 ≤ vopc) && decide (vopc ≤ 6)) || (decide (0x0E ≤ vopc) && decide (vopc ≤ 0x12))

/-- Whether the second source of a code is row 0 of its area only (MULROW, ADDROW). -/
def usesRow0 (vopc : Nat) : Bool := decide (vopc = 0x11) || decide (vopc = 0x12)

/-- The row used as second source for row r. -/
def secondRow (vopc : Nat) (rows : List Row) (r : Nat) : Row :=
  if usesRow0 vopc then rows.getD 0 [] else rows.getD r []

/-- One row of an elementwise operation. -/
def elementwiseRow (vopc : Nat) (a b : Row) : Row :=
  (List.range 64).map (fun e => (elementwise vopc (a.getD e 0) (b.getD e 0)).getD 0)

/-- An elementwise operation over rows. -/
def elementwiseRows (vopc : Nat) (s1 s2 : List Row) : List Row :=
  (List.range s1.length).map (fun r => elementwiseRow vopc (s1.getD r []) (secondRow vopc s2 r))

/-- Adds terms one after the other, from the first (R127). -/
def chainSum : List (BitVec 32) → Option (BitVec 32)
  | [] => none
  | x :: t => some (t.foldl fadd x)

/-- The terms of a list whose index is t modulo 4, where `i` is the index of the first. -/
def everyFourth (t : Nat) : Nat → List (BitVec 32) → List (BitVec 32)
  | _, [] => []
  | i, x :: rest => if i % 4 = t then x :: everyFourth t (i + 1) rest else everyFourth t (i + 1) rest

/-- Adds two partials, leaving out the addition when one is absent. -/
def addPresent (a b : Option (BitVec 32)) : Option (BitVec 32) :=
  match a, b with
  | some x, some y => some (fadd x y)
  | some x, none => some x
  | none, y => y

/-- A down sum over one lane's terms (R127). -/
def downSum (ts : List (BitVec 32)) : BitVec 32 :=
  let p := fun t => chainSum (everyFourth t 0 ts)
  (addPresent (addPresent (p 0) (p 1)) (addPresent (p 2) (p 3))).getD 0

/-- One level of a tree over neighbouring values. -/
def pairUp {α : Type} (f : α → α → α) : List α → List α
  | a :: b :: t => f a b :: pairUp f t
  | l => l

/-- An across sum over 64 lane terms (R128). -/
def acrossSum (ts : List (BitVec 32)) : BitVec 32 :=
  (pairUp fadd (pairUp fadd (pairUp fadd (pairUp fadd (pairUp fadd (pairUp fadd ts)))))).headD 0

/-- A running count, mean and M2 (R129). -/
structure Moments where
  n : Nat
  mean : BitVec 32
  m2 : BitVec 32
deriving DecidableEq, Repr

/-- No values yet. -/
def Moments.zero : Moments := ⟨0, 0, 0⟩

/-- One step of welford (R129). -/
def Moments.step (s : Moments) (x : BitVec 32) : Moments :=
  let n := s.n + 1
  let d := fsub x s.mean
  let mean := fadd s.mean (fdiv d (natF32 n))
  ⟨n, mean, fadd s.m2 (fmul d (fsub x mean))⟩

/-- welford over values in order (R129). -/
def welford (xs : List (BitVec 32)) : Moments := xs.foldl Moments.step Moments.zero

/-- merge of R129: the left operand holds the lower rows or lanes. -/
def Moments.merge (a b : Moments) : Moments :=
  if a.n = 0 then b
  else
    let n := a.n + b.n
    let d := fsub b.mean a.mean
    let mean := fadd a.mean (fmul d (fdiv (natF32 b.n) (natF32 n)))
    ⟨n, mean, fadd (fadd a.m2 b.m2) (fmul (fmul d d) (fdiv (natF32 (a.n * b.n)) (natF32 n)))⟩

/-- Mean and population variance. -/
def Moments.result (s : Moments) : BitVec 32 × BitVec 32 := (s.mean, fdiv s.m2 (natF32 s.n))

/-- RMVD over one lane (R129). -/
def downMoments (xs : List (BitVec 32)) : BitVec 32 × BitVec 32 :=
  (((cut 8 xs).map welford).foldl Moments.merge Moments.zero).result

/-- RMVA over one row (R129). -/
def acrossMoments (xs : List (BitVec 32)) : BitVec 32 × BitVec 32 :=
  ((pairUp Moments.merge (pairUp Moments.merge (pairUp Moments.merge ((cut 8 xs).map welford)))).headD Moments.zero).result

/-- The largest |x| of some values (R130). -/
def maxAbs : List (BitVec 32) → BitVec 32
  | [] => 0x7FC00000
  | [x] => fabs x
  | x :: t => fmax (fabs x) (maxAbs t)

/-- The values of lane e, row after row. -/
def lane (rows : List Row) (e : Nat) : List (BitVec 32) := rows.map (fun r => r.getD e 0)

/-- One value per source row, laid in lanes of ⌈N/64⌉ rows, the rest +0 (R126). -/
def acrossRows (vs : List (BitVec 32)) : List Row :=
  (cut 64 vs).map (fun r => r ++ List.replicate (64 - r.length) 0)

/-- The rows a reduction other than top-k writes, one after another from DREG (R126); none for a code that is not one. -/
def reduceRows (vopc : Nat) (rows : List Row) : Option (List Row) :=
  let down := fun (f : List (BitVec 32) → BitVec 32) => (List.range 64).map (fun e => f (lane rows e))
  match vopc with
  | 0x20 => some [down downSum]
  | 0x21 => some (acrossRows (rows.map acrossSum))
  | 0x22 => some [down (fun xs => downSum (xs.map (fun x => fmul x x)))]
  | 0x23 => some (acrossRows (rows.map (fun r => acrossSum (r.map (fun x => fmul x x)))))
  | 0x24 =>
    let mv := (List.range 64).map (fun e => downMoments (lane rows e))
    some [mv.map Prod.fst, mv.map Prod.snd]
  | 0x25 =>
    let mv := rows.map acrossMoments
    some (acrossRows (mv.map Prod.fst) ++ acrossRows (mv.map Prod.snd))
  | 0x26 => some [down maxAbs]
  | 0x27 => some (acrossRows (rows.map maxAbs))
  | _ => none

/-- Inserts a candidate before the first one with a smaller value (R131). -/
def insertCand (c : BitVec 32 × Nat) : List (BitVec 32 × Nat) → List (BitVec 32 × Nat)
  | [] => [c]
  | d :: t => if (f32 d.1).lt (f32 c.1) then c :: d :: t else d :: insertCand c t

/-- The k largest values of a vector with their positions (R131). -/
def topK (k : Nat) : Nat → List (BitVec 32) → List (BitVec 32 × Nat) → List (BitVec 32 × Nat)
  | _, [], cand => cand
  | i, v :: t, cand => topK k (i + 1) t (if f32 v = .nan then cand else (insertCand (v, i) cand).take k)

/-- The value row and the position row of TOPKk (R131). -/
def topRows (cand : List (BitVec 32 × Nat)) : Row × Row :=
  let fill := 64 - cand.length
  (cand.map Prod.fst ++ List.replicate fill 0x7FC00000,
   cand.map (fun c => BitVec.ofNat 32 c.2) ++ List.replicate fill 0xFFFFFFFF)

/-- The paired units and the scale units PACK4 writes for n single-layout rows (R113). -/
def pack4Bytes (mem : Mem) (base off n : Nat) : List Byte :=
  let row := fun r => if r < n then (spUnit mem base (off + 64 * r)).take 32 else List.replicate 32 0
  (List.range ((n + 1) / 2)).flatMap (fun u => row (2 * u) ++ row (2 * u + 1))
    ++ spUnits mem base (off + 64 * n) ((n + 31) / 32)

/-- One operation of a fused vector list on the rows of a drain: the second source is an FP32 area of 64 rows at the
operation's offset (log entry 20); an operation that is not elementwise gives free values (log entry 21). -/
def fusedRows (mem : Mem) (base : Nat) (rows : List Row) (op : BitVec 6 × Nat) : List Row :=
  let vopc := op.1.toNat
  let src := areaF32 mem base op.2 .fp32 64
  if vopc ≤ 0x12 then elementwiseRows vopc rows (if isBinary vopc then src else [])
  else (List.range rows.length).map (fun r => (List.range 64).map (fun e => Config.fusedOther op.1 rows src r e))

/-- A fused vector list on the rows of a drain, in list order. -/
def fusedList (mem : Mem) (base : Nat) (ops : List (BitVec 6 × Nat)) (rows : List Row) : List Row :=
  ops.foldl (fusedRows mem base) rows

end Sys2Proof.Machine
end

