-- ==== Sys2Proof/Machine/Tile.lean ====
section
/-! DEFINITION. The tile sequencer: how an instruction of a body issues, what the four units do with it, sequencer faults
and completion signals (R42 to R81, R122, R123, R161). -/

namespace Sys2Proof.Machine

/-! ### Instruction words (R70, R72, R73) -/

/-- OP. -/
def wOp (w : BitVec 64) : Nat := fld w 63 58

/-- VOPC of a VOP. -/
def wVopc (w : BitVec 64) : Nat := fld w 36 31

/-- The opcodes of R72. -/
def knownOps : List Nat := [0x00, 0x01, 0x02, 0x04, 0x05, 0x06, 0x07, 0x08, 0x10, 0x18, 0x19, 0x20, 0x21]

/-- Whether a VOPC is reserved (R111, R154). -/
def vopcReserved (v : Nat) : Bool :=
  (decide (0x14 ≤ v) && decide (v ≤ 0x1F)) || decide (0x32 ≤ v)

/-- The bits of [48:0] that an opcode's map lists (R73). -/
def usedBits (op : Nat) : Nat :=
  let r := fun (hi lo : Nat) => (2 ^ (hi + 1 - lo) - 1) * 2 ^ lo
  match op with
  | 0x01 => r 47 30 + 1
  | 0x04 => r 48 45 + r 19 0
  | 0x05 => r 48 45 + r 19 0
  | 0x06 => r 15 0
  | 0x08 => r 48 46 + r 7 0
  | 0x10 => r 48 4
  | 0x18 => r 48 8
  | 0x19 => r 48 0
  | 0x20 => r 48 41 + r 38 24
  | 0x21 => r 48 41 + r 38 24
  | _ => 0

/-- Whether a reserved bit of a word is not 0 (R73, R79). -/
def reservedBit (w : BitVec 64) : Bool := decide (fld w 48 0 &&& usedBits (wOp w) ≠ fld w 48 0)

/-- A format field. -/
def wFmt (w : BitVec 64) (hi lo : Nat) : Option Fmt := Fmt.ofCode (BitVec.ofNat 4 (fld w hi lo))

/-- K of an MM: 8·(KM1 + 1). -/
def mmK (w : BitVec 64) : Nat := 8 * (fld w 32 20 + 1)

/-- An address register's value. -/
def areg (r : Run) (k : Nat) : BitVec 20 := SMap.get 0 r.aregs k

/-- The instruction slot a body executes next. -/
def runSlot (r : Run) : Nat := (r.first + r.pc) % 4096

/-- The word a body executes next. -/
def runWord (s : State) (n : Nat) (r : Run) : BitVec 64 := SMap.get 0 s.prog (n * 4096 + runSlot r)

/-! ### Storage errors (R66) -/

/-- Corrected errors are counted. -/
def countCorrectedCell (n k : Nat) (s : State) : State :=
  modPos (cellPosn n) (fun p => { p with corrected := p.corrected + k }) s

/-- Corrected errors of the words an operation reads are counted; an uncorrected one clears the check flag. -/
def storageError (n : Nat) (e : ReadErr) (s : State) : State :=
  let s := countCorrectedCell n e.corrected s
  if e.uncorrected then clearCheck s else s

/-! ### Sequencer faults (R79, R80) -/

/-- NUM_SEQ_FAULT[23:0] (R89). -/
def seqFaultWord (f : SeqFault) : Nat := f.x.toNat + 16 * f.y.toNat + 256 * f.code.toNat + 4096 * f.pc.toNat

/-- A cell's sequencer stops with a fault: it is recorded, SEQ_FAULT is raised, the TILE completes with TILE_FAULT, and
the package votes ABORT (R79, R80). -/
def seqFault (n code slot : Nat) (s : State) : State :=
  let p := cellPosn n
  let r := (getCell s n).run
  let s := modCell n (fun c => { c with run := none }) s
  let rec' : SeqFault :=
    { x := BitVec.ofNat 4 (cellX n), y := BitVec.ofNat 4 (cellY n), code := BitVec.ofNat 4 code
      pc := BitVec.ofNat 12 slot, count := (getPos s p).seqFault.count + 1 }
  let s := modPos p (fun q => { q with seqFault := rec' }) s
  let s := raise 0x0101 (posUnit p 0x22) { ctx := (r.map Run.ctx), posn := some p } s
  let s := match r with
    | none => s
    | some r => completeKey r.ctx r.key stTileFault (seqFaultWord rec' + 2 ^ 24 * p) (p + 1) s
  if code = 0xA then
    let s := match r with
      | none => s
      | some r => { s with progReload := s.progReload ++ [(n, r.first, r.len)] }
    clearCheck s
  else chargeCause causeProgram s

/-- The slot a faulting signal reports: that of the instruction the cell would issue next (R79); 0 in a cell that runs no body
(DESIGN CHOICE, log entry 108). -/
def nextSlot (s : State) (n : Nat) : Nat :=
  match (getCell s n).run with
  | some r => runSlot r
  | none => 0

/-- Adds 1 to a semaphore; above 255 the signal is lost and the cell that holds it stops with SEM_OVERFLOW (R76). -/
def signalSem (n k : Nat) (s : State) : State :=
  if SMap.get 0 (getCell s n).sems k = 255 then seqFault n 7 (nextSlot s n) s
  else modCell n (fun c => bumpSem c k) s

/-- The completion signal of an instruction (R76). With SORG it travels to the origin's semaphore. -/
def signalDone (n : Nat) (w : BitVec 64) (s : State) : State :=
  if bit w 53 then
    if bit w 52 && decide (1 < (gangCells s n).length) then
      { s with sorg := s.sorg ++ [(gangOrigin s n, fld w 51 49)] }
    else signalSem n (fld w 51 49) s
  else s

/-! ### The array (R42, R48, R52, R161) -/

/-- The draught setting in force makes a pass wait for a ramp: STEADY with kindling and ramps enabled (R58, R61). -/
def ramped (s : State) : Bool :=
  decide (s.pwr.modes.draught = .steady) && decide (fld s.pwr.kindle 19 0 ≠ 0) && decide (fld s.pwr.kindle 27 20 ≠ 0)

/-- The decoded K steps of one operand of one cell, by row or column: 64 lists of values, each in K order. -/
def operandLanes (mem : Mem) (n off : Nat) (f : Fmt) (paired : Bool) (k : Nat) : List (List FVal) :=
  let steps := (List.range k).map (fun i => stepCodes mem (spBase n) off f paired i)
  (List.range 64).map (fun e => steps.map (fun c => f.decode (c.getD e 0)))

/-- The scale codes of the K steps of one operand of one cell, by row or column. -/
def scaleLanes (mem : Mem) (n off : Nat) (f : Fmt) (k : Nat) : List (List Nat) :=
  let steps := (List.range k).map (fun i => stepScales mem (spBase n) off f i)
  (List.range 64).map (fun e => steps.map (fun c => c.getD e 127))

/-- The K steps of a site from its row of A and its column of B. -/
def siteSteps (a b : List FVal) (sa sb : List Nat) : List SiteStep :=
  List.zipWith (fun x y => ⟨x.1, y.1, x.2, y.2⟩) (a.zip sa) (b.zip sb)

/-- One 64×64 block: each site from its start value and its operands (R122). -/
def blockPass (r : PairRule) (c0 : Nat → Nat → BitVec 32) (as bs : List (List FVal)) (sas sbs : List (List Nat)) :
    List (List (BitVec 32)) :=
  (List.range 64).map (fun p => (List.range 64).map (fun q =>
    siteSum r (c0 p q) (siteSteps (as.getD p []) (bs.getD q []) (sas.getD p []) (sbs.getD q []))))

/-- Writes a block into an accumulator bank. -/
def accWrite (n : Nat) (b : Bool) (rows : List (List (BitVec 32))) (s : State) : State :=
  { s with acc := SMap.writeRun 0 s.acc (accBase n b) rows.flatten }

/-- The accumulator value of a site. -/
def accAt (s : State) (n : Nat) (b : Bool) (p q : Nat) : BitVec 32 := SMap.get 0 s.acc (accBase n b + 64 * p + q)

/-- Everything an array pass needs to know about its word. -/
structure PassInfo where
  a : Fmt
  b : Fmt
  rule : PairRule
  k : Nat
  kn : Bool
  bank : Bool
  keep : Bool
  seg : Bool
deriving DecidableEq, Repr

/-- The pass an MM asks for, when its formats form a pair of R45. -/
def passInfo (w : BitVec 64) : Option PassInfo :=
  match wFmt w 19 16, wFmt w 15 12 with
  | some a, some b =>
    match pairRule a b with
    | some r => some { a := a, b := b, rule := r, k := mmK w, kn := bit w 11, bank := bit w 10, keep := bit w 9, seg := bit w 8 }
    | none => none
  | _, _ => none

/-- Start values of a pass in a cell: +0 for CLEAR, the bank's contents for KEEP. -/
def passStart (s : State) (i : PassInfo) (n : Nat) : Nat → Nat → BitVec 32 :=
  fun p q => if i.keep then accAt s n i.bank p q else 0

/-- The block of a gang cell in an ordinary pass over its own K steps, from its start values. -/
def cellBlock (mem : Mem) (i : PassInfo) (o : UnitOp) (k aCell bCell : Nat) (c0 : Nat → Nat → BitVec 32) :
    List (List (BitVec 32)) :=
  let paired := decide (i.a = .mxE2m1) && decide (i.b = .mxE2m1)
  blockPass i.rule c0 (operandLanes mem aCell o.a.toNat i.a paired k) (operandLanes mem bCell o.b.toNat i.b paired k)
    (scaleLanes mem aCell o.c.toNat i.a k) (scaleLanes mem bCell o.d.toNat i.b k)

/-- Form MN (R48, R122). -/
def passMN (i : PassInfo) (o : UnitOp) (n : Nat) (s : State) : State :=
  let d := shapeDims (gangOf s n).shape
  forAll (List.range d.1) (fun gi => forAll (List.range d.2) (fun gj t =>
    let cell := gangCell s n gi gj
    accWrite cell i.bank
      (cellBlock s.mem i o i.k (gangCell s n gi 0) (gangCell s n 0 gj) (passStart s i cell)) t)) s

/-- Adds two blocks element by element. -/
def addBlocks (a b : List (List (BitVec 32))) : List (List (BitVec 32)) := List.zipWith (List.zipWith fadd) a b

/-- What the banks of a gang column hold after a form KN pass: the combined result in gang row 0, Q1 in gang row 2 of four,
the partial elsewhere (R78, R123). -/
def columnKN : List (List (List (BitVec 32))) → List (List (List (BitVec 32)))
  | [p0, p1] => [addBlocks p0 p1, p1]
  | [p0, p1, p2, p3] =>
    let q1 := addBlocks p2 p3
    [addBlocks (addBlocks p0 p1) q1, p1, q1, p3]
  | l => l

/-- Form KN (R48, R123). -/
def passKN (i : PassInfo) (o : UnitOp) (n : Nat) (s : State) : State :=
  let d := shapeDims (gangOf s n).shape
  forAll (List.range d.2) (fun gj t =>
    let blocks := (List.range d.1).map (fun gi =>
      cellBlock s.mem i o (i.k / d.1) (gangCell s n gi 0) (gangCell s n gi gj) (fun _ _ => 0))
    forAll (List.range d.1) (fun gi u => accWrite (gangCell s n gi gj) i.bank ((columnKN blocks).getD gi []) u) t) s

/-- The tag vector of a gang row (R161). -/
def rowTags (s : State) (n gi : Nat) (o : UnitOp) : List (Option Nat) :=
  tagVector s.mem (spBase (gangCell s n gi 0)) o.e.toNat

/-- The directory of a gang column (R161). -/
def colDir (s : State) (n gj : Nat) (o : UnitOp) : List (Option (Nat × Nat)) :=
  directory s.mem (spBase (gangCell s n 0 gj)) o.b.toNat

/-- The tags of a directory by entry. -/
def dirTags (d : List (Option (Nat × Nat))) : List (Option Nat) := d.map (Option.map Prod.fst)

/-- Whether the tags and directories of a segment pass obey R161. -/
def segLegal (s : State) (n : Nat) (o : UnitOp) : Bool :=
  let d := shapeDims (gangOf s n).shape
  let tags := dirTags (colDir s n 0 o)
  let present := tags.filterMap id
  decide present.Nodup
    && (List.range d.2).all (fun gj => dirTags (colDir s n gj o) == tags)
    && (List.range d.1).all (fun gi => (rowTags s n gi o).all (fun t =>
      match t with
      | none => true
      | some v => present.contains v))

/-- The number of sub-passes of a segment pass (R161, R162). -/
def segPasses (s : State) (n : Nat) (o : UnitOp) : Nat :=
  let d := shapeDims (gangOf s n).shape
  let used := (List.range d.1).flatMap (fun gi => (rowTags s n gi o).filterMap id)
  (((dirTags (colDir s n 0 o)).filterMap id).filter (fun v => used.contains v)).length

/-- The block offset a directory gives a tag. -/
def dirFind (dir : List (Option (Nat × Nat))) (tag : Nat) : Option Nat :=
  (dir.filterMap id).find? (fun e => e.1 = tag) |>.map Prod.snd

/-- One row of a segment pass: all K steps against the B block of the row's tag; nothing for a row without one (R161). -/
def segRow (s : State) (i : PassInfo) (cell bCell : Nat) (dir : List (Option (Nat × Nat))) (as : List FVal)
    (tag : Option Nat) (p : Nat) : List (BitVec 32) :=
  let ones := List.replicate i.k 127
  let c0 := passStart s i cell p
  match tag.bind (dirFind dir) with
  | none => (List.range 64).map c0
  | some off =>
    let bs := operandLanes s.mem bCell off i.b false i.k
    (List.range 64).map (fun q => siteSum i.rule (c0 q) (siteSteps as (bs.getD q []) ones ones))

/-- A segment pass (R161). -/
def passSeg (i : PassInfo) (o : UnitOp) (n : Nat) (s : State) : State :=
  let d := shapeDims (gangOf s n).shape
  forAll (List.range d.1) (fun gi => forAll (List.range d.2) (fun gj t =>
    let cell := gangCell s n gi gj
    let as := operandLanes s.mem (gangCell s n gi 0) o.a.toNat i.a false i.k
    let tags := rowTags s n gi o
    let dir := colDir s n gj o
    accWrite cell i.bank ((List.range 64).map (fun p =>
      segRow s i cell (gangCell s n 0 gj) dir (as.getD p []) (tags.getD p none) p)) t)) s

/-- CLK_ARITH cycles K·c of a pass over k steps (R45), rounded up. -/
def passCycles (i : PassInfo) (k : Nat) : Nat :=
  if i.rule.fp32 then 16 * k
  else
    match i.a, i.b with
    | .bf16, _ => 2 * k
    | .fp16, _ => 2 * k
    | .mxE2m1, .mxE2m1 => (k + 1) / 2
    | _, _ => k

/-- Cell-cycles in which the arrays of a gang hold the pass: each cell's own ready figure of R51 or R162, or only its
K·c where the pass follows another through the array (log entry 12). -/
def busyCycles (s : State) (n : Nat) (i : PassInfo) (o : UnitOp) (overlap : Bool) : Nat :=
  let d := shapeDims (gangOf s n).shape
  let work := if i.seg then 16 + segPasses s n o * passCycles i i.k
    else if i.kn then passCycles i (i.k / d.1) else passCycles i i.k
  ((List.range d.1).flatMap (fun gi => (List.range d.2).map (fun gj =>
    if overlap then work
    else if i.kn then 64 * (gj + 2) + work else 64 * (gi + gj + 2) + work))).sum

/-- Whether a pass may start, must wait, or is a fault (R44, R52, R78). -/
inductive PassGate where
  | go
  | wait
  | keepEmpty
deriving DecidableEq, Repr

/-- Whether a cell drains a bank at present. -/
def draining (c : Cell) (b : Bool) : Bool := drains c.unitD b

/-- The banks' part of the gate: `prev` is the pass still in the pipeline, if any. -/
def passGate (s : State) (n : Nat) (i : PassInfo) (prev : Option PassInfo) : PassGate :=
  let cells := (gangCells s n).map (getCell s)
  let st := fun (c : Cell) => (bankOf c i.bank).st
  let same := match prev with
    | some p => p.bank == i.bank
    | none => false
  let overlapOk := match prev with
    | none => true
    | some p => !p.seg && !i.seg && (p.kn == i.kn) && (!same || (i.keep && !i.kn))
  if !overlapOk then .wait
  else if i.keep then
    if cells.any (fun c => decide (st c = .empty)) then .keepEmpty
    else if cells.any (fun c => (decide (st c = .busy) && !same) || draining c i.bank) then .wait
    else .go
  else if cells.all (fun c => decide (st c = .empty)) then .go
  else .wait

/-- Starts a pass: the accumulators take its results, and the target banks are BUSY until it completes. -/
def startPass (n : Nat) (i : PassInfo) (o : UnitOp) (s : State) : State :=
  let s := if i.seg then passSeg i o n s else if i.kn then passKN i o n s else passMN i o n s
  let x := gangOrigin s n
  storageError n o.err (forAll (gangCells s n) (fun c => modCell c
    (setBank i.bank { st := .busy, kn := i.kn && decide (0 < (cellY c + 16 - cellY x) % 16) })) s)

/-- The kindling side of a pass about to start: true when it need not wait for a ramp (R59, R60). -/
def warm (s : State) (c : Cell) : Bool := !(ramped s) || (decide (c.kLevel = 8) && decide (c.kPhase ≠ .rampDown))

/-- Counts the kindling of a gap that a pass ends, and stops it (R59). -/
def endKindling (n gap : Nat) (s : State) : State :=
  let c := getCell s n
  let s := if c.kPhase = .kindling then countKindle n (min gap (fld s.pwr.kindle 19 0)) 8 s else s
  modCell n (fun c => { c with kPhase := .off, kLevel := 8 }) s

/-- Counts the part of a ramp-down level that is held when a pass turns the ramp upward: what the gap before the pass leaves
after GAP and the levels already held (R60, R62; log entry 105). -/
def countTurn (n gap : Nat) (s : State) : State :=
  let c := getCell s n
  if c.kPhase = .rampDown then
    let hold := fld s.pwr.kindle 27 20
    countKindle n (min (gap - (fld s.pwr.kindle 19 0 + (7 - c.kLevel) * hold)) hold) c.kLevel s
  else s

/-- Starts the M unit's operation at a place of its queue, when the array and the banks allow it. -/
def tryStartM (n place : Nat) (s : State) : State :=
  let c := getCell s n
  match c.unitM[place]? with
  | none => s
  | some o =>
    if o.started then s
    else
      let prev := if place = 0 then none else (c.unitM[0]?).bind (fun p => if p.started then passInfo p.word else none)
      if place ≠ 0 && prev.isNone then s
      else if !(warm s c) then modCell n (fun c => { c with kPhase := .rampUp }) (countTurn n o.gap s)
      else
        match passInfo o.word with
        | none => s
        | some i =>
          match passGate s n i prev with
          | .wait => s
          | .keepEmpty =>
            seqFault n 4 o.slot (modCell n (fun c => { c with unitM := c.unitM.eraseIdx place }) s)
          | .go =>
            if i.seg && !(segLegal s n o) then
              seqFault n 2 o.slot (modCell n (fun c => { c with unitM := c.unitM.eraseIdx place }) s)
            else
              let o' := { o with started := true, left := busyCycles s n i o prev.isSome }
              startPass n i o (modCell n (fun c => { c with unitM := mapAt (fun _ => o') place c.unitM })
                (endKindling n o.gap s))

/-- Starts what the M unit of a gang's origin can start. -/
def startM (n : Nat) (s : State) : State := tryStartM n 1 (tryStartM n 0 s)

/-! ### The drain and vector unit (R53 to R56, R111, R126, R139, R145) -/

/-- The statistics partial of a slot takes what an instruction writes or reads (R56, R137, R405). -/
def observeSlot (n slot : Nat) (f : Fmt) (seen : List Seen) (s : State) : State :=
  if s.pwr.modes.stats then
    let cfg := SMap.get slotCfgInit (getPos s (cellPosn n)).slotCfg slot
    modCell n (fun c => { c with
      partials := SMap.upd Partial.init c.partials slot (fun p => observeAll cfg f n p seen) }) s
  else s

/-- The 64 drained rows before their conversion: flushed, through the fused list, with the residual added; and which
elements were flushed (R54, R55, R73, log entry 22). -/
def drainRows (s : State) (n : Nat) (o : UnitOp) : List (List (BitVec 32) × List Bool) :=
  let raw := (List.range 64).map (fun r => (accRow s n (bit o.word 36) r).map flushF32)
  let rows := fusedList s.mem (spBase n) (o.fused.map (fun v => (v.1, v.2.toNat))) (raw.map (fun l => l.map Prod.fst))
  let sums := if bit o.word 27 then
      List.zipWith (List.zipWith fadd) (areaF32 s.mem (spBase n) o.b.toNat .fp32 64) rows
    else rows
  sums.zip (raw.map (fun l => l.map Prod.snd))

/-- A DRAIN: the destination area, the narrow copy, the statistics (R53 to R56). R55 orders the reads and writes of one row
only. This model reads the residual and fused sources of all 64 rows before it writes anything, and writes the whole
destination area before the copy, so where the areas overlap the copy's bytes stay (DESIGN CHOICE, log entry 14). -/
def runDrain (n : Nat) (o : UnitOp) (s : State) : State :=
  let w := o.word
  let rows := drainRows s n o
  let vals := rows.map Prod.fst
  let f := (wFmt w 35 32).getD .fp32
  let dst := encodeArea f (bit w 25) vals (rows.map Prod.snd)
  let mem := spWrite s.mem (spBase n) o.a.toNat dst.bytes
  let mem := if bit w 26 then
      spWrite mem (spBase n) o.c.toNat (encodeArea ((wFmt w 31 28).getD .fp32) (bit w 25) vals []).bytes
    else mem
  let s := { s with mem := mem }
  storageError n o.err (if bit w 24 then observeSlot n (fld w 23 12) f dst.seen s else s)

/-- The step and attempt that a statistics record closed by a body carries (R141). -/
def stepTag (s : State) (step : Option (BitVec 64)) : BitVec 64 × BitVec 4 :=
  match step.bind (heldStep s) with
  | some h => (h.step, h.attempt)
  | none => (s.step.next, 0)

/-- A VOP that writes an area: its rows of results, the format, and the statistics over all of them (R111, R126). -/
def writeRows (n : Nat) (o : UnitOp) (rows : List (List (BitVec 32))) (s : State) : State :=
  let w := o.word
  let f := (wFmt w 26 23).getD .fp32
  let dst := encodeArea f (bit w 22) rows []
  let s := { s with mem := spWrite s.mem (spBase n) o.c.toNat dst.bytes }
  if bit w 21 then observeSlot n (fld w 20 9) f dst.seen s else s

/-- TOPKk: the value row and the position row; only selected values are observed (R131). -/
def runTopK (n : Nat) (o : UnitOp) (k : Nat) (rows : List (List (BitVec 32))) (s : State) : State :=
  let cand := topK k 0 rows.flatten []
  let r := topRows cand
  let bytes := (r.1 ++ r.2).flatMap (fun v => leBytes 4 v.toNat)
  let s := { s with mem := spWrite s.mem (spBase n) o.c.toNat bytes }
  if bit o.word 21 then
    observeSlot n (fld o.word 20 9) .fp32 (cand.map (fun c => ⟨c.1, false, false⟩)) s
  else s

/-- STCLOSE: the cell's partial goes to the base controller (R139). -/
def runStclose (n : Nat) (o : UnitOp) (s : State) : State :=
  let slot := fld o.word 20 9
  let t := stepTag s o.step
  let msg : PartialMsg :=
    { slot := slot, p := SMap.get Partial.init (getCell s n).partials slot, step := t.1, attempt := t.2 }
  let s := modCell n (fun c => { c with partials := SMap.set Partial.init c.partials slot Partial.init }) s
  modPos (cellPosn n) (fun p => { p with partialQ := p.partialQ ++ [msg] }) s

/-- A VOP as it starts in the D unit (R111 to R113, R126 to R131, R139, R145). The sources are read before anything is
written (DESIGN CHOICE, log entry 14), and both sources are areas of ROWSM1 + 1 rows, for MULROW and ADDROW too, where R111
leaves the extent of the second one open (DESIGN CHOICE, log entry 67).-/
def runVop (n : Nat) (o : UnitOp) (s : State) : State :=
  let w := o.word
  let v := wVopc w
  let rowsN := fld w 8 0 + 1
  let f := (wFmt w 30 27).getD .fp32
  let src := fun (off : BitVec 20) => areaF32 s.mem (spBase n) off.toNat f rowsN
  if v = 0x31 then runStclose n o s
  else if v = 0x30 then
    if bit w 21 then
      observeSlot n (fld w 20 9) f ((src o.a).flatten.map (fun x => ⟨x, false, false⟩)) s
    else s
  else if v = 0x13 then
    { s with mem := spWrite s.mem (spBase n) o.c.toNat (pack4Bytes s.mem (spBase n) o.a.toNat rowsN) }
  else if v ≤ 0x12 then
    writeRows n o (elementwiseRows v (src o.a) (if isBinary v then src o.b else [])) s
  else if 0x28 ≤ v then runTopK n o (v - 0x27) (src o.a) s
  else
    match reduceRows v (src o.a) with
    | some rows => writeRows n o rows s
    | none => s

/-- The non-finite elements an FCHECK reads, kept until it completes (R145). -/
def checkCount (s : State) (n : Nat) (o : UnitOp) : Nat :=
  let w := o.word
  if wVopc w = 0x30 && decide (wOp w = 0x19) then
    nonFiniteCount (areaF32 s.mem (spBase n) o.a.toNat ((wFmt w 30 27).getD .fp32) (fld w 8 0 + 1))
  else 0

/-- Starts the D unit's first operation: a VOP at once, a DRAIN when its bank is FULL (R78). -/
def startD (n : Nat) (s : State) : State :=
  let c := getCell s n
  match c.unitD with
  | [] => s
  | o :: rest =>
    if o.started then s
    else
      let go := decide (wOp o.word = 0x19) || decide ((bankOf c (bit o.word 36)).st = .full)
      if go then
        let o' := { o with started := true, left := checkCount s n o }
        let s := modCell n (fun c => { c with unitD := o' :: rest }) s
        if wOp o.word = 0x18 then runDrain n o s else storageError n o.err (runVop n o s)
      else s

/-! ### Stream-in and stream-out (R77) -/

/-- The port a SIN or SOUT names. -/
def opPort (o : UnitOp) : Nat := fld o.word 44 41

/-- The SIN at the head of the I unit takes the units that wait on its port, as many as it still needs. -/
def startI (n : Nat) (s : State) : State :=
  let c := getCell s n
  match c.unitI with
  | [] => s
  | o :: rest =>
    let q := SMap.get [] c.fifoIn (opPort o)
    let k := min o.left q.length
    let total := fld o.word 38 24 + 1
    let off := o.a.toNat + 64 * (total - o.left)
    let s := { s with mem := spWriteUnits (spBase n) off (q.take k) s.mem }
    modCell n (fun c => { c with
      unitI := { o with started := true, left := o.left - k } :: rest
      fifoIn := SMap.set [] c.fifoIn (opPort o) (q.drop k) }) s

/-- The SOUT at the head of the O unit hands its units to the port (R77, R66). -/
def startO (n : Nat) (s : State) : State :=
  let c := getCell s n
  match c.unitO with
  | [] => s
  | o :: rest =>
    if o.started then s
    else
      let units := cut 64 (spUnits s.mem (spBase n) o.a.toNat (fld o.word 38 24 + 1))
      let seq := (getPos s (cellPosn n)).outSeq
      let tagged := (List.range units.length).zipWith (fun i u => (seq + i, u)) units
      let s := modPos (cellPosn n) (fun p => { p with outSeq := p.outSeq + units.length }) s
      let s := modCell n (fun c => { c with
        unitO := { o with started := true } :: rest
        fifoOut := SMap.upd [] c.fifoOut (opPort o) (fun q => q ++ tagged) }) s
      storageError n o.err s

/-! ### Issue (R74, R75) -/

/-- Moves a body on to a slot of its own; past its length the sequencer stops with PC_RANGE (R79). -/
def advancePc (n pc : Nat) (s : State) : State :=
  match (getCell s n).run with
  | none => s
  | some r =>
    let r' := { r with pc := pc }
    let s := modCell n (fun c => { c with run := some r' }) s
    if r.len ≤ pc then seqFault n 6 (runSlot r') s else s

/-- The semaphore a WEN instruction waits on goes down by 1 at issue (R74). -/
def takeWait (n : Nat) (w : BitVec 64) (s : State) : State :=
  if bit w 57 then modCell n (fun c => { c with sems := SMap.upd 0 c.sems (fld w 56 54) (fun v => v - 1) }) s else s

/-- Whether a word's WEN condition holds. -/
def waitReady (s : State) (n : Nat) (w : BitVec 64) : Bool :=
  !(bit w 57) || decide (SMap.get 0 (getCell s n).sems (fld w 56 54) ≠ 0)

/-- A sequencer row: the body's next word is fetched, and an error in it that is not corrected stops the sequencer (R66, R79).
Nothing issues while CLK_ARITH is stopped (R403). When the word is one of the row's and its WEN condition and the row's own hold, it issues: corrected errors of the fetch count,
the reserved bits are checked, and the row's action runs, on the state before and the state after WEN's decrement. -/
def seqRow (n : Nat) (fetch : ReadErr) (mine : BitVec 64 → Bool) (ready : State → BitVec 64 → Bool)
    (act : Run → BitVec 64 → State → State → State) (s : State) : State :=
  match (getCell s n).run with
  | none => s
  | some r =>
    let w := runWord s n r
    if !(mine w) || s.pwr.arithStopped then s
    else if fetch.uncorrected then seqFault n 0xA (runSlot r) s
    else if waitReady s n w && ready s w then
      let s := countCorrectedCell n fetch.corrected s
      if reservedBit w then seqFault n 1 (runSlot r) s else act r w s (takeWait n w s)
    else s

/-- Whether a word has an opcode. -/
def isOp (op : Nat) (w : BitVec 64) : Bool := decide (wOp w = op)

/-- A condition that always holds. -/
def always (_ : State) (_ : BitVec 64) : Bool := true

/-- A SEQ instruction that only acts on the body's own registers: it issues, acts, moves on and signals. -/
def seqSimple (n op : Nat) (fetch : ReadErr) (f : Run → BitVec 64 → Run) (s : State) : State :=
  seqRow n fetch (isOp op) always (fun r w _ s =>
    let s := modCell n (fun c => { c with run := some (f r w) }) s
    signalDone n w (advancePc n (r.pc + 1) s)) s

/-- A unit operation as it issues: its address registers are read (R75). -/
def newOp (r : Run) (w : BitVec 64) (fused : List (BitVec 6 × BitVec 20)) (err : ReadErr) (gap : Nat) : UnitOp :=
  let a := fun (hi lo : Nat) => areg r (fld w hi lo)
  { word := w, a := a 48 45, b := a 44 41, c := a 40 37
    d := a 36 33, e := a 7 4, fused := fused, started := false, left := 0, err := err, gap := gap, slot := runSlot r
    step := r.step }

/-- A format field that is in use and holds a reserved code. -/
def badFmt (w : BitVec 64) (used : Bool) (hi lo : Nat) : Bool := used && (wFmt w hi lo).isNone

/-- The fused vector list a DRAIN names, with the offsets read from its registers (R73, R81). -/
def fusedOf (c : Cell) (r : Run) (w : BitVec 64) : List (BitVec 6 × BitVec 20) :=
  let v := fld w 11 8
  if v = 0 then [] else (SMap.get [] c.cfg.vlists v).map (fun p => (p.1, areg r p.2.toNat))

/-- The format rules of a VOP (R79, R113, R126, R145). -/
def vopBad (w : BitVec 64) : Bool :=
  let v := wVopc w
  let sf := wFmt w 30 27
  let df := wFmt w 26 23
  let wide := fun (f : Option Fmt) => f = some .fp32 || f = some .bf16 || f = some .fp16
  if v = 0x31 then false
  else if v = 0x30 then !(wide sf)
  else if v = 0x13 then !(sf = some .mxE2m1 && df = some .mxE2m1)
  else if v ≤ 0x12 then sf.isNone || df.isNone
  else if v = 0x24 || v = 0x25 || decide (0x28 ≤ v) then sf.isNone || !(df = some .fp32)
  else sf.isNone || !(wide df)

/-- The checks an MM passes before it issues: NOT_ORIGIN, and BAD_PASS by R45, R46, R48 and R161. -/
def mmFault (s : State) (n : Nat) (w : BitVec 64) : Option Nat :=
  let fa := wFmt w 19 16
  let fb := wFmt w 15 12
  let m := (shapeDims (gangOf s n).shape).1
  if fa.isNone || fb.isNone then some 1
  else if gangOrigin s n ≠ n then some 3
  else
    match passInfo w with
    | none => some 2
    | some i =>
      if !(kLegal i.a i.b i.rule i.k (if i.kn then m else 1)) || (i.kn && i.keep)
          || (i.seg && (i.kn || decide (i.a ≠ .bf16) || decide (i.b ≠ .bf16))) then some 2
      else none

/-- A DRAIN of a bank that a form KN partial has left (R78). -/
def drainGone (s : State) (n : Nat) (w : BitVec 64) : Bool :=
  let b := bankOf (getCell s n) (bit w 36)
  decide (b.st = .empty) && b.kn

/-- A fused list that holds a reserved VOPC. -/
def listBad (c : Cell) (w : BitVec 64) : Bool :=
  let v := fld w 11 8
  decide (v ≠ 0) && (SMap.get [] c.cfg.vlists v).any (fun p => vopcReserved p.1.toNat)

/-- The checks a DRAIN passes before it issues (R73, R78, R79). -/
def drainFault (s : State) (n : Nat) (w : BitVec 64) : Option Nat :=
  if badFmt w true 35 32 || badFmt w (bit w 26) 31 28 || (bit w 27 && decide (wFmt w 35 32 ≠ some .fp32))
      || listBad (getCell s n) w then some 1
  else if drainGone s n w then some 0xB
  else none

/-- The checks a SIN or SOUT passes before it issues (R77). -/
def portFault (s : State) (n : Nat) (w : BitVec 64) (out : Bool) : Option Nat :=
  let p := SMap.get PortCfg.init (getCell s n).cfg.ports (fld w 44 41)
  if p.en && (p.out == out) then none else some 8

/-- A unit instruction: it issues when its unit has room, and its checks pass; it joins the unit's queue and starts if it
can. -/
def unitRow (n : Nat) (fetch : ReadErr) (mine : BitVec 64 → Bool) (room : Cell → Bool) (bad : State → BitVec 64 → Option Nat)
    (put : Run → BitVec 64 → Cell → Cell) (start : State → State) (s : State) : State :=
  seqRow n fetch mine (fun s _ => room (getCell s n)) (fun r w s t =>
    match bad s w with
    | some code => seqFault n code (runSlot r) s
    | none => start (advancePc n (r.pc + 1) (modCell n (put r w) t))) s

end Sys2Proof.Machine
end

