-- ==== Sys2Proof/Machine/Sequencer.lean ====
section
/-! DEFINITION. The commands of the tile sequencer and of a cell: one meaning for each instruction of R72 and each cell
event (R43 to R45, R57 to R60, R68, R69, R72 to R79, R86, R87). What happens in
a cell happens while CLK_ARITH runs: a thermal trip stops it on every die (R403). -/

namespace Sys2Proof.Machine

/-! ### SEQ instructions -/

/-- NOP (R72). -/
def execNop (i : Issue) (s : State) : Out := .next (seqSimple (cellNum i.cell) 0x00 i.fetch (fun r _ => r) s)

/-- PROG: the body header; its KINDLE flag is the body's when it is the first instruction (R58, R69). -/
def execProg (i : Issue) (s : State) : Out :=
  .next (seqSimple (cellNum i.cell) 0x01 i.fetch (fun r w => if r.pc = 0 then { r with kindle := bit w 0 } else r) s)

/-- A named cell of a TILE has executed END: the TILE completes when every named cell has (R68). -/
def tileCellDone (r : Run) (n : Nat) (s : State) : State :=
  match startedDesc s r.ctx r.key with
  | none => s
  | some d =>
    let left := d.cells &&& ~~~(BitVec.ofNat 256 (2 ^ (n % 256)))
    if left = 0 then completeKey r.ctx r.key stOk 0 (cellPosn n + 1) s
    else modCtx r.ctx (fun x => { x with
      started := x.started.map (fun e => if e.key = r.key then { e with cells := left } else e) }) s

/-- Whether the four units of a cell are idle. -/
def unitsIdle (c : Cell) : Bool := c.unitM.isEmpty && c.unitD.isEmpty && c.unitI.isEmpty && c.unitO.isEmpty

/-- END: waits until the four units are idle, then ends the body (R72, R74). -/
def execEndBody (i : Issue) (s : State) : Out :=
  let n := cellNum i.cell
  .next (seqRow n i.fetch (isOp 0x02) (fun s _ => unitsIdle (getCell s n)) (fun r w _ s =>
    tileCellDone r n (signalDone n w (modCell n (fun c => { c with run := none }) s))) s)

/-- SETA: Ad ← IMM (R72). -/
def execSeta (i : Issue) (s : State) : Out :=
  .next (seqSimple (cellNum i.cell) 0x04 i.fetch (fun r w =>
    { r with aregs := SMap.set 0 r.aregs (fld w 48 45) (BitVec.ofNat 20 (fld w 19 0)) }) s)

/-- ADDA: Ad ← (Ad + IMM) mod 2^20 (R72). -/
def execAdda (i : Issue) (s : State) : Out :=
  .next (seqSimple (cellNum i.cell) 0x05 i.fetch (fun r w =>
    { r with aregs := SMap.upd 0 r.aregs (fld w 48 45) (fun a => a + BitVec.ofNat 20 (fld w 19 0)) }) s)

/-- LOOP: opens a loop; a fifth nested one is a fault (R72, R75, R79). -/
def execLoop (i : Issue) (s : State) : Out :=
  let n := cellNum i.cell
  .next (seqRow n i.fetch (isOp 0x06) always (fun r w s t =>
    if 4 ≤ r.loops.length then seqFault n 5 (runSlot r) s
    else
      let t := modCell n (fun c => { c with run := some { r with loops := (r.pc + 1, fld w 15 0) :: r.loops } }) t
      signalDone n w (advancePc n (r.pc + 1) t)) s)

/-- ENDL: closes the innermost loop; without one it is a fault (R72, R75, R79). -/
def execEndl (i : Issue) (s : State) : Out :=
  let n := cellNum i.cell
  .next (seqRow n i.fetch (isOp 0x07) always (fun r w s t =>
    match r.loops with
    | [] => seqFault n 5 (runSlot r) s
    | (start, left) :: rest =>
      let loops := if left = 0 then rest else (start, left - 1) :: rest
      let pc := if left = 0 then r.pc + 1 else start
      let t := modCell n (fun c => { c with run := some { r with loops := loops } }) t
      signalDone n w (advancePc n pc t)) s)

/-- Whether a WAITS may issue: its own wait is met after the one of WEN (R74; log entry 15), or its COUNT is 0. -/
def waitsReady (n : Nat) (s : State) (w : BitVec 64) : Bool :=
  let sem := fld w 48 46
  let held := (SMap.get 0 (getCell s n).sems sem).toNat - (if bit w 57 && decide (fld w 56 54 = sem) then 1 else 0)
  decide (fld w 7 0 ≤ held)

/-- WAITS: waits until SEM ≥ COUNT, then subtracts COUNT; COUNT 0 is a fault (R72, R79). -/
def execWaits (i : Issue) (s : State) : Out :=
  let n := cellNum i.cell
  .next (seqRow n i.fetch (isOp 0x08) (waitsReady n) (fun r w s t =>
    if fld w 7 0 = 0 then seqFault n 7 (runSlot r) s
    else
      let t := modCell n (fun c => { c with
        sems := SMap.upd 0 c.sems (fld w 48 46) (fun v => v - BitVec.ofNat 8 (fld w 7 0)) }) t
      signalDone n w (advancePc n (r.pc + 1) t)) s)

/-! ### Unit instructions -/

/-- MM: one array pass (R42, R45 to R49, R161). `gap` is the length in cycles of the idle gap before it (R62). -/
def execMm (i : Issue) (err : ReadErr) (gap : Nat) (s : State) : Out :=
  let n := cellNum i.cell
  .next (unitRow n i.fetch (isOp 0x10) (fun c => decide (c.unitM.length < 2)) (fun s w => mmFault s n w)
    (fun r w c => { c with unitM := c.unitM ++ [newOp r w [] err gap] }) (startM n) s)

/-- DRAIN: drains one bank (R53 to R56). -/
def execDrain (i : Issue) (err : ReadErr) (s : State) : Out :=
  let n := cellNum i.cell
  .next (unitRow n i.fetch (isOp 0x18) (fun c => decide (c.unitD.length < 2)) (fun s w => drainFault s n w)
    (fun r w c => { c with unitD := c.unitD ++ [newOp r w (fusedOf c r w) err 0] }) (startD n) s)

/-- SIN: writes units that arrive on a stream port into the scratchpad (R72, R77). -/
def execSin (i : Issue) (s : State) : Out :=
  let n := cellNum i.cell
  .next (unitRow n i.fetch (isOp 0x20) (fun c => decide (c.unitI.length < 2)) (fun s w => portFault s n w false)
    (fun r w c => { c with unitI := c.unitI ++ [{ newOp r w [] ⟨0, false⟩ 0 with left := fld w 38 24 + 1 }] }) (startI n) s)

/-- SOUT: sends scratchpad units out on a stream port (R72, R77). -/
def execSout (i : Issue) (err : ReadErr) (s : State) : Out :=
  let n := cellNum i.cell
  .next (unitRow n i.fetch (isOp 0x21) (fun c => decide (c.unitO.length < 2)) (fun s w => portFault s n w true)
    (fun r w c => { c with unitO := c.unitO ++ [newOp r w [] err 0] }) (startO n) s)

/-- A word that is a VOP with a given VOPC. -/
def isVop (v : Nat) (w : BitVec 64) : Bool := decide (wOp w = 0x19) && decide (wVopc w = v)

/-- A VOP row: it issues into the D unit when the unit has room and the VOP's format rules hold (R72, R79, R111). -/
def vopRow (i : VopIssue) (v : Nat) (s : State) : State :=
  let n := cellNum i.cell
  unitRow n i.fetch (isVop v) (fun c => decide (c.unitD.length < 2)) (fun _ w => if vopBad w then some 1 else none)
    (fun r w c => { c with unitD := c.unitD ++ [newOp r w [] i.err 0] }) (startD n) s

/-- An instruction with a reserved opcode or VOPC reaches issue: ILLEGAL_OP (R79, R154). -/
def execReservedOpcode (i : Issue) (s : State) : Out :=
  let n := cellNum i.cell
  .next (seqRow n i.fetch (fun w => !(knownOps.contains (wOp w)) || (decide (wOp w = 0x19) && vopcReserved (wVopc w))) always
    (fun r _ s _ => seqFault n 1 (runSlot r) s) s)

/-! ### Completions (R76, R460) -/

/-- Whether the gang rows that send partials have done so for a bank (R78, R123). -/
def partialsLeft (s : State) (n : Nat) (b : Bool) : Bool :=
  (gangCells s n).all (fun c => !((bankOf (getCell s c) b).kn && decide ((bankOf (getCell s c) b).st = .busy)))

/-- A cell's bank is ready: FULL when a pass held it BUSY (R78). -/
def fillBank (b : Bool) (n : Nat) (s : State) : State :=
  modCell n (fun k => if (bankOf k b).st = .busy then setBank b { bankOf k b with st := .full } k else k) s

/-- The target banks of a completed pass: FULL, but BUSY where a KEEP pass into them has started and EMPTY where a partial
has left (R78). -/
def fillBanks (n : Nat) (b : Bool) (s : State) : State := forAll (gangCells s n) (fillBank b) s

/-- MM_COMPLETE: the whole gang's target bank is ready; `stalls` cycles were lost to refused reads (R43, R51, R67). -/
def execMmComplete (c : CellId) (stalls : Nat) (s : State) : Out :=
  if s.pwr.arithStopped then .next s else
    let n := cellNum c
    match (getCell s n).unitM with
    | [] => .next s
    | o :: rest =>
      match passInfo o.word with
      | none => .next s
      | some i =>
        if !o.started || !(partialsLeft s n i.bank) then .next s
        else
          let again := match rest with
            | p :: _ => p.started && (match passInfo p.word with
              | some j => j.bank == i.bank
              | none => false)
            | [] => false
          let lost := stalls * (gangCells s n).length
          let s := modCell n (fun c => { c with unitM := rest }) s
          let s := if again then s else fillBanks n i.bank s
          let s := modPos c.posn.val (fun p => { p with
            arrayBusy := p.arrayBusy + BitVec.ofNat 64 (o.left + lost)
            bankStall := p.bankStall + BitVec.ofNat 64 lost }) s
          .next (startM n (signalDone n o.word s))

/-- DRAIN_COMPLETE: the bank is EMPTY at its last row and the next work of the unit and of the array may start. -/
def execDrainComplete (c : CellId) (s : State) : Out :=
  if s.pwr.arithStopped then .next s else
    let n := cellNum c
    match (getCell s n).unitD with
    | [] => .next s
    | o :: rest =>
      if !o.started || decide (wOp o.word ≠ 0x18) then .next s
      else
        let s := modCell n (fun c => { setBank (bit o.word 36) { st := .empty, kn := false } c with unitD := rest }) s
        .next (startM (gangOrigin s n) (startD n (signalDone n o.word s)))

/-- VOP_COMPLETE: the last destination unit is written; an FCHECK counts now, when its step's vote is not cast (R145). -/
def execVopComplete (c : CellId) (s : State) : Out :=
  if s.pwr.arithStopped then .next s else
    let n := cellNum c
    match (getCell s n).unitD with
    | [] => .next s
    | o :: rest =>
      if !o.started || decide (wOp o.word ≠ 0x19) then .next s
      else
        let s := modCell n (fun c => { c with unitD := rest }) s
        .next (startD n (signalDone n o.word (fcheckDone n o s)))

/-- SIN_COMPLETE: every unit is written to the scratchpad (R76). -/
def execSinComplete (c : CellId) (s : State) : Out :=
  if s.pwr.arithStopped then .next s else
    let n := cellNum c
    match (getCell s n).unitI with
    | [] => .next s
    | o :: rest =>
      if !o.started || decide (o.left ≠ 0) then .next s
      else .next (startI n (signalDone n o.word (modCell n (fun c => { c with unitI := rest }) s)))

/-- SOUT_COMPLETE: the vertical port has accepted the last unit (R76). -/
def execSoutComplete (c : CellId) (s : State) : Out :=
  if s.pwr.arithStopped then .next s else
    let n := cellNum c
    match (getCell s n).unitO with
    | [] => .next s
    | o :: rest =>
      if !o.started then .next s
      else .next (startO n (signalDone n o.word (modCell n (fun c => { c with unitO := rest }) s)))

/-- Takes the first signal on its way to an origin. -/
def takeSorg (n : Nat) : List (Nat × Nat) → Option (Nat × List (Nat × Nat))
  | [] => none
  | g :: t =>
    if g.1 = n then some (g.2, t)
    else (takeSorg n t).map (fun r => (r.1, g :: r.2))

/-- SORG_SIGNAL_ARRIVE: the oldest SORG signal on its way to this origin reaches its semaphore (R76). -/
def execSorgSignalArrive (c : CellId) (s : State) : Out :=
  if s.pwr.arithStopped then .next s else
    let n := cellNum c
    match takeSorg n s.sorg with
    | none => .next s
    | some (k, rest) => .next (signalSem n k { s with sorg := rest })

/-- The bank that the DRAIN at the head of a cell's drain unit waits for. -/
def drainBank (s : State) (n : Nat) : Bool :=
  match (getCell s n).unitD with
  | o :: _ => bit o.word 36
  | [] => false

/-- Whether the pass into the BUSY bank that a waiting DRAIN names may be ready in this cell before the whole gang is: form MN, or
form KN with one gang row, and no KEEP pass into the same bank follows it through the array (R51, R78). -/
def earlyReady (s : State) (n : Nat) : Bool :=
  let b := drainBank s n
  let first := ((getCell s (gangOrigin s n)).unitM.filter UnitOp.started).filterMap (fun o => passInfo o.word)
  decide ((bankOf (getCell s n) b).st = .busy) && (match first with
    | i :: rest =>
      (i.bank == b) && (!i.kn || decide ((shapeDims (gangOf s n).shape).1 = 1)) && rest.all (fun j => j.bank != b)
    | [] => false)

/-- DRAIN_BANK_FULL_START: a DRAIN that waits in the unit starts when its bank is FULL (R78). Each cell's bank goes FULL at
its own ready cycle of R51, which for a cell other than the gang's last lies before the whole gang's: for such a cell the
command comes at that cycle. -/
def execDrainBankFullStart (c : CellId) (s : State) : Out :=
  if s.pwr.arithStopped then .next s else
    let n := cellNum c
    .next (startD n (if earlyReady s n then fillBank (drainBank s n) n s else s))

/-- The bank whose partial a gang row sends at present: that of the pass at the head of the origin's array, else of the
one behind it. -/
def partialBank (s : State) (n : Nat) : Option Bool :=
  let k := getCell s n
  let waits := fun (b : Bool) => (bankOf k b).kn && decide ((bankOf k b).st = .busy)
  ((((getCell s (gangOrigin s n)).unitM.filter UnitOp.started).filterMap (fun o => passInfo o.word)).filter
    (fun i => i.kn && waits i.bank)).head? |>.map PassInfo.bank

/-- KN_PARTIAL_LEFT: the partial of a gang row has left for the combine tree, and its bank is EMPTY; a DRAIN that waits on
it ends with DRAIN_KN (R54, R78, R123). A parity error of the registers is found as the partial leaves (R66). -/
def execKnPartialLeft (r : CellRead) (s : State) : Out :=
  if s.pwr.arithStopped then .next s else
    let n := cellNum r.cell
    match partialBank s n with
    | none => .next s
    | some b =>
      let s := storageError n r.err (modCell n (fun k => setBank b { st := .empty, kn := true } k) s)
      let waiting := (getCell s n).unitD.find? (fun o =>
        !o.started && decide (wOp o.word = 0x18) && (bit o.word 36 == b))
      match waiting with
      | none => .next s
      | some o =>
        let s := modCell n (fun k => { k with unitD := k.unitD.filter (fun q =>
          q.started || decide (wOp q.word ≠ 0x18) || (bit q.word 36 != b)) }) s
        .next (seqFault n 0xB o.slot s)

/-! ### Bodies (R68, R69, R86, R87) -/

/-- How far a TILE's epoch lies from a position's active epoch (R86). -/
def epochDistance (s : State) (n : Nat) (e : BitVec 16) : Nat := (e - (getPos s (cellPosn n)).activeEpoch).toNat

/-- A TILE that ends without running: it completes with a status, and no cell of its position keeps it waiting. -/
def dropTile (t : TileWait) (n status : Nat) (s : State) : State :=
  let s := mapCells (fun m => decide (cellPosn m = cellPosn n))
    (fun c => { c with tiles := c.tiles.filter (fun x => x.key != t.key) }) s
  completeKey t.ctx t.key status (getPos s (cellPosn n)).activeEpoch.toNat (cellPosn n + 1) s

/-- A body in a cell before its first instruction: address registers and loop counters read 0 (R69). -/
def newRun (t : TileWait) (e : ProgEntry) : Run :=
  { ctx := t.ctx, key := t.key, pid := t.pid, first := e.first, len := e.len, pc := 0, kindle := false, loops := []
    aregs := [], step := t.step }

/-- Whether the first slot of an entry holds a PROG that matches the entry and the TILE (R69). -/
def progMatches (w : BitVec 64) (t : TileWait) (e : ProgEntry) : Bool :=
  decide (wOp w = 0x01) && decide (fld w 47 36 + 1 = e.len) && decide (fld w 35 30 = t.pid.toNat)

/-- Starts the body a current TILE names, or stops with NO_PROGRAM or PROG_ECC (R66, R69). NUM_SEQ_FAULT.PC of a NO_PROGRAM
whose PID is not in the table is 0, for no instruction is at fault (DESIGN CHOICE, log entry 108). -/
def startBody (n : Nat) (t : TileWait) (err : ReadErr) (s : State) : State :=
  let s := modCell n (fun c => { c with tiles := c.tiles.drop 1 }) s
  match SMap.get none (getCell s n).cfg.table t.pid.toNat with
  | none =>
    let r := newRun t { first := 0, len := 0 }
    seqFault n 9 0 (modCell n (fun c => { c with run := some r }) s)
  | some e =>
    let r := newRun t e
    let s := modCell n (fun c => { c with run := some r }) s
    if err.uncorrected then seqFault n 0xA (runSlot r) s
    else
      let s := countCorrectedCell n err.corrected s
      if progMatches (runWord s n r) t e then s else seqFault n 9 (runSlot r) s

/-- BODY_START: an idle cell takes the TILE that waits first; by its epoch the body runs, waits or is refused (R68, R69,
R86). -/
def execBodyStart (c : CellId) (err : ReadErr) (s : State) : Out :=
  if s.pwr.arithStopped then .next s else
    let n := cellNum c
    let k := getCell s n
    match k.run, k.tiles with
    | none, t :: _ =>
      let d := epochDistance s n t.epoch
      if d = 0 then .next (startBody n t err s)
      else if d < 32768 then .next s
      else
        let s := raise 0x0102 (posUnit c.posn.val 0x22) { ctx := some t.ctx, posn := some c.posn.val } s
        .next (dropTile t n stEpochAhead s)
    | _, _ => .next s

/-- EPOCH_STALL: a cell that has stayed behind for STEP_EPOCH_WAIT.LIMIT stops waiting (R87). The limit is counted from the
start of the TILE, and the stall may come while an earlier body still runs in the cell (DESIGN CHOICE, log entry 107). -/
def execEpochStall (c : CellId) (s : State) : Out :=
  if s.pwr.arithStopped then .next s else
    let n := cellNum c
    match (getCell s n).tiles with
    | [] => .next s
    | t :: _ =>
      let d := epochDistance s n t.epoch
      if 0 < d && decide (d < 32768) then
        let s := advanceTo (t.since + usec (fld s.step.epochWait 23 0)) s
        let s := raise 0x0103 (posUnit c.posn.val 0x22) { ctx := some t.ctx, posn := some c.posn.val } s
        .next (dropTile t n stEpochStall s)
      else .next s

/-- STREAM_UNIT_ARRIVE: a unit reaches a cell's port and waits there until a SIN takes it (R41, R77). -/
def portArrive (n : Nat) (sctx : BitVec 17) (unit : List Byte) (s : State) : Option State :=
  let k := getCell s n
  let port := (List.range 16).find? (fun p =>
    let q := SMap.get PortCfg.init k.cfg.ports p
    q.en && !q.out && q.sctx == sctx)
  port.map (fun p => startI n (modCell n (fun c => { c with
    fifoIn := SMap.upd [] c.fifoIn p (fun q => q ++ [unit]) }) s))

/-- STREAM_UNIT_ARRIVE (R41, R77). -/
def execStreamUnitArrive (c : CellId) (sctx : BitVec 17) (unit : List Byte) (s : State) : Out :=
  if s.pwr.arithStopped then .next s else
    .next ((portArrive (cellNum c) sctx unit s).getD s)

/-! ### Kindling (R57 to R62) -/

/-- Whether the gang's origin kindles in a gap (R58): always in STEADY, else by the KINDLE flag of the body it runs. -/
def kindles (s : State) (k : Cell) : Bool :=
  decide (fld s.pwr.kindle 19 0 ≠ 0) &&
    (decide (s.pwr.modes.draught = .steady) || (match k.run with
      | some r => r.kindle
      | none => false))

/-- KINDLE_START: kindling starts in the first idle cycle after a pass, at full activity (R57 to R59; log entry 16). In OPEN and
DAMPED the flag of R58 is looked at here only: kindling that has started goes on to GAP or to the next pass when the flagged
body ENDs, or when a body without the flag starts inside the gap (DESIGN CHOICE, log entry 106). -/
def execKindleStart (c : CellId) (s : State) : Out :=
  if s.pwr.arithStopped then .next s else
    let n := cellNum c
    let k := getCell s n
    if gangOrigin s n = n && k.unitM.isEmpty && decide (k.kPhase = .off) && decide (k.kLevel = 8) && kindles s k then
      .next (modCell n (fun c => { c with kPhase := .kindling }) s)
    else .next s

/-- KINDLE_GAP_EXPIRY: the gap reaches GAP: kindling ends at once, or the array ramps down in STEADY (R59). -/
def execKindleGapExpiry (c : CellId) (s : State) : Out :=
  if s.pwr.arithStopped then .next s else
    let n := cellNum c
    let k := getCell s n
    if k.kPhase = .kindling then
      let s := countKindle n (fld s.pwr.kindle 19 0) 8 s
      if ramped s then .next (modCell n (fun c => { c with kPhase := .rampDown, kLevel := 7 }) s)
      else .next (modCell n (fun c => { c with kPhase := .off, kLevel := 0 }) s)
    else .next s

/-- KINDLE_RAMP_STEP: a ramp level has been held for RAMP_STEP cycles (R59, R60). -/
def execKindleRampStep (c : CellId) (s : State) : Out :=
  if s.pwr.arithStopped then .next s else
    let n := cellNum c
    let k := getCell s n
    let hold := fld s.pwr.kindle 27 20
    match k.kPhase with
    | .rampUp =>
      if k.kLevel < 8 then
        let s := countKindle n hold (k.kLevel + 1) s
        .next (startM n (modCell n (fun c => { c with kLevel := k.kLevel + 1 }) s))
      else .next (startM n s)
    | .rampDown =>
      let s := countKindle n hold k.kLevel s
      if k.kLevel = 0 then .next (modCell n (fun c => { c with kPhase := .off }) s)
      else .next (modCell n (fun c => { c with kLevel := k.kLevel - 1 }) s)
    | _ => .next s

end Sys2Proof.Machine
end

