-- ==== Sys2Proof/Machine/Streams.lean ====
section
/-! DEFINITION. Stream contexts: binding by COPY and STREAM, the turn of a transfer engine, and the return of a chunk
(R194 to R198, R278 to R280, R299, R300, R316). -/

namespace Sys2Proof.Machine

/-! ### Binding (R195, R278 to R280, R299) -/

/-- A locator (R278). -/
def sideOf (v : Nat) : Side :=
  match bitsOf v 63 62 with
  | 0 => .dpa (BitVec.ofNat 48 v)
  | 1 => .host (BitVec.ofNat 57 v)
  | _ => .fabric (BitVec.ofNat 14 (bitsOf v 61 48)) (BitVec.ofNat 48 v)

/-- The byte ranges of a source: one, or its stride runs (R194, R280). -/
def sourceRuns (a len run step : Nat) : List (Nat × Nat) :=
  if run = 0 then [(a, len)]
  else (List.range ((len + run - 1) / run)).map (fun i => (a + i * step, min run (len - i * run)))

/-- Whether every byte range of a stream that lies in the package lies in the owner's windows (R195). -/
def streamInWindows (c : Context) (src dst : Side) (len run step : Nat) : Bool :=
  (match src with
    | .dpa a => (sourceRuns a.toNat len run step).all (fun r => reaches c r.1 r.2)
    | _ => true)
    && (match dst with
      | .dpa a => reaches c a.toNat len
      | _ => true)

/-- The position of a side, when it is a DPA. -/
def sidePosn (s : State) : Side → Option Nat
  | .dpa a => placePosn s a.toNat
  | _ => none

/-- The number of a stream context among all positions. -/
def streamKey (posn sctx : Nat) : Nat := posn * 131072 + sctx

/-- What a descriptor asks of a stream context. -/
structure StreamReq where
  posn : Nat
  sctx : Nat
  src : Side
  dst : Side
  length : Nat
  runU : Nat
  stepU : Nat
  tc : Fin 4
  ember : Bool
deriving DecidableEq, Repr

/-- The request of a COPY; the position is none where its first byte lies in no range (R279). -/
def copyReq (s : State) (ctx : Ctx) (w : BitVec 512) : Option StreamReq :=
  let src := sideOf (dfld w 0x10 63 0)
  let dst := sideOf (dfld w 0x18 63 0)
  let at_ := match dst with
    | .host _ => sidePosn s src
    | _ => sidePosn s dst
  at_.map (fun n =>
    { posn := n, sctx := 131040 + ctx.toNat % 32, src := src, dst := dst, length := dfld w 0x20 39 0, runU := 0, stepU := 0
      tc := 0, ember := dOpf0 w })

/-- The request of a STREAM of KIND MOVE (R280). -/
def streamReq (w : BitVec 512) : StreamReq :=
  { posn := dfld w 0x10 19 17, sctx := dfld w 0x10 16 0, src := sideOf (dfld w 0x18 63 0), dst := sideOf (dfld w 0x20 63 0)
    length := dfld w 0x28 39 0, runU := dfld w 0x30 31 0, stepU := dfld w 0x34 31 0
    tc := BitVec.toFin (BitVec.ofNat 2 (dfld w 0x10 25 24)), ember := dOpf0 w }

/-- The step that an EMBER transfer of a context may write: the newest held one while its vote is not cast (R299), and its record is not
on its way (log entry 137). -/
def emberStep (s : State) (c : Ctx) : Option Held :=
  match newestHeld s c with
  | some h => if h.st = .opened ∧ h.recordSent = false then some h else none
  | none => none

/-- Whether a destination lies in a step's ember area short of its last 4,096 bytes (R299). -/
def emberFits (h : Held) (dst : Side) (len : Nat) : Bool :=
  match dst with
  | .dpa a => decide (h.emberBase ≤ a.toNat) && decide (a.toNat + len + 4096 ≤ h.emberBase + h.emberBytes)
  | _ => false

/-- The stream context after it is bound: READY (R194, R196). -/
def boundStream (s : State) (c : Ctx) (d : Desc) (r : StreamReq) : StreamCtx :=
  let x := getCtx s c
  { st := .ready, owner := c, gen := x.gen, src := r.src, dst := r.dst, length := r.length, runU := r.runU, stepU := r.stepU
    tc := r.tc, port := x.port, key := d.key, ember := if r.ember then d.step else none, step := d.step, ae := x.ae
    x := r.ember, issued := 0, acked := 0, inflight := [], copies := 0 }

/-- An EMBER stream that has ended badly: the ember of its step is BROKEN, and the step aborts with cause EMBER (R300). -/
def emberFailed (step : BitVec 64) (s : State) : State :=
  match heldPlace s step with
  | none => s
  | some i => injectAbort i causeEmber (modHeld i (fun h => { h with broken := true }) s)

/-- A started descriptor completes because its stream does not bind; an EMBER one fails its step (R300). -/
def refuseStream (c : Ctx) (d : Desc) (ember : Bool) (status detail : Nat) (s : State) : State :=
  let s := completeKey c d.key status detail 0 s
  match ember, d.step with
  | true, some n => emberFailed n s
  | _, _ => s

/-- Whether a position answers transfers: it is ENABLED, or a guest that is not in reset. -/
def posnAnswers (s : State) (n : Nat) : Bool := decide ((getPos s n).st = .enabled) || decide ((getPos s n).st = .guest)

/-- Binds a stream of a started descriptor to a context whose number is FREE, or completes the descriptor with what refuses it
(R195, R196). -/
def bindStream (c : Ctx) (d : Desc) (r : StreamReq) (s : State) : State :=
  if !(streamInWindows (getCtx s c) r.src r.dst r.length (64 * r.runU) (64 * r.stepU)) then
    refuseStream c d r.ember stStreamWindow 0 s
  else if !(posnAnswers s r.posn) then refuseStream c d r.ember stDomainReset 0 s
  else modStream (streamKey r.posn r.sctx) (fun _ => boundStream s c d r) s

/-- Whether a side names memory of the HBM ranges while MEM_CFG.LOCK is 0 (R178). -/
def sideUnlocked (s : State) : Side → Bool
  | .dpa a => !s.memRegs.lock && isHbm a.toNat
  | _ => false

/-- A started COPY whose stream context is FREE binds it; else it waits (R279). -/
def tryCopy (ctx : Ctx) (d : Desc) (s : State) : State :=
  match copyReq s ctx d.words with
  | none => refuseStream ctx d (dOpf0 d.words) stStreamWindow 0 s
  | some r => if (getStream s (streamKey r.posn r.sctx)).st = .free then bindStream ctx d r s else s

/-- Whether a started COPY of a context waits for its stream context, which is FREE now. -/
def copyReady (s : State) (ctx : Ctx) (d : Desc) : Bool :=
  decide (dOpcode d.words = 0x01) && !(s.streams.any (fun kv => decide (kv.2.st ≠ .free) && kv.2.owner == ctx && decide (kv.2.key = d.key)))
    && (match copyReq s ctx d.words with
      | none => true
      | some r => decide ((getStream s (streamKey r.posn r.sctx)).st = .free))

/-- COPY (R279): it starts, and waits until its stream context is FREE; the oldest one that waits for a context now FREE binds it
where no COPY is starting. -/
def execCopy (ctx : Ctx) (s : State) : Out :=
  match startingOf s ctx 0x01 with
  | none =>
    match (getCtx s ctx).started.find? (copyReady s ctx) with
    | none => .next s
    | some d => .next (tryCopy ctx d s)
  | some d =>
    let w := d.words
    let ember := dOpf0 w
    let dst := sideOf (dfld w 0x18 63 0)
    let t := keepStarting ctx d s
    if sideUnlocked s (sideOf (dfld w 0x10 63 0)) || sideUnlocked s dst then
      .next (refuseStream ctx d ember stMemUnlocked 0 t)
    else if ember && (emberStep s ctx).isNone then .next (finishStarting ctx d stBadTarget 2 s)
    else if ember && !((emberStep s ctx).any (fun h => emberFits h dst (dfld w 0x20 39 0))) then
      .next (refuseStream ctx d ember stBadTarget 0x18 t)
    else .next (tryCopy ctx d t)

/-- STREAM of KIND MOVE (R280). -/
def execStream (ctx : Ctx) (s : State) : Out :=
  match startingOf s ctx 0x02 with
  | none => .next s
  | some d =>
    let w := d.words
    let r := streamReq w
    let t := keepStarting ctx d s
    if dfld w 0x10 23 20 = 1 then .next s
    else if sideUnlocked s r.src || sideUnlocked s r.dst then .next (refuseStream ctx d r.ember stMemUnlocked 0 t)
    else if r.ember && (emberStep s ctx).isNone then .next (finishStarting ctx d stBadTarget 2 s)
    else if r.ember && !((emberStep s ctx).any (fun h => emberFits h r.dst r.length)) then
      .next (refuseStream ctx d r.ember stBadTarget 0x20 t)
    else if (getStream s (streamKey r.posn r.sctx)).st ≠ .free then
      .next (refuseStream ctx d r.ember stStreamBusy r.sctx t)
    else .next (bindStream ctx d r t)

/-! ### Ends of a stream (R196) -/

/-- A stream ends with a status and its context goes FREE: its chunks in flight are discarded with it (R196). -/
def endStream (k status detail : Nat) (s : State) : State :=
  let t := getStream s k
  let posn := k / 131072
  let s := { s with streams := SMap.set StreamCtx.init s.streams k StreamCtx.init }
  let s := modCtx t.owner (fun x => { x with outstanding := x.outstanding - t.inflight.length }) s
  let s := completeKey t.owner t.key status detail (posn + 1) s
  match t.ember with
  | some n => if status = stOk then s else emberFailed n s
  | none => s

/-- Whether a stream's owner still has the generation the stream was bound under. -/
def streamLive (s : State) (t : StreamCtx) : Bool := t.gen == (getCtx s t.owner).gen

/-! ### Turns (R196, R197) -/

/-- The source address of a payload offset. -/
def sourceAddr (t : StreamCtx) (a off : Nat) : Nat :=
  if t.runU = 0 then a + off else a + off / (64 * t.runU) * (64 * t.stepU) + off % (64 * t.runU)

/-- Bytes from an address to the end of its stripe, for HBM; no bound elsewhere. -/
def toStripeEnd (a : Nat) : Nat := if isHbm a then 4096 - a % 4096 else 4096

/-- Whether a DPA lies in a cell's scratchpad window, and in whose (R177). -/
def cellOf (s : State) (a : Nat) : Option Nat :=
  match place s a with
  | .cell n _ => some n
  | _ => none

/-- Whether a stream's source is a cell scratchpad: its data come through output ports alone (R41, R77). -/
def fromCells (s : State) (t : StreamCtx) : Bool :=
  match t.src with
  | .dpa a => (cellOf s a.toNat).isSome
  | _ => false

/-- The output ports of a cell that name a stream context and hold a unit: the number of the oldest unit, and the port. -/
def cellHeads (c : Cell) (n sctx : Nat) : List (Nat × Nat × Nat) :=
  c.fifoOut.filterMap (fun kv =>
    let q := SMap.get PortCfg.init c.cfg.ports kv.1
    if q.en && q.out && decide (q.sctx.toNat = sctx) then kv.2.head?.map (fun u => (u.1, n, kv.1)) else none)

/-- The cell and output port that hold the unit a stream takes next: the one that the vertical ports of its position accepted first
(R77). -/
def nextFeeder (s : State) (k : Nat) : Option (Nat × Nat) :=
  let heads := (s.cells.filter (fun kv => decide (cellPosn kv.1 = k / 131072))).flatMap (fun kv => cellHeads kv.2 kv.1 (k % 131072))
  match heads with
  | [] => none
  | h :: t =>
    let m := t.foldl (fun m x => if x.1 < m.1 then x else m) h
    some m.2

/-- Units that wait at the output ports that name a stream's context. -/
def feedUnits (s : State) (k : Nat) : Nat :=
  ((s.cells.filter (fun kv => decide (cellPosn kv.1 = k / 131072))).map (fun kv => (kv.2.fifoOut.map (fun f =>
    let q := SMap.get PortCfg.init kv.2.cfg.ports f.1
    if q.en && q.out && decide (q.sctx.toNat = k % 131072) then f.2.length else 0)).sum)).sum

/-- Takes units from the output ports of a stream, oldest first. -/
def takeUnits : Nat → Nat → State → List Byte × State
  | 0, _, s => ([], s)
  | f + 1, k, s =>
    match nextFeeder s k with
    | none => ([], s)
    | some (n, p) =>
      let q := SMap.get [] (getCell s n).fifoOut p
      let u := (q.head?.map Prod.snd).getD []
      let r := takeUnits f k (startO n (modCell n (fun c => { c with fifoOut := SMap.set [] c.fifoOut p (q.drop 1) }) s))
      (u ++ r.1, r.2)

/-- Bytes that a stream's source can give now. -/
def sourceBytes (s : State) (k : Nat) (t : StreamCtx) : Nat :=
  if fromCells s t then 64 * feedUnits s k else t.length - t.issued

/-- The length of a stream's next chunk (R196). -/
def chunkLen (s : State) (k : Nat) (t : StreamCtx) : Nat :=
  let off := t.issued
  let run := if t.runU = 0 then 4096 else 64 * t.runU - off % (64 * t.runU)
  let src := match t.src with
    | .dpa a => toStripeEnd (sourceAddr t a.toNat off)
    | _ => 4096
  let dst := match t.dst with
    | .dpa a => toStripeEnd (a.toNat + off)
    | _ => 4096
  min (min 4096 (t.length - off)) (min run (min (sourceBytes s k t) (min src dst)))

/-- The addresses in the package that a chunk touches. -/
def chunkDpas (t : StreamCtx) (off : Nat) : List Nat :=
  (match t.src with
    | .dpa a => [sourceAddr t a.toNat off]
    | _ => [])
    ++ (match t.dst with
      | .dpa a => [a.toNat + off]
      | _ => [])

/-- The held channel that a chunk of a stream waits at, if one does (R187, R188, R197). -/
def chunkHold (s : State) (t : StreamCtx) (off : Nat) : Option (Nat × Nat) := (chunkDpas t off).findSome? (heldChan s)

/-- Whether a stream's chunk in flight waits at a held channel (R187, R197). -/
def heldChunk (s : State) (t : StreamCtx) : Bool := t.inflight.any (fun ch => (chunkHold s t ch.off).isSome)

/-- Chunks in flight in an engine of a position (R197). -/
def engineLoad (s : State) (posn engine : Nat) : Nat :=
  (s.streams.map (fun kv => if kv.1 / 131072 = posn ∧ kv.1 % 32 = engine then kv.2.inflight.length else 0)).sum

/-- The hub edges that a stream of a position crosses: none while its sides lie on the position, else the position's own and that
of another position where a side lies (R202; log entry 121). -/
def hubEdges (s : State) (posn : Nat) (t : StreamCtx) : List Nat :=
  let on := fun (x : Side) => sidePosn s x
  if on t.src = some posn ∧ on t.dst = some posn then []
  else posn :: ([on t.src, on t.dst].filterMap id).filter (fun n => decide (n ≠ posn))

/-- Whether a hub edge that a stream crosses holds its traffic: the stream stalls (R209, R210). -/
def edgeHeld (s : State) (posn : Nat) (t : StreamCtx) : Bool :=
  (hubEdges s posn t).any (fun e => (SMap.get Edge.init s.pkg.edges e).holding)

/-- Whether a stream context requests a turn of its engine (R197). -/
def wantsTurn (s : State) (k : Nat) : Bool :=
  let t := getStream s k
  decide (t.st = .ready) && decide (t.issued < t.length) && !(heldChunk s t) && !(edgeHeld s (k / 131072) t)

/-- The status that stops a stream at an offset, if one does (R177, R185, R196). -/
def stopAt (s : State) (t : StreamCtx) (off : Nat) : Option Nat :=
  match (chunkDpas t off).findSome? (dpaStop s) with
  | some st => some st
  | none =>
    match t.dst with
    | .fabric r _ =>
      match boundEntry s t.owner with
      | none => some stStreamAddr
      | some e => if (SMap.get 0 (getPart s e).map r.toNat).getLsbD 15 then none else some stStreamAddr
    | _ => none

/-- The status that stops a stream at a turn, if one does. -/
def turnStop (s : State) (t : StreamCtx) : Option Nat := stopAt s t t.issued

/-- The first withdrawn stripe that an access meets acts as a failed burst: it counts and enters the UE history, clears the check
flag, and raises MEM_CAPACITY_SHRUNK (R185). -/
def withdrawnTouched (s : State) (t : StreamCtx) (off : Nat) : State :=
  match ((chunkDpas t off).filterMap (stripeOf s)).find? (fun x => withdrawn (getPos s x.1) x.2) with
  | none => s
  | some (n, l) =>
    clearCheck (raise 0x0306 (posUnit n (0x40 + (homeOf l).1))
      { posn := some n, arg0 := mappedStripes (getPos s n), arg1 := l } (countFailed n (homeOf l).1 l s))

/-- Ends a stream that a status stops at an offset (R185, R196). -/
def stopStream (k off st : Nat) (s : State) : State :=
  let t := getStream s k
  endStream k st (t.acked / 64) (if st = stStreamWithdrawn then withdrawnTouched s t off else s)

/-- Whether a guest's firewall lets a stream read its next chunk; an engine carries the ID 0x48 + n (R217, R219). -/
def guestPass (posn : Nat) (t : StreamCtx) (len : Nat) (s : State) : Bool × State :=
  match t.src with
  | .dpa a => guardedRead (0x48 + posn) t.owner (sourceAddr t a.toNat t.issued) len s
  | _ => (true, s)

/-- The bytes of the next chunk from a source in the package or in host memory, and the state without the units that the cells'
ports gave. -/
def takeChunk (k : Nat) (t : StreamCtx) (len : Nat) (s : State) : List Byte × State :=
  if fromCells s t then takeUnits (len / 64) k s
  else
    match t.src with
    | .dpa a => (memRead s (sourceAddr t a.toNat t.issued) len, s)
    | .host a => (hostRead s (a.toNat + t.issued) len, s)
    | .fabric _ _ => ([], s)

/-- Sends a chunk to the logical rank of a context's partition; a packet's port index is k modulo 4 (R230). -/
def sendToRank (c : Ctx) (rank : Nat) (k : Nat) (p : Packet) (s : State) : State :=
  match boundEntry s c with
  | none => s
  | some e => sendPacket (getPart s e) (k % 4) (fld (SMap.get 0 (getPart s e).map rank) 13 0) p s

/-- The address in the partner's memory that the mirror mapping gives an address (R303). -/
def mirrorAddr (s : State) (a : Nat) : Option Nat :=
  ((s.step.entries.filterMap Prod.snd).find? (fun e => decide (e.own ≤ a) && decide (a < e.own + e.length))).map
    (fun e => e.mir + (a - e.own))

/-- Whether bytes written at an address have a place in the partner's memory and a way there. -/
def mirrorable (s : State) (c : Ctx) (a : Nat) : Bool :=
  (mirrorAddr s a).isSome && (boundEntry s c).isSome && (mirrorPartner s).isSome

/-- Sends bytes written at an address to the partner over TC2, at the mapped address (R300, R303). The packet's AUX holds the number
of the stream among all positions, so that the acknowledgement finds it (log entry 122). -/
def sendMirror (c : Ctx) (k off a : Nat) (bs : List Byte) (s : State) : State :=
  match mirrorAddr s a, boundEntry s c, mirrorPartner s with
  | some m, some e, some p => sendPacket (getPart s e) (k % 4) p (dataPacket 2 k off m bs) s
  | _, _, _ => s

/-- With MIRROR on, a chunk of an EMBER stream goes to the partner's ember mirror too, and the stream waits for its acknowledgement
(R300). -/
def mirrorChunk (k off a : Nat) (bs : List Byte) (s : State) : State :=
  let c := (getStream s k).owner
  if s.pwr.modes.mirror && mirrorable s c a then
    modStream k (fun t => { t with copies := t.copies + 1 }) (sendMirror c k off a bs s)
  else s

/-- A copy of what the leader writes goes to its follower on TC2, at the same DPA (R345). -/
def sendShadow (c : Ctx) (k off a : Nat) (bs : List Byte) (s : State) : State :=
  match shadowPeer s, boundEntry s c with
  | some p, some e => sendPacket (getPart s e) (k % 4) p (dataPacket 2 (k % 131072) off a bs) s
  | _, _ => s

/-- The check sum of an output tensor goes on over the bytes of a chunk (R345). -/
def addOutput (step : Option (BitVec 64)) (key : Nat) (bs : List Byte) (s : State) : State :=
  match tracksOutputs s, step.bind (heldPlace s) with
  | true, some i => modHeld i (fun h => { h with outCrc := SMap.upd 0 h.outCrc key (fun c => bs.foldl crc64Byte c) }) s
  | _, _ => s

/-- The copies of an EMBER chunk: to the partner's ember mirror, and with SHADOW on to the follower (R300, R345). -/
def copyEmber (k : Nat) (t : StreamCtx) (off : Nat) (bs : List Byte) (s : State) : State :=
  match t.dst, t.ember with
  | .dpa a, some _ => sendShadow t.owner k off (a.toNat + off) bs (mirrorChunk k off (a.toNat + off) bs s)
  | _, _ => s

/-- A chunk leaves: toward a fabric peer as a packet; the copies of an EMBER chunk whose bytes are at hand leave with it. -/
def sendChunk (k : Nat) (t : StreamCtx) (bs : List Byte) (s : State) : State :=
  match t.dst, t.src with
  | .fabric r a, _ => addOutput t.step t.key bs
      (sendToRank t.owner r.toNat k (dataPacket t.tc (k % 131072) t.issued (a.toNat + t.issued) bs) s)
  | _, .fabric _ _ => s
  | _, _ => copyEmber k t t.issued bs s

/-- The bytes of a chunk that comes from outside the position where it lands cross that position's hub edge (R202, R204; log entry
121). -/
def crossEdge (t : StreamCtx) (bs : List Byte) (s : State) : State :=
  match sidePosn s t.dst with
  | none => s
  | some n => if sidePosn s t.src = some n then s else edgeQueue n bs s

/-- One chunk of a stream moves (R196): it is in flight until it returns. -/
def moveChunk (k len : Nat) (s : State) : State :=
  let t := getStream s k
  let r := takeChunk k t len s
  let s := sendChunk k t r.1 r.2
  let s := match t.src with
    | .fabric _ _ => s
    | _ => crossEdge t r.1 s
  let s := modStream k (fun t => { t with
    issued := t.issued + len, st := if t.issued + len = t.length then .done else .ready
    inflight := t.inflight ++ [{ off := t.issued, len := len, data := r.1 }] }) s
  modCtx t.owner (fun x => { x with outstanding := x.outstanding + 1 }) s

/-- A granted turn of a stream context (R196, R198). -/
def turnStream (posn k : Nat) (credit : Bool) (s : State) : State :=
  let t := getStream s k
  if !(streamLive s t) then
    if t.inflight.isEmpty then { s with streams := SMap.set StreamCtx.init s.streams k StreamCtx.init }
    else modStream k (fun t => { t with st := .done }) s
  else
    match turnStop s t with
    | some st => stopStream k t.issued st s
    | none =>
      let len := chunkLen s k t
      if !credit || decide (len = 0) then s
      else
        let g := guestPass posn t len s
        if g.1 then moveChunk k len g.2 else endStream k stStreamWindow (t.acked / 64) g.2

/-- What the SECDED code of the base die's stream-context store finds as a context is read for its turn: the outcomes of R66
(R184). -/
def storeRead (n : Nat) (e : ReadErr) (s : State) : State :=
  let s := modPos n (fun p => { p with corrected := p.corrected + e.corrected }) s
  if e.uncorrected then clearCheck s else s

/-- ENGINE_TURN: a transfer engine grants one turn (R184, R197). -/
def execEngineTurn (posn : Posn) (engine : Fin 32) (turn : TurnInput) (s : State) : Out :=
  let n := posn.val
  let e := engine.val
  let p := getPos s n
  if !(posnAnswers s n) ∨ p.engReset.contains e ∨ 64 ≤ engineLoad s n e then .next s
  else
    let key := fun i => streamKey n (32 * i + e)
    match roundRobin (SMap.get 0 p.turnPtr e) 4096 (fun i => wantsTurn s (key i)) with
    | none => .next s
    | some i =>
      let s := modPos n (fun p => { p with turnPtr := SMap.set 0 p.turnPtr e ((i + 1) % 4096) }) s
      .next (turnStream n (key i) turn.credit (storeRead n turn.store s))

/-! ### Returns (R182 to R184, R187, R196, R198) -/

/-- Whether a cell has an enabled input port that names a stream's context (R77). -/
def cellTakes (s : State) (n k : Nat) : Bool :=
  decide (k / 131072 = cellPosn n) && (List.range 16).any (fun p =>
    let q := SMap.get PortCfg.init (getCell s n).cfg.ports p
    q.en && !q.out && decide (q.sctx.toNat = k % 131072))

/-- Whether a stream's destination can take a chunk now: a cell takes units through an input port that names the stream, and
without one they wait and hold back the network (R41, R77). -/
def landable (s : State) (k : Nat) (t : StreamCtx) : Bool :=
  match t.dst with
  | .dpa a => (cellOf s a.toNat).all (fun n => cellTakes s n k)
  | _ => true

/-- The bytes of a chunk land at the destination: in a cell through its port, in a guest's memory past its firewall. -/
def landChunk (k : Nat) (t : StreamCtx) (off : Nat) (bs : List Byte) (s : State) : State :=
  match t.dst with
  | .dpa a =>
    match cellOf s a.toNat with
    | some n => forAll (cut 64 bs) (fun u s => (portArrive n (BitVec.ofNat 17 k) u s).getD s) s
    | none => guardedWrite (0x48 + k / 131072) t.owner (a.toNat + off) bs s
  | .host a => hostWrite (a.toNat + off) bs s
  | .fabric _ _ => s

/-- Bytes of an EMBER transfer that reach ember count in the step's INBYTES (R304). -/
def countEmber (t : StreamCtx) (len : Nat) (s : State) : State :=
  match t.ember.bind (heldPlace s) with
  | some i => modHeld i (fun h => { h with inbytes := h.inbytes + len }) s
  | none => s

/-- One word of staging SRAM that its SECDED code corrects or finds failed, with the outcomes of R66 (R184). -/
def stagingBurst (n : Nat) (e : BurstErr) (s : State) : State :=
  match e.result with
  | .clean => s
  | .corrected => modPos n (fun p => { p with corrected := p.corrected + 1 }) s
  | .failed => clearCheck s

/-- What the source's codes found in a chunk: the counts, and whether a burst has failed in HBM (R182 to R184, R191). The scratchpad
words of a cell were checked as its port took them (R66). -/
def chunkVerdict (t : StreamCtx) (off len : Nat) (errs : List BurstErr) (s : State) : Bool × State :=
  match t.src with
  | .dpa a =>
    let addr := sourceAddr t a.toNat off
    match stripeOf s addr, place s addr with
    | some (n, l), _ => readBursts n l addr (burstsOf s addr len errs) s
    | none, .stage n _ => (false, forAll errs (stagingBurst n) s)
    | none, _ => (false, s)
  | _ => (false, s)

/-- A chunk is out of flight: the stream holds it no more. The outstanding count of its owner falls by one while it still
counts transfers of the stream's generation (R288). -/
def chunkBack (k : Nat) (s : State) : State :=
  let t := getStream s k
  outDown t.owner t.gen (modStream k (fun t => { t with inflight := t.inflight.drop 1 }) s)

/-- A stream completes when every chunk is acknowledged, and every ember-mirror copy with it while the pair is SYNCED (R196,
R300). -/
def finishStream (k : Nat) (s : State) : State :=
  let t := getStream s k
  if t.st = .done ∧ t.inflight.isEmpty ∧ t.acked = t.length ∧ (t.copies = 0 ∨ s.step.mirror ≠ .synced) then endStream k stOk 0 s
  else s

/-- A good chunk lands, and the last one completes the stream (R196). -/
def landAndFinish (k : Nat) (ch : Chunk) (bs : List Byte) (s : State) : State :=
  let t := getStream s k
  let s := countEmber t ch.len (landChunk k t ch.off bs s)
  let s := match t.src with
    | .fabric _ _ => copyEmber k t ch.off bs (crossEdge t bs s)
    | _ => s
  finishStream k (modStream k (fun t => { t with acked := t.acked + ch.len }) s)

/-- A chunk of a stream whose generation is retired is discarded and counted; after the last one its context is FREE (R196,
R198). -/
def discardChunk (k : Nat) (s : State) : State :=
  let t := getStream s k
  let s := countDropped t.owner 1 (chunkBack k s)
  if (getStream s k).inflight.isEmpty then { s with streams := SMap.set StreamCtx.init s.streams k StreamCtx.init } else s

/-- The oldest chunk of a live stream is served: what its codes found, and its landing, where every check of a turn is made once
more (R196). -/
def serveChunk (k : Nat) (ch : Chunk) (errs : List BurstErr) (data : List Byte) (s : State) : State :=
  let t := getStream s k
  match stopAt s t ch.off with
  | some st => stopStream k ch.off st (chunkBack k s)
  | none =>
    let bs := match t.src with
      | .fabric _ _ => data.take ch.len
      | _ => ch.data
    let v := chunkVerdict t ch.off ch.len errs s
    if (getStream v.2 k).inflight.isEmpty then v.2
    else if v.1 then endStream k stStreamUe (t.acked / 64) (chunkBack k v.2)
    else landAndFinish k ch bs (chunkBack k v.2)

/-- Chunks of a stream that wait in channel queues. -/
def queuedChunks (s : State) (k : Nat) : Nat :=
  let desc := (getStream s k).key
  (s.posns.map (fun pv => (pv.2.chanQ.map (fun qv =>
    (qv.2.filter (fun h => decide (h.key = k) && decide (h.desc = desc))).length)).sum)).sum

/-- The oldest chunk of a stream returns: at a held channel it joins the channel's queue, and later chunks of the stream wait
behind it, since bytes land in address order (R187, R196 to R198). -/
def returnChunk (k : Nat) (errs : List BurstErr) (data : List Byte) (s : State) : State :=
  let t := getStream s k
  match t.inflight with
  | [] => if t.st = .free then s else finishStream k s
  | ch :: rest =>
    if t.st = .free then s
    else if !(streamLive s t) then (if rest.length < queuedChunks s k then s else discardChunk k s)
    else if 0 < queuedChunks s k || !(landable s k t) || edgeHeld s (k / 131072) t then s
    else
      match chunkHold s t ch.off with
      | some (n, q) => modPos n (fun p => { p with
          chanQ := SMap.upd [] p.chanQ q (fun l => l ++ [{ key := k, desc := t.key, errs := errs, data := data }]) }) s
      | none => serveChunk k ch errs data s

/-- An access leaves the queue of a channel that is released; its generation is checked then (R187, R198). -/
def releaseAccess (h : HeldAccess) (s : State) : State :=
  let t := getStream s h.key
  if t.key ≠ h.desc ∨ t.inflight.isEmpty then s else returnChunk h.key h.errs h.data s

/-- The accesses that wait at a channel are released in arrival order; what lies in a pseudo-channel still held waits again
(R187, R188). -/
def releaseChannel (n ch : Nat) (s : State) : State :=
  let l := SMap.get [] (getPos s n).chanQ ch
  forAll l releaseAccess (modPos n (fun p => { p with chanQ := SMap.set [] p.chanQ ch [] }) s)

/-- CHUNK_RETURN: the oldest chunk of a stream returns, or its destination acknowledges it (R196, R198). -/
def execChunkReturn (posn : Posn) (sctx : BitVec 17) (errs : List BurstErr) (data : List Byte) (s : State) : Out :=
  .next (returnChunk (streamKey posn.val sctx.toNat) errs data s)

/-- The partner acknowledges an ember-mirror copy of a stream's chunk (R300). -/
def mirrorAcked (k : Nat) (s : State) : State :=
  finishStream k (modStream k (fun t => { t with copies := t.copies - 1 }) s)

end Sys2Proof.Machine
end

