-- ==== Sys2Proof/Machine/Reduce.lean ====
section
/-! DEFINITION. In-fabric reductions: opening one member's part, pairing operands, and landing root values (R134, R135, R248
to R251, R281). -/

namespace Sys2Proof.Machine

/-- The format a reduction code names (R281). -/
def redFmt (c : Nat) : Fmt :=
  match c with
  | 0 => .fp32
  | 1 => .bf16
  | _ => .fp16

/-- Bytes of an element of a reduction format. -/
def redSize (c : Nat) : Nat := if c = 0 then 4 else 2

/-- The split point of a node (R134). -/
def splitAt (lo hi : Nat) : Nat := lo + 2 ^ (Nat.clog 2 (hi - lo) - 1)

/-- Whether a node list entry is internal. -/
def RedNode.internal (n : RedNode) : Bool := decide (n.lo + 1 < n.hi)

/-- One entry of a node list (R249). -/
def readNode (bs : List Byte) (i : Nat) : RedNode :=
  let w0 := leAt bs (16 * i) 4
  let w2 := leAt bs (16 * i + 8) 4
  { lo := bitsOf w0 13 0, hi := bitsOf w0 30 16, shard := leAt bs (16 * i + 4) 2, dest := bitsOf w2 13 0
    land := decide (bitsOf w2 16 16 = 1), bcast := decide (bitsOf w2 17 17 = 1) }

/-- The node list at a DPA. -/
def readNodes (s : State) (a n : Nat) : List RedNode :=
  let bs := memRead s a (16 * n)
  (List.range n).map (readNode bs)

/-- Contributions of a shard from an element on, as FP32 (R135). -/
def contributions (s : State) (r : Reduction) (shard off n : Nat) : List (BitVec 32) :=
  let size := redSize r.cfmt.toNat
  let bs := memRead s (r.src + (shard * r.elements + off) * size) (n * size)
  (List.range n).map (fun i => toF32 ((redFmt r.cfmt.toNat).decode (leAt bs (size * i) size)))

/-- Root values converted once to the shard format (R135). -/
def landBytes (r : Reduction) (data : List (BitVec 32)) : List Byte :=
  let f := redFmt r.sfmt.toNat
  data.flatMap (fun w => leBytes (redSize r.sfmt.toNat) (f.convert false (f32 w)).code)

/-- The place of a reduction in the list of those that a REDID names. -/
def redPlace (s : State) (redid : BitVec 16) (open_ : Bool) : Option Nat :=
  placeOf (fun r => r.redid == redid && !(open_ && r.done)) s.fab.reductions

/-- Changes the reduction at a place. -/
def modRed (i : Nat) (f : Reduction → Reduction) (s : State) : State :=
  modFab (fun x => { x with reductions := mapAt f i x.reductions }) s

/-- Whether the guests whose memory holds a reduction's areas let its contributions be read, and the state after the checks (R217). -/
def mayRead (r : Reduction) (s : State) : Bool × State :=
  let size := redSize r.cfmt.toNat
  (r.nodes.filter (fun n => !(n.lo + 1 < n.hi))).foldl (fun p n =>
    let a := r.src + n.shard * r.elements * size
    let g := guardedRead (placerMid p.2 a) r.ctx a (r.elements * size) p.2
    (p.1 && g.1, g.2)) (true, s)

/-- A root value lands here (R217, R251). -/
def landRed (i shard off : Nat) (data : List (BitVec 32)) (s : State) : State :=
  match s.fab.reductions[i]? with
  | none => s
  | some r =>
    let size := redSize r.sfmt.toNat
    let a := r.landing + (shard * r.elements + off) * size
    modRed i (fun r => { r with landed := SMap.upd 0 r.landed shard (fun n => n + data.length) })
      (guardedWrite (placerMid s a) r.ctx a (landBytes r data) s)

/-- A packet of a reduction on TC1: an operand or a result (R232, R251). Its data are LEN × 64 bytes; where the elements end short
of that, zeros fill the last unit, and the receiver takes the elements of its reduction's count (log entry 124). -/
def redPacket (kind : Nat) (redid shard lo hi off : Nat) (data : List (BitVec 32)) : Packet :=
  { pid := 0, pkind := BitVec.ofNat 4 kind, len := BitVec.ofNat 7 ((data.length + 15) / 16), dst := ⟨0, 0, 0⟩, src := ⟨0, 0, 0⟩
    lport := 0, lseq := 0
    target := BitVec.ofNat 64 (redid + 2 ^ 16 * shard + 2 ^ 32 * lo + 2 ^ 48 * hi), aux := BitVec.ofNat 64 off, tc := 1
    reserved := false, data := fill64 (data.flatMap (fun w => leBytes 4 w.toNat)) }

/-- Group indices are logical ranks of the bound partition (log entry 31). -/
def sendToMember (c : Ctx) (member : Nat) (p : Packet) (s : State) : State := sendToRank c member 0 p s

/-- A node list entry's value for a run of elements: it lands, goes to every member, or goes on to the next node. The value
that stays in this package is returned as an operand to pair here. -/
def emitNode (i j : Nat) (off : Nat) (data : List (BitVec 32)) (s : State) : Option RedOperand × State :=
  match s.fab.reductions[i]? with
  | none => (none, s)
  | some r =>
    match r.nodes[j]? with
    | none => (none, s)
    | some n =>
      let s := modRed i (fun r => { r with sent := SMap.upd 0 r.sent j (fun k => k + data.length) }) s
      if n.land then
        let s := landRed i n.shard off data s
        if n.bcast then
          (none, forAll ((List.range r.n).filter (fun m => decide (m ≠ r.gidx))) (fun m =>
            sendToMember r.ctx m (redPacket 3 r.redid.toNat n.shard n.lo n.hi off data)) s)
        else (none, s)
      else if n.dest = r.gidx then (some { shard := n.shard, lo := n.lo, hi := n.hi, off := off, data := data }, s)
      else (none, sendToMember r.ctx n.dest (redPacket 2 r.redid.toNat n.shard n.lo n.hi off data) s)

/-- The internal node of a list that takes an operand as one of its two inputs. -/
def takesOperand (o : RedOperand) (n : RedNode) : Bool :=
  let h := splitAt n.lo n.hi
  n.internal && decide (n.shard = o.shard)
    && ((decide (o.lo = n.lo) && decide (o.hi = h)) || (decide (o.lo = h) && decide (o.hi = n.hi)))

/-- Whether a held operand is the partner of an arriving one at a node: the other input, at the same element offset. -/
def partnerOperand (n : RedNode) (o q : RedOperand) : Bool :=
  decide (q.shard = o.shard) && decide (q.off = o.off) && decide (q.lo ≠ o.lo) && takesOperand q n

/-- An operand reaches its node here: it waits for its partner, or the sum goes on, up to the depth of the tree. -/
def pairOperand : Nat → Nat → RedOperand → State → State
  | 0, _, _, s => s
  | fuel + 1, i, o, s =>
    match s.fab.reductions[i]? with
    | none => s
    | some r =>
      match placeOf (takesOperand o) r.nodes with
      | none => s
      | some j =>
        match r.nodes[j]? with
        | none => s
        | some n =>
          match r.operands.find? (partnerOperand n o) with
          | none => modRed i (fun r => { r with operands := r.operands ++ [o] }) s
          | some q =>
            let left := if o.lo < q.lo then o.data else q.data
            let right := if o.lo < q.lo then q.data else o.data
            let s := modRed i (fun r => { r with operands := r.operands.filter (fun z => !(partnerOperand n o z)) }) s
            match emitNode i j o.off (List.zipWith fadd left right) s with
            | (some up, s) => pairOperand fuel i up s
            | (none, s) => s

/-- Whether every node of the list has sent its value and the landings of its own roots are written (R281; log entry 29). -/
def redFinished (r : Reduction) : Bool :=
  (List.range r.nodes.length).all (fun j => decide (r.elements ≤ SMap.get 0 r.sent j))
    && r.nodes.all (fun n => !n.land || decide (r.elements ≤ SMap.get 0 r.landed n.shard))

/-- A reduction that is finished frees its windows and completes its descriptor. -/
def settleRed (i status detail : Nat) (s : State) : State :=
  match s.fab.reductions[i]? with
  | none => s
  | some r =>
    if r.done then s
    else
      let s := modFab (fun f => { f with windowsUsed := f.windowsUsed - redWindows r })
        { s with streams := freeRedStream r s.streams }
      completeKey r.ctx r.key status detail 9 (modRed i (fun r => { r with done := true, operands := [] }) s)

/-- Completes a reduction when it is finished. -/
def finishRed (i : Nat) (s : State) : State :=
  match s.fab.reductions[i]? with
  | none => s
  | some r => if redFinished r then settleRed i stOk 0 s else s

/-- Elements of an input window: 256 KiB of FP32 (R248). -/
def windowElements : Nat := 65536

/-- Elements that wait at the input of a node that an operand belongs to. -/
def waitingAt (r : Reduction) (shard lo hi : Nat) : Nat :=
  ((r.operands.filter (fun q => decide (q.shard = shard) && decide (q.lo = lo) && decide (q.hi = hi))).map (fun q => q.data.length)).sum

/-- Whether a leaf has credit for its next packet: toward a node of this package, one window ahead of what is consumed there
(R250). The credit of a node in another package is not seen here (log entry 125). -/
def leafCredit (r : Reduction) (n : RedNode) : Bool :=
  n.land || decide (n.dest ≠ r.gidx) || decide (waitingAt r n.shard n.lo n.hi < windowElements)

/-- A leaf sends its contributions from where it is, in packets of up to 1,024 elements, while it has credit (R249, R250). -/
def sendLeaf : Nat → Nat → Nat → State → State
  | 0, _, _, s => s
  | f + 1, i, j, s =>
    match s.fab.reductions[i]? with
    | none => s
    | some r =>
      match r.nodes[j]? with
      | none => s
      | some n =>
        let off := SMap.get 0 r.sent j
        if n.internal || r.done || decide (r.elements ≤ off) || !(leafCredit r n) then s
        else
          match emitNode i j off (contributions s r n.shard off (min 1024 (r.elements - off))) s with
          | (some o, s) => sendLeaf f i j (pairOperand 16 i o s)
          | (none, s) => sendLeaf f i j s

/-- Packets of a leaf. -/
def leafPackets (s : State) (i : Nat) : Nat := ((s.fab.reductions[i]?).map (fun r => (r.elements + 1023) / 1024)).getD 0

/-- Leaves in a reduction's list. -/
def leafCount (s : State) (i : Nat) : Nat := ((s.fab.reductions[i]?).map (fun r => r.nodes.length)).getD 0

/-- Every leaf of a reduction sends what it has credit for. -/
def sendLeaves (i : Nat) (s : State) : State := forAll (List.range (leafCount s i)) (sendLeaf (leafPackets s i) i) s

/-- Leaves send as long as what they send frees credit: once for each window of an operand, and once more. -/
def pumpLeaves (i : Nat) (s : State) : State :=
  forAll (List.range (leafPackets s i / 64 + 2)) (fun _ => sendLeaves i) s

/-- The shards a list names, plus one. -/
def shardSpan (p : RedNode → Bool) (ns : List RedNode) : Nat :=
  ns.foldl (fun m n => if p n then max m (n.shard + 1) else m) 0

/-- Whether the node list, the contributions and the landing area lie in the context's windows (R281). -/
def redInWindows (c : Context) (w : BitVec 512) (ns : List RedNode) : Bool :=
  let el := dfld w 0x30 39 0
  reaches c (dfld w 0x38 47 0) (16 * dfld w 0x38 63 48)
    && reaches c (dfld w 0x20 47 0) (shardSpan (fun n => !n.internal) ns * el * redSize (dfld w 0x18 35 32))
    && reaches c (dfld w 0x28 47 0) (shardSpan RedNode.land ns * el * redSize (dfld w 0x18 39 36))

/-- The reduction that a descriptor opens. -/
def newReduction (c : Ctx) (d : Desc) (ns : List RedNode) : Reduction :=
  let w := d.words
  { redid := BitVec.ofNat 16 (dfld w 0x14 15 0), key := d.key, ctx := c, n := dfld w 0x18 13 0 + 1, gidx := dfld w 0x18 29 16
    cfmt := BitVec.ofNat 4 (dfld w 0x18 35 32), sfmt := BitVec.ofNat 4 (dfld w 0x18 39 36), src := dfld w 0x20 47 0
    landing := dfld w 0x28 47 0, elements := dfld w 0x30 39 0
    stream := streamKey (dfld w 0x10 19 17) (dfld w 0x10 16 0), nodes := ns, operands := [], sent := [], landed := []
    done := false }

/-- The check sum of a contribution, over its source bytes in list order (R345). -/
def sumContribution (d : Desc) (r : Reduction) (s : State) : State :=
  if tracksOutputs s then
    let size := redSize r.cfmt.toNat
    let bs := (r.nodes.filter (fun n => !n.internal)).flatMap (fun n =>
      memRead s (r.src + n.shard * r.elements * size) (r.elements * size))
    addOutput d.step d.key bs s
  else s

/-- The stream context that a reduction binds: it takes no turn, and it is FREE again when the reduction ends (R194, R281). -/
def redStream (s : State) (c : Ctx) (d : Desc) : StreamCtx :=
  let x := getCtx s c
  { StreamCtx.init with st := .done, owner := c, gen := x.gen, tc := 1, port := x.port, key := d.key, step := d.step, ae := x.ae }

/-- Opens a reduction that has its windows: it binds its stream context, and its leaves send (R249, R250, R281). -/
def openRed (c : Ctx) (d : Desc) (r : Reduction) (s : State) : State :=
  let s := sumContribution d r (keepStarting c d s)
  let s := modStream r.stream (fun _ => redStream s c d) s
  let s := modFab (fun f => { f with
    reductions := f.reductions.filter (fun q => !(q.done && q.redid == r.redid)) ++ [r]
    windowsUsed := f.windowsUsed + redWindows r }) s
  match redPlace s r.redid true with
  | none => s
  | some i => finishRed i (pumpLeaves i s)

/-- STREAM of KIND REDUCE: opens this member's part, and its leaves send at once (R249 to R251, R281). -/
def execStreamReduce (ctx : Ctx) (s : State) : Out :=
  match startingOf s ctx 0x02 with
  | none => .next s
  | some d =>
    let w := d.words
    if dfld w 0x10 23 20 ≠ 1 then .next s
    else if [dfld w 0x20 47 0, dfld w 0x28 47 0, dfld w 0x38 47 0].any (unlocked s) then
      .next (finishStarting ctx d stMemUnlocked 0 s)
    else
      let ns := readNodes s (dfld w 0x38 47 0) (dfld w 0x38 63 48)
      let r := newReduction ctx d ns
      if (getStream s r.stream).st ≠ .free then .next (finishStarting ctx d stStreamBusy (dfld w 0x10 16 0) s)
      else if !(redInWindows (getCtx s ctx) w ns) then .next (finishStarting ctx d stStreamWindow 0 s)
      else if !(posnAnswers s (dfld w 0x10 19 17)) then .next (finishStarting ctx d stDomainReset 0 s)
      else
        let free := 128 - s.fab.windowsUsed
        if free < redWindows r then
          .next (chargeCause causeProgram (finishStarting ctx d stRedNobuf free s))
        else
          let g := mayRead r s
          if g.1 then .next (openRed ctx d r g.2) else .next (finishStarting ctx d stStreamWindow 0 g.2)

/-- An arrival of a reduction that nothing here takes: it is discarded and counted, the open reduction that it names completes with
RED_PLAN, and the step aborts with cause PROGRAM (R250); while a step aborts or is halted it is the attempt's own traffic and counts
there (R315). -/
def redStray (redid : BitVec 16) (s : State) : State :=
  if s.step.held.any (fun h => decide (h.st = .aborting) || decide (h.st = .halted)) then
    modStep (fun e => { e with dropped := satUp e.dropped 1 }) s
  else
    let s := modFab (fun f => { f with drop := satUp f.drop 1 }) s
    match redPlace s redid true with
    | none => chargeCause causeProgram s
    | some i => chargeCause causeProgram (settleRed i stRedPlan redid.toNat s)

/-- The elements of an arriving packet that its reduction holds: not the filling of the last unit. -/
def realElements (s : State) (i off : Nat) (data : List (BitVec 32)) : List (BitVec 32) :=
  data.take ((((s.fab.reductions[i]?).map Reduction.elements).getD 0) - off)

/-- A reduction operand arrives for its node; what it pairs with may free credit for the leaves here. -/
def arriveOperand (redid : BitVec 16) (o : RedOperand) (s : State) : State :=
  match redPlace s redid true with
  | none => redStray redid s
  | some i =>
    if ((s.fab.reductions[i]?).map (fun r => r.nodes.any (takesOperand o))).getD false then
      finishRed i (pumpLeaves i (pairOperand 16 i { o with data := realElements s i o.off o.data } s))
    else redStray redid s

/-- A root value arrives that its root sent to every member (R251). -/
def arriveResult (redid : BitVec 16) (shard off : Nat) (data : List (BitVec 32)) (s : State) : State :=
  match redPlace s redid false with
  | none => redStray redid s
  | some i => finishRed i (landRed i shard off (realElements s i off data) s)

/-- REDUCTION_OPERAND_ARRIVE: a reduction unit pairs an operand with its partner and sends the sum (R249, R250). -/
def execReductionOperandArrive (redid shard : BitVec 16) (lo hi : BitVec 15) (offset : BitVec 40) (data : List (BitVec 32))
    (s : State) : Out :=
  .next (arriveOperand redid
    { shard := shard.toNat, lo := lo.toNat, hi := hi.toNat, off := offset.toNat, data := data } s)

end Sys2Proof.Machine
end

