-- ==== Sys2Proof/Machine/Contexts.lean ====
section
/-! DEFINITION. Contexts: CREATE and its checks, the teardown timeline, what starts it from outside, function configuration,
and the firmware scrub (R254 to R260, R288 to R292, R390, R406). -/

namespace Sys2Proof.Machine

/-! ### The context block (R258, R259) -/

/-- The bits of the 320-byte context block that are not reserved, as a mask by byte offset and bit (R258). -/
def blockMask (pf : Bool) (nwin : Nat) : Nat :=
  maskAt 0 3 0 + maskAt 0 16 8 + (if pf then maskAt 0 17 17 else 0) + maskAt 4 5 0 + maskAt 4 13 8
    + maskAt 8 255 0 + maskAt 0x28 4 0 + maskAt 0x28 12 8 + maskAt 0x28 20 16 + maskAt 0x2C 4 0
    + maskAt 0x30 31 0 + maskAt 0x34 31 0
    + ((List.range (min 16 nwin)).map (fun w => maskAt (0x40 + 16 * w) 47 0 + maskAt (0x48 + 16 * w) 47 0)).sum

/-- The windows of a context block. -/
def blockWindows (bs : List Byte) : List Window :=
  (List.range (bitsOf (leAt bs 0x2C 4) 4 0)).map (fun w =>
    { base := leAt bs (0x40 + 16 * w) 8 % 2 ^ 48, limit := leAt bs (0x48 + 16 * w) 8 % 2 ^ 48 })

/-- Whether an area lies inside one HBM range of R177. -/
def inOneRange (s : State) (w : Window) : Bool :=
  match place s w.base, place s (w.limit - 1) with
  | .local_ n _, .local_ m _ => decide (n = m)
  | .wide _, .wide _ => true
  | _, _ => false

/-- Whether a range [base, base + count) lies in another. -/
def rangeIn (base count outBase outCount : Nat) : Bool := decide (outBase ≤ base) && decide (base + count ≤ outBase + outCount)

/-- The BAD_BLOCK checks of a context block that could be read (R258, R259). -/
def blockOk (s : State) (f : Nat) (bs : List Byte) : Bool :=
  let v := leNat bs
  let fc := funcCfg s f
  let nwin := bitsOf (leAt bs 0x2C 4) 4 0
  let logs := [bitsOf (leAt bs 0x28 4) 4 0, bitsOf (leAt bs 0x28 4) 12 8, bitsOf (leAt bs 0x28 4) 20 16]
  let sync := leAt bs 0x30 2
  let count := leAt bs 0x32 2 + 1
  let sstep := leAt bs 0x34 2
  let sscount := leAt bs 0x36 2
  let vecs := if f = 0 then 64 else 16
  decide (v &&& blockMask (decide (f = 0)) nwin = v)
    && [leAt bs 8 8, leAt bs 0x10 8, leAt bs 0x18 8].all (fun a => decide (a % 4096 = 0)) && decide (leAt bs 0x20 8 % 64 = 0)
    && logs.all (fun l => decide (6 ≤ l) && decide (l ≤ 16)) && decide (nwin ≤ 16)
    && (blockWindows bs).all (fun w =>
      decide (w.base % 4096 = 0) && decide (w.limit % 4096 = 0) && decide (w.base < w.limit) && inOneRange s w)
    && rangeIn sync count (fcSync fc) (fcSyncCount fc)
    && (decide (sscount = 0) || rangeIn sstep sscount sync count)
    && decide (bitsOf (leAt bs 4 4) 5 0 < vecs) && decide (bitsOf (leAt bs 4 4) 13 8 < vecs)

/-- Windows of contexts that are not FREE and of the scrub list. -/
def heldWindows (s : State) : List Window :=
  (s.hif.ctxs.filter (fun kv => decide (kv.2.st ≠ .free))).flatMap (fun kv => kv.2.windows)
    ++ s.hif.scrubs.flatMap Scrub.windows

/-- Positions of the scrub list. -/
def scrubPosns (s : State) : BitVec 8 := s.hif.scrubs.foldl (fun m x => m ||| x.posns) 0

/-- Whether two areas overlap. -/
def overlaps (a b : Window) : Bool := decide (a.base < b.limit) && decide (b.base < a.limit)

/-- The RESULT of a CREATE: the first check of R259 that fails, or 0. -/
def createResult (s : State) (f : Nat) (c : Ctx) (read : HostReadEnd) : Nat :=
  let bs := hostRead s (SMap.get FuncPage.init s.hif.pages f).ctxBlock.toNat 320
  let posns := maskPosns (BitVec.ofNat 8 (bitsOf (leAt bs 0 4) 15 8))
  if !(inFuncRange s f c.toNat) || decide ((getCtx s c).st ≠ .free) then 1
  else if !s.memRegs.lock then 2
  else if read ≠ .good ∨ (SMap.get FuncPage.init s.hif.pages f).ctxBlock.toNat % 64 ≠ 0 ∨ blockOk s f bs = false then 3
  else if bitsOf (leAt bs 0 4) 3 0 = 0 then 4
  else if !(posns.all (fun n => decide ((getPos s n).st = .enabled) && (holderOf s n).isNone && !((scrubPosns s).getLsbD n)))
  then 5
  else if (blockWindows bs).any (fun w => (heldWindows s).any (overlaps w)) then 6
  else if decide (bitsOf (leAt bs 0 4) 16 16 = 1) && (stepHolder s).isSome then 7
  else 0

/-- The context that a good block makes (R257, R258, R270). -/
def createdContext (s : State) (f : Fin 64) (old : Context) : Context :=
  let bs := hostRead s (SMap.get FuncPage.init s.hif.pages f.val).ctxBlock.toNat 320
  { Context.init with
    st := .active, gen := old.gen, func := f
    port := if f = 0 then (if bitsOf (leAt bs 0 4) 17 17 = 1 then 1 else 0) else fcPort (funcCfg s f.val)
    ver := 1, posns := BitVec.ofNat 8 (bitsOf (leAt bs 0 4) 15 8), holdsStep := decide (bitsOf (leAt bs 0 4) 16 16 = 1)
    vecCpl := BitVec.ofNat 6 (bitsOf (leAt bs 4 4) 5 0), vecEvt := BitVec.ofNat 6 (bitsOf (leAt bs 4 4) 13 8)
    dring := BitVec.ofNat 64 (leAt bs 8 8), cring := BitVec.ofNat 64 (leAt bs 0x10 8)
    ering := BitVec.ofNat 64 (leAt bs 0x18 8), headwb := BitVec.ofNat 64 (leAt bs 0x20 8)
    dlog2 := bitsOf (leAt bs 0x28 4) 4 0, clog2 := bitsOf (leAt bs 0x28 4) 12 8, elog2 := bitsOf (leAt bs 0x28 4) 20 16
    windows := blockWindows bs, syncBase := leAt bs 0x30 2, syncCount := leAt bs 0x32 2 + 1
    sstepBase := leAt bs 0x34 2, sstepCount := leAt bs 0x36 2, cplPhase := true, evtPhase := true }

/-- Sets a run of sync objects to 0 with ERROR clear. -/
def clearSync (base count : Nat) (s : State) : State :=
  modHif (fun h => { h with sync := h.sync.filter (fun kv => decide (kv.1 < base) || decide (base + count ≤ kv.1)) }) s

/-- The CTX_STATUS fields that a command of a function page leaves (R292). -/
def setStatus (f : Nat) (c : Ctx) (result : Nat) (s : State) : State :=
  modHif (fun h => { h with pages := SMap.upd FuncPage.init h.pages f (fun p =>
    { p with statCtx := c, result := BitVec.ofNat 4 result, inRange := inFuncRange s f c.toNat }) }) s

/-- The AER registers of a function record a read of its context block that ended without data (R259). -/
def noteAer (f : Nat) (read : HostReadEnd) (s : State) : State :=
  if read = .good then s else modHif (fun h => { h with aer := SMap.upd [] h.aer f (fun l => l ++ [read]) }) s

/-- CTX_CMD with OP CREATE (R257, R259). -/
def createCmd (f : Fin 64) (ctx : Ctx) (read : HostReadEnd) (s : State) : State :=
  if !(funcLive s f) then s
  else
    let r := createResult s f.val ctx read
    if r ≠ 0 then setStatus f.val ctx r (if r = 3 then noteAer f.val read s else s)
    else
      let x := createdContext s f (getCtx s ctx)
      setStatus f.val ctx 0 (clearSync x.syncBase x.syncCount (modCtx ctx (fun _ => x) s))

/-- CTX_CREATE; `read` says how the read of the block ends (R257, R259). -/
def execCtxCreate (f : Fin 64) (ctx : Ctx) (read : HostReadEnd) (s : State) : Out := .next (createCmd f ctx read s)

/-! ### The teardown timeline (R288) -/

/-- The transfers of the cells' ports that a context still has at its generation change are discarded there and counted
(R77, R288 stage 5; log entry 32). -/
def dropFifos (c : Ctx) (s : State) : State :=
  let m := (getCtx s c).posns
  let n := ((s.cells.filter (fun kv => onPosns m kv.1)).map (fun kv => fifoUnits kv.2)).sum
  countDropped c n (mapCells (onPosns m) (fun k => { k with fifoIn := [], fifoOut := [] }) s)

/-- At stage 2 of a teardown every held step whose vote is not cast aborts, from the oldest on (R288, R314). -/
def teardownAbort (c : Ctx) (s : State) : State :=
  match placeOf (fun h => h.ctx == c && decide (h.st = .opened)) s.step.held with
  | none => s
  | some i => injectAbort i causeTeardown s

/-- The valid partition entries bound to a context. -/
def entriesOf (s : State) (c : Ctx) : List Nat := (s.fab.parts.filter (fun kv => kv.2.valid && kv.2.ctx == c)).map Prod.fst

/-- Stage 2 of a teardown (R88, R288, R406): it costs the rank that the package holds in an entry bound to the context (R323,
R333). -/
def teardownStage2 (c : Ctx) (s : State) : State :=
  let x := getCtx s c
  let s := stopCells (onPosns x.posns) s
  let s := { s with sorg := s.sorg.filter (fun g => !(onPosns x.posns g.1)) }
  let s := forAll (maskPosns x.posns) (fun n => modPos n (fun p => { p with shadowEpoch := none })) s
  let s := { s with pwr := { s.pwr with staged := SMap.set 0 s.pwr.staged c.toNat 0 } }
  let s := if x.holdsStep then setModes { s.pwr.modes with mirror := false, shadow := false } s else s
  let s := teardownAbort c s
  let s := if x.holdsStep then modStep (fun e => { e with round := none, openWaitSince := none }) s else s
  forAll (entriesOf s c) (fun k s => clearValid k (loseRankIn k s)) s

/-- A teardown begins: stages 1 and 2 (R257, R288). `d` is the TEARDOWN descriptor on that path. -/
def beginTeardown (c : Ctx) (d : Option Desc) (s : State) : State :=
  if (getCtx s c).st = .active then
    let s := modCtx c (fun x => { x with
      st := .draining, fetchStopped := true, fetched := [], starting := none, waiting := none, tearDesc := d, tearT0 := none }) s
    teardownStage2 c s
  else s

/-- TEARDOWN descriptor: it starts when every earlier descriptor has completed (R288). -/
def execTeardown (ctx : Ctx) (s : State) : Out :=
  match startingOf s ctx 0x0E with
  | none => .next s
  | some d => if allComplete s ctx then .next (beginTeardown ctx (some d) s) else .next s

/-- CTX_CMD with OP TEARDOWN (R288, R292). -/
def teardownCmd (f : Fin 64) (ctx : Ctx) (s : State) : State :=
  if !(funcLive s f) then s
  else if inFuncRange s f.val ctx.toNat && decide ((getCtx s ctx).st = .active) then
    setStatus f.val ctx 0 (beginTeardown ctx none s)
  else setStatus f.val ctx 1 s

/-- CTX_TEARDOWN (R288, R292). -/
def execCtxTeardown (f : Fin 64) (ctx : Ctx) (s : State) : Out := .next (teardownCmd f ctx s)

/-- CTX_CMD with OP QUERY (R292). -/
def queryCmd (f : Fin 64) (ctx : Ctx) (s : State) : State :=
  if !(funcLive s f) then s
  else setStatus f.val ctx (if inFuncRange s f.val ctx.toNat then 0 else 1) s

/-- CTX_QUERY (R292). -/
def execCtxQuery (f : Fin 64) (ctx : Ctx) (s : State) : Out := .next (queryCmd f ctx s)

/-- Whether a commit whose COMMIT has resolved still runs, in either role (R288 stage 3). -/
def commitsRun (s : State) (c : Ctx) : Bool :=
  s.step.held.any (fun h => h.ctx == c && decide (h.st = .committing))
    || ((getCtx s c).holdsStep && s.step.peerSteps.any (fun p => p.resolved && !p.partnerDone))

/-- What a context's snapshot, bank and restore leave when its transfers are discarded (R176, R359, R366): nothing. -/
def endCopies (c : Ctx) (s : State) : State :=
  let mine := fun (r : BankRun) => r.ctx == c
  { (modCtx c (fun x => { x with snapshot := none }) s) with
    bank := { s.bank with
      run := if s.bank.run.any mine then none else s.bank.run
      template := if s.bank.template.any (fun t => t.1 == c) then none else s.bank.template
      restoreRun := if s.bank.restoreRun.any (fun r => r.ctx == c) then none else s.bank.restoreRun } }

/-- TEARDOWN_GENERATION_CHANGE: stage 4, once every resolved commit is finished (R257, R288). -/
def execTeardownGenerationChange (ctx : Ctx) (s : State) : Out :=
  let x := getCtx s ctx
  if x.st = .draining ∧ x.tearT0.isNone ∧ !(commitsRun s ctx) then
    let s := modCtx ctx (fun x => { x with gen := x.gen + 1, tearT0 := some s.mgmt.ptb }) s
    .next (endCopies ctx (closeReductions ctx (dropFifos ctx s)))
  else .next s

/-- The teardown completion (R288 stage 6). -/
def teardownRecord (c : Ctx) (status : Nat) (s : State) : State :=
  let x := getCtx s c
  match x.tearDesc with
  | some d =>
    let s := writeCompletion c (completionBytes d.index status 0x0E (dTag d.words) x.outstanding d.attempt) s
    let s := if dIrq d.words then sendMsix x x.vecCpl s else s
    signalDesc c d.words (decide (status = 0)) 0 s
  | none => writeCompletion c (completionBytes (BitVec.ofNat 16 x.fetch) status 0x0E 0 x.outstanding 0) s

/-- TEARDOWN_FINISH: stage 6, at outstanding count 0 or 2 ms after the generation change (R257, R288, R462). -/
def execTeardownFinish (ctx : Ctx) (s : State) : Out :=
  let x := getCtx s ctx
  match x.st, x.tearT0 with
  | .draining, some t0 =>
    let late := decide (x.outstanding ≠ 0)
    let status := if late then stTeardownLate else stOk
    let s := if late then advanceTo (t0 + msec 2) s else s
    let s := teardownRecord ctx status s
    let s := raise 0x0604 (hubUnit 0) { ctx := some ctx, arg0 := status + 256 * x.gen.toNat, arg1 := x.outstanding } s
    let s := modStep (fun e => { e with held := e.held.filter (fun h => h.ctx != ctx) }) s
    let s := modHif (fun h => { h with scrubs := h.scrubs ++
      [{ ctx := some ctx, ticket := 0, windows := x.windows, posns := x.posns }] }) s
    .next (modCtx ctx (fun x => { x with
      st := .free, windows := [], posns := 0, holdsStep := false, started := [], fetched := [], tearDesc := none, tearT0 := none
      shrunk := false }) s)
  | _, _ => .next s

/-! ### Resets of functions and host ports (R290, R324) -/

/-- Tears down the ACTIVE contexts that a test picks. -/
def tearAll (p : Context → Bool) (s : State) : State :=
  forAll ((s.hif.ctxs.filter (fun kv => decide (kv.2.st = .active) && p kv.2)).map Prod.fst)
    (fun k => beginTeardown (BitVec.ofNat 12 k) none) s

/-- Contexts torn down by a function level reset of PF0 through a port: those of PF0 on that port, and of every VF assigned
to it (R290). -/
def onHostPort (s : State) (port : Fin 2) (x : Context) : Bool :=
  if x.func = 0 then decide (x.port = port) else decide (fcPort (funcCfg s x.func.val) = port)

/-- FUNCTION_LEVEL_RESET of a VF, or of PF0 through a port (R290). -/
def execFunctionLevelReset (f : Fin 64) (port : Fin 2) (s : State) : Out :=
  if f = 0 then
    let s := tearAll (onHostPort s port) s
    .next (modHif (fun h => { h with vfEnabled := SMap.set false h.vfEnabled port.val false }) s)
  else .next (tearAll (fun x => decide (x.func = f)) s)

/-- HOST_DMA_ERROR: a DMA error on a context's rings resets it at context level (R324). -/
def execHostDmaError (ctx : Ctx) (s : State) : Out := .next (beginTeardown ctx none s)

/-! ### Function configuration (R254 to R256, R291) -/

/-- Whether two ranges share a member. -/
def rangesShare (a n b m : Nat) : Bool := decide (0 < n) && decide (0 < m) && decide (a < b + m) && decide (b < a + n)

/-- Whether VFs are enabled on a port. -/
def vfsOn (s : State) (port : Nat) : Bool := SMap.get false s.hif.vfEnabled port

/-- Whether a write of HIF_FUNC_CFG[f] is refused (R256, R291). -/
def funcCfgRefused (s : State) (f : Nat) (v : BitVec 64) : Bool :=
  let old := funcCfg s f
  let others := (List.range 64).filter (fun g => decide (g ≠ f))
  others.any (fun g =>
      let w := funcCfg s g
      rangesShare (fcBase v) (fcCount v) (fcBase w) (fcCount w) || rangesShare (fcSync v) (fcSyncCount v) (fcSync w) (fcSyncCount w))
    || s.hif.ctxs.any (fun kv => inFuncRange s f kv.1 && decide (kv.2.st ≠ .free))
    || s.hif.scrubs.any (fun x => x.ctx.any (fun c => inFuncRange s f c.toNat))
    || (decide (fcPort v ≠ fcPort old) && (vfsOn s 0 || vfsOn s 1))
    || (decide (f ≠ 0) && decide (v ≠ old) && vfsOn s (fcPort old).val)
    || decide (4096 < fcBase v + fcCount v) || decide (65536 < fcSync v + fcSyncCount v)
    || decide (fld v 35 32 ≠ 0)

/-- Writes HIF_FUNC_CFG[f], or refuses the write with its event (R256, R462). Reserved bits, and PORT of PF0, read 0. -/
def writeFuncCfg (f : Nat) (v : BitVec 64) (s : State) : State :=
  let v' := setFld (setFld (setFld v 31 26 0) 63 61 0) 25 25 (if f = 0 then 0 else fld v 25 25)
  if funcCfgRefused s f v' then raise 0x0601 (hubUnit 0) { arg0 := f, arg1 := v.toNat } s
  else modHif (fun h => { h with funcCfg := SMap.set 0 h.funcCfg f v' }) s

/-- HIF_FUNC_CFG_WRITE (R256). -/
def execHifFuncCfgWrite (f : Fin 64) (v : BitVec 64) (s : State) : Out := .next (writeFuncCfg f.val v s)

/-- The VFs assigned to a port, in increasing number (R254). -/
def portVfs (s : State) (port : Fin 2) : List Nat :=
  (List.range 64).filter (fun f => decide (f ≠ 0) && decide (fcPort (funcCfg s f) = port))

/-- TotalVFs of a port's SR-IOV capability (R254). -/
def totalVfs (s : State) (port : Fin 2) : Nat := (portVfs s port).length

/-- The function number of a port's k-th VF, counted from 1 (R254). -/
def vfOf (s : State) (port : Fin 2) (k : Nat) : Option Nat := if k = 0 then none else (portVfs s port)[k - 1]?

/-- VFPAGES of a port (R255). -/
def vfPagesOf (s : State) (port : Fin 2) : Nat :=
  2 ^ Nat.clog 2 (((portVfs s port).map (fun f => fcCount (funcCfg s f))).foldl max 1)

/-- VFPAGES as the VF BAR2 field of a port's SR-IOV capability reports it: fixed while VF Enable is set (R255). -/
def vfBar2Of (s : State) (port : Fin 2) : Nat :=
  if vfsOn s port.val then SMap.get 1 s.hif.vfBar2 port.val else vfPagesOf s port

/-- VF_ENABLE: VF Enable is set on a port, and VFPAGES is fixed there (R255). -/
def execVfEnable (port : Fin 2) (s : State) : Out :=
  if vfsOn s port.val then .next s
  else
    let n := vfPagesOf s port
    .next (modHif (fun h => { h with
      vfEnabled := SMap.set false h.vfEnabled port.val true, vfBar2 := SMap.set 1 h.vfBar2 port.val n
      pages := (portVfs s port).foldl (fun m f => SMap.upd FuncPage.init m f (fun p => { p with vfPages := n })) h.pages }) s)

/-! ### The firmware scrub (R390) -/

/-- Zeroes a range of memory. -/
def memZero (a b : Nat) (s : State) : State :=
  { s with
    mem := s.mem.filter (fun kv => decide (kv.1 < a) || decide (b ≤ kv.1))
    failed := s.failed.filter (fun k => decide (64 * k + 64 ≤ a) || decide (b ≤ 64 * k)) }

/-- The capture area of a position: the last 4 MiB of its staging SRAM (R329). -/
def captureBase (n : Nat) : Nat := stageBase n + 0x07C00000

/-- Scrubs what a position holds: staging SRAM but for the capture area, scratchpads, program memory, accumulator
registers, statistics partials and stream contexts (R390). -/
def scrubPosn (n : Nat) (s : State) : State :=
  let s := memZero (stageBase n) (captureBase n) s
  let s := memZero (spBase (n * 256)) (spBase (n * 256 + 256)) s
  let s := mapCells (fun k => decide (cellPosn k = n)) (fun c => { c with partials := [] }) s
  let s := modPos n (fun p => { p with merged := [], partialQ := [] }) s
  { s with
    prog := s.prog.filter (fun kv => decide (cellPosn (kv.1 / 4096) ≠ n))
    progSrc := s.progSrc.filter (fun kv => decide (cellPosn (kv.1 / 4096) ≠ n))
    acc := s.acc.filter (fun kv => decide (cellPosn (kv.1 / 8192) ≠ n))
    streams := s.streams.filter (fun kv => decide (kv.1 / 131072 ≠ n)) }

/-- Whether a scrub can end now: no position of it is in reset, and none is out of service (R390). -/
def scrubReady (s : State) (x : Scrub) : Bool :=
  (maskPosns x.posns).all (fun n => decide ((getPos s n).st ≠ .inReset) && decide ((getPos s n).st ≠ .outOfService))

/-- FIRMWARE_SCRUB: firmware zeroes the first target of the scrub list that it can, and raises SCRUB_DONE (R289, R390). -/
def execFirmwareScrub (s : State) : Out :=
  match placeOf (scrubReady s) s.hif.scrubs with
  | none => .next s
  | some i =>
    match s.hif.scrubs[i]? with
    | none => .next s
    | some x =>
      let s := forAll x.windows (fun w => memZero w.base w.limit) s
      let s := forAll (maskPosns x.posns) scrubPosn s
      let s := modHif (fun h => { h with scrubs := h.scrubs.eraseIdx i }) s
      let s := match x.ctx with
        | some _ => s
        | none => modMgmt (fun m => { m with
            long := m.long.eraseP (fun l => l.ticket == x.ticket && decide (l.cmd = 0x0021))
            ended := m.ended ++ [(x.ticket, 0)] }) s
      .next (raise 0x0605 (hubUnit 8)
        { ctx := x.ctx, arg0 := match x.ctx with
            | some _ => 0
            | none => x.ticket.toNat } s)

end Sys2Proof.Machine
end

