-- ==== Sys2Proof/Machine/Status.lean ====
section
/-! DEFINITION. What every register of the part reads, and where each lies in BAR0 (R433 to R447, and the register tables of
the chapters). -/

namespace Sys2Proof.Machine

/-- A word packed from fields: low bit and value of each. -/
def packF (l : List (Nat × Nat)) : Nat := (l.map (fun f => f.2 * 2 ^ f.1)).sum

/-- A flag as a number. -/
def flag (b : Bool) : Nat := if b then 1 else 0

/-! ### Identity (R222, R375, R396, R443, R444) -/

/-- The part code of R240. -/
def partCode : PartNum → Nat
  | .zsn2 => 2
  | .zsn4 => 4
  | .zsn8 => 8
  | .zsn8g => 9

/-- Fitted positions, one bit each. -/
def fittedMask : PartNum → Nat
  | .zsn2 => 0x03
  | .zsn4 => 0x0F
  | .zsn8 => 0xFF
  | .zsn8g => 0xFF

/-- Guest positions, one bit each. -/
def guestMask : PartNum → Nat
  | .zsn8g => 0xC0
  | _ => 0

/-- GLB_ID. -/
def wGlbId (s : State) : Nat :=
  packF [(0, partCode s.fuses.part), (4, flag s.fuses.gradeE), (8, s.fuses.hubStep.toNat), (16, fittedMask s.fuses.part),
    (24, guestMask s.fuses.part), (32, 1)]

/-- GLB_FEATURE. -/
def wGlbFeature (s : State) : Nat :=
  packF [(0, s.pkg.effective.toNat), (8, s.fuses.hubLevel.toNat), (16, s.fuses.hubMin.toNat)]

/-- GLB_FW_STATUS. -/
def wFwStatus (s : State) : Nat :=
  packF [(0, match s.mgmt.fw with
    | .boot => 0
    | .running => 1
    | .recovery => 2), (8, s.mgmt.fail.toNat), (32, s.mgmt.heartbeat.toNat)]

/-- Whether firewall registers exist: only on the ZSN-8G (R221). -/
def hasGfw (s : State) : Bool := decide (s.fuses.part = .zsn8g)

/-- GLB_LOCKS. -/
def wLocks (s : State) : Nat :=
  packF [(0, flag s.memRegs.lock), (1, flag s.mgmt.mbxLock), (2, flag (hasGfw s && (getGfw s 0).lock)),
    (3, flag (hasGfw s && (getGfw s 1).lock)), (8, flag s.mgmt.presence), (9, flag s.mgmt.sealClosed), (10, flag s.mgmt.debug)]

/-- The fuses of a position. -/
def posnFuses (s : State) (n : Nat) : PosnFuses := SMap.get PosnFuses.init s.fuses.posn n

/-- The code of GLB_POSN_STATE. -/
def posStateCode : PosState → Nat
  | .absent => 0
  | .disabledLevel => 1
  | .enabled => 2
  | .guest => 3
  | .inReset => 4
  | .outOfService => 5

/-- GLB_POSN_STEP[n]: 0 for a position that the part does not have, else the fuse values from reset on; a guest's die fields read 0. -/
def wPosnStep (s : State) (n : Nat) : Nat :=
  let f := posnFuses s n
  let guest := fitsGuest s.fuses.part n
  if !(fitsCompute s.fuses.part n) && !guest then 0
  else packF [(0, if guest then 0 else f.dieStep.toNat), (8, if guest then 0 else f.dieLevel.toNat), (16, f.baseStep.toNat),
    (24, f.baseLevel.toNat)]

/-- The 32-byte identity secret (R375). -/
def idSecretOf (seed : BitVec 256) (gen : BitVec 4) : List Byte :=
  ((Config.sha512 (leBytes 32 seed.toNat ++ leBytes 1 gen.toNat)).toList).take 32

/-- The identity public key (R375). -/
def idPublic (s : State) : List Byte := (Config.ed25519Public (idSecretOf s.fuses.idSeed s.fuses.idGen)).toList

/-- A signature of the identity key over the digest of bytes (R374). -/
def idSign (s : State) (bs : List Byte) : List Byte :=
  (Config.ed25519Sign (idSecretOf s.fuses.idSeed s.fuses.idGen) (Config.sha512 bs).toList).toList

/-- SEC_STATUS. -/
def wSecStatus (s : State) : Nat :=
  packF [(0, flag s.mgmt.presence), (1, flag s.mgmt.sealClosed), (2, flag s.mgmt.sealOpened), (3, flag s.mgmt.debug),
    (4, s.fuses.idGen.toNat), (8, s.mgmt.tamper.toNat)]

/-! ### Host interface (R291, R292) -/

/-- The code of CTX_STATUS.STATE. -/
def ctxStateCode : CtxState → Nat
  | .free => 0
  | .active => 1
  | .draining => 2

/-- CTX_STATUS of a function page. -/
def wCtxStatus (s : State) (f : Nat) : Nat :=
  let p := SMap.get FuncPage.init s.hif.pages f
  let x := getCtx s p.statCtx
  if p.inRange then
    packF [(0, p.statCtx.toNat), (12, ctxStateCode x.st), (14, flag (s.hif.scrubs.any (fun q => decide (q.ctx = some p.statCtx)))),
      (16, p.result.toNat), (20, x.ver.toNat), (24, x.gen.toNat), (32, x.fetch), (48, x.evtLost.toNat)]
  else packF [(16, p.result.toNat)]

/-- CTX_DROPPED. -/
def wCtxDropped (s : State) : Nat := packF [(0, s.hif.dropped.toNat), (48, s.hif.droppedCtx.toNat)]

/-! ### Memory and package (R65, R199, R222) -/

/-- MEM_CAP[n]. -/
def wMemCap (s : State) (n : Nat) : Nat :=
  let p := getPos s n
  packF [(0, mappedStripes p), (24, remapEntries - p.remap.length), (42, p.withdrawn.length)]

/-- The code of MEM_PC_STATUS.STATE. -/
def pcStateCode : PcState → Nat
  | .normal => 0
  | .retrain => 1
  | .limp => 2
  | .mapout => 3
  | .mapped => 4
  | .partly => 5

/-- MEM_PC_STATUS of a pseudo-channel. -/
def wPcStatus (c : PChan) : Nat := packF [(0, pcStateCode c.st), (3, c.wfrom.getD 0), (32, c.retrains.toNat)]

/-- MEM_PC_ECC of a pseudo-channel. -/
def wPcEcc (c : PChan) : Nat := packF [(0, c.odce.toNat), (24, c.ce.toNat), (48, c.ue.toNat)]

/-- MEM_REMAP_DATA of an entry. -/
def wRemap (e : Remap) : Nat :=
  packF [(0, e.home.toNat), (24, match e.st with
    | .free => 0
    | .mapped => 1
    | .bad => 2)]

/-- The code of PKG_EDGE_STATUS.STATE. -/
def edgeStateCode : EdgeState → Nat
  | .reset => 0
  | .sbinit => 1
  | .mbinit => 2
  | .mbtrain => 3
  | .linkinit => 4
  | .active => 5
  | .retrain => 6
  | .quarantine => 7
  | .failed => 8
  | .disabled => 9

/-- PKG_EDGE_STATUS[e]: a DISABLED edge reads STATE 9 and 0 in every other field (R222). -/
def wEdgeStatus (e : Edge) : Nat :=
  if e.st = .disabled then 9
  else packF [(0, edgeStateCode e.st), (4, e.width), (12, e.ctag.toNat), (16, e.mask.toNat), (32, e.retrains.toNat),
    (48, e.quarantines.toNat)]

/-- PKG_EDGE_ERR[e]. -/
def wEdgeErr (e : Edge) : Nat := if e.st = .disabled then 0 else packF [(0, e.crc.toNat), (32, e.replays.toNat)]

/-- PKG_GFW_CTRL[g]. -/
def wGfwCtrl (w : Gfw) : Nat := packF [(0, flag w.en), (1, flag w.lock), (32, w.viol.toNat)]

/-! ### Fabric (R247, R252) -/

/-- FAB_SELF. -/
def wFabSelf (s : State) : Nat :=
  match s.fab.selfIdx with
  | none => 0
  | some i =>
    let c := coordOf (tableBytes s) i
    packF [(0, c.1), (5, c.2.1), (10, c.2.2), (15, 1), (16, i)]

/-- FAB_TABLE_DIGEST. -/
def wTableDigest (s : State) : Nat :=
  match s.fab.table with
  | none => 0
  | some t => leNat ((Config.sha512 t).toList.take 8)

/-- The code of FAB_PORT_STATUS.STATE. -/
def portStateCode : PortState → Nat
  | .down => 0
  | .training => 1
  | .up => 2
  | .held => 3
  | .retrain => 4
  | .notCabled => 5

/-- FAB_PORT_STATUS of a port. -/
def wPortStatus (p : FabPort) : Nat :=
  packF [(0, portStateCode p.st), (3, p.width), (8, p.lanes.toNat), (16, p.nbr.toNat), (30, p.nbrPort.toNat),
    (48, p.degrades.toNat)]

/-- FAB_PORT_ERR of a port. -/
def wPortErr (p : FabPort) : Nat := packF [(0, p.feccw.toNat), (32, p.crc.toNat), (48, p.replays.toNat)]

/-- FAB_PART_CFG of an entry. -/
def wPartCfg (e : Part) : Nat :=
  packF [(0, e.pid.toNat), (12, flag e.valid), (13, flag e.ranked), (14, e.rank.toNat), (32, e.ctx.toNat)]

/-- FAB_PART_STATUS of an entry. -/
def wPartStatus (e : Part) : Nat := packF [(0, e.result.toNat), (3, flag e.gradeC)]

/-- The coordinate index of the root of the time tree, TIME_ROOT (R240). -/
def timeRoot (t : List Byte) : Nat := bitsOf (leAt t 8 4) 29 16

/-- Whether the package is the root of the time tree (R246). -/
def ptbRoot (s : State) : Bool := s.fab.table.isSome && decide (s.fab.selfIdx = some (timeRoot (tableBytes s)))

/-- PTB_DISC. -/
def wPtbDisc (s : State) : Nat :=
  packF [(0, s.fab.ptbState.toNat), (2, flag (ptbRoot s)), (3, s.fab.ptbParent), (16, s.fab.ptbOffset.toNat),
    (32, s.fab.ptbRate.toNat)]

/-! ### The step engine (R89, R145, R169, R321, R347) -/

/-- The code of STEP_STATE.OLDEST. -/
def heldStateCode : HeldState → Nat
  | .opened => 1
  | .cast => 2
  | .committing => 3
  | .aborting => 4
  | .halted => 5

/-- Whether a held step's vote is not cast. -/
def uncast (h : Held) : Bool := decide (h.st = .opened) || decide (h.st = .aborting) || decide (h.st = .halted)

/-- The oldest held step whose vote is not cast. -/
def oldestUncast (s : State) : Option Held := s.step.held.find? uncast

/-- STEP_STATE. -/
def wStepState (s : State) : Nat :=
  let h := s.step.held.head?
  packF [(0, s.step.held.length), (3, (h.map (fun h => heldStateCode h.st)).getD 0), (6, (h.map (fun h => h.attempt.toNat)).getD 0),
    (10, flag ((oldestUncast s).any Held.check)), (16, s.step.cause.toNat), (32, (h.map (fun h => h.step.toNat % 2 ^ 32)).getD 0)]

/-- The code of STEP_MIRROR.STATE. -/
def mirrorCode : MirrorState → Nat
  | .unpaired => 0
  | .paired => 1
  | .filling => 2
  | .synced => 3
  | .stale => 4
  | .lost => 5

/-- STEP_MIRROR. -/
def wStepMirror (s : State) : Nat :=
  packF [(0, mirrorCode s.step.mirror), (3, flag s.pwr.modes.mirror), (4, s.step.reason.toNat), (8, s.step.partner.toNat),
    (32, (s.step.entries.map (fun kv => if kv.2.isSome then 2 ^ kv.1 else 0)).sum), (48, s.step.auditMismatch.toNat)]

/-- The number of variants bound in the open step. -/
def boundVariants (s : State) : Nat := match (oldestUncast s).bind Held.variant with
  | some v => v.nvar
  | none => 0

/-- STEP_VSTAT. -/
def wStepVstat (s : State) : Nat := packF [(0, boundVariants s), (16, s.step.nskip.toNat), (32, s.step.vskipTotal.toNat)]

/-- STEP_EPOCH[n]. -/
def wEpoch (p : Pos) : Nat :=
  packF [(0, p.activeEpoch.toNat), (16, (p.shadowEpoch.getD 0).toNat), (32, flag p.shadowEpoch.isSome)]

/-- NUM_SEQ_FAULT[n]. -/
def wSeqFault (p : Pos) : Nat :=
  packF [(0, p.seqFault.x.toNat), (4, p.seqFault.y.toNat), (8, p.seqFault.code.toNat), (12, p.seqFault.pc.toNat),
    (32, p.seqFault.count.toNat)]

/-- STEP_CHECK[n]: the pair of the oldest uncast step. -/
def wStepCheck (s : State) (n : Nat) : Nat :=
  match oldestUncast s with
  | none => 0
  | some h =>
    let c := SMap.get CheckPair.init h.checks n
    packF [(0, c.checked.toNat), (32, c.nonfinite.toNat)]

/-- RAS_CAP_STATUS. -/
def wCapStatus (s : State) : Nat :=
  packF [(0, s.ras.capSeq.toNat), (32, s.ras.capLevel.toNat), (35, s.ras.capPosn.toNat), (38, flag s.ras.capComplete),
    (39, flag s.ras.capValid), (40, flag s.ras.chipReq)]

/-- RAS_SPARE_STATUS. -/
def wSpareStatus (s : State) : Nat :=
  packF [(0, match spareStateNow s with
    | .none => 0
    | .ready => 1
    | .pulling => 2
    | .promoted => 3
    | .declined => 4
    | .rankLost => 5), (4, s.ras.spareRank.toNat), (32, s.ras.sparePulled.toNat)]

/-- STEP_LAGGARD. -/
def wLaggard (s : State) : Nat :=
  packF [(0, (s.step.lagChild.getD 0).toNat), (14, flag s.step.lagChild.isSome), (32, s.step.lag.toNat)]

/-- RAS_SHADOW_CFG as last written. -/
def wShadowCfg (s : State) : Nat := (setFld s.ras.shadowCfg 31 16 s.ras.shadowAdmitW.toNat).toNat

/-- RAS_SHADOW_STATUS. -/
def wShadowStatus (s : State) : Nat :=
  packF [(0, match s.ras.shadowState with
    | .off => 0
    | .loading => 1
    | .following => 2
    | .admitted => 3
    | .ejected => 4
    | .lost => 5), (16, s.ras.shadowMatched.toNat), (32, s.ras.shadowMismatch.toNat)]

/-! ### Banking (R368) -/

/-- BANK_WATCH_STATUS. -/
def wWatchStatus (s : State) : Nat :=
  packF [(0, s.bank.mem.toNat), (16, s.bank.drop.toNat), (24, s.bank.retrain.toNat), (32, s.bank.fec.toNat)]

/-- BANK_STATUS. -/
def wBankStatus (s : State) : Nat :=
  let st := match s.bank.run with
    | none => 0
    | some r => match r.st with
      | .idle => 0
      | .armed => 1
      | .banking => 2
      | .signing => 3
  let auto := match s.bank.run with
    | some r => r.auto
    | none => s.bank.lastAuto
  let slot := match s.bank.run with
    | some r => r.slot
    | none => s.bank.lastSlot
  packF [(0, st), (2, flag auto), (3, flag slot), (4, s.bank.lost.toNat), (8, s.bank.throttle.toNat), (32, s.bank.pushed.toNat)]

/-- BANK_RESTORE. -/
def wRestore (s : State) : Nat :=
  packF [(0, match s.bank.restore with
    | .none => 0
    | .running => 1
    | .failed => 2
    | .done => 3), (32, s.bank.restoreStep.toNat)]

/-! ### Power (R402 to R417) -/

/-- PWR_MODE. -/
def wPwrMode (m : Modes) : Nat :=
  packF [(0, match m.draught with
    | .opened => 0
    | .steady => 1
    | .damped => 2), (3, flag m.mirror), (5, m.depth - 1), (8, flag m.shadow), (10, flag m.autoBank), (12, flag m.stats)]

/-- PWR_THERM: WARN as last written and TRIP by grade. -/
def wTherm (s : State) : Nat := packF [(0, s.pwr.warnW.toNat), (8, if s.fuses.gradeE then 0x73 else 0x69)]

/-- Bits [4:0] of PWR_TRAY_ALERT. -/
def alertBits (s : State) : Nat :=
  packF [(0, flag (decide (s.mgmt.fw = .recovery))), (1, flag s.ras.chipReq), (2, flag s.pwr.alertTherm),
    (3, flag s.pwr.alertLimit), (4, flag s.mgmt.sealOpened)]

/-- PWR_TRAY_ALERT. -/
def wAlert (s : State) : Nat := packF [(0, alertBits s), (8, s.pwr.alertMask.toNat)]

/-- Whether ALERT_N is driven: a bit that MASK lets through (R417). -/
def alertOn (s : State) : Bool := decide (alertBits s &&& s.pwr.alertMask.toNat ≠ 0)

/-- The in-band interrupt 0x01 that follows when an unmasked alert bit sets (R414, R417). -/
def alertSets (before after : State) : State :=
  let fresh := alertBits after &&& after.pwr.alertMask.toNat &&& (31 ^^^ (alertBits before &&& 31))
  if fresh = 0 then after else { after with pwr := { after.pwr with ibis := after.pwr.ibis ++ [0x01] } }

/-- PWR_TRAY_FLASH. -/
def wFlash (s : State) : Nat :=
  packF [(0, s.pwr.flashOp.toNat), (3, flag s.pwr.flashBusy), (4, flag s.pwr.flashErr), (8, s.pwr.flashAddr.toNat)]

/-! ### The index (R434 to R446) -/

/-- What a read returns: a value, or the error response of R16. -/
inductive ReadResult where
  | value (v : Nat)
  | error
deriving DecidableEq, Repr

/-- Whether an access to the registers of a position's domain gets the error response (R436). -/
def posnDown (s : State) (n : Nat) : Bool :=
  match (getPos s n).st with
  | .absent => true
  | .disabledLevel => true
  | .inReset => true
  | .outOfService => true
  | _ => false

/-- A read of a P register: 0 for a guest position, the error response for one that is down (R436). -/
def readP (s : State) (n : Nat) (v : Nat) : ReadResult :=
  if posnDown s n then .error else if (getPos s n).st = .guest then .value 0 else .value v

/-- A read of an S register of a position. -/
def readS (s : State) (n : Nat) (v : Nat) : ReadResult := if posnDown s n then .error else .value v

/-- Index of an indexed register: its slot past a base, below a count. -/
def slotIn (off base count : Nat) : Option Nat :=
  if base ≤ off ∧ off < base + 8 * count ∧ off % 8 = 0 then some ((off - base) / 8) else none

/-- Registers of the P domain, by offset in the area of position 0, for a position. -/
def posnReg (s : State) (n off : Nat) : Option Nat :=
  let p := getPos s n
  match off with
  | 0x01010000 => some (wMemCap s n)
  | 0x01810000 => some p.arrayBusy.toNat
  | 0x01810008 => some p.bankStall.toNat
  | 0x01810010 => some (wSeqFault p)
  | 0x01A10000 => some p.ringBaseW.toNat
  | 0x01A10008 => some p.ringCtrlW.toNat
  | 0x01A10010 => some (packF [(0, p.ringHead.toNat), (32, p.ringDropped.toNat)])
  | 0x01A10018 => some p.ringTail.toNat
  | 0x01C10000 => some (wEpoch p)
  | 0x01C10008 => some (wStepCheck s n)
  | 0x02010000 => some p.kindleCnt.toNat
  | _ => none

/-- Indexed registers of the hub. -/
def indexedReg (s : State) (off : Nat) : Option Nat :=
  ((slotIn off 0x100 8).map (wPosnStep s)).or <|
  ((slotIn off 0x140 8).map (fun n => posStateCode (getPos s n).st)).or <|
  ((slotIn off 0x200000 64).map (fun f => (funcCfg s f).toNat)).or <|
  ((slotIn off 0xA00100 64).map (fun c => (SMap.get Chan.init s.mgmt.chans c).bind.toNat)).or <|
  ((slotIn off 0x1400040 2).map (fun g => if hasGfw s then wGfwCtrl (getGfw s g) else 0)).or <|
  ((slotIn off 0x1400050 2).map (fun g => if hasGfw s then (getGfw s g).vaddr.toNat else 0)).or <|
  ((slotIn off 0x1400100 14).map (fun e => wEdgeStatus (getEdge s e))).or <|
  ((slotIn off 0x1400180 14).map (fun e => wEdgeErr (getEdge s e))).or <|
  ((slotIn off 0x1C00100 32).map (fun k => fld s.step.vmask (32 * k + 31) (32 * k))).or <|
  ((slotIn off 0x2200010 4).map (fun k => leAt (idPublic s) (8 * k) 8))

/-- The rule that a firewall rule selector names. -/
def selRule (s : State) (x : Selectors) : GfwRule :=
  if hasGfw s then gfwRule (getGfw s (fld x.gfwRule 8 8)) (fld x.gfwRule 4 0) else GfwRule.init

/-- Registers reached through a selector, with the position of an S register. -/
def selectedReg (s : State) (x : Selectors) (off : Nat) : Option (Option Nat × Nat) :=
  let port := getPort s (fld x.fabPort 4 0)
  let part := getPart s (fld x.fabPart 3 0)
  let pcPosn := fld x.memPc 10 8
  let pc := getChan (getPos s pcPosn) (fld x.memPc 5 0)
  let rmPosn := fld x.memRemap 26 24
  let slPosn := fld x.statSlot 14 12
  match off with
  | 0x01000010 => some (none, x.memPc.toNat)
  | 0x01000018 => some (some pcPosn, wPcStatus pc)
  | 0x01000020 => some (some pcPosn, wPcEcc pc)
  | 0x01000028 => some (none, x.memRemap.toNat)
  | 0x01000030 => some (some rmPosn, wRemap (SMap.get Remap.init (getPos s rmPosn).remap (fld x.memRemap 17 0)))
  | 0x01400008 => some (none, if hasGfw s then x.gfwRule.toNat else 0)
  | 0x01400010 => some (none, (selRule s x).base.toNat)
  | 0x01400018 => some (none, (selRule s x).limit.toNat)
  | 0x01400020 => some (none, (selRule s x).attr.toNat)
  | 0x01600010 => some (none, x.fabPort.toNat)
  | 0x01600018 => some (none, wPortStatus port)
  | 0x01600020 => some (none, wPortErr port)
  | 0x01600028 => some (none, port.cfgW.toNat)
  | 0x01600030 => some (none, x.fabPart.toNat)
  | 0x01600038 => some (none, wPartCfg part)
  | 0x01600040 => some (none, part.box.toNat)
  | 0x01600048 => some (none, part.rmap.toNat)
  | 0x01600050 => some (none, wPartStatus part)
  | 0x01A00000 => some (none, x.statSlot.toNat)
  | 0x01A00008 => some (some slPosn, (SMap.get slotCfgInit (getPos s slPosn).slotCfgW (fld x.statSlot 11 0)).toNat)
  | 0x01A00010 => some (some slPosn, (SMap.get 0 (getPos s slPosn).slotRun (fld x.statSlot 11 0)).toNat)
  | 0x02400000 => some (none, x.repair.toNat)
  | 0x02400008 => some (some (fld x.repair 10 8),
      (SMap.get 0 s.fuses.macMap (fld x.repair 10 8 * 256 + fld x.repair 7 0)).toNat)
  | _ => none

/-- Hub registers with one value, of the blocks GLB to PKG. -/
def hubRegA (s : State) (off : Nat) : Option Nat :=
  match off with
  | 0x00000000 => some (wGlbId s)
  | 0x00000008 => some (wGlbFeature s)
  | 0x00000010 => some (wFwStatus s)
  | 0x00000018 => some (wLocks s)
  | 0x00200200 => some s.hif.syncWait.toNat
  | 0x00400000 => some (wCtxDropped s)
  | 0x00800000 => some s.mgmt.evtBase.toNat
  | 0x00800008 => some s.mgmt.evtCtrl.toNat
  | 0x00800010 => some (packF [(0, s.mgmt.evtHead.toNat), (32, s.mgmt.evtLost.toNat)])
  | 0x00800018 => some s.mgmt.evtTail.toNat
  | 0x00A00000 => some (flag s.mgmt.mbxLock)
  | 0x00A00008 => some (setFld s.mgmt.rebind 31 31 0).toNat
  | 0x00C00000 => some s.mgmt.ptb.toNat
  | 0x00C00008 => some (wPtbDisc s)
  | 0x00E00000 => some (setFld s.ras.reset 31 31 0).toNat
  | 0x00E00008 => some s.ras.wdogW.toNat
  | 0x00E00010 => some (wCapStatus s)
  | 0x00E00018 => some s.ras.spareCfgW.toNat
  | 0x00E00020 => some (wSpareStatus s)
  | 0x00E00028 => some (wShadowCfg s)
  | 0x00E00030 => some (wShadowStatus s)
  | 0x01000000 => some (packF [(0, s.memRegs.localRows.toNat), (31, flag s.memRegs.lock)])
  | 0x01000008 => some (packF [(0, Config.hbmBanks.toNat), (8, 0x60)])
  | 0x01000038 => some s.memRegs.rasCfgW.toNat
  | 0x01400000 => some s.pkg.edgeCfgW.toNat
  | _ => none

/-- Hub registers with one value, of the blocks FAB to TEST. -/
def hubRegB (s : State) (off : Nat) : Option Nat :=
  match off with
  | 0x01600000 => some (wFabSelf s)
  | 0x01600008 => some (wTableDigest s)
  | 0x01600058 => some s.fab.drop.toNat
  | 0x01600060 => some (packF [(0, s.fab.transitFwd.toNat), (32, s.fab.transitDrop.toNat)])
  | 0x01A00018 => some s.memRegs.ufwW.toNat
  | 0x01C00000 => some s.step.cfgW.toNat
  | 0x01C00010 => some s.step.next.toNat
  | 0x01C00018 => some s.step.number.toNat
  | 0x01C00020 => some s.step.cursor.toNat
  | 0x01C00028 => some (wStepState s)
  | 0x01C00030 => some (packF [(0, s.step.skips.toNat), (32, s.step.aborts.toNat)])
  | 0x01C00038 => some (packF [(0, s.step.waitLast.toNat), (32, s.step.waitMax.toNat)])
  | 0x01C00040 => some s.step.dropped.toNat
  | 0x01C00048 => some s.step.csyncW.toNat
  | 0x01C00050 => some (wStepMirror s)
  | 0x01C00058 => some (wLaggard s)
  | 0x01C00060 => some (wStepVstat s)
  | 0x01C00068 => some s.step.epochWait.toNat
  | 0x01E00000 => some s.bank.watchCfgW.toNat
  | 0x01E00008 => some s.bank.thrW.toNat
  | 0x01E00010 => some (wWatchStatus s)
  | 0x01E00018 => some (packF [(0, s.bank.advSrc.toNat), (32, s.bank.advCount.toNat)])
  | 0x01E00020 => some (wBankStatus s)
  | 0x01E00028 => some (packF [(0, s.bank.bytes.toNat), (40, s.bank.shard.toNat)])
  | 0x01E00030 => some (wRestore s)
  | 0x02000000 => some (wPwrMode s.pwr.modes)
  | 0x02000008 => some s.pwr.capW.toNat
  | 0x02000010 => some s.pwr.frac.toNat
  | 0x02000018 => some (wTherm s)
  | 0x02000020 => some s.pwr.telem.toNat
  | 0x02000028 => some s.pwr.pll.toNat
  | 0x02000030 => some (packF [(0, s.pwr.stage.toNat), (32, s.pwr.ms.toNat)])
  | 0x02000038 => some (wAlert s)
  | 0x02000048 => some s.pwr.kindleW.toNat
  | 0x02200000 => some (wSecStatus s)
  | 0x02200008 => some s.fuses.serial.toNat
  | _ => none

/-- A function page register (R292). -/
def pageReg (s : State) (f off : Nat) : Nat :=
  match off with
  | 0 => (funcCfg s f).toNat
  | 8 => (SMap.get FuncPage.init s.hif.pages f).ctxBlock.toNat
  | 0x18 => wCtxStatus s f
  | _ => 0

/-- The codes of the private test instructions that have a data register in the debug window (R427, R447). -/
def privateCodes : List Nat := [0x10, 0x11, 0x12, 0x20, 0x21, 0x30]

/-- A word of the debug window: its code and word number (R447). -/
def debugWord (off : Nat) : Option (Nat × Nat) :=
  if 0x02410000 ≤ off ∧ off < 0x02600000 then
    let code := (off - 0x02410000) / 0x1000
    if privateCodes.contains code then some (code, off % 0x1000 / 8) else none
  else none

/-- The place of a register of the P domain: the offset in the area of position 0 and the position (R434). -/
def posnOffset (off : Nat) : Nat × Nat :=
  let inner := off % 0x200000
  ((off - inner) + 0x10000 + inner % 0x10000, inner / 0x10000 - 1)

/-- The 64-bit word of the 8-byte slot at a BAR0 offset as a master reads it; unlisted slots read 0 (R434 to R446). -/
def readSlot (s : State) (m : Master) (off : Nat) : ReadResult :=
  if 0x03FF0000 ≤ off ∧ off < 0x04000000 then .value (pageReg s 0 (off - 0x03FF0000))
  else
    match debugWord off with
    | some (code, w) => .value (if s.mgmt.debug then (SMap.get 0 s.test.window (code * 512 + w)).toNat else 0)
    | none =>
      match (selectors s m).bind (fun x => selectedReg s x off) with
      | some (some n, v) => readS s n v
      | some (none, v) => .value v
      | none =>
        if 0x10000 ≤ off % 0x200000 ∧ off % 0x200000 < 0x90000 then
          let p := posnOffset off
          match posnReg s p.2 p.1 with
          | some v => readP s p.2 v
          | none => .value 0
        else .value ((((hubRegA s off).or (hubRegB s off)).or (indexedReg s off)).getD 0)

/-- Whether the hub answers no register access: in chip reset, or without power (R16, R436). -/
def hubDown (s : State) : Bool := s.pwr.pkgReset || !s.pwr.pwrGood

/-- A register read of 32 or 64 bits, aligned to its size (R435); a VF reads its function page (R255). -/
def readRegister (s : State) (m : Master) (off : Nat) (wide : Bool) : ReadResult :=
  if hubDown s then .error
  else if off % (if wide then 8 else 4) ≠ 0 then .value 0
  else
    match m with
    | .vf f => .value (bitsOf (pageReg s f.val (off / 8 * 8)) 63 0 / (if off % 8 = 0 then 1 else 2 ^ 32) % (if wide then 2 ^ 64 else 2 ^ 32))
    | _ =>
      match readSlot s m (off / 8 * 8) with
      | .error => .error
      | .value v => .value (v / (if off % 8 = 0 then 1 else 2 ^ 32) % (if wide then 2 ^ 64 else 2 ^ 32))

end Sys2Proof.Machine
end

