-- ==== Sys2Proof/Machine/Copies.lean ====
section
/-! DEFINITION. The end of a snapshot or bank that is lost, and what part of an area lies
on a position (R176, R362). -/

namespace Sys2Proof.Machine

/-! ### Snapshots and banks that end (R176, R362, R369) -/

/-- BANK_LOST (R369). -/
def stBankLost : Nat := 0x37

/-- The snapshot of a context ends with SNAP_LOST (R176). -/
def snapLost (c : Ctx) (s : State) : State :=
  match (getCtx s c).snapshot with
  | none => s
  | some sn =>
    completeKey c sn.key stSnapLost (sn.step.toNat % 2 ^ 32) 0 (modCtx c (fun x => { x with snapshot := none }) s)

/-- The present bank ends with BANK_LOST: the target slot keeps no manifest (R362). -/
def bankLost (detail : Nat) (s : State) : State :=
  match s.bank.run with
  | none => s
  | some r =>
    let s := { s with bank := { s.bank with
      run := none, lastAuto := r.auto, lastSlot := r.slot, lost := BitVec.ofNat 4 detail } }
    let s := raise 0x0904 (hubUnit 2) { ctx := some r.ctx, arg0 := detail } s
    match r.key with
    | some k => completeKey r.ctx k stBankLost detail 0 s
    | none => s

/-- Whether an area has a byte on a position. -/
def areaOn (s : State) (n a len : Nat) : Bool :=
  (List.range ((len + 4095) / 4096)).any (fun i => decide (placePosn s (a + 4096 * i) = some n))

/-- The bytes of a bank entry's source: elements of two bytes with a scale exponent for each 1,024 for moments, else the
size (R147, R352). -/
def bankSourceBytes (e : BankEntry) : Nat := if e.kind = 2 then 2 * e.size + e.size / 1024 else e.size

/-- The shards that a plan banks, with their list index: duplicated state only with WRITER (R353). -/
def bankedEntries (p : BankPlan) : List (Nat × BankEntry) :=
  ((List.range p.entries.length).zip p.entries).filter (fun q => !q.2.dup || p.writer)

/-- Whether a bank reads a position. -/
def bankOn (s : State) (n : Nat) (r : BankRun) : Bool :=
  r.plan.entries.any (fun e => areaOn s n e.src (bankSourceBytes e))

/-- Whether a snapshot reads a position. -/
def snapOn (s : State) (n : Nat) (sn : Snapshot) : Bool := sn.entries.any (fun e => areaOn s n e.src e.bytes)

/-- Every snapshot that reads a position ends SNAP_LOST (R176, R326). -/
def snapsLostOn (n : Nat) (s : State) : State :=
  forAll ((s.hif.ctxs.filter (fun kv => kv.2.snapshot.any (snapOn s n))).map Prod.fst)
    (fun k => snapLost (BitVec.ofNat 12 k)) s

/-- A bank that reads a position ends BANK_LOST with a detail (R362). -/
def bankLostOn (n detail : Nat) (s : State) : State :=
  if s.bank.run.any (bankOn s n) then bankLost detail s else s

end Sys2Proof.Machine
end

