-- ==== Sys2Proof/Machine/Resets.lean ====
section
/-! DEFINITION. The capture record, engine and partition resets, and the watchdog (R323 to R333). -/

namespace Sys2Proof.Machine

/-! ### The capture record (R329 to R332) -/

/-- The lowest-numbered ENABLED compute position that a reset does not include (R330). -/
def capturePosn (s : State) (level posn : Nat) : Option Nat :=
  (List.range 8).find? (fun n => decide ((getPos s n).st = .enabled) && !(decide (level = 3) && decide (n = posn)))

/-- A free value for the k-th open field of a capture (R332: internal state, progress; log entry 34). -/
def openField (s : State) (k bits : Nat) : Nat := (Config.freeWord (s.free + k)).toNat % 2 ^ bits

/-- Section 1: every context. -/
def capContexts (s : State) : List Byte :=
  (List.range 4096).flatMap (fun i =>
    let x := SMap.get Context.init s.hif.ctxs i
    leBytes 8 (packF [(0, x.fetch), (16, x.tail), (32, x.release), (48, x.gen.toNat), (56, ctxStateCode x.st)])
      ++ leBytes 8 (x.outstanding % 2 ^ 48))

/-- Section 2: every sync object. -/
def capSync (s : State) : List Byte :=
  (List.range 65536).flatMap (fun o => leBytes 8 (packF [(0, (getSync s o).value.toNat), (32, flag (getSync s o).error)]))

/-- A held step's 64 bytes: the fields of R332 in the order named, eight bytes each (log entry 34). -/
def capHeld (h : Held) : List Byte :=
  leBytes 8 h.step.toNat ++ leBytes 8 h.attempt.toNat ++ leBytes 8 (heldStateCode h.st) ++ leBytes 8 (flag h.check)
    ++ leBytes 8 h.emberBase ++ leBytes 8 h.emberBytes ++ leBytes 16 0

/-- Section 3: the step engine's registers and its held steps, in 1,024 bytes. -/
def capStep (s : State) : List Byte :=
  let bs := ([wStepState s, s.step.next.toNat, s.step.number.toNat, s.step.cursor.toNat, wStepMirror s,
    wStepVstat s].flatMap (leBytes 8)) ++ leBytes 16 0 ++ s.step.held.flatMap capHeld
  (bs ++ List.replicate (1024 - bs.length) 0).take 1024

/-- The positions that are not ABSENT. -/
def presentPosns (s : State) : List Nat := (List.range 8).filter (fun n => decide ((getPos s n).st ≠ .absent))

/-- One engine's 64 bytes; internal state, fault, progress, current entry and the PTB of the last progress are the engine's own, each
open (log entry 34). -/
def capEngine (s : State) (k code posn inflight : Nat) (idle : Bool) : List Byte :=
  leBytes 4 (packF [(0, code), (8, posn), (16, if idle then 0 else openField s (5 * k) 8),
      (24, if idle then 0 else openField s (5 * k + 1) 8)])
    ++ leBytes 4 inflight ++ leBytes 8 (openField s (5 * k + 2) 64) ++ leBytes 8 (openField s (5 * k + 3) 64)
    ++ leBytes 8 (openField s (5 * k + 4) 64) ++ leBytes 32 0

/-- What an engine of a position has in flight: chunks of a transfer engine; of a commit engine at work and of an agent that copies a
number that is the engine's own (log entry 34); else 0. -/
def capInflight (s : State) (n e : Nat) : Nat :=
  let own := openField s (3300 + n * 2 + (e - 32)) 32
  let agent := s.hif.ctxs.any (fun kv => kv.2.snapshot.any (fun x => x.taken.isSome && snapOn s n x))
    || s.bank.run.any (fun r => decide (r.st = .banking) && bankOn s n r)
  if e < 32 then engineLoad s n e
  else if fitsGuest s.fuses.part n then 0
  else if e = 32 then (if commitRunning s then own else 0)
  else (if agent then own else 0)

/-- Operands that a hub reduction unit holds. -/
def unitOperands (s : State) (u : Nat) : Nat :=
  ((s.fab.reductions.filter (fun r => decide (r.redid.toNat % 8 = u))).map (fun r => r.operands.length)).sum

/-- Section 4: the engines of every position, and the reduction units. -/
def capEngines (s : State) : List Byte :=
  ((presentPosns s).flatMap (fun n =>
    let guest := fitsGuest s.fuses.part n
    (List.range 34).flatMap (fun e => capEngine s (n * 34 + e) e n (capInflight s n e) (guest && decide (32 ≤ e)))))
    ++ (List.range 8).flatMap (fun u => capEngine s (272 + u) (0x38 + u) 0 (unitOperands s u) false)

/-- Section 5: the HBM queues of every position. -/
def capQueues (s : State) : List Byte :=
  (presentPosns s).flatMap (fun n => (List.range 64).flatMap (fun q =>
    let k := 1400 + n * 192 + q * 3
    leBytes 8 (packF [(0, pcStateCode (getChan (getPos s n) q).st), (16, openField s k 16), (32, openField s (k + 1) 32)])
      ++ leBytes 8 (openField s (k + 2) 64)))

/-- Section 6: edges and ports. -/
def capLinks (s : State) : List Byte :=
  ((List.range 14).map (fun e => wEdgeStatus (getEdge s e)) ++ (List.range 24).map (fun p => wPortStatus (getPort s p))).flatMap
    (fun v => leBytes 8 v ++ leBytes 8 0)

/-- The code of a stream context's state. -/
def streamStateCode : StreamState → Nat
  | .free => 0
  | .ready => 1
  | .done => 2

/-- One stream context's 16 bytes. -/
def capStream (t : StreamCtx) : List Byte :=
  leBytes 16 (packF [(0, t.owner.toNat), (12, t.gen.toNat), (20, streamStateCode t.st), (24, t.acked % 2 ^ 40),
    (64, t.length % 2 ^ 40)])

/-- Section 7: the stream contexts of the target. -/
def capStreams (s : State) (level posn engine : Nat) : List Byte :=
  match level with
  | 2 =>
    if engine < 32 then (List.range 4096).flatMap (fun i => capStream (getStream s (streamKey posn (32 * i + engine)))) else []
  | 3 => (List.range 131072).flatMap (fun k => capStream (getStream s (streamKey posn k)))
  | _ => []

/-- Offsets and lengths of the sections, as header words. -/
def sectionWords : Nat → List (List Byte) → List Byte
  | _, [] => []
  | off, b :: t => leBytes 4 (if b.isEmpty then 0 else off) ++ leBytes 4 b.length ++ sectionWords (off + b.length) t

/-- The bytes of a capture record. When the capture ends at its lease, COMPLETE is 0 and the fields that the target itself
would give read 0 (R330; log entry 34). -/
def captureBytes (s : State) (r : PendingReset) (complete : Bool) : List Byte :=
  let secs := [capContexts s, capSync s, capStep s, capEngines s, capQueues s, capLinks s,
    capStreams s r.level r.posn r.engine]
  let secs := if complete then secs else (secs.take 3 ++ (secs.drop 3).map (fun b => List.replicate b.length 0))
  let chip := decide (r.level = 4)
  let step := match s.step.held.head? with
    | some h => h.step.toNat
    | none => 0
  let head (crc : Nat) (done : Nat) := leBytes 4 (packF [(0, 1), (16, r.level), (24, r.cause)])
    ++ leBytes 4 (packF [(0, if chip || decide (0x38 ≤ r.engine) then 0 else r.posn), (8, if r.level = 2 then r.engine else 0)])
    ++ leBytes 4 (s.ras.capCount.toNat + 1) ++ leBytes 4 0 ++ leBytes 8 s.mgmt.ptb.toNat ++ leBytes 8 step
    ++ sectionWords 256 secs ++ List.replicate (0x60 - 0x20 - 56) 0 ++ leBytes 8 crc ++ leBytes 1 done
    ++ List.replicate (256 - 0x69) 0
  let body := secs.flatten
  head (crc64 (head 0 (flag complete) ++ body)).toNat (flag complete) ++ body

/-- Writes the capture record of a reset, if there is a position for it (R330). -/
def writeCapture (r : PendingReset) (complete : Bool) (s : State) : State :=
  match capturePosn s r.level r.posn with
  | none => s
  | some n =>
    let bs := captureBytes s r complete
    let s := memWrite (captureBase n) bs s
    { s with
      free := s.free + 4096
      ras := { s.ras with
        capCount := s.ras.capCount + 1, capSeq := s.ras.capCount + 1, capLevel := BitVec.ofNat 3 r.level, capPosn := BitVec.ofNat 3 n
        capComplete := complete, capValid := true } }

/-! ### Engine resets (R326) -/

/-- The cause codes of R331: watchdog. -/
def capWatchdog : Nat := 1
/-- Uncorrected engine-state error. -/
def capStateError : Nat := 2
/-- Quarantine not settled. -/
def capQuarantine : Nat := 3
/-- Firmware request. -/
def capFirmware : Nat := 4
/-- PF0 request. -/
def capPf0 : Nat := 5
/-- PKG_RESET_N. -/
def capPkgReset : Nat := 6
/-- Withdrawn list full. -/
def capWithdrawn : Nat := 7
/-- Edge below 4 modules. -/
def capEdge : Nat := 8

/-- Whether a step number belongs to a held step that has not resolved. -/
def stepLive (s : State) (n : Option (BitVec 64)) : Bool :=
  match n with
  | none => false
  | some k => s.step.held.any (fun h => h.step == k && unresolved h)

/-- A stream of an engine that is reset: an EMBER stream of a held step resumes from its first unacknowledged chunk, every
other ends with DOMAIN_RESET (R326). -/
def resetStream (k : Nat) (s : State) : State :=
  let t := getStream s k
  if t.ember.isSome && stepLive s t.ember then
    let s := modCtx t.owner (fun x => { x with outstanding := x.outstanding - t.inflight.length }) s
    modStream k (fun t => { t with st := .ready, issued := t.acked, inflight := [] }) s
  else endStream k stDomainReset (t.acked / 64) s

/-- The stream contexts of an engine that are not FREE. -/
def engineStreams (s : State) (posn engine : Nat) : List Nat :=
  (s.streams.filter (fun kv => decide (kv.1 / 131072 = posn) && decide (kv.1 % 32 = engine) && decide (kv.2.st ≠ .free))).map
    Prod.fst

/-- Resets a transfer engine (R326). -/
def resetTransfer (posn engine : Nat) (s : State) : State :=
  let ks := engineStreams s posn engine
  let work := ks.any (fun k => stepLive s (getStream s k).step)
  let s := modPos posn (fun p => { p with
    turnPtr := SMap.set 0 p.turnPtr engine 0
    engReset := if p.engReset.contains engine then p.engReset else p.engReset ++ [engine] }) s
  let s := forAll ks resetStream s
  if work then clearCheck s else s

/-- Resets the snapshot and banking agent of a position (R326, R362). -/
def resetAgent (posn : Nat) (s : State) : State :=
  bankLostOn posn 2 (snapsLostOn posn (modPos posn (fun p => { p with
    engReset := if p.engReset.contains 0x21 then p.engReset else p.engReset ++ [0x21] }) s))

/-- The reductions that a reduction unit works on: those whose REDID is the unit's number modulo 8 (log entry 35). -/
def unitHolds (s : State) (u : Nat) : Bool :=
  s.fab.reductions.any (fun r => decide (r.redid.toNat % 8 = u) && !r.operands.isEmpty)

/-- Resets a hub reduction unit (R326). -/
def resetUnit (u : Nat) (s : State) : State :=
  let held := unitHolds s u
  let s := modFab (fun f => { f with reductions := f.reductions.map (fun r =>
    if r.redid.toNat % 8 = u then { r with operands := [] } else r) }) s
  let s := { s with ras := { s.ras with
    hubReset := if s.ras.hubReset.contains (0x38 + u) then s.ras.hubReset else s.ras.hubReset ++ [0x38 + u] } }
  if held then clearCheck s else s

/-! ### Partition resets (R209, R327) -/

/-- The positions at the ends of an edge (R18). -/
def edgeEnds (e : Nat) : List Nat :=
  if e < 8 then [e]
  else
    match e with
    | 8 => [0, 2]
    | 9 => [2, 4]
    | 10 => [4, 6]
    | 11 => [1, 3]
    | 12 => [3, 5]
    | _ => [5, 7]

/-- The authoritative end of an edge, which is the near side in this model: the hub (none) for edges 0 to 7, else the lower-numbered
position (R207). -/
def edgeNear (e : Nat) : Option Nat := if e < 8 then none else (edgeEnds e).head?

/-- An edge returns to RESET. An end that is reset drops the packets it holds; the near end, where it is not reset, holds its traffic
and sends it again once the edge is ACTIVE (R209). Numbers start anew on every module. -/
def resetEdge (again nearReset : Bool) (now : BitVec 64) (x : Edge) : Edge :=
  if x.st = .disabled then x
  else { x with
    st := .reset, width := 0, mask := 0, passing := 0xFFFF, holding := true, linkFailed := false, fromRetrain := false, quarantined := false
    lastTry := again && decide (x.st = .failed), idleOnly := false, enteredAt := now, modules := [], sendTurn := 0, joinTurn := 0, joining := []
    expected := 0, packets := if nearReset then [] else x.packets
    pieces := if nearReset then [] else x.packets.flatMap (fun p => piecesOf p.1 p.2) }

/-- The edges of a position return to RESET. -/
def resetEdges (n : Nat) (s : State) : State :=
  forAll ((List.range 14).filter (fun e => (edgeEnds e).contains n))
    (fun e => modEdge e (resetEdge true (decide (edgeNear e = some n)) s.mgmt.ptb)) s

/-- A position's remap table, withdrawn list and marks as firmware reloads them from the flash (R185, R327). -/
def reloadRemap (m : Mgmt) (n : Nat) (p : Pos) : Pos :=
  { p with
    remap := (m.remapFlash.filter (fun kv => decide (kv.1 / remapEntries = n))).map (fun kv => (kv.1 % remapEntries, kv.2))
    withdrawn := SMap.get [] m.withdrawnFlash n
    pchan := (List.range 64).foldl (fun t q =>
      SMap.upd PChan.init t q (fun c => { c with
        st := SMap.get .normal m.pcFlash (n * 64 + q), dead := false, wfrom := SMap.get none m.wfromFlash (n * 64 + q) })) p.pchan }

/-- What a partition reset leaves of a position's registers and tables (R67, R84, R89, R141 to R153, R327, R441). -/
def resetPos (m : Mgmt) (n : Nat) (p : Pos) : Pos :=
  reloadRemap m n { Pos.init with
    st := .inReset, slotCfg := p.slotCfg, slotCfgW := p.slotCfgW, ringBase := p.ringBase, ringBaseW := p.ringBaseW
    ringCtrl := p.ringCtrl, ringCtrlW := p.ringCtrlW, pchan := p.pchan }

/-- Streams of a position's own stream contexts, ended by the reset of their domain (R196, R327). -/
def endStreamsOf (n : Nat) (s : State) : State :=
  forAll ((s.streams.filter (fun kv => decide (kv.1 / 131072 = n) && decide (kv.2.st ≠ .free))).map Prod.fst)
    (fun k s => endStream k stDomainReset ((getStream s k).acked / 64) s) s

/-- The rank, or the step alone, that a position loss costs: ABORT with cause LOSS (R323, R333). A package without a rank
aborts the step of the context that holds the position (log entry 36). -/
def loseStepOf (n : Nat) (s : State) : State :=
  if s.fab.parts.any (fun kv => kv.2.valid && kv.2.ranked) then loseRanks s
  else
    match stepHolder s with
    | some c => if (getCtx s c).posns.getLsbD n then chargeCause causeLoss s else s
    | none => s

/-- Resets a position (R220, R327): the loss of a guest position aborts nothing. -/
def resetPosition (n : Nat) (s : State) : State :=
  let guest := fitsGuest s.fuses.part n
  let s := if guest then s else loseStepOf n s
  let s := bankLostOn n 3 (snapsLostOn n s)
  let s := endStreamsOf n s
  let s := modPos n (resetPos s.mgmt n) s
  let s := { s with
    cells := s.cells.filter (fun kv => decide (cellPosn kv.1 ≠ n))
    sorg := s.sorg.filter (fun g => decide (cellPosn g.1 ≠ n))
    streams := s.streams.filter (fun kv => decide (kv.1 / 131072 ≠ n))
    fuses := { s.fuses with macMap :=
      (s.fuses.macMap.filter (fun kv => decide (cellPosn kv.1 < n)))
        ++ (s.fuses.macMapFused.filter (fun kv => decide (cellPosn kv.1 = n)))
        ++ (s.fuses.macMap.filter (fun kv => decide (n < cellPosn kv.1))) } }
  resetEdges n (memZero (stageBase n) (stageBase n + 0x8000000) s)

/-- A reset at engine level or a partition reset takes place, with its event (R325). -/
def doReset (r : PendingReset) (s : State) : State :=
  if r.level = 2 then
    let s := raise 0x0801 (hubUnit 5)
      { posn := if 0x38 ≤ r.engine then none else some r.posn, arg0 := s.ras.capSeq.toNat } s
    if r.engine < 32 then resetTransfer r.posn r.engine s
    else if r.engine = 0x21 then resetAgent r.posn s
    else resetUnit (r.engine - 0x38) s
  else
    let s := raise 0x0802 (hubUnit 5) { posn := some r.posn, arg0 := s.ras.capSeq.toNat } s
    let s := resetPosition r.posn s
    if r.cause = capWithdrawn then modPos r.posn (fun p => { p with st := .outOfService }) s else s

/-- A request that names an engine the part has (R326); the commit engine resets its position. -/
def engineRequest (posn engine cause : Nat) : Option PendingReset :=
  if engine < 32 ∨ engine = 0x21 then some { level := 2, posn := posn, engine := engine, cause := cause }
  else if engine = 0x20 then some { level := 3, posn := posn, engine := 0, cause := cause }
  else if 0x38 ≤ engine ∧ engine < 0x40 then some { level := 2, posn := posn, engine := engine, cause := cause }
  else none

/-- Whether a target is in reset already at this level or higher, or cannot be reset (R325). -/
def resetIgnored (s : State) (r : PendingReset) : Bool :=
  let p := getPos s r.posn
  let same := s.ras.pending.any (fun q =>
    (decide (q.level = 3) && decide (q.posn = r.posn) && decide (r.engine < 0x38)) ||
      (decide (q.level = r.level) && decide (q.posn = r.posn) && decide (q.engine = r.engine)))
  same || (if 0x38 ≤ r.engine ∧ r.level = 2 then s.ras.hubReset.contains r.engine
    else decide (p.st ≠ .enabled) && decide (p.st ≠ .guest) || (decide (r.level = 2) && p.engReset.contains r.engine))

/-- Starts a reset: the capture first, and the reset when the capture is done or its lease has ended (R325, R330). -/
def startReset (r : PendingReset) (captured : Bool) (s : State) : State :=
  if resetIgnored s r then s
  else if captured then doReset r (writeCapture r true s)
  else { s with ras := { s.ras with pending := s.ras.pending ++ [r] } }

/-- Starts a partition reset of a position with a cause; the capture is within its lease. -/
def partitionReset (n cause : Nat) (s : State) : State :=
  startReset { level := 3, posn := n, engine := 0, cause := cause } true s

/-- Writes RAS_RESET without GO, which reads 0. -/
def setRasReset (v : BitVec 32) (s : State) : State :=
  { s with ras := { s.ras with reset := setFld (setFld (setFld (setFld (setFld v 31 31 0) 30 14 0) 7 7 0) 3 2 0) 31 31 0 } }

/-- Whether a master may write RAS_RESET: firmware or PF0 (R347). -/
def rasMaster : Master → Option Nat
  | .pf0h0 => some capPf0
  | .pf0h1 => some capPf0
  | .core _ => some capFirmware
  | _ => none

/-- A RAS_RESET write of a level (R325, R347). -/
def rasWrite (m : Master) (v : BitVec 32) (level : Nat) (f : Nat → State → State) (s : State) : State :=
  match rasMaster m with
  | none => s
  | some cause => if fld v 1 0 = level ∧ bit v 31 then f cause (setRasReset v s) else s

/-- RAS_RESET_ENGINE (R325, R326). -/
def execRasResetEngine (m : Master) (v : BitVec 32) (captured : Bool) (s : State) : Out :=
  .next (rasWrite m v 1 (fun cause s =>
    match engineRequest (fld v 6 4) (fld v 13 8) cause with
    | none => s
    | some r => startReset r captured s) s)

/-- RAS_RESET_PARTITION (R325, R327). -/
def execRasResetPartition (m : Master) (v : BitVec 32) (captured : Bool) (s : State) : Out :=
  .next (rasWrite m v 2 (fun cause s =>
    startReset { level := 3, posn := fld v 6 4, engine := 0, cause := cause } captured s) s)

/-- CHIP_REQ is set: the tray controller decides (R328). -/
def requestChip (s : State) : State := alertSets s { s with ras := { s.ras with chipReq := true } }

/-- RAS_RESET_CHIP_REQUEST: CHIP_REQ is set, and ALERT_N with it through its mask (R328). -/
def execRasResetChipRequest (m : Master) (v : BitVec 32) (s : State) : Out :=
  .next (rasWrite m v 3 (fun _ s => requestChip s) s)

/-- ENGINE_WATCHDOG: an engine stays in one state past ENGINE_US, or its own state has an uncorrected error (R325). -/
def execEngineWatchdog (posn : Posn) (engine : BitVec 6) (stateError captured : Bool) (s : State) : Out :=
  if !stateError && decide (fld s.ras.wdog 15 0 = 0) then .next s
  else
    match engineRequest posn.val engine.toNat (if stateError then capStateError else capWatchdog) with
    | none => .next s
    | some r => .next (startReset r captured s)

/-- CAPTURE_LEASE_EXPIRY: the oldest capture under way ends without COMPLETE, and its reset proceeds (R330). -/
def execCaptureLeaseExpiry (s : State) : Out :=
  match s.ras.pending with
  | [] => .next s
  | r :: t => .next (doReset r (writeCapture r false { s with ras := { s.ras with pending := t } }))

/-- An edge in RESET starts its sideband once every position at its ends is ENABLED or GUEST (R209). -/
def startEdge (e : Nat) (s : State) : State :=
  if (edgeEnds e).all (fun n => decide ((getPos s n).st = .enabled) || decide ((getPos s n).st = .guest)) then
    modEdge e (fun x => if x.st = .reset then { x with st := .sbinit, enteredAt := s.mgmt.ptb } else x) s
  else s

/-- The PLLs of a position are locked: CLK_ARITH of a compute die, CLK_NOC and HBM (R408, R417). -/
def lockPlls (n : Nat) (s : State) : State :=
  let a := if fitsCompute s.fuses.part n then 2 ^ n else 0
  { s with pwr := { s.pwr with pll := s.pwr.pll ||| BitVec.ofNat 32 (a + 2 ^ (8 + n) + 2 ^ (16 + n)) } }

/-- PARTITION_RESET_DONE: the position reads ENABLED, or GUEST, again; its edges train (R209, R214, R327). -/
def execPartitionResetDone (posn : Posn) (s : State) : Out :=
  let n := posn.val
  if (getPos s n).st = .inReset then
    let st := if fitsGuest s.fuses.part n then PosState.guest else PosState.enabled
    let s := lockPlls n (modPos n (fun p => { p with st := st, errata := true }) s)
    .next (forAll ((List.range 14).filter (fun e => (edgeEnds e).contains n)) startEdge s)
  else .next s

/-- PARTITION_RESET_TIMEOUT: a position not ENABLED within 800 ms reads OUT_OF_SERVICE (R327). -/
def execPartitionResetTimeout (posn : Posn) (s : State) : Out :=
  if (getPos s posn.val).st = .inReset then .next (modPos posn.val (fun p => { p with st := .outOfService }) s) else .next s

/-- ENGINE_RESET_DONE: the engine is back in service (R326). -/
def execEngineResetDone (posn : Posn) (engine : BitVec 6) (s : State) : Out :=
  let e := engine.toNat
  .next (if 0x38 ≤ e then { s with ras := { s.ras with hubReset := s.ras.hubReset.filter (fun k => decide (k ≠ e)) } }
    else modPos posn.val (fun p => { p with engReset := p.engReset.filter (fun k => decide (k ≠ e)) }) s)

/-- ENGINE_RESET_TIMEOUT: an engine not back within 1 ms takes its position, or for a hub engine the chip, with it (R324). -/
def execEngineResetTimeout (posn : Posn) (engine : BitVec 6) (s : State) : Out :=
  let e := engine.toNat
  if 0x38 ≤ e then
    if s.ras.hubReset.contains e then .next (requestChip s) else .next s
  else if (getPos s posn.val).engReset.contains e then .next (partitionReset posn.val capWatchdog s) else .next s

/-- The reset target of a transfer engine, an agent or a reduction unit. -/
def engineTarget (posn engine : Nat) : PendingReset := { level := 2, posn := posn, engine := engine, cause := capWatchdog }

/-- Whether the agent of a position works for a context: its snapshot, or its bank, reads the position after its boundary. -/
def agentWorks (s : State) (c : Ctx) (n : Nat) : Bool :=
  (getCtx s c).snapshot.any (fun x => x.taken.isSome && snapOn s n x)
    || s.bank.run.any (fun r => r.ctx == c && decide (r.st = .banking) && bankOn s n r)

/-- The engines that still issue work of a context: transfer engines with READY streams of its own, agents that copy for it, and
reduction units with its reductions (R324). -/
def issuingEngines (s : State) (c : Ctx) : List PendingReset :=
  ((s.streams.filter (fun kv => kv.2.owner == c && decide (kv.2.st = .ready))).map
      (fun kv => engineTarget (kv.1 / 131072) (kv.1 % 32))).eraseDups
    ++ ((List.range 8).filter (agentWorks s c)).map (fun n => engineTarget n 0x21)
    ++ ((List.range 8).filter (fun u => s.fab.reductions.any (fun r => r.ctx == c && !r.done && decide (r.redid.toNat % 8 = u)))).map
      (fun u => engineTarget 0 (0x38 + u))

/-- CONTEXT_RESET_TIMEOUT: the 100 µs of a context reset pass, and each engine that still issues its work is reset (R324). -/
def execContextResetTimeout (ctx : Ctx) (s : State) : Out :=
  if (getCtx s ctx).st = .draining then .next (forAll (issuingEngines s ctx) (fun r => startReset r true) s) else .next s

end Sys2Proof.Machine
end

