-- ==== Sys2Proof/Machine/Remap.lean ====
section
/-! DEFINITION. What firmware does with stripes: the remap of one stripe, the end of a retrain, and the map-out of a pseudo-channel
(R186 to R190). -/

namespace Sys2Proof.Machine

/-- Appends a stripe to the withdrawn list, where it is not withdrawn yet; when the list is full the position is lost, and leaves
service through a partition reset (R186, R323, R331). -/
def withdraw (n l : Nat) (s : State) : State :=
  if withdrawn (getPos s n) l then s
  else if (getPos s n).withdrawn.length < 256 then
    shrink n l (modPos n (fun p => { p with withdrawn := p.withdrawn ++ [l] }) s)
  else partitionReset n capWithdrawn s

/-- A stripe's failure and its corrected bursts are dealt with. -/
def clearStripe (n l : Nat) (s : State) : State :=
  modPos n (fun p => { p with
    failedStripes := p.failedStripes.filter (fun k => k ≠ l), stripeCe := SMap.set 0 p.stripeCe l 0 }) s

/-- A stripe leaves its slot: an entry that held it is BAD, whether or not another one is FREE (R185, R186). -/
def leaveEntry (n l : Nat) (s : State) : State :=
  match remapOf (getPos s n) l with
  | some o => modPos n (fun p => { p with remap := SMap.set Remap.init p.remap o { st := .bad, home := 0 } }) s
  | none => s

/-- A reserve slot that failed and that holds no stripe is BAD (R185; log entry 119). -/
def retireReserve (n r : Nat) (s : State) : State :=
  let s := clearStripe n (stripesPerPosn + r) s
  if (SMap.get Remap.init (getPos s n).remap r).st = .free then
    saveRemap n (modPos n (fun p => { p with remap := SMap.set Remap.init p.remap r { st := .bad, home := 0 } }) s)
  else s

/-- The lowest FREE entry takes a stripe, which is restored where its content has failed; without one the stripe is withdrawn
(R186, R190). -/
def mapStripe (n l : Nat) (bad : Bool) (pulled : Option (List (Nat × Byte))) (src : BitVec 12) (s : State) : State :=
  match lowestFree (getPos s n) with
  | none => saveRemap n (withdraw n l s)
  | some r =>
    let s := modPos n (fun p => { p with
      remap := SMap.set Remap.init p.remap r { st := .mapped, home := BitVec.ofNat 24 l } }) s
    let s := if bad then restoreStripe n l pulled s else s
    saveRemap n (raise 0x0302 src { posn := some n, arg0 := r, arg1 := l } s)

/-- STRIPE_REMAP: firmware maps a stripe that held a failed burst, or gathered REMAP_CE corrected ones, to the lowest FREE entry; a
number past the logical stripes names a reserve stripe, as in the UE history. Stages 1 to 5 of R186 are one step here, so no access
comes while the stripe is held (log entry 130). A stripe of persistent state waits while a commit of it runs (R190). -/
def execStripeRemap (posn : Posn) (stripe : BitVec 24) (why : RemapCause) (s : State) : Out :=
  let n := posn.val
  let l := stripe.toNat
  let p := getPos s n
  let lim := fld s.memRegs.rasCfg 23 16
  let bad := why.failed || p.failedStripes.contains l
  if !(bad || (decide (lim ≠ 0) && decide (lim ≤ SMap.get 0 p.stripeCe l))) then .next s
  else if stripesPerPosn ≤ l then
    if l < stripesPerPosn + remapEntries then .next (retireReserve n (l - stripesPerPosn) s) else .next s
  else if withdrawn p l then .next (clearStripe n l s)
  else if bad && commitRunning s && (stripeDpa s n l).any (fun a => mirroredArea s a 4096) then .next s
  else
    let src := posUnit n (0x40 + chanOf p l)
    .next (mapStripe n l bad why.pulled src (leaveEntry n l (clearStripe n l s)))

/-! ### The end of a retrain (R187) -/

/-- RETRAIN_COMPLETE: both pseudo-channels pass; their saved bursts are written back, and the held accesses are released in arrival
order (R187). One that the retrain has left LIMP stays held. -/
def execRetrainComplete (posn : Posn) (ch : Fin 32) (s : State) : Out :=
  let n := posn.val
  let qs := [2 * ch.val, 2 * ch.val + 1].filter (fun q => decide ((getChan (getPos s n) q).st = .retrain))
  if qs.isEmpty then .next s
  else .next (releaseChannel n ch.val (forAll qs (fun q s => modChan n q (fun c => { c with st := .normal }) (writeBack n q s)) s))

/-! ### Map-out (R188, R189) -/

/-- The FREE entries of a position in increasing order. -/
def freeEntries (p : Pos) : List Nat :=
  (List.range remapEntries).filter (fun r => decide ((SMap.get Remap.init p.remap r).st = .free))

/-- The stripes that the reserve slots of a pseudo-channel hold. -/
def heldStripes (p : Pos) (q : Nat) : List Nat :=
  (List.range 3072).filterMap (fun i =>
    let e := SMap.get Remap.init p.remap (3072 * q + i)
    if e.st = .mapped then some e.home.toNat else none)

/-- Every reserve entry of a pseudo-channel is BAD. -/
def badEntries (q : Nat) (p : Pos) : Pos :=
  { p with remap := (List.range 3072).foldl (fun m i => SMap.set Remap.init m (3072 * q + i) { st := .bad, home := 0 }) p.remap }

/-- Stripes move into the FREE entries, lowest first, while there are any; those left over come back. -/
def moveStripes (l : List Nat) (p : Pos) : Pos × List Nat :=
  let free := freeEntries p
  ({ p with remap := (l.zip free).foldl (fun m lr =>
      SMap.set Remap.init m lr.2 { st := .mapped, home := BitVec.ofNat 24 lr.1 }) p.remap }, l.drop free.length)

/-- The home slots of a pseudo-channel whose stripes lie there, in increasing order (R188 stage 2). -/
def stripesToMove (p : Pos) (q : Nat) : List Nat :=
  ((List.range homeSlots).map (homeStripe q)).filter (fun l => (remapOf p l).isNone && !(withdrawn p l))

/-- A pseudo-channel that failed at 9.6 Gb/s is LIMP, and one that fails at 4.8 Gb/s too reads every burst as failed; the step
aborts (R188). -/
def limpChan (n q : Nat) (dead : Bool) (s : State) : State :=
  let s := modChan n q (fun c => { c with st := .limp, dead := dead }) s
  clearCheck (raise 0x0304 (posUnit n (0x40 + q)) { posn := some n } s)

/-- Stage 1: state MAPOUT, and every reserve entry here is BAD; the stripes that these held move to FREE entries, and those that
find none are withdrawn (R188; log entry 131). -/
def mapoutStart (n q : Nat) (pulled : Option (List (Nat × Byte))) (s : State) : State :=
  let held := heldStripes (getPos s n) q
  let dead := (getChan (getPos s n) q).dead
  let bad := if dead then held else held.filter (fun l => (getPos s n).failedStripes.contains l)
  let r := moveStripes held (badEntries q (getPos s n))
  let s := modChan n q (fun c => { c with st := .mapout }) (modPos n (fun _ => r.1) s)
  let s := forAll bad (fun l s => clearStripe n l (restoreStripe n l pulled s)) s
  saveRemap n (forAll r.2 (withdraw n) s)

/-- The stripes that stage 4 restores: those with a failed burst, every one of a pseudo-channel that reads nothing, and the withdrawn
ones where a copy exists (R188, R190). -/
def stripesToRestore (s : State) (n : Nat) (moved gone : List Nat) (dead : Bool) : List Nat :=
  let failed := fun (l : Nat) => dead || (getPos s n).failedStripes.contains l
  moved.filter failed ++ gone.filter (fun l => (stripeDpa s n l).any (fun a => mirroredArea s a 4096))

/-- Stages 2 to 5: the stripes of the home slots move; from the first one that finds no FREE entry on they are withdrawn; content is
restored, and what waited is released (R188, R189). -/
def mapoutFinish (n q : Nat) (pulled : Option (List (Nat × Byte))) (s : State) : State :=
  let dead := (getChan (getPos s n) q).dead
  let move := stripesToMove (getPos s n) q
  let r := moveStripes move (getPos s n)
  let restore := stripesToRestore s n (move.take (move.length - r.2.length)) r.2 dead
  let wfrom := (r.2.map (fun l => (homeOf l).2)).head?
  let s := modChan n q (fun c => { c with st := if wfrom.isSome then .partly else .mapped, wfrom := wfrom }) (modPos n (fun _ => r.1) s)
  let s := forAll (move.filter (fun l => (getPos s n).failedStripes.contains l)) (clearStripe n) s
  let s := forAll restore (fun l => restoreStripe n l pulled) s
  let s := modPos n (fun p => { p with saveBuf := SMap.set [] p.saveBuf q [] }) s
  let s := raise 0x0305 (posUnit n (0x40 + q)) { posn := some n } s
  let s := match r.2.head? with
    | some l => shrink n l s
    | none => s
  releaseChannel n (q / 2) (saveRemap n s)

/-- Whether the other pseudo-channel of the channel is mapped out first: PC0 before PC1 (R188). -/
def pcWaits (s : State) (n q : Nat) : Bool :=
  decide (q % 2 = 1) && (match (getChan (getPos s n) (q - 1)).st with
    | .limp => true
    | .mapout => true
    | _ => false)

/-- MAPOUT, which comes three times for a pseudo-channel that failed its retrain: it goes LIMP, then stage 1, then stages 2 to 5 of the
map-out. The stages wait while a commit of persistent state runs (R188 to R190; log entry 131). -/
def execMapout (posn : Posn) (m : MapoutInput) (s : State) : Out :=
  let n := posn.val
  let q := m.pc.val
  match (getChan (getPos s n) q).st with
  | .retrain => .next (limpChan n q m.dead s)
  | .limp => if pcWaits s n q || commitRunning s then .next s else .next (mapoutStart n q m.pulled s)
  | .mapout => if commitRunning s then .next s else .next (mapoutFinish n q m.pulled s)
  | _ => .next s

end Sys2Proof.Machine
end

