-- ==== Sys2Proof/Machine/Stats.lean ====
section
/-! DEFINITION. The base controller's statistics: merging partials, records and their ring, what the resolution of a vote
closes, and the underflow watch (R137 to R144, R153, R164, R168). -/

namespace Sys2Proof.Machine

/-- The event source of a position's base controller (R391). -/
def baseUnit (n : Nat) : BitVec 12 := posUnit n 0x22

/-- Records in a statistics ring: 2^LOG2SIZE, and codes outside 6 to 16 act as 6 (R144). -/
def statRingSize (p : Pos) : Nat :=
  let l := fld p.ringCtrl 4 0
  2 ^ (if 6 ≤ l ∧ l ≤ 16 then l else 6)

/-- The DPA of the record at HEAD. -/
def statHeadDpa (p : Pos) : Nat := p.ringBase.toNat + 128 * p.ringHead.toNat

/-- A record of a position that is not written: DROPPED counts it (R143), and wraps at 32 bits (DESIGN CHOICE, log entry
111). -/
def dropRecord (n : Nat) (s : State) : State := modPos n (fun p => { p with ringDropped := p.ringDropped + 1 }) s

/-- STAT_RING_FULL, once per step and position (R143). -/
def raiseRingFull (n : Nat) (step : BitVec 64) (s : State) : State :=
  if (getPos s n).ringFullSteps.contains step then s
  else
    raise 0x0201 (baseUnit n) { ctx := holderOf s n, posn := some n }
      (modPos n (fun p => { p with ringFullSteps := step :: p.ringFullSteps }) s)

/-- Writes a record at a DPA, unless the write ends in an error response: no range holds it, its stripe is withdrawn, its domain is
in reset or out of service, or the firewall of a guest denies it (R143; log entry 120). -/
def writeRecord (n a : Nat) (bs : List Byte) (s : State) : Bool × State :=
  if (dpaStop s a).isSome || (dpaStop s (a + 127)).isSome then (false, s)
  else
    match guestOf s a with
    | none => (true, memWrite a bs s)
    | some g =>
      let r := gfwRange g true (0x48 + n) ((holderOf s n).getD 0) (unitsOf a 128) s
      if r.1.isEmpty then (true, memWrite a bs r.2) else (false, r.2)

/-- A closed record goes to the ring of its position, if the ring is enabled (R143). -/
def ringRecord (n : Nat) (step : BitVec 64) (bs : List Byte) (s : State) : State :=
  let p := getPos s n
  let size := statRingSize p
  if !(bit p.ringCtrl 8) then s
  else if (p.ringHead.toNat + 1) % size = p.ringTail.toNat then raiseRingFull n step (dropRecord n s)
  else
    let w := writeRecord n (statHeadDpa p) bs s
    if w.1 then modPos n (fun p => { p with ringHead := BitVec.ofNat 16 ((p.ringHead.toNat + 1) % size) }) w.2
    else dropRecord n w.2

/-- The variant of a slot in the step that a record names (R164). -/
def recordVariant (s : State) (step : BitVec 64) (slot : Nat) : Option Nat :=
  (heldStep s step).bind (fun h => slotVariant h slot)

/-- Closes a record of a slot: the underflow watch sees it, and it goes to the ring (R139 to R143). -/
def closeRecord (n slot : Nat) (step : BitVec 64) (attempt : BitVec 4) (auto : Bool) (p : Partial) (s : State) : State :=
  let tag : RecordTag :=
    { step := step, attempt := attempt, slot := slot, variant := recordVariant s step slot
      posn := BitVec.toFin (BitVec.ofNat 3 n), auto := auto, cfg := SMap.get slotCfgInit (getPos s n).slotCfg slot
      ptb := s.mgmt.ptb }
  let rec1 : ClosedRec := { slot := slot, step := step, attempt := attempt, zeros := p.zeros, elements := p.elements }
  let s := modPos n (fun q => { q with closed := q.closed ++ [rec1] }) s
  ringRecord n step (recordBytes tag p) s

/-- One partial arrives at a base controller (R137, R139, R405). -/
def mergeArrived (n : Nat) (m : PartialMsg) (s : State) : State :=
  let cfg := SMap.get slotCfgInit (getPos s n).slotCfg m.slot
  if !(slotEn cfg) || !s.pwr.modes.stats then s
  else
    let old := SMap.get Merged.init (getPos s n).merged m.slot
    let p := mergePartials old.p m.p
    if slotCells cfg ≤ old.count + 1 then
      closeRecord n m.slot m.step m.attempt false p
        (modPos n (fun q => { q with merged := SMap.set Merged.init q.merged m.slot Merged.init }) s)
    else modPos n (fun q => { q with merged := SMap.set Merged.init q.merged m.slot { count := old.count + 1, p := p } }) s

/-- The oldest partial on its way arrives. -/
def takePartial (n : Nat) (s : State) : State :=
  match (getPos s n).partialQ with
  | [] => s
  | m :: rest => mergeArrived n m (modPos n (fun q => { q with partialQ := rest }) s)

/-- STAT_PARTIAL_ARRIVE (R139). -/
def execStatPartialArrive (posn : Posn) (s : State) : Out := .next (takePartial posn.val s)

/-- The BAR0 offset of STAT_RING_TAIL[n] (R434, R445). -/
def statTailOffset (n : Nat) : Nat := 0x01A10018 + n * 0x10000

/-- STAT_RING_TAIL_WRITE (R143, R462). -/
def writeStatTail (n : Nat) (v : BitVec 32) (s : State) : State :=
  let p := getPos s n
  let size := statRingSize p
  let t := fld v 15 0
  if decide (t < size)
      && decide ((t + size - p.ringTail.toNat) % size ≤ (p.ringHead.toNat + size - p.ringTail.toNat) % size) then
    modPos n (fun p => { p with ringTail := BitVec.ofNat 16 t }) s
  else raise 0x0602 (baseUnit n) { ctx := holderOf s n, posn := some n, arg0 := statTailOffset n % 4096 + 65536 * t } s

/-- STAT_RING_TAIL_WRITE: frees records unless the value passes HEAD (R143); a position that is not ENABLED takes no write
(R436). -/
def execStatRingTailWrite (posn : Posn) (v : BitVec 32) (s : State) : Out :=
  if (getPos s posn.val).st = .enabled then .next (writeStatTail posn.val v s) else .next s

/-! ### The resolution of a vote (R140) -/

/-- The slots of a position that hold a merged partial or a cell partial that is not empty. -/
def openSlots (s : State) (n : Nat) : List Nat :=
  let cells := (s.cells.filter (fun kv => decide (cellPosn kv.1 = n))).flatMap (fun kv => kv.2.partials.map Prod.fst)
  let l := (getPos s n).merged.map Prod.fst ++ cells
  (List.range 4096).filter (fun k => l.contains k)

/-- The partials of a slot, merged and of every cell, as one. -/
def slotPartial (s : State) (n slot : Nat) : Partial :=
  (s.cells.filter (fun kv => decide (cellPosn kv.1 = n))).foldl
    (fun p kv => mergePartials p (SMap.get Partial.init kv.2.partials slot))
    (SMap.get Merged.init (getPos s n).merged slot).p

/-- Closes every open slot of a position at a COMMIT or SKIP, the partials still on their way first (R140; log entry 40). -/
def autoClose (n : Nat) (h : Held) (s : State) : State :=
  if !s.pwr.modes.stats then s
  else
    let s := forAll (getPos s n).partialQ (mergeArrived n) (modPos n (fun q => { q with partialQ := [] }) s)
    let slots := openSlots s n
    let s' := modPos n (fun q => { q with merged := [] })
      (mapCells (fun k => decide (cellPosn k = n)) (fun c => { c with partials := [] }) s)
    forAll slots (fun k t => closeRecord n k h.step h.attempt true (slotPartial s n k) t) s'

/-! ### Underflow watch (R153, R168) -/

/-- STAT_UFW.THRESH, at most 100,000. -/
def ufwThresh (s : State) : Nat := min (fld s.memRegs.ufw 16 0) 100000

/-- STAT_UFW.STEPS. -/
def ufwSteps (s : State) : Nat := fld s.memRegs.ufw 47 32

/-- RUN of one slot after a COMMIT (R153); a slot of a skipped variant keeps it (R168). -/
def watchSlot (n slot : Nat) (h : Held) (mask : BitVec 1024) (s : State) : State :=
  let p := getPos s n
  let recs := p.closed.filter (fun r => decide (r.slot = slot) && r.step == h.step && r.attempt == h.attempt)
  let elements := (recs.map ClosedRec.elements).sum
  let zeros := (recs.map ClosedRec.zeros).sum
  let skipped := match slotVariant h slot with
    | some v => mask.getLsbD v
    | none => false
  if decide (elements = 0) || skipped then s
  else
    let run := SMap.get 0 p.slotRun slot
    let run' : BitVec 16 := if ufwThresh s * elements ≤ zeros * 100000 then run + 1 else 0
    let full := decide (ufwSteps s ≤ run'.toNat)
    let s := modPos n (fun p => { p with slotRun := SMap.set 0 p.slotRun slot (if full then 0 else run') }) s
    if full then
      raise 0x0202 (baseUnit n) { ctx := some h.ctx, posn := some n, arg0 := slot, arg1 := h.step.toNat } s
    else s

/-- The watch at a COMMIT, over every slot with UFW set (R153). -/
def watchUnderflow (n : Nat) (h : Held) (mask : BitVec 1024) (s : State) : State :=
  if ufwSteps s = 0 || !s.pwr.modes.stats then s
  else
    let slots := ((getPos s n).slotCfg.filter (fun kv => slotUfw kv.2)).map Prod.fst
    forAll slots (fun k t => watchSlot n k h mask t) s

/-- Records of a step that is resolved are not watched any more. -/
def forgetClosed (n : Nat) (step : BitVec 64) (s : State) : State :=
  modPos n (fun p => { p with closed := p.closed.filter (fun r => r.step != step) }) s

/-- The statistics at a COMMIT or SKIP of a held step, on every compute position of the package that is ENABLED (R140, R153). -/
def resolveStats (h : Held) (commit : Bool) (mask : BitVec 1024) (s : State) : State :=
  forAll ((List.range 8).filter (fun n => decide ((getPos s n).st = .enabled))) (fun n s =>
    let s := autoClose n h s
    let s := if commit then watchUnderflow n h mask s else s
    forgetClosed n h.step s) s

end Sys2Proof.Machine
end

