-- ==== Sys2Proof/Machine/Commit.lean ====
section
/-! DEFINITION. The commit engine: update lists and their validation, block-scaled moments, the optimiser update, and what a
failed commit read does (R147 to R151, R167, R303, R313). -/

namespace Sys2Proof.Machine

/-! ### Update lists (R149, R150) -/

/-- The raw entries of an update list before the entry with OP 0x00; none when 256 entries do not end it. The other bits of
the entry that ends the list are not checked (DESIGN CHOICE, log entry 114). -/
def rawEntries (rd : Nat → Nat → List Byte) : Nat → Nat → Option (List (List Byte))
  | 0, _ => none
  | fuel + 1, a =>
    let e := rd a 64
    if leAt e 0 1 = 0 then some [] else (rawEntries rd fuel (a + 64)).map (fun t => e :: t)

/-- A DPA field of an entry. -/
def dpaField (e : List Byte) (off : Nat) : Nat := leAt e off 8 % 2 ^ 48

/-- An entry with its parameter row. -/
def updEntry (rd : Nat → Nat → List Byte) (e : List Byte) : UpdEntry :=
  let ps := rd (dpaField e 0x38) 256
  { op := BitVec.ofNat 8 (leAt e 0 1), gfmt := BitVec.ofNat 4 (bitsOf (leAt e 0 4) 11 8)
    wcopy := decide (bitsOf (leAt e 0 4) 12 12 = 1), elements := leAt e 4 4, g := dpaField e 0x08, m := dpaField e 0x10
    v := dpaField e 0x18, w := dpaField e 0x20, wc := dpaField e 0x28, hdr := dpaField e 0x30
    params := (List.range 64).map (fun k => BitVec.ofNat 32 (leAt ps (4 * k) 4)) }

/-- The list at a DPA as the commit store holds it. -/
def readList (rd : Nat → Nat → List Byte) (a : Nat) : Option (List UpdEntry) :=
  (rawEntries rd 257 a).map (fun l => l.map (updEntry rd))

/-- Bytes of a gradient element. -/
def gradBytes (e : UpdEntry) : Nat := if e.gfmt = 0 then 4 else 2

/-- Bytes of a BS16 tensor (R147). -/
def bs16Bytes (n : Nat) : Nat := 2 * n + n / 1024

/-- Whether an entry is ADAMW; the other defined operation is SGDM. -/
def isAdamw (e : UpdEntry) : Bool := decide (e.op = 1)

/-- The areas an entry names but for its parameter row. -/
def entryAreas (e : UpdEntry) : List (Nat × Nat) :=
  [(e.g, e.elements * gradBytes e), (e.m, bs16Bytes e.elements), (e.w, 4 * e.elements), (e.hdr, 64)]
    ++ (if isAdamw e then [(e.v, bs16Bytes e.elements)] else []) ++ (if e.wcopy then [(e.wc, 2 * e.elements)] else [])

/-- Whether an area lies in one mirror mapping entry of this package. -/
def inMirrorEntry (s : State) (a len : Nat) : Bool :=
  s.step.entries.any (fun kv => match kv.2 with
    | some e => decide (e.own ≤ a) && decide (a + len ≤ e.own + e.length)
    | none => false)

/-- Whether an area lies in a step's ember buffer. -/
def inEmber (h : Held) (a len : Nat) : Bool :=
  decide (h.emberBase ≤ a) && decide (a + len ≤ h.emberBase + h.emberBytes)

/-- Whether the words of a raw entry are defined ones (R149, R150). -/
def entryWords (e : List Byte) : Bool :=
  let w := leAt e 0 4
  decide (bitsOf w 7 0 = 1 ∨ bitsOf w 7 0 = 2) && decide (bitsOf w 11 8 ≤ 2) && decide (bitsOf w 31 13 = 0)
    && [0x08, 0x10, 0x18, 0x20, 0x28, 0x30, 0x38].all (fun o => decide (leAt e o 8 < 2 ^ 48))

/-- Whether the reserved lanes and bits of a parameter row are 0 (R150). -/
def paramsOk (e : UpdEntry) : Bool :=
  decide (fld (e.params.getD 9 0) 31 7 = 0) && (e.params.drop 10).all (fun v => decide (v = 0))

/-- Whether one entry of a list validates (R149, R304). -/
def entryOk (s : State) (h : Held) (mirror : Bool) (raw : List Byte) : Bool :=
  let x := getCtx s h.ctx
  let e := updEntry (memRead s) raw
  let row := dpaField raw 0x38
  let areas := entryAreas e ++ [(row, 256)]
  entryWords raw && decide (e.elements ≠ 0) && decide (e.elements % 1024 = 0)
    && areas.all (fun r => decide (r.1 % 64 = 0) && reaches x r.1 r.2 && (!mirror || inMirrorEntry s r.1 r.2))
    && inEmber h row 256 && paramsOk e

/-- Whether the variant table binds no entry at or past the end of a position's list (R158). -/
def bindingsOk (h : Held) (n len : Nat) : Bool :=
  match h.variant with
  | none => true
  | some t => t.owner.all (fun kv => !(decide (kv.1 / 256 = n) && kv.2.isSome) || decide (kv.1 % 256 < len))

/-- The list of a position as it validates, or nothing (R149, R158, R304). -/
def validList (s : State) (h : Held) (mirror : Bool) (n a : Nat) : Option (List UpdEntry) :=
  match rawEntries (memRead s) 257 a with
  | none => none
  | some raws =>
    let len := 64 * (raws.length + 1)
    if raws.all (entryOk s h mirror) && inEmber h a len && (!mirror || inMirrorEntry s a len) && bindingsOk h n raws.length then
      some (raws.map (updEntry (memRead s)))
    else none

/-- The lists of every position of a context: none when one of them fails. -/
def validLists (s : State) (h : Held) (mirror : Bool) (umask : BitVec 8) (updl : SMap (BitVec 32)) :
    Option (SMap (List UpdEntry)) :=
  (maskPosns (getCtx s h.ctx).posns).foldl (fun acc n =>
    match acc with
    | none => none
    | some m =>
      if umask.getLsbD n then
        (validList s h mirror n ((SMap.get 0 updl n).toNat * 65536)).map (fun l => SMap.set [] m n l)
      else if bindingsOk h n 0 then some m else none) (some [])

/-! ### Block-scaled moments (R147, R148) -/

/-- An element of a BS16 block, with a decode shift (R147). -/
def bs16Decode (code scale : Nat) (shift : Int) : BitVec 32 :=
  if scale = 0xFF then 0x7FC00000
  else toF32 ((Fmt.fp16.decode code).scale ((scale : Int) - 127 + shift))

/-- The exponent X of a block: the largest finite magnitude brought to 2^15 (R148, R354). -/
def bs16Exponent (vs : List (BitVec 32)) : Int :=
  match maxExponent (vs.map f32) with
  | none => -127
  | some e => max (-127) (e - 15)

/-- The FP16 code of a value in a block with exponent X; overflow saturates (R148). -/
def bs16Code (x : Int) (v : BitVec 32) : Nat :=
  match f32 v with
  | .nan => 0x7E00
  | .inf neg => if neg then 0xFC00 else 0x7C00
  | w =>
    let c := (Fmt.fp16.convert false (w.scale (-x))).code
    if c = 0x7C00 then 0x7BFF else if c = 0xFC00 then 0xFBFF else c

/-- A BS16 block: its scale byte and its codes (R148). -/
def bs16Encode (vs : List (BitVec 32)) : Nat × List Nat :=
  let x := bs16Exponent vs
  ((x + 127).toNat, vs.map (bs16Code x))

/-- The FP32 values of block b of a BS16 tensor of n elements at a DPA. -/
def readBs16 (s : State) (a n b : Nat) (shift : Int) : List (BitVec 32) :=
  let scale := leNat (memRead s (a + 2 * n + b) 1)
  let bs := memRead s (a + 2048 * b) 2048
  (List.range 1024).map (fun i => bs16Decode (leAt bs (2 * i) 2) scale shift)

/-- Writes block b of a BS16 tensor of n elements. -/
def writeBs16 (a n b : Nat) (vs : List (BitVec 32)) (s : State) : State :=
  let e := bs16Encode vs
  memWrite (a + 2 * n + b) [BitVec.ofNat 8 e.1] (memWrite (a + 2048 * b) (e.2.flatMap (leBytes 2)) s)

/-! ### The update (R151) -/

/-- A seven-bit two's complement exponent (R150). -/
def exponent7 (v : Nat) : Int := if bitsOf v 6 0 < 64 then (bitsOf v 6 0 : Int) else (bitsOf v 6 0 : Int) - 128

/-- The new update exponent En of an entry. -/
def newExponent (e : UpdEntry) : Int := exponent7 (e.params.getD 9 0).toNat

/-- Multiplication by a power of two, rounded as an FP32 operation. -/
def fscale (a : BitVec 32) (k : Int) : BitVec 32 := toF32 ((f32 a).scale k)

/-- One element's new first moment, second moment and master (R151). -/
structure Updated where
  m : BitVec 32
  v : BitVec 32
  w : BitVec 32
deriving DecidableEq, Repr

/-- Lines 17 to 20. -/
def stepMaster (p : List (BitVec 32)) (u w : BitVec 32) : BitVec 32 :=
  fsub w (fmul (p.getD 0 0) (fadd u (fmul (p.getD 6 0) w)))

/-- Lines 1 to 20 of ADAMW for one element, from the decoded gradient, moments and master. -/
def adamwElem (p : List (BitVec 32)) (en : Int) (grad m v w : BitVec 32) : Updated :=
  let lane := fun (k : Nat) => p.getD k 0
  let g := fscale grad en
  let m' := fadd (fmul (lane 1) m) (fmul (lane 2) g)
  let v' := fadd (fmul (lane 3) v) (fmul (lane 4) (fmul g g))
  let den := fadd (fsqrt (fmul v' (lane 8))) (fscale (lane 5) en)
  let u := fdiv (fmul m' (lane 7)) den
  { m := m', v := v', w := stepMaster p u w }

/-- Lines 1 to 20 of SGDM for one element. -/
def sgdmElem (p : List (BitVec 32)) (en : Int) (grad m w : BitVec 32) : Updated :=
  let g := fscale grad en
  let m' := fadd (fmul (p.getD 1 0) m) g
  { m := m', v := 0, w := stepMaster p (fscale m' (-en)) w }

/-- The gradients of block b, decoded. -/
def readGrads (s : State) (e : UpdEntry) (b : Nat) : List (BitVec 32) :=
  let k := gradBytes e
  let f := match e.gfmt.toNat with
    | 0 => Fmt.fp32
    | 1 => Fmt.bf16
    | _ => Fmt.fp16
  let bs := memRead s (e.g + 1024 * k * b) (1024 * k)
  (List.range 1024).map (fun i => toF32 (f.decode (leAt bs (k * i) k)))

/-- The masters of block b. -/
def readMasters (s : State) (e : UpdEntry) (b : Nat) : List (BitVec 32) :=
  let bs := memRead s (e.w + 4096 * b) 4096
  (List.range 1024).map (fun i => BitVec.ofNat 32 (leAt bs (4 * i) 4))

/-- The BF16 working weights of block b from its masters (R151 line 20, R99 with SAT 0). -/
def writeWorking (e : UpdEntry) (b : Nat) (s : State) : State :=
  memWrite (e.wc + 2048 * b)
    ((readMasters s e b).flatMap (fun w => leBytes 2 (Fmt.bf16.convert false (f32 w)).code)) s

/-- Commits block b of an entry whose header held Ec (R151). -/
def commitBlock (owner : Bool) (e : UpdEntry) (ec : Int) (b : Nat) (s : State) : State :=
  let en := newExponent e
  let d := en - ec
  let gs := readGrads s e b
  let ms := readBs16 s e.m e.elements b d
  let ws := readMasters s e b
  let out := if isAdamw e then
      (List.zip (List.zip gs ms) (List.zip (readBs16 s e.v e.elements b (2 * d)) ws)).map (fun q =>
        adamwElem e.params en q.1.1 q.1.2 q.2.1 q.2.2)
    else (List.zip (List.zip gs ms) ws).map (fun q => sgdmElem e.params en q.1.1 q.1.2 q.2)
  let s := writeBs16 e.m e.elements b (out.map Updated.m) s
  let s := if isAdamw e then writeBs16 e.v e.elements b (out.map Updated.v) s else s
  let s := memWrite (e.w + 4096 * b) (out.flatMap (fun o => leBytes 4 o.w.toNat)) s
  if owner && e.wcopy then writeWorking e b s else s

/-- The current update exponent Ec of an entry's layer header (R150). -/
def headerExponent (s : State) (e : UpdEntry) : Int := exponent7 (leNat (memRead s e.hdr 1))

/-- Writes En to the layer header (R151): byte 0, bits [6:0]. -/
def writeHeader (e : UpdEntry) (s : State) : State :=
  memWrite e.hdr [BitVec.ofNat 8 (bitsOf (e.params.getD 9 0).toNat 6 0)] s

/-! ### Failed commit reads (R313) -/

/-- Whether an address belongs to block b of an entry: master, moments and scales; or to the entry's header. -/
def inBlock (e : UpdEntry) (b a : Nat) : Bool :=
  let within := fun (base len : Nat) => decide (base ≤ a) && decide (a < base + len)
  within (e.w + 4096 * b) 4096 || within (e.m + 2048 * b) 2048 || within (e.m + 2 * e.elements + b) 1
    || (isAdamw e && (within (e.v + 2048 * b) 2048 || within (e.v + 2 * e.elements + b) 1)) || within e.hdr 64

/-- Writes what was pulled of some blocks. -/
def writePulled (p : Nat → Bool) (l : List (Nat × Byte)) (s : State) : State :=
  forAll (l.filter (fun c => p c.1)) (fun c s => memWrite c.1 [c.2] s) s

/-- The miss of a block of an entry, if its read failed; block none is the entry's header. -/
def missOf (ms : List CommitMiss) (n i : Nat) (b : Option Nat) : Option CommitMiss :=
  ms.find? (fun m => decide (m.posn.val = n) && decide (m.entry = i) && m.block == b)

/-- One block of an entry: committed, or pulled from the other copy (R313). -/
def commitOrPull (owner : Bool) (ms : List CommitMiss) (n i : Nat) (e : UpdEntry) (ec : Int) (b : Nat) (s : State) : State :=
  match missOf ms n i (some b) with
  | none => commitBlock owner e ec b s
  | some m =>
    match m.pulled with
    | none => s
    | some l =>
      let s := writePulled (inBlock e b) l s
      if owner && e.wcopy then writeWorking e b s else s

/-- One entry of a list in list order: its blocks in increasing index and then its header (R151, R313). -/
def commitEntry (owner : Bool) (ms : List CommitMiss) (n i : Nat) (e : UpdEntry) (s : State) : State :=
  let blocks := List.range (e.elements / 1024)
  match missOf ms n i none with
  | some m =>
    match m.pulled with
    | none => s
    | some l =>
      let s := writePulled (fun a => blocks.any (fun b => inBlock e b a)) l s
      if owner && e.wcopy then forAll blocks (writeWorking e) s else s
  | none =>
    let ec := headerExponent s e
    writeHeader e (forAll blocks (commitOrPull owner ms n i e ec) s)

/-- Whether an entry runs under a mask: step-wide, or bound to a variant whose bit is 0 (R167). -/
def entryRuns (t : Option VariantTable) (mask : BitVec 1024) (n i : Nat) : Bool :=
  match t with
  | none => true
  | some v =>
    match SMap.get none v.owner (256 * n + i) with
    | none => true
    | some k => !(mask.getLsbD k)

/-- The commit of one position's list (R151, R167). -/
def commitList (owner : Bool) (ms : List CommitMiss) (t : Option VariantTable) (mask : BitVec 1024) (n : Nat)
    (l : List UpdEntry) (s : State) : State :=
  forAll ((List.range l.length).zip l) (fun q s =>
    if entryRuns t mask n q.1 then commitEntry owner ms n q.1 q.2 s else s) s

/-- The areas that a commit writes, in list order (R151, R345). -/
def commitAreas (t : Option VariantTable) (mask : BitVec 1024) (lists : SMap (List UpdEntry)) : List (Nat × Nat) :=
  lists.flatMap (fun kv => ((List.range kv.2.length).zip kv.2).flatMap (fun q =>
    if entryRuns t mask kv.1 q.1 then (entryAreas q.2).drop 1 else []))

/-! ### Stripes read ahead of a commit write (R357, R358) -/

/-- The 4 KiB stripes that two areas both touch. -/
def sharedStripes (a b : Nat × Nat) : List Nat :=
  if a.2 = 0 ∨ b.2 = 0 then []
  else
    let lo := max (a.1 / 4096) (b.1 / 4096)
    let hi := min ((a.1 + a.2 - 1) / 4096) ((b.1 + b.2 - 1) / 4096)
    (List.range (hi + 1 - lo)).map (fun k => lo + k)

/-- Whether more stripes are staged on a position than the staging area of the bank's plan holds. -/
def stagingFull (s : State) (r : BankRun) : Bool :=
  (List.range 8).any (fun n => decide (r.plan.stageBytes / 4096 < r.ahead.countP (fun k => areaOn s n (4096 * k) 4096)))

/-- A commit is about to write areas: each of their stripes that the running bank has marked and not read is read ahead and counted; a
wait for staging space adds an open number of µs (R357, R358; log entry 141). -/
def readAhead (areas : List (Nat × Nat)) (s : State) : State :=
  match s.bank.run with
  | none => s
  | some r =>
    let l := (areas.flatMap (fun a => (bankedEntries r.plan).flatMap (fun q =>
      sharedStripes a (q.2.src, bankSourceBytes q.2)))).eraseDups.filter (fun k => !(r.ahead.contains k))
    if r.st ≠ .banking ∨ l.isEmpty then s
    else
      let r := { r with ahead := r.ahead ++ l }
      let s := { s with bank := { s.bank with run := some r, pushed := satUp s.bank.pushed l.length } }
      if stagingFull s r then
        let v := freeVal s
        { v.2 with bank := { v.2.bank with throttle := satUp v.2.bank.throttle v.1.toNat } }
      else s

/-- A role of a commit over every position's list. -/
def commitLists (owner : Bool) (ms : List CommitMiss) (t : Option VariantTable) (mask : BitVec 1024)
    (lists : SMap (List UpdEntry)) (s : State) : State :=
  forAll lists (fun kv s => commitList owner ms t mask kv.1 kv.2 s) (readAhead (commitAreas t mask lists) s)

/-- What failed commit reads cost: a class-B fault charged to the oldest unresolved step, or MIRROR_LOST when the other copy
does not exist either (R313). -/
def chargeMisses (ms : List CommitMiss) (mirrored : Bool) (s : State) : State :=
  if ms.isEmpty then s
  else if !mirrored || ms.any (fun m => m.pulled.isNone) then declareMirrorLost s
  else clearCheck s

end Sys2Proof.Machine
end

