-- ==== Sys2Proof/Machine/Mirror.lean ====
section
/-! DEFINITION. FENCE messages between mirror partners, group digests, and what happens at a step's boundary: snapshots and
banks take their content, audits their digests, a shadow's leader sends its state (R172 to R174, R309, R319, R344, R357). -/

namespace Sys2Proof.Machine

/-! ### FENCE messages (R309) -/

/-- The fields of a FENCE body and its header as the step engine reads them. -/
def fenceBody (m : Tc0) : FenceBody :=
  let b := fun (hi lo : Nat) => fld m.body hi lo
  { enabled := BitVec.ofNat 8 (b 11 4), effective := BitVec.ofNat 8 (b 19 12), partnum := BitVec.ofNat 4 (b 23 20)
    reason := BitVec.ofNat 4 (b 27 24), entry := BitVec.ofNat 4 (b 7 4), own := BitVec.ofNat 48 (b 43 8 * 4096)
    mir := BitVec.ofNat 48 (b 79 44 * 4096), length := BitVec.ofNat 40 (b 107 80 * 4096), step := m.step
    attempt := m.attempt, group := BitVec.ofNat 22 (b 29 8), groups := BitVec.ofNat 22 (b 51 30)
    digest := BitVec.ofNat 64 (b 93 30) }

/-- Sends a FENCE message to the mirror partner, on the partition entry of the context that holds the step engine. -/
def sendFence (fop : Nat) (step : BitVec 64) (attempt : BitVec 4) (rest : Nat) (s : State) : State :=
  match (stepHolder s).bind (boundEntry s), mirrorPartner s with
  | some k, some p => sendTc0To (getPart s k) p (tc0Msg s k 4 attempt 0 step (BitVec.ofNat 128 (fop + rest))) s
  | _, _ => s

/-- ENABLED positions, one bit each. -/
def enabledMask (s : State) : BitVec 8 :=
  BitVec.ofNat 8 (((List.range 8).map (fun n => if (getPos s n).st = .enabled then 2 ^ n else 0)).sum)

/-- The body fields of PAIR, PAIR_OK and PAIR_REFUSED. -/
def pairRest (s : State) (reason : Nat) : Nat :=
  (enabledMask s).toNat * 2 ^ 4 + s.pkg.effective.toNat * 2 ^ 12 + partCode s.fuses.part * 2 ^ 20 + reason * 2 ^ 24

/-- The body fields of MAP, MAP_OK, MAP_REFUSED and UNMAP. -/
def mapRest (entry own mir length : Nat) : Nat :=
  entry * 2 ^ 4 + own / 4096 * 2 ^ 8 + mir / 4096 * 2 ^ 44 + length / 4096 * 2 ^ 80

/-- The body fields of AUDIT_START and AUDIT_LATE. -/
def auditRest (entry first groups : Nat) : Nat := entry * 2 ^ 4 + first * 2 ^ 8 + groups * 2 ^ 30

/-- The body fields of AUDIT_DIGEST. -/
def digestRest (entry group : Nat) (d : BitVec 64) : Nat := entry * 2 ^ 4 + group * 2 ^ 8 + d.toNat * 2 ^ 30

/-! ### Group digests (R175, R319) -/

/-- The digest of a range: the check sum of its stripes' check sums, in stripe order. -/
def rangeDigest (s : State) (a len : Nat) : BitVec 64 :=
  crc64 ((List.range ((len + 4095) / 4096)).flatMap (fun i =>
    leBytes 8 (crc64 (memRead s (a + 4096 * i) (min 4096 (len - 4096 * i)))).toNat))

/-- 64 MiB. -/
def groupBytes : Nat := 0x4000000

/-- The area of group g of a mapped area, from its start (R319; log entry 43). -/
def groupArea (base length g : Nat) : Nat × Nat := (base + g * groupBytes, min groupBytes (length - g * groupBytes))

/-- The digests of a run of groups. -/
def groupDigests (s : State) (base length first count : Nat) : List (BitVec 64) :=
  (List.range count).map (fun i =>
    let a := groupArea base length (first + i)
    rangeDigest s a.1 a.2)

/-- What the step engine of a package sends over TC2 that is no stream's: AUX bits [63:60] tell them apart, and the
acknowledgements that name them (DESIGN CHOICE, log entry 122). -/
inductive StepCopy where
  /-- a pull of a promotion or a shadow's state: nothing waits for its acknowledgement. -/
  | pull
  /-- the step record (R304). -/
  | record
  /-- the areas of a FILL, and its step number and cursor (R303). -/
  | fill
  | fillNumbers
  /-- a group of an audit that differed (R319). -/
  | group
deriving DecidableEq, Repr

/-- AUX bits [63:60] of a step engine's packet. -/
def StepCopy.code : StepCopy → Nat
  | .pull => 0
  | .record => 1
  | .fill => 2
  | .fillNumbers => 3
  | .group => 4

/-- AUX bits [63:60] of a packet. -/
def copyCode (p : Packet) : Nat := fld p.aux 63 60

/-- Packets that a range takes: chunks of up to 4,096 bytes. -/
def rangePackets (len : Nat) : Nat := (len + 4095) / 4096

/-- Sends a range of this package's memory to another package over TC2, in chunks of up to 4,096 bytes. -/
def sendRange (kind : StepCopy) (c : Ctx) (dst a len at_ : Nat) (s : State) : State :=
  match boundEntry s c with
  | none => s
  | some e => forAll (List.range (rangePackets len)) (fun i s =>
      let o := 4096 * i
      sendPacket (getPart s e) (i % 4) dst
        (dataPacket 2 (2 ^ 20 * kind.code) o (at_ + o) (memRead s (a + o) (min 4096 (len - o)))) s) s

/-! ### Audits (R319) -/

/-- Changes the running audit of this package as owner. -/
def modAudit (f : Audit → Audit) (s : State) : State := modStep (fun e => { e with audit := e.audit.map f }) s

/-- Compares one group whose digests both sides have given: a group that differs is counted, raised and sent again, and the
last comparison completes the AUDIT. -/
def compareGroup (g : Nat) (s : State) : State :=
  match s.step.audit with
  | none => s
  | some a =>
    match a.digests, SMap.get none a.theirs g, SMap.get none s.step.entries a.entry with
    | some ds, some d, some e =>
      let same := decide (ds.getD (g - a.first) 0 = d)
      let s := modAudit (fun a => { a with compared := a.compared + 1, differed := a.differed + (if same then 0 else 1) }) s
      let s := if same then s
        else
          let r := groupArea e.own e.length g
          let s := modStep (fun t => { t with auditMismatch := satUp t.auditMismatch 1 }) s
          let s := raise 0x0704 (hubUnit 1) { ctx := some a.ctx } s
          match mirrorPartner s with
          | some p => sendRange .group a.ctx p r.1 r.2 (e.mir + (r.1 - e.own)) s
          | none => s
      if a.compared + 1 = a.groups then
        completeKey a.ctx a.key stOk (a.differed + (if same then 0 else 1)) 10 (modStep (fun t => { t with audit := none }) s)
      else s
    | _, _, _ => s

/-- This package's boundary of the audited step has come: its digests are taken. -/
def auditBoundary (step : BitVec 64) (s : State) : State :=
  match s.step.audit with
  | none => s
  | some a =>
    match a.digests.isNone && a.step == step, SMap.get none s.step.entries a.entry with
    | true, some e =>
      let ds := groupDigests s e.own e.length a.first a.groups
      forAll (a.theirs.map Prod.fst) compareGroup (modAudit (fun a => { a with digests := some ds }) s)
    | _, _ => s

/-- The partner's boundary of an audited step: it sends the digests of the range it mirrors. -/
def peerAuditBoundary (step : BitVec 64) (s : State) : State :=
  match s.step.peerAudit with
  | none => s
  | some a =>
    match a.step == step, SMap.get none s.step.peerEntries a.entry with
    | true, some e =>
      let ds := groupDigests s e.mir e.length a.first a.groups
      let s := forAll (List.range a.groups) (fun i s =>
        sendFence 12 step 0 (digestRest a.entry (a.first + i) (ds.getD i 0)) s) s
      modStep (fun t => { t with peerAudit := none }) s
    | _, _ => s

/-! ### Boundaries (R172 to R174, R344, R357) -/

/-- A snapshot of the step takes the content of its list. -/
def markSnapshot (c : Ctx) (step : BitVec 64) (s : State) : State :=
  modCtx c (fun x => { x with snapshot := x.snapshot.map (fun n =>
    if n.step = step ∧ n.taken.isNone then
      { n with taken := some (n.entries.map (fun e => memRead s e.src e.bytes), s.mgmt.ptb) }
    else n) }) s

/-- The E5M2 code of a value in a block with exponent X; overflow gives the largest finite magnitude (R354). -/
def narrowCode (x : Int) (v : BitVec 32) : Nat :=
  match f32 v with
  | .nan => 0x7E
  | .inf neg => if neg then 0xFC else 0x7C
  | w =>
    let c := (Fmt.e5m2.convert false (w.scale (-x))).code
    if c = 0x7C then 0x7B else if c = 0xFC then 0xFB else c

/-- A NARROW shard: the codes of every block and then one scale byte for each (R354). -/
def narrowBytes (s : State) (a n : Nat) : List Byte :=
  let blocks := (List.range (n / 1024)).map (fun b => readBs16 s a n b 0)
  blocks.flatMap (fun vs => (vs.map (narrowCode (bs16Exponent vs))).map (BitVec.ofNat 8))
    ++ blocks.map (fun vs => BitVec.ofNat 8 (bs16Exponent vs + 127).toNat)

/-- The stored bytes of a bank entry (R353). -/
def storedBytes (s : State) (e : BankEntry) : List Byte :=
  if e.kind = 2 then
    if e.narrow then narrowBytes s e.src e.size else memRead s e.src (bs16Bytes e.size)
  else memRead s e.src e.size

/-- The bank of the step takes its shards, and records the step number, the cursor and the time (R357). -/
def markBank (c : Ctx) (step : BitVec 64) (s : State) : State :=
  { s with bank := { s.bank with run := s.bank.run.map (fun r =>
      if r.ctx = c ∧ r.st = .armed ∧ r.plan.step = step then
        { r with
          st := .banking, nextStep := s.step.number, cursor := s.step.cursor, ptb := s.mgmt.ptb
          shards := (bankedEntries r.plan).map (fun q => (q.1, storedBytes s q.2)) }
      else r) } }

/-- The leader sends the state it owns to its follower at its first boundary with SHADOW on: the areas of its mirror mapping,
to the same DPAs (R344; log entry 44). -/
def sendShadowState (c : Ctx) (s : State) : State :=
  match shadowPeer s with
  | none => s
  | some p =>
    if s.ras.shadowSent then s
    else
      let s := forAll (s.step.entries.filterMap Prod.snd) (fun e s => sendRange .pull c p e.own e.length e.own s) s
      let s := sendFollower c (leBytes 8 s.step.number.toNat ++ leBytes 8 s.step.cursor.toNat) s
      { s with ras := { s.ras with shadowSent := true } }

/-- The boundary of a step on this package: it has resolved, and its owner-role commit, if any, is done. -/
def atBoundary (c : Ctx) (step : BitVec 64) (s : State) : State :=
  sendShadowState c (auditBoundary step (markBank c step (markSnapshot c step s)))

end Sys2Proof.Machine
end

