-- ==== Sys2Proof/Machine/Bank.lean ====
section
/-! DEFINITION. Snapshots, banking, restore and the error-rate watch (R172 to R176, R348 to R369). -/

namespace Sys2Proof.Machine

/-! ### Copies on their way out (R174, R290) -/

/-- Where the bytes of a peer are known from: those this package has sent there. -/
def sentByte (s : State) (rank a : Nat) : Option Byte :=
  (s.bank.toPeer.reverse.find? (fun w => decide (w.1.toNat = rank) && decide (w.2.1.toNat ≤ a)
    && decide (a < w.2.1.toNat + w.2.2.length))).map (fun w => w.2.2.getD (a - w.2.1.toNat) 0)

/-- Reads a checkpoint place: host memory, or the peer's bytes as the command gives them by rank·2^48 + DPA, and else as this
package has sent them. -/
def readLoc (s : State) (peer : List (Nat × Byte)) (l : CkptLoc) (off n : Nat) : List Byte :=
  if l.host then hostRead s (l.addr + off) n
  else (List.range n).map (fun i =>
    match peer.find? (fun c => decide (c.1 = l.rank * 2 ^ 48 + l.addr + off + i)) with
    | some c => c.2
    | none => (sentByte s l.rank (l.addr + off + i)).getD 0)

/-- Writes bytes at an offset from a checkpoint place: over PCIe, or to the peer in packets of TC3. -/
def writeLoc (c : Ctx) (l : CkptLoc) (off : Nat) (bs : List Byte) (s : State) : State :=
  if l.host then hostWrite (l.addr + off) bs s
  else
    let a := l.addr + off
    let s := forAll ((List.range ((bs.length + 4095) / 4096)).zip (cut 4096 bs)) (fun q s =>
      sendToRank c l.rank q.1 (dataPacket 3 0 (4096 * q.1) (a + 4096 * q.1) q.2) s) s
    { s with bank := { s.bank with
      toPeer := s.bank.toPeer ++ [(BitVec.ofNat 14 l.rank, BitVec.ofNat 48 a, bs)] } }

/-- Changes the bank engine. -/
def modBank (f : BankEng → BankEng) (s : State) : State := { s with bank := f s.bank }

/-- The snapshots and the bank that go through a host port end when the port's path is lost (R176, R362). -/
def pathLost (port : Fin 2) (s : State) : State :=
  let hit := s.hif.ctxs.filter (fun kv => decide (kv.2.port = port) && kv.2.snapshot.any Snapshot.hostDest)
  let s := forAll (hit.map Prod.fst) (fun k => snapLost (BitVec.ofNat 12 k)) s
  if s.bank.run.any (fun r => r.plan.hostDest && decide ((getCtx s r.ctx).port = port)) then bankLost 4 s else s

/-- PERST_ASSERT: the contexts of the port are torn down and its link is reset (R290). -/
def execPerstAssert (port : Fin 2) (s : State) : Out :=
  let s := tearAll (onHostPort s port) (pathLost port s)
  .next (modHif (fun h => { h with
    perst := SMap.set true h.perst port.val true, linkUp := SMap.set false h.linkUp port.val false }) s)

/-- HOST_LINK_DOWN (R290). -/
def execHostLinkDown (port : Fin 2) (s : State) : Out :=
  let s := tearAll (onHostPort s port) (pathLost port s)
  .next (modHif (fun h => { h with linkUp := SMap.set false h.linkUp port.val false }) s)

/-! ### Checks of lists -/

/-- The byte offset of the lowest bit that is set at or above a bit of the little-endian word at a byte offset, if any. -/
def reservedIn (bs : List Byte) (off n lo : Nat) : Option Nat :=
  ((List.range n).find? (fun k => decide (bitsOf (leAt bs (off + k) 1) 7 (if 8 * k < lo then min 8 (lo - 8 * k) else 0) ≠ 0))).map
    (fun k => off + k)

/-- Whether areas of a list overlap one another, by the index of the first that overlaps an earlier one. -/
def firstOverlap (l : List (Nat × Nat)) : Option Nat :=
  (List.range l.length).find? (fun j => (List.range j).any (fun i =>
    let a := l.getD i (0, 0)
    let b := l.getD j (0, 0)
    decide (a.1 < b.1 + b.2) && decide (b.1 < a.1 + a.2)))

/-- Whether the boundary of a step has passed on this package (R172). -/
def boundaryPassed (s : State) (step : BitVec 64) : Bool := decide (step < s.step.number)

/-! ### Snapshots (R172 to R176) -/

/-- The entries of a snapshot list. -/
def snapEntries (bs : List Byte) (count : Nat) : List SnapEntry :=
  (List.range count).map (fun i =>
    let o := 64 + 32 * i
    { src := leAt bs o 8 % 2 ^ 48, bytes := leAt bs (o + 8) 8 % 2 ^ 40, dstOff := leAt bs (o + 16) 8 })

/-- Whether a snapshot list of COUNT entries follows R173. -/
def snapListOk (s : State) (c : Ctx) (a count : Nat) (bs : List Byte) : Bool :=
  let x := getCtx s c
  let w0 := leAt bs 0 8
  let es := snapEntries bs count
  let rank := leAt bs 0x10 4
  let peerOk := match boundEntry s c with
    | some k => decide (rank < 16384) && (SMap.get 0 (getPart s k).map rank).getLsbD 15
    | none => false
  reaches x a (64 + 32 * count) && decide (1 ≤ count) && decide (count ≤ 4096)
    && decide (bitsOf w0 15 13 = 0) && decide (bitsOf w0 63 17 = 0)
    && (decide (bitsOf w0 16 16 = 0) || (decide (leAt bs 8 8 < 2 ^ 48) && peerOk))
    && decide (leAt bs 0x14 4 = 0) && decide (leAt bs 0x18 8 % 64 = 0) && decide (leAt bs 0x20 32 = 0)
    && (List.range count).all (fun i =>
      let o := 64 + 32 * i
      decide (leAt bs o 8 < 2 ^ 48) && decide (leAt bs (o + 8) 8 < 2 ^ 40) && decide (leAt bs (o + 24) 8 = 0))
    && es.all (fun e => decide (e.src % 4096 = 0) && decide (e.bytes ≠ 0) && decide (e.bytes % 4096 = 0)
      && decide (e.dstOff % 64 = 0) && reaches x e.src e.bytes)
    && (firstOverlap (es.map (fun e => (e.src, e.bytes)))).isNone

/-- SNAP: it is refused, or its list is read and it is armed for the boundary of S (R172, R173, R176; log entry 51). -/
def execSnap (ctx : Ctx) (s : State) : Out :=
  match startingOf s ctx 0x0B with
  | none => .next s
  | some d =>
    let n := BitVec.ofNat 64 (dfld d.words 0x10 63 0)
    let a := dfld d.words 0x18 47 0
    let count := leAt (memRead s a 64) 0 8 % 8192
    let bs := memRead s a (64 + 32 * (min count 4096))
    if (getCtx s ctx).snapshot.isSome then .next (finishStarting ctx d stSnapBusy (n.toNat % 2 ^ 32) s)
    else if boundaryPassed s n then .next (finishStarting ctx d stSnapLate (n.toNat % 2 ^ 32) s)
    else if !(snapListOk s ctx a count bs) then .next (finishStarting ctx d stSnapRefused (n.toNat % 2 ^ 32) s)
    else
      let sn : Snapshot :=
        { key := d.key, step := n, hostDest := decide (bitsOf (leAt bs 0 8) 16 16 = 0), destAddr := BitVec.ofNat 64 (leAt bs 8 8)
          peerRank := BitVec.ofNat 14 (leAt bs 0x10 4), trailerOff := BitVec.ofNat 64 (leAt bs 0x18 8)
          entries := snapEntries bs count, taken := none }
      .next (modCtx ctx (fun x => { x with snapshot := some sn }) (keepStarting ctx d s))

/-- DIGEST of a snapshot: the check sum of its stripes' check sums (R175). -/
def snapDigest (l : List (List Byte)) : BitVec 64 :=
  crc64 (l.flatMap (fun bs => (cut 4096 bs).flatMap (fun c => leBytes 8 (crc64 c).toNat)))

/-- The trailer (R175). -/
def snapTrailer (sn : Snapshot) (l : List (List Byte)) (ptb : BitVec 64) : List Byte :=
  leBytes 8 sn.step.toNat ++ leBytes 8 ((l.map List.length).sum) ++ leBytes 8 (snapDigest l).toNat ++ leBytes 8 ptb.toNat
    ++ [1] ++ List.replicate 31 0

/-- The content of a snapshot reaches its destination, and then its trailer (R174, R175). -/
def writeSnapshot (c : Ctx) (sn : Snapshot) (l : List (List Byte)) (ptb : BitVec 64) (s : State) : State :=
  let loc : CkptLoc := { host := sn.hostDest, rank := sn.peerRank.toNat, addr := sn.destAddr.toNat }
  let s := forAll (sn.entries.zip l) (fun q s => writeLoc c loc q.1.dstOff q.2 s) s
  writeLoc c loc sn.trailerOff.toNat (snapTrailer sn l ptb) s

/-- SNAPSHOT_COMPLETE: the marked content has been copied, and the SNAP completes (R175), or the copy ends as R176 states. -/
def execSnapshotComplete (ctx : Ctx) (e : CopyEnd) (s : State) : Out :=
  match (getCtx s ctx).snapshot with
  | none => .next s
  | some sn =>
    match sn.taken with
    | none => .next s
    | some (l, ptb) =>
      let done := fun (st detail : Nat) (s : State) =>
        completeKey ctx sn.key st detail 0 (modCtx ctx (fun x => { x with snapshot := none }) s)
      match e with
      | .accepted => .next (done stOk 0 (writeSnapshot ctx sn l ptb s))
      | .readFailed => .next (clearCheck (snapLost ctx s))
      | .pathLost => .next (snapLost ctx s)
      | .peerRefused => .next (done stSnapRefused (sn.step.toNat % 2 ^ 32) s)

/-! ### Bank lists (R352, R353) -/

/-- BANK_REFUSED (R369). -/
def stBankRefused : Nat := 0x34
/-- BANK_BUSY (R369). -/
def stBankBusy : Nat := 0x35
/-- BANK_LATE (R369). -/
def stBankLate : Nat := 0x36

/-- The entry of a bank list at an index. -/
def bankEntryAt (bs : List Byte) (i : Nat) : BankEntry :=
  let w := leAt bs (64 + 32 * i) 8
  { src := w % 2 ^ 48, kind := bitsOf w 51 48, narrow := decide (bitsOf w 52 52 = 1), dup := decide (bitsOf w 53 53 = 1)
    size := leAt bs (64 + 32 * i + 8) 8 % 2 ^ 40, dstOff := leAt bs (64 + 32 * i + 16) 8 % 2 ^ 40 }

/-- The stored size Z of an entry (R353). -/
def storedSize (e : BankEntry) : Nat :=
  if e.kind = 2 then (if e.narrow then e.size + e.size / 1024 else 2 * e.size + e.size / 1024) else e.size

/-- Rounds up to a multiple of 64. -/
def up64 (n : Nat) : Nat := (n + 63) / 64 * 64

/-- The area of a shard in its slot, with its tag (R353). -/
def shardArea (e : BankEntry) : Nat × Nat := (e.dstOff, up64 (storedSize e) + 64)

/-- The offset of the capture area in a staging window (R329). -/
def captureOff : Nat := 0x7C00000

/-- Offences of the header of a bank list (R352, R353). -/
def bankHeaderBad (bs : List Byte) : List Nat :=
  let bad := fun (c : Bool) (off : Nat) => if c then [off] else []
  let count := leAt bs 8 8 % 8192
  let stage := leAt bs 0x20 4
  let size := leAt bs 0x24 4
  bad (decide (count = 0) || decide (4096 < count)) 0x08 ++ (reservedIn bs 0x08 8 13).toList
    ++ bad (decide (leAt bs 0x10 8 % 2 ^ 40 % 4096 ≠ 0) || decide (leAt bs 0x10 8 % 2 ^ 40 < 0x80000)) 0x10
    ++ (reservedIn bs 0x10 8 40).toList ++ bad (decide (stage % 4096 ≠ 0) || decide (captureOff < stage + size)) 0x20
    ++ bad (decide (size % 4096 ≠ 0) || decide (size < 65536)) 0x24 ++ (reservedIn bs 0x28 24 0).toList

/-- Offences of the entry of a bank list at an index. -/
def bankEntryBad (x : Context) (bs : List Byte) (slotBytes i : Nat) : List Nat :=
  let bad := fun (c : Bool) (off : Nat) => if c then [off] else []
  let o := 64 + 32 * i
  let e := bankEntryAt bs i
  let unit := if e.kind = 2 then 1024 else 64
  bad (decide (e.src % 64 ≠ 0) || !(reaches x e.src (bankSourceBytes e))) o
    ++ bad (decide (e.kind = 0) || decide (5 < e.kind) || (e.narrow && decide (e.kind ≠ 2))) (o + 6)
    ++ (reservedIn bs o 8 54).toList ++ bad (decide (e.size = 0) || decide (e.size % unit ≠ 0)) (o + 8)
    ++ (reservedIn bs (o + 8) 8 40).toList
    ++ bad (decide (e.dstOff % 64 ≠ 0) || decide (e.dstOff < 0x80000)
      || decide (slotBytes < e.dstOff + (shardArea e).2)) (o + 16)
    ++ (reservedIn bs (o + 16) 8 40).toList ++ (reservedIn bs (o + 24) 8 0).toList

/-- The byte offset of the first offending field of a bank list, if any (R353; log entry 52). -/
def bankListBad (s : State) (c : Ctx) (a : Nat) : Option Nat :=
  let x := getCtx s c
  let h := memRead s a 64
  let count := min (leAt h 8 8 % 8192) 4096
  let bs := memRead s a (64 + 32 * count)
  let es := (List.range count).map (bankEntryAt bs)
  let shared := ((firstOverlap (es.map (fun e => (e.src, bankSourceBytes e)))).map (fun j => 64 + 32 * j)).toList
    ++ ((firstOverlap (es.map shardArea)).map (fun j => 64 + 32 * j + 16)).toList
  let l := (if reaches x a (64 + 32 * count) then [] else [0]) ++ bankHeaderBad h
    ++ (List.range count).flatMap (bankEntryBad x bs (leAt h 0x10 8 % 2 ^ 40)) ++ shared
  l.foldl (fun m o => some (match m with
    | none => o
    | some p => min p o)) none

/-- The plan that a BANK START and its list name; STEP all ones stands for the oldest unresolved held step (R352). -/
def bankPlan (s : State) (w : BitVec 512) : BankPlan :=
  let a := dfld w 0x28 47 0
  let h := memRead s a 64
  let count := leAt h 8 8 % 8192
  let bs := memRead s a (64 + 32 * count)
  { step := BitVec.ofNat 64 (leAt h 0 8), slotBytes := leAt h 0x10 8 % 2 ^ 40, jobId := BitVec.ofNat 64 (leAt h 0x18 8)
    stageOff := leAt h 0x20 4, stageBytes := leAt h 0x24 4, entries := (List.range count).map (bankEntryAt bs)
    hostDest := decide (dfld w 0x10 4 4 = 0), writer := decide (dfld w 0x10 5 5 = 1)
    destAddr := if dfld w 0x10 4 4 = 0 then BitVec.ofNat 64 (dfld w 0x18 63 0) else BitVec.ofNat 64 (dfld w 0x18 47 0)
    peerRank := BitVec.ofNat 14 (dfld w 0x20 13 0) }

/-! ### Slots (R355) -/

/-- The place of a slot of a plan. -/
def slotLoc (p : BankPlan) (slot : Bool) : CkptLoc :=
  { host := p.hostDest, rank := p.peerRank.toNat, addr := p.destAddr.toNat + (if slot then p.slotBytes else 0) }

/-- MAGIC of a manifest (R360). -/
def manifestMagic : Nat := 0x4D4E4B42

/-- NEXT_STEP of a slot with a valid manifest, from its first 64 bytes. -/
def slotNext (bs : List Byte) : Option Nat :=
  if leAt bs 0 4 = manifestMagic ∧ leAt bs 4 2 = 1 then some (leAt bs 8 8) else none

/-- The target slot: the lower one without a valid manifest, else the one whose NEXT_STEP is lower, else slot 0. -/
def targetSlot (s : State) (peer : List (Nat × Byte)) (p : BankPlan) : Bool :=
  match slotNext (readLoc s peer (slotLoc p false) 0 64), slotNext (readLoc s peer (slotLoc p true) 0 64) with
  | none, _ => false
  | some _, none => true
  | some a, some b => decide (b < a)

/-- A bank is armed: its slot is chosen and the slot's manifest header zeroed (R355, R356); with no boundary to wait for, it
is marked at once (R352). -/
def armBank (c : Ctx) (key : Option Nat) (atOnce : Bool) (peer : List (Nat × Byte)) (p : BankPlan) (s : State) : State :=
  let slot := targetSlot s peer p
  let s := writeLoc c (slotLoc p slot) 0 (List.replicate 64 0) s
  let run : BankRun :=
    { ctx := c, key := key, auto := key.isNone, plan := p, slot := slot, st := .armed, nextStep := 0, cursor := 0, ptb := 0
      shards := [], ahead := [], signature := [] }
  let s := modBank (fun b => { b with run := some run, throttle := 0, pushed := 0, bytes := 0, shard := 0 }) s
  if atOnce then markBank c p.step s else s

/-- The oldest unresolved held step of a context. -/
def oldestUnresolved (s : State) (c : Ctx) : Option (BitVec 64) :=
  (s.step.held.find? (fun h => h.ctx == c && unresolved h)).map Held.step

/-- BANK START (R352 to R356). -/
def execBankStart (ctx : Ctx) (peer : List (Nat × Byte)) (s : State) : Out :=
  match startingOf s ctx 0x0A with
  | none => .next s
  | some d =>
    if dfld d.words 0x10 3 0 ≠ 1 then .next s
    else
      match bankListBad s ctx (dfld d.words 0x28 47 0) with
      | some off => .next (finishStarting ctx d stBankRefused off s)
      | none =>
        match s.bank.run with
        | some r => .next (finishStarting ctx d stBankBusy (r.plan.step.toNat % 2 ^ 32) s)
        | none =>
          let p := bankPlan s d.words
          let oldest := oldestUnresolved s ctx
          let all := decide (p.step = BitVec.allOnes 64)
          if !all && boundaryPassed s p.step then .next (finishStarting ctx d stBankLate (p.step.toNat % 2 ^ 32) s)
          else
            let p := { p with step := if all then oldest.getD p.step else p.step }
            .next (armBank ctx (some d.key) (all && oldest.isNone) peer p (keepStarting ctx d s))

/-- BANK CANCEL (R362). -/
def execBankCancel (ctx : Ctx) (s : State) : Out :=
  match startingOf s ctx 0x0A with
  | none => .next s
  | some d =>
    if dfld d.words 0x10 3 0 ≠ 2 then .next s
    else if s.bank.run.any (fun r => r.ctx == ctx) then .next (finishStarting ctx d stOk 0 (bankLost 6 s))
    else .next (finishStarting ctx d stBankRefused 0 s)

/-! ### Shards, tags and the manifest (R357, R359, R360) -/

/-- RANK in the bound partition entry. -/
def bankRank (s : State) (c : Ctx) : Nat := (rankOf s c).toNat

/-- The tag that follows a shard. -/
def shardTag (s : State) (r : BankRun) (i z : Nat) : List Byte :=
  leBytes 8 r.nextStep.toNat ++ leBytes 8 r.plan.jobId.toNat ++ leBytes 4 (bankRank s r.ctx + 2 ^ 16 * i) ++ leBytes 4 0
    ++ leBytes 8 z ++ List.replicate 32 0

/-- The shards of a bank with their index in the manifest, their list entry and their stored bytes. -/
def bankedShards (r : BankRun) : List (Nat × BankEntry × List Byte) :=
  (List.range r.shards.length).zip ((bankedEntries r.plan).zip r.shards |>.map (fun q => (q.1.2, q.2.2)))

/-- Every shard and its tag are written to the slot, in list order. -/
def writeShards (r : BankRun) (s : State) : State :=
  let loc := slotLoc r.plan r.slot
  let s := forAll (bankedShards r) (fun q s =>
    let e := q.2.1
    writeLoc r.ctx loc (e.dstOff + up64 (storedSize e)) (shardTag s r q.1 (storedSize e))
      (writeLoc r.ctx loc e.dstOff q.2.2 s)) s
  modBank (fun b => { b with
    bytes := BitVec.ofNat 40 ((r.shards.map (fun q => q.2.length)).sum), shard := BitVec.ofNat 13 (r.shards.length - 1) }) s

/-- TABLE_ID of the install table. -/
def tableId (s : State) : Nat := leAt (tableBytes s) 0x10 8

/-- The manifest up to its signature (R360). -/
def manifestBody (s : State) (r : BankRun) : List Byte :=
  leBytes 4 manifestMagic ++ leBytes 4 (1 + 2 ^ 16 * flag r.slot + 2 ^ 17 * flag r.plan.writer)
    ++ leBytes 8 r.nextStep.toNat ++ leBytes 8 r.cursor.toNat ++ leBytes 8 r.plan.jobId.toNat
    ++ leBytes 4 (bankRank s r.ctx + 2 ^ 16 * r.shards.length)
    ++ leBytes 4 (partCode s.fuses.part + 2 ^ 8 * s.pkg.effective.toNat + 2 ^ 16 * (enabledMask s).toNat)
    ++ leBytes 8 s.fuses.serial.toNat ++ leBytes 8 (tableId s) ++ leBytes 8 r.ptb.toNat ++ idPublic s ++ List.replicate 32 0
    ++ (bankedShards r).flatMap (fun q =>
      let e := q.2.1
      leBytes 8 (e.kind + 2 ^ 4 * flag e.narrow + 2 ^ 5 * flag e.dup) ++ leBytes 8 e.src ++ leBytes 8 (storedSize e)
        ++ leBytes 8 e.dstOff ++ (Config.sha512 q.2.2).toList)

/-- BANK_SIGN: the shards and tags are at the destination, and firmware signs the manifest (R357, R359); or the bank ends as
R362 states. -/
def execBankSign (e : CopyEnd) (s : State) : Out :=
  match s.bank.run with
  | none => .next s
  | some r =>
    if r.st ≠ .banking then .next s
    else
      match e with
      | .accepted =>
        let s := writeShards r s
        let sig := idSign s (manifestBody s r)
        .next (modBank (fun b => { b with run := some { r with st := .signing, signature := sig } }) s)
      | .readFailed => .next (clearCheck (bankLost 1 s))
      | .pathLost => .next (bankLost 4 s)
      | .peerRefused => .next (bankLost 5 s)

/-- BANK_SIGN_TIMEOUT: the signing fails or is not done within 2 ms (R362). -/
def execBankSignTimeout (s : State) : Out :=
  match s.bank.run with
  | none => .next s
  | some r =>
    match r.st with
    | .banking => .next (bankLost 7 (writeShards r s))
    | .signing => .next (bankLost 7 s)
    | _ => .next s

/-- BANK_DONE: the manifest is written, its first 8 bytes last, and the bank completes (R359). -/
def execBankDone (s : State) : Out :=
  match s.bank.run with
  | none => .next s
  | some r =>
    if r.st ≠ .signing then .next s
    else
      let m := manifestBody s r ++ r.signature
      let loc := slotLoc r.plan r.slot
      let s := writeLoc r.ctx loc 0 (m.take 8) (writeLoc r.ctx loc 8 (m.drop 8) s)
      let s := modBank (fun b => { b with
        run := none, lastAuto := r.auto, lastSlot := r.slot
        template := if r.auto then b.template else some (r.ctx, r.plan) }) s
      let s := raise 0x0903 (hubUnit 2) { ctx := some r.ctx, arg0 := flag r.slot, arg1 := r.nextStep.toNat } s
      match r.key with
      | some k => .next (completeKey r.ctx k stOk 0 0 s)
      | none => .next s

/-! ### Restore (R363 to R366) -/

/-- RESTORE_STEP_MISMATCH (R369). -/
def stRestoreStep : Nat := 0x30
/-- RESTORE_BAD_MANIFEST (R369). -/
def stRestoreManifest : Nat := 0x31
/-- RESTORE_DIGEST (R369). -/
def stRestoreDigest : Nat := 0x32
/-- RESTORE_REFUSED (R369). -/
def stRestoreRefused : Nat := 0x33

/-- A manifest as read: its place and bytes. -/
structure Manifest where
  loc : CkptLoc
  bytes : List Byte
deriving DecidableEq, Repr

/-- COUNT of a manifest. -/
def Manifest.count (m : Manifest) : Nat := bitsOf (leAt m.bytes 0x20 4) 28 16

/-- Offset of a shard record. -/
def Manifest.record (_ : Manifest) (i : Nat) : Nat := 128 + 96 * i

/-- STORED of a shard. -/
def Manifest.stored (m : Manifest) (i : Nat) : Nat := leAt m.bytes (m.record i + 0x10) 8 % 2 ^ 40

/-- DST_OFF of a shard. -/
def Manifest.dstOff (m : Manifest) (i : Nat) : Nat := leAt m.bytes (m.record i + 0x18) 8 % 2 ^ 40

/-- KIND of a shard. -/
def Manifest.kind (m : Manifest) (i : Nat) : Nat := leAt m.bytes (m.record i) 1 % 16

/-- NARROW of a shard. -/
def Manifest.narrow (m : Manifest) (i : Nat) : Bool := decide (bitsOf (leAt m.bytes (m.record i) 1) 4 4 = 1)

/-- Reads the manifest at a place. -/
def readManifest (s : State) (peer : List (Nat × Byte)) (l : CkptLoc) : Manifest :=
  let count := bitsOf (leAt (readLoc s peer l 0 128) 0x20 4) 28 16
  { loc := l, bytes := readLoc s peer l 0 (128 + 96 * count + 64) }

/-- Whether MAGIC, FORMAT and the reserved bits are as R360 states. -/
def Manifest.formOk (m : Manifest) : Bool :=
  let b := m.bytes
  decide (leAt b 0 4 = manifestMagic) && decide (leAt b 4 2 = 1) && decide (bitsOf (leAt b 4 4) 31 18 = 0)
    && decide (bitsOf (leAt b 0x20 4) 15 14 = 0) && decide (bitsOf (leAt b 0x20 4) 31 29 = 0)
    && decide (leAt b 0x27 1 = 0) && decide (leAt b 0x60 32 = 0)
    && (List.range m.count).all (fun i =>
      let o := m.record i
      decide (leAt b o 8 < 64) && decide (leAt b (o + 8) 8 < 2 ^ 48) && decide (leAt b (o + 0x10) 8 < 2 ^ 40)
        && decide (leAt b (o + 0x18) 8 < 2 ^ 40))

/-- SIGNER of a manifest. -/
def Manifest.signer (m : Manifest) : List Byte := (m.bytes.drop 0x40).take 32

/-- Whether the signature verifies under the signer (R360, R374). -/
def Manifest.signed (m : Manifest) : Bool :=
  let n := 128 + 96 * m.count
  Config.ed25519Verify m.signer (Config.sha512 (m.bytes.take n)).toList (m.bytes.drop n)

/-- NEXT_STEP of a manifest. -/
def Manifest.nextStep (m : Manifest) : Nat := leAt m.bytes 8 8

/-- Whether the part of a manifest matches this package (R364). -/
def Manifest.partOk (s : State) (m : Manifest) : Bool :=
  decide (leAt m.bytes 0x24 1 = partCode s.fuses.part) && decide (leAt m.bytes 0x26 1 = (enabledMask s).toNat)
    && decide (leAt m.bytes 0x25 1 ≤ s.pkg.effective.toNat)

/-- An entry of a restore list (R363). -/
structure RestoreEntry where
  shard : Nat
  writer : Bool
  wcopy : Bool
  dst : Nat
  wc : Nat
deriving DecidableEq, Repr

/-- The entry of a restore list at an index. -/
def restoreEntryAt (bs : List Byte) (i : Nat) : RestoreEntry :=
  let o := 64 + 32 * i
  let w := leAt bs o 8
  { shard := w % 8192, writer := decide (bitsOf w 16 16 = 1), wcopy := decide (bitsOf w 17 17 = 1)
    dst := leAt bs (o + 8) 8 % 2 ^ 48, wc := leAt bs (o + 16) 8 % 2 ^ 48 }

/-- A RESTORE with its list and its manifests. -/
structure RestoreJob where
  list : List Byte
  addr : Nat
  own : Manifest
  writer : Option Manifest
deriving DecidableEq, Repr

/-- COUNT of a restore list, as far as its entries are read. -/
def RestoreJob.count (j : RestoreJob) : Nat := min (leAt j.list 0 8 % 8192) 4096

/-- The entries of a restore list. -/
def RestoreJob.entries (j : RestoreJob) : List RestoreEntry := (List.range j.count).map (restoreEntryAt j.list)

/-- The manifest that an entry names. -/
def RestoreJob.manifestOf (j : RestoreJob) (e : RestoreEntry) : Option Manifest := if e.writer then j.writer else some j.own

/-- A checkpoint place named by a locator of kind 1 or 2 (R278, R363). -/
def locOf (v : Nat) : CkptLoc :=
  if bitsOf v 63 62 = 1 then { host := true, rank := 0, addr := v % 2 ^ 57 }
  else { host := false, rank := bitsOf v 61 48, addr := v % 2 ^ 48 }

/-- The job that a RESTORE descriptor names. -/
def restoreJob (s : State) (peer : List (Nat × Byte)) (w : BitVec 512) : RestoreJob :=
  let a := dfld w 0x28 47 0
  let count := min (leAt (memRead s a 64) 0 8 % 8192) 4096
  let l := memRead s a (64 + 32 * count)
  let own : CkptLoc :=
    if dfld w 0x10 0 0 = 0 then { host := true, rank := 0, addr := dfld w 0x18 63 0 }
    else { host := false, rank := dfld w 0x20 13 0, addr := dfld w 0x18 47 0 }
  let wman := leAt l 0x10 8
  { list := l, addr := a, own := readManifest s peer own
    writer := if wman = 0 then none else some (readManifest s peer (locOf wman)) }

/-- The manifests of a job. -/
def RestoreJob.manifests (j : RestoreJob) : List Manifest := j.own :: j.writer.toList

/-- Whether a shard's tag carries the step, the job, the rank and the index of its manifest (R364). -/
def tagOk (s : State) (peer : List (Nat × Byte)) (j : RestoreJob) (e : RestoreEntry) : Bool :=
  match j.manifestOf e with
  | none => true
  | some m =>
    if m.count ≤ e.shard then true
    else
      let t := readLoc s peer m.loc (m.dstOff e.shard + up64 (m.stored e.shard)) 64
      decide (leAt t 0 8 = j.own.nextStep) && decide (leAt t 8 8 = leAt m.bytes 0x18 8)
        && decide (bitsOf (leAt t 0x10 4) 13 0 = bitsOf (leAt m.bytes 0x20 4) 13 0)
        && decide (bitsOf (leAt t 0x10 4) 28 16 = e.shard)

/-- Elements of a moment from its stored size (R364). -/
def momentCount (z : Nat) (narrow : Bool) : Nat := if narrow then z * 1024 / 1025 else z * 1024 / 2049

/-- Bytes of a shard at its destination (R364). -/
def shardWritten (m : Manifest) (i : Nat) : Nat :=
  if m.kind i = 2 then bs16Bytes (momentCount (m.stored i) (m.narrow i)) else m.stored i

/-- The areas that an entry writes. -/
def restoreAreas (j : RestoreJob) (e : RestoreEntry) : List (Nat × Nat) :=
  match j.manifestOf e with
  | none => []
  | some m => (e.dst, shardWritten m e.shard) :: (if e.wcopy then [(e.wc, m.stored e.shard / 2)] else [])

/-- Whether a restore list follows R363 and R364. -/
def restoreListOk (s : State) (c : Ctx) (j : RestoreJob) : Bool :=
  let x := getCtx s c
  let l := j.list
  let count := leAt l 0 8 % 8192
  let wman := leAt l 0x10 8
  reaches x j.addr (64 + 32 * count) && decide (1 ≤ count) && decide (count ≤ 4096) && decide (leAt l 0 8 < 8192)
    && (decide (wman = 0) || ((decide (bitsOf wman 63 62 = 1) || decide (bitsOf wman 63 62 = 2)) && locatorOk wman true))
    && decide (leAt l 0x18 40 = 0)
    && (List.range count).all (fun i =>
      let o := 64 + 32 * i
      decide (bitsOf (leAt l o 8) 15 13 = 0) && decide (bitsOf (leAt l o 8) 63 18 = 0) && decide (leAt l (o + 8) 8 < 2 ^ 48)
        && decide (leAt l (o + 16) 8 < 2 ^ 48) && decide (leAt l (o + 24) 8 = 0) && decide (leAt l (o + 8) 8 % 64 = 0))
    && j.entries.all (fun e => match j.manifestOf e with
      | none => false
      | some m => decide (e.shard < m.count) && (!e.wcopy || decide (m.kind e.shard = 1)))
    && j.entries.all (fun e => (restoreAreas j e).all (fun a => reaches x a.1 a.2))
    && (firstOverlap (j.entries.flatMap (restoreAreas j))).isNone

/-- The stored bytes of the shard that an entry names. -/
def shardBytes (s : State) (peer : List (Nat × Byte)) (j : RestoreJob) (e : RestoreEntry) : List Byte :=
  match j.manifestOf e with
  | none => []
  | some m => readLoc s peer m.loc (m.dstOff e.shard) (m.stored e.shard)

/-- Whether a shard has the digest of its record. -/
def digestOk (s : State) (peer : List (Nat × Byte)) (j : RestoreJob) (e : RestoreEntry) : Bool :=
  match j.manifestOf e with
  | none => true
  | some m => decide ((Config.sha512 (shardBytes s peer j e)).toList = (m.bytes.drop (m.record e.shard + 0x20)).take 64)

/-- The index of the first entry that fails a test. -/
def firstBad (l : List RestoreEntry) (ok : RestoreEntry → Bool) : Option Nat := placeOf (fun e => !(ok e)) l

/-- Whether JOB_ID and RANK, and the writer's manifest, are as R364 asks. -/
def jobOk (s : State) (c : Ctx) (j : RestoreJob) : Bool :=
  let id := leAt j.list 8 8
  decide (leAt j.own.bytes 0x18 8 = id) && decide (bitsOf (leAt j.own.bytes 0x20 4) 13 0 = bankRank s c)
    && j.writer.toList.all (fun m => decide (leAt m.bytes 0x18 8 = id) && decide (bitsOf (leAt m.bytes 4 4) 17 17 = 1))

/-- The refusal of a RESTORE: the first check of R364 that fails. -/
def restoreRefusal (s : State) (c : Ctx) (peer : List (Nat × Byte)) (j : RestoreJob) : Option (Nat × Nat) :=
  if s.step.held.any (fun h => h.ctx == c) || s.pwr.modes.mirror then some (stRestoreRefused, 1)
  else if !(j.manifests.all Manifest.formOk) then some (stRestoreManifest, 1)
  else if !(j.manifests.all Manifest.signed) then some (stRestoreManifest, 2)
  else if !(jobOk s c j) then some (stRestoreRefused, 2)
  else if !(j.manifests.all (Manifest.partOk s)) then some (stRestoreRefused, 3)
  else if j.manifests.any (fun m => decide (m.nextStep ≠ j.own.nextStep)) then
    some (stRestoreStep, (placeOf RestoreEntry.writer j.entries).getD 0)
  else
    match firstBad j.entries (tagOk s peer j) with
    | some i => some (stRestoreStep, i)
    | none =>
      if !(restoreListOk s c j) then some (stRestoreRefused, 4)
      else (firstBad j.entries (digestOk s peer j)).map (fun i => (stRestoreDigest, i))

/-- What an entry loads. -/
def restoreShard (s : State) (peer : List (Nat × Byte)) (j : RestoreJob) (e : RestoreEntry) : List RestoreShard :=
  match j.manifestOf e with
  | none => []
  | some m =>
    [{ loc := { m.loc with addr := m.loc.addr + m.dstOff e.shard }, first := shardBytes s peer j e, kind := m.kind e.shard
       narrow := m.narrow e.shard, wcopy := e.wcopy, dst := e.dst, wc := e.wc }]

/-- RESTORE: it is refused, or its first pass passes and the second begins (R364, R365). -/
def execRestore (ctx : Ctx) (peer : List (Nat × Byte)) (s : State) : Out :=
  match startingOf s ctx 0x0C with
  | none => .next s
  | some d =>
    if s.bank.restoreRun.any (fun r => (startedDesc s r.ctx r.key).isSome) then .next s
    else
      let j := restoreJob s peer d.words
      match restoreRefusal s ctx peer j with
      | some r => .next (finishStarting ctx d r.1 r.2 s)
      | none =>
        let run : RestoreRun :=
          { ctx := ctx, key := d.key, nextStep := BitVec.ofNat 64 j.own.nextStep
            cursor := BitVec.ofNat 64 (leAt j.own.bytes 0x10 8), signer := j.own.signer
            shards := j.entries.flatMap (restoreShard s peer j) }
        .next (modBank (fun b => { b with restore := .running, restoreRun := some run }) (keepStarting ctx d s))

/-- The FP32 values of block b of a NARROW shard of n elements (R354, R365). -/
def narrowBlock (bs : List Byte) (n b : Nat) : List (BitVec 32) :=
  let scale := leAt bs (n + b) 1
  (List.range 1024).map (fun i =>
    if scale = 0xFF then 0x7FC00000
    else toF32 ((Fmt.e5m2.decode (leAt bs (1024 * b + i) 1)).scale ((scale : Int) - 127)))

/-- Writes one shard of the second pass (R365). -/
def writeRestored (r : RestoreShard) (bs : List Byte) (s : State) : State :=
  let n := momentCount bs.length r.narrow
  let s := if r.kind = 2 && r.narrow then
      forAll (List.range (n / 1024)) (fun b s => writeBs16 r.dst n b (narrowBlock bs n b) s) s
    else memWrite r.dst bs s
  if r.wcopy then
    memWrite r.wc ((List.range (bs.length / 4)).flatMap (fun i =>
      leBytes 2 (Fmt.bf16.convert false (f32 (BitVec.ofNat 32 (leAt bs (4 * i) 4)))).code)) s
  else s

/-- STEP_MIRROR.STATE after a RESTORE (R366). -/
def mirrorAfterRestore : MirrorState → MirrorState
  | .synced => .paired
  | .stale => .paired
  | .lost => .paired
  | m => m

/-- RESTORE_COMPLETE: the second pass has written every shard; a byte that differs from the first pass fails it, else the step
registers are set and the RESTORE completes (R365, R366; log entry 53). -/
def execRestoreComplete (ctx : Ctx) (peer : List (Nat × Byte)) (s : State) : Out :=
  match s.bank.restoreRun with
  | none => .next s
  | some r =>
    if r.ctx ≠ ctx then .next s
    else
      let again := r.shards.map (fun h => readLoc s peer h.loc 0 h.first.length)
      let s := forAll (r.shards.zip again) (fun q s => writeRestored q.1 q.2 s) s
      match placeOf (fun q => decide (q.1.first ≠ q.2)) (r.shards.zip again) with
      | some i =>
        let g := (getCtx s ctx).gen
        .next (completeKey ctx r.key stRestoreDigest i 0 (modBank (fun b => { b with
          restore := .failed, restoreRun := none, restoreCtx := some (ctx, g) }) s))
      | none =>
        let s := modBank (fun b => { b with
          restore := .done, restoreRun := none, restoreCtx := none, restoreStep := BitVec.ofNat 32 r.nextStep.toNat }) s
        let s := modStep (fun e => { e with
          number := r.nextStep, next := r.nextStep, cursor := r.cursor, mirror := mirrorAfterRestore e.mirror }) s
        let s := modCtx ctx (fun x => { x with shrunk := false }) s
        let s := raise 0x0905 (hubUnit 2) { ctx := some ctx, arg0 := leNat (r.signer.take 4), arg1 := r.nextStep.toNat } s
        .next (completeKey ctx r.key stOk 0 0 s)

/-! ### The error-rate watch (R348 to R351) -/

/-- The window length T in ns (R368). -/
def watchPeriod (s : State) : Nat :=
  let v := fld s.bank.watchCfg 15 0
  1000000 * (if v = 0 then 1000 else min v 60000)

/-- The threshold of a source (R368). -/
def watchThreshold (s : State) : WatchSource → Nat
  | .mem => fld s.bank.thr 15 0
  | .drop => fld s.bank.thr 23 16
  | .retrain => fld s.bank.thr 31 24
  | .fec => fld s.bank.thr 63 32

/-- The count of a source in the present window. -/
def watchCount (b : BankEng) : WatchSource → Nat
  | .mem => b.mem.toNat
  | .fec => b.fec.toNat
  | .drop => b.drop.toNat
  | .retrain => b.retrain.toNat

/-- One occurrence more. -/
def watchAdd (src : WatchSource) (b : BankEng) : BankEng :=
  match src with
  | .mem => { b with mem := satUp b.mem 1 }
  | .fec => { b with fec := satUp b.fec 1 }
  | .drop => { b with drop := satUp b.drop 1 }
  | .retrain => { b with retrain := satUp b.retrain 1 }

/-- Whether a source has reached its threshold; a threshold of 0 turns it off. -/
def watchHit (s : State) (src : WatchSource) : Bool :=
  decide (watchThreshold s src ≠ 0) && decide (watchThreshold s src ≤ watchCount s.bank src)

/-- The bits of the sources that have reached their thresholds (R368). -/
def watchBits (s : State) : Nat :=
  flag (watchHit s .mem) + 2 * flag (watchHit s .fec) + 4 * flag (watchHit s .drop) + 8 * flag (watchHit s .retrain)

/-- An advisory starts a bank by itself, with AUTO_BANK on, a template and no bank under way (R351). -/
def autoBank (s : State) : State :=
  match s.pwr.modes.autoBank, stepHolder s, s.bank.run, s.bank.template with
  | true, some c, none, some (tc, p) =>
    if tc = c then
      let lead := if fld s.bank.watchCfg 23 20 = 0 then 2 else fld s.bank.watchCfg 23 20
      let sa := (oldestUnresolved s c).getD s.step.number + BitVec.ofNat 64 lead
      raise 0x0902 (hubUnit 2) { ctx := some c, arg1 := sa.toNat } (armBank c none false [] { p with step := sa } s)
    else s
  | _, _, _, _ => s

/-- A source has reached its threshold: the advisory is raised, once in a window (R350). -/
def advise (s : State) : State :=
  if s.bank.advised then s
  else
    let bits := watchBits s
    let s := modBank (fun b => { b with
      advised := true, advSrc := BitVec.ofNat 4 bits, advCount := satUp b.advCount 1 }) s
    autoBank (raise 0x0901 (hubUnit 0x0C)
      { ctx := stepHolder s, arg0 := bits, arg1 := s.bank.window * watchPeriod s } s)

/-- Counts an occurrence in the present window. -/
def watchTake (src : WatchSource) (s : State) : State :=
  let s := modBank (watchAdd src) s
  if watchHit s src then advise s else s

/-- Opens a window; the occurrences that came early and belong to it are counted. -/
def openWindow (k : Nat) (s : State) : State :=
  let early := if k = s.bank.window + 1 then s.bank.early else []
  forAll early watchTake (modBank (fun b => { b with
    mem := 0, fec := 0, drop := 0, retrain := 0, window := k, early := [], advised := false }) s)

/-- An occurrence arrives at the watch at a time: it counts in the window that holds its creation stamp (R349). One of a window that has
closed does not come: every occurrence arrives within 10 µs of its creation. -/
def takeOccurrence (now : Nat) (src : WatchSource) (stamp : Nat) (s : State) : State :=
  if !(bit s.bank.watchCfg 16) then s
  else
    let k := stamp / watchPeriod s
    let closed := (now - 10000) / watchPeriod s
    let s := if s.bank.window < closed then openWindow closed s else s
    if k = s.bank.window then watchTake src s
    else if k = s.bank.window + 1 then modBank (fun b => { b with early := b.early ++ [src] }) s
    else if s.bank.window < k then watchTake src (openWindow k s)
    else s

/-- The occurrences that the part's own units have created reach the watch, each as it was created (R348, R349). -/
def deliverWatch (s : State) : State :=
  forAll s.bank.arrivals (fun a s => takeOccurrence a.2.toNat a.1 a.2.toNat s) (modBank (fun b => { b with arrivals := [] }) s)

/-- WATCH_OCCURRENCE: an occurrence that no other command shows, with its creation stamp (R348, R349; log entries 54, 118). -/
def execWatchOccurrence (src : WatchSource) (stamp : BitVec 64) (s : State) : Out :=
  let s := deliverWatch (advanceTo stamp s)
  .next (takeOccurrence s.mgmt.ptb.toNat src stamp.toNat s)

/-- WATCH_WINDOW_CLOSE: the present window closes 10 µs after its end (R349). -/
def execWatchWindowClose (s : State) : Out :=
  let s := deliverWatch s
  let k := s.bank.window + 1
  .next (openWindow k (advanceTo (BitVec.ofNat 64 (k * watchPeriod s) + usec 10) s))

end Sys2Proof.Machine
end

