-- ==== Sys2Proof/Machine/Edges.lean ====
section
/-! DEFINITION. Die-to-die edges: frames and replay, training, width, and quarantine (R203 to R211). -/

namespace Sys2Proof.Machine

/-- The event source of an edge (R391). -/
def edgeUnit (e : Nat) : BitVec 12 := hubUnit (0x10 + e)

/-- A frame that cannot be taken: it and every later one is discarded until the expected number arrives, and NAK, with ACK at the
last good number, is sent when the discarding begins (R205; log entry 37). While only IDLE frames are sent, none leaves (R208). -/
def discardFrame (m : Nat) (x : Edge) : Edge :=
  if (edgeModule x m).discarding then x
  else
    let y := modModule m (fun q => { q with discarding := true }) x
    if x.idleOnly then y else sendFrame m .nak noPiece y

/-- One piece is joined to the packet that is not whole yet. A packet that this side already holds, by its edge sequence number, is
discarded (R204, R206). -/
def joinPiece (fr : Frame) (x : Edge) : Edge :=
  if fr.packet < x.expected then x
  else if fr.last then
    { x with joining := [], expected := fr.packet + 1, received := x.received ++ [x.joining ++ fr.payload] }
  else { x with joining := x.joining ++ fr.payload }

/-- Rejoins pieces in the order in which they were placed: round-robin over the active modules (R204). -/
def joinPieces : Nat → Edge → Edge
  | 0, x => x
  | f + 1, x =>
    match moduleTurn x x.joinTurn with
    | none => x
    | some m =>
      match (edgeModule x m).arrived with
      | [] => x
      | fr :: rest => joinPieces f (joinPiece fr { (modModule m (fun q => { q with arrived := rest }) x) with joinTurn := m + 1 })

/-- Frames that wait to be rejoined. -/
def arrivedFrames (x : Edge) : Nat := (x.modules.map (fun kv => kv.2.arrived.length)).sum

/-- A good frame with the expected number. -/
def takeFrame (m : Nat) (fr : Frame) (x : Edge) : Edge :=
  let x := ackFrames m fr.ack (modModule m (fun q => { q with rxNext := fr.seq + 1, discarding := false }) x)
  match fr.ftype with
  | .data =>
    let y := modModule m (fun q => { q with arrived := q.arrived ++ [fr] }) x
    joinPieces (arrivedFrames y) y
  | .nak => replayFrames m fr.ack x
  | _ => x

/-- An edge enters QUARANTINE: traffic is held, and all 16 modules train again (R210). -/
def quarantineEdge (e : Nat) (s : State) : State :=
  if (getEdge s e).st = .active then
    raise 0x0405 (edgeUnit e) {} (occur .retrain (modEdge e (fun x => { x with
      st := .quarantine, holding := true, quarantined := true, passing := 0xFFFF, quarantines := satUp x.quarantines 1
      enteredAt := s.mgmt.ptb }) s))
  else s

/-- An ACTIVE edge retrains: traffic is held in both directions (R209). -/
def retrainEdge (e : Nat) (s : State) : State :=
  if (getEdge s e).st = .active then
    occur .retrain (modEdge e (fun x => { x with
      st := .retrain, holding := true, fromRetrain := true, passing := 0xFFFF, retrains := satUp x.retrains 1
      enteredAt := s.mgmt.ptb }) s)
  else s

/-- A CRC error of a module counts; more than CRC_LIMIT of them on one module within 1 ms retrain the edge, and a limit of 0 turns this
off (R209, R222). -/
def edgeCrcError (e m : Nat) (s : State) : State :=
  let now := s.mgmt.ptb
  let recent := ((edgeModule (getEdge s e) m).crcTimes.filter (fun t => decide ((now - t).toNat < 1000000))) ++ [now]
  let s := occur .fec (modEdge e (fun x => discardFrame m
    { (modModule m (fun q => { q with crcTimes := recent }) x) with crc := satUp x.crc 1 }) s)
  let lim := fld s.pkg.edgeCfg 15 0
  if lim ≠ 0 ∧ lim < recent.length then retrainEdge e s else s

/-- EDGE_FRAME_RECEIVE: an active module's frame is checked for CRC, then CTAG, then TYPE and SEQ (R204, R205, R208, R209). -/
def execEdgeFrameReceive (e : Fin 14) (module : Fin 16) (fr : Frame) (s : State) : Out :=
  let x := getEdge s e.val
  let m := module.val
  if (x.st ≠ .active ∧ x.st ≠ .linkinit) ∨ !(x.mask.getLsbD m) then .next s
  else if !(frameGood fr) then .next (edgeCrcError e.val m s)
  else if fr.ctag ≠ x.ctag then
    let s := modEdge e.val (fun x => { x with idleOnly := true }) s
    .next (quarantineEdge e.val s)
  else if fr.ftype = .reserved ∨ fr.seq ≠ (edgeModule x m).rxNext then .next (modEdge e.val (discardFrame m) s)
  else .next (modEdge e.val (takeFrame m fr) s)

/-- EDGE_NAK_RECEIVE (R205): while an edge trains, frames received from it are discarded, and the packets are sent again later
(R206, R210). -/
def execEdgeNakReceive (e : Fin 14) (module : Fin 16) (ack : BitVec 8) (s : State) : Out :=
  if (getEdge s e.val).st = .active then .next (modEdge e.val (replayFrames module.val ack) s) else .next s

/-! ### Failure (R209 to R211) -/

/-- The position that a failing edge takes with it: its own for a hub edge, else the higher-numbered one. -/
def edgeVictim (e : Nat) : Nat := if e < 8 then e else ((edgeEnds e)[1]?).getD 0

/-- Whether every edge that is not DISABLED or FAILED is ACTIVE. -/
def edgesReady (s : State) : Bool :=
  (List.range 14).all (fun e =>
    match (getEdge s e).st with
    | .active => true
    | .disabled => true
    | .failed => true
    | _ => false)

/-- Stage 5 of power-up ends when every enabled edge is ACTIVE or has failed (R209, R409, R410). -/
def d2dStage (s : State) : State :=
  if s.pwr.stage = 4 ∧ edgesReady s then raise 0x0402 (hubUnit 8) {} { s with pwr := { s.pwr with stage := 5 } } else s

/-- A position that is lost: out of service, and the rank with it (R210, R323). The loss of a guest aborts no step (R220). -/
def losePosn (n : Nat) (s : State) : State :=
  let t := modPos n (fun p => { p with st := .outOfService }) s
  if fitsGuest s.fuses.part n then t else loseStepOf n t

/-- An edge fails: at power-up the part goes on without it; later its position is reset, or lost when the edge had failed
before that reset too (R209 to R211, R410). -/
def failEdge (e : Nat) (s : State) : State :=
  let again := (getEdge s e).lastTry
  let s := modEdge e (fun x => { x with st := .failed, width := 0, mask := 0, quarantined := false, fromRetrain := false }) s
  let s := raise 0x0403 (edgeUnit e) {} s
  if s.pwr.stage.toNat < 5 then d2dStage s
  else if again then losePosn (edgeVictim e) s
  else partitionReset (edgeVictim e) capEdge s

/-- EDGE_SBINIT_TIMEOUT (R209). -/
def execEdgeSbinitTimeout (e : Fin 14) (s : State) : Out :=
  if (getEdge s e.val).st = .sbinit then
    .next (failEdge e.val (advanceTo ((getEdge s e.val).enteredAt + msec 1) s))
  else .next s

/-- EDGE_SIDEBAND_UP (R209). -/
def execEdgeSidebandUp (e : Fin 14) (s : State) : Out :=
  if (getEdge s e.val).st = .sbinit then .next (modEdge e.val (fun x => { x with st := .mbinit }) s) else .next s

/-! ### Width (R207 to R209) -/

/-- The passing modules of a mask, lowest first. -/
def modulesOf (m : BitVec 16) : List Nat := (List.range 16).filter (fun k => m.getLsbD k)

/-- W for a number of passing modules. -/
def widthOf (n : Nat) : Nat := if 16 ≤ n then 16 else if 12 ≤ n then 12 else if 8 ≤ n then 8 else if 4 ≤ n then 4 else 0

/-- The mask of a list of modules. -/
def maskOf (l : List Nat) : BitVec 16 := l.foldl (fun m k => m ||| (1 <<< k)) 0

/-- The width decision: the lowest W of the passing modules become active under a new CTAG, and the authority sends mask and CTAG to
the other side. A lower W than before counts for the watch (R207, R208, R348). -/
def decideWidth (e : Nat) (s : State) : State :=
  let x := getEdge s e
  let pass := modulesOf x.passing
  let w := widthOf pass.length
  if w = 0 then failEdge e s
  else
    let mask := maskOf (pass.take w)
    let s := if w < x.width then occur .drop s else s
    modEdge e (fun x => { x with
      st := .linkinit, width := w, mask := mask, ctag := x.ctag + 1, idleOnly := false
      sideband := x.sideband ++ [(mask, x.ctag + 1)], farMask := mask, farCtag := x.ctag + 1 }) s

/-- EDGE_MODULE_TRAINING_DONE: MBINIT ends and the modules that pass go on, or MBTRAIN ends with a width decision. An edge still in
RETRAIN or QUARANTINE passes through MBINIT first, which it enters as time goes on (R209, R210). -/
def execEdgeModuleTrainingDone (e : Fin 14) (near far : BitVec 16) (s : State) : Out :=
  let drop := fun (st : EdgeState) (x : Edge) => { x with st := st, passing := x.passing &&& near &&& far }
  match (getEdge s e.val).st with
  | .mbinit => .next (modEdge e.val (drop .mbtrain) s)
  | .retrain => .next (modEdge e.val (drop .mbtrain) s)
  | .quarantine => .next (modEdge e.val (drop .mbtrain) s)
  | .mbtrain => .next (decideWidth e.val (modEdge e.val (drop .mbtrain) s))
  | _ => .next s

/-- As time goes on, an edge sends a frame; in RETRAIN or QUARANTINE it enters MBINIT with all 16 modules (R204, R209, R210). -/
def edgeGoesOn (e : Nat) (s : State) : State :=
  match (getEdge s e).st with
  | .retrain => modEdge e (fun x => { x with st := .mbinit }) s
  | .quarantine => modEdge e (fun x => { x with st := .mbinit }) s
  | _ => if edgeOwes (getEdge s e) then modEdge e edgeTick s else s

/-- EDGE_LINKINIT_DONE: the edge is ACTIVE, held traffic is released and unacknowledged packets are sent again (R209). -/
def execEdgeLinkinitDone (e : Fin 14) (s : State) : Out :=
  let x := getEdge s e.val
  if x.st = .linkinit then
    let s := modEdge e.val (fun x => resendPackets { x with
      st := .active, holding := false, linkFailed := false, fromRetrain := false, quarantined := false, lastTry := false
      idleOnly := false }) s
    let s := if x.fromRetrain && decide (x.width < 16) then raise 0x0404 (edgeUnit e.val) {} s else s
    .next (d2dStage s)
  else .next s

/-- LINKINIT_MODULE_FAIL: the module drops; the first time MBINIT runs again, after that the width is decided anew (R209). -/
def execLinkinitModuleFail (e : Fin 14) (module : Fin 16) (s : State) : Out :=
  let x := getEdge s e.val
  if x.st = .linkinit then
    let s := modEdge e.val (fun x => { x with
      passing := x.passing &&& ~~~((1 : BitVec 16) <<< module.val), linkFailed := true
      st := if x.linkFailed then .linkinit else .mbinit }) s
    .next (if x.linkFailed then decideWidth e.val s else s)
  else .next s

/-- EDGE_RETRAIN_TRIGGER (R209). -/
def execEdgeRetrainTrigger (e : Fin 14) (s : State) : Out := .next (retrainEdge e.val s)

/-- EDGE_QUARANTINE (R210). -/
def execEdgeQuarantine (e : Fin 14) (s : State) : Out := .next (quarantineEdge e.val s)

/-- QUARANTINE_TIMEOUT: a quarantine not ACTIVE within 1 ms of its entry resets a position (R210). -/
def execQuarantineTimeout (e : Fin 14) (s : State) : Out :=
  let x := getEdge s e.val
  if x.quarantined && decide (x.st ≠ .active) then
    .next (partitionReset (edgeVictim e.val) capQuarantine (advanceTo (x.enteredAt + msec 1) s))
  else .next s

/-- EDGE_SIDEBAND_POLL: the authority reads the other side's mask and CTAG; one that differs from its own is a quarantine (R208,
R209). -/
def execEdgeSidebandPoll (e : Fin 14) (mask : BitVec 16) (ctag : BitVec 4) (s : State) : Out :=
  let x := getEdge s e.val
  let s := modEdge e.val (fun x => { x with farMask := mask, farCtag := ctag }) s
  if mask ≠ x.mask ∨ ctag ≠ x.ctag then .next (quarantineEdge e.val s) else .next s

end Sys2Proof.Machine
end

