-- ==== Sys2Proof/Machine/Links.lean ====
section
/-! DEFINITION. Yalxo ports: flits and replay, lane degrade and port loss, discovery, partition bitmaps, time exchange and
transit errors (R223 to R231, R235, R240, R241, R243, R245 to R247). -/

namespace Sys2Proof.Machine

/-- The event source of a fabric port (R391). -/
def portUnit (p : Nat) : BitVec 12 := hubUnit (0x20 + p)

/-! ### Transit errors (R245) -/

/-- The transit pairs of this package that name a port. -/
def pairsOf (s : State) (p : Nat) : List Transit :=
  (transits (tableBytes s)).filter (fun r =>
    decide (s.fab.selfIdx = some r.pkg) && (decide (r.inPort = p) || decide (r.outPort = p)))

/-- FAB_TRANSIT_ERR in the ring of a partition entry. -/
def raiseTransit (k : Nat) (s : State) : State :=
  let e := getPart s k
  raise 0x0507 (hubUnit 3) { ctx := some e.ctx, pid := some e.pid } s

/-- The VALID partition entries. -/
def validEntries (s : State) : List Nat := (s.fab.parts.filter (fun kv => kv.2.valid)).map Prod.fst

/-- A TRANSIT_ERR message: the spec gives its fields beside MKIND no content, so each is free (log entry 38). -/
def transitMsg (s : State) : Tc0 :=
  let w := fun (k : Nat) => Config.freeWord (s.free + k)
  { pid := (w 0).setWidth 12, mkind := 6, attempt := (w 1).setWidth 4, cause := (w 2).setWidth 8, origin := (w 3).setWidth 14
    step := w 4, body := w 5 ++ w 6 }

/-- The free values of a TRANSIT_ERR message are used up. -/
def afterTransitMsg (s : State) : State := { s with free := s.free + 7 }

/-- An error on a port that a transit pair names is reported to both partitions (R245). -/
def transitError (p : Nat) (s : State) : State :=
  if (pairsOf s p).isEmpty then s
  else
    let ax := portAxis p
    let msg := transitMsg s
    let s := forAll (validEntries s) raiseTransit (afterTransitMsg s)
    sendTc0 (([2 * ax, 2 * ax + 1]).filterMap (lowestUp s)) msg s

/-- The way out of what arrives at a port in transit: the OUT_PORT of a pair that names it, or while that port is not UP another one
of its group (R244). -/
def transitPort (s : State) (port : Nat) : Option Nat :=
  ((pairsOf s port).find? (fun r => decide (r.inPort = port))).bind (fun r => upFrom s (portGroup r.outPort) (r.outPort % 4))

/-- A packet whose PID is not VALID here is transit: it is forwarded, or dropped, counted and reported (R244, R245). -/
def transitPacket (port : Nat) (p : Packet) (s : State) : State :=
  match transitPort s port with
  | some out => emitOn out port p (modFab (fun f => { f with transitFwd := f.transitFwd + 1 }) s)
  | none => transitError port (modFab (fun f => { f with transitDrop := satUp f.transitDrop 1 }) s)

/-- TRANSIT_ERR at a port: the first package with a VALID entry that wraps on the axis raises the event; one that is transit
forwards the message straight on, as it is (R245). -/
def transitArrive (port : Nat) (p : Packet) (s : State) : State :=
  let mine := (validEntries s).filter (fun k => (boxAxis (getPart s k).box (portAxis port)).2.2)
  if mine.isEmpty then transitPacket port p s else forAll mine raiseTransit s

/-- A flooded message of a partition that is not VALID here goes straight on, as the packet that a neighbour sent here (R239,
R244). -/
def transitTc0 (port : Nat) (msg : Tc0) (s : State) : State :=
  let t := tableBytes s
  transitPacket port { tc0Packet msg with
    dst := coordField t (s.fab.selfIdx.getD 0), src := coordField t (getPort s port).nbr.toNat } s

/-- The packet of a TRANSIT_ERR of a PID as it comes: its other fields are free (log entry 38). -/
def transitErrPacket (pid : BitVec 12) (s : State) : Packet := tc0Packet { transitMsg s with pid := pid }

/-- TRANSIT_ERR_RECEIVE (R245). -/
def execTransitErrReceive (port : Fin 24) (pid : BitVec 12) (s : State) : Out :=
  .next (transitArrive port.val (transitErrPacket pid s) (afterTransitMsg s))

/-! ### Flits (R226 to R228, R235) -/

/-- Flits of a pool: local pools at 0 to 3, transit pools at 4 to 7 (R235). -/
def poolSize : Nat → Nat
  | 0 => 16
  | 1 => 192
  | 2 => 384
  | 3 => 192
  | 4 => 8
  | 5 => 64
  | 6 => 128
  | _ => 64

/-- Flits up to an acknowledged number leave the replay buffer, and packets whose last flit is among them are done with. -/
def ackFlits (ack : BitVec 12) (q : FabPort) : FabPort :=
  { q with
    ackFrom := ack + 1
    replay := q.replay.filter (fun f => decide (2048 ≤ (ack - f.seq).toNat))
    unacked := q.unacked.filter (fun f => decide (2048 ≤ (ack - f.1).toNat)) }

/-- Credits that a flit returns, up to the size of each pool (R226, R235). -/
def addCredits (crl crt : List (BitVec 4)) (q : FabPort) : FabPort :=
  let give := fun (m : SMap Nat) (x : Nat × BitVec 4) =>
    SMap.upd 0 m x.1 (fun c => min (poolSize x.1) (c + x.2.toNat))
  { q with credits := ((List.range 4).zip crl ++ ((List.range 4).map (· + 4)).zip crt).foldl give q.credits }

/-- The flits from ACK + 1 go out again with the bits they had (R228). -/
def resendFlits (q : FabPort) : FabPort := { q with sent := q.sent ++ q.replay }

/-- A NAK: replay from ACK + 1, counted (R228). -/
def nakPort (ack : BitVec 12) (q : FabPort) : FabPort :=
  { (resendFlits (ackFlits ack q)) with replays := satUp q.replays 1 }

/-- A NAK at a port; a transit pair's port whose replays pass FEC_LIMIT reports it (R228, R245). -/
def nakArrive (p : Nat) (ack : BitVec 12) (s : State) : State :=
  let s := modPort p (nakPort ack) s
  let q := getPort s p
  let lim := fld q.cfg 15 0
  if lim ≠ 0 ∧ lim < q.replays.toNat then transitError p s else s

/-- A flit that cannot be taken: it and every later one is discarded until the expected number arrives, and NAK, with ACK at the
last good number, is sent when the discarding begins (R228; log entry 37). -/
def discardFlit (q : FabPort) : FabPort :=
  if q.discarding then q else sendFlit .nak 0 false [] { q with discarding := true }

/-- A good DATA flit waits in the pool that its POOL bit names. -/
def holdFlit (fl : Flit) (q : FabPort) : FabPort :=
  { q with held := SMap.upd [] q.held (if fl.pool then fl.tc.val + 4 else fl.tc.val) (fun l => l ++ [fl.data]) }

/-- A good flit with the expected number. -/
def takeFlit (p : Nat) (fl : Flit) (s : State) : State :=
  let s := modPort p (fun q => { (addCredits fl.crl fl.crt (ackFlits fl.ack q)) with
    rxNext := fl.seq + 1, discarding := false }) s
  match fl.kind with
  | .data => modPort p (holdFlit fl) s
  | .nak => nakArrive p fl.ack s
  | _ => s

/-- A port degrades or retrains: both ends stop DATA and train, and what is not acknowledged stays in the replay buffer (R229). -/
def degradePort (p : Nat) (s : State) : State :=
  transitError p (modPort p (fun q => { q with st := .retrain, degrades := satUp q.degrades 1, fecTimes := [] }) s)

/-- An uncorrectable codeword of a lane: more than FEC_LIMIT of them on one lane in 1 ms degrade the port, and a limit of 0 turns
this off (R229, R252). -/
def badCodeword (p lane : Nat) (s : State) : State :=
  let now := s.mgmt.ptb
  let recent := ((SMap.get [] (getPort s p).fecTimes lane).filter (fun t => decide ((now - t).toNat < 1000000))) ++ [now]
  let s := modPort p (fun q => { q with fecTimes := SMap.set [] q.fecTimes lane recent }) s
  let lim := fld (getPort s p).cfg 15 0
  if lim ≠ 0 ∧ lim < recent.length then degradePort p s else s

/-- A flit with a CRC error or a codeword that the FEC cannot correct is discarded and counted, for the watch too (R228, R348). -/
def spoiledFlit (p : Nat) (bad : Option (Fin 8)) (s : State) : State :=
  let s := occur .fec (modPort p (fun q => discardFlit { q with crc := satUp q.crc 1 }) s)
  match bad with
  | some lane => badCodeword p lane.val s
  | none => s

/-- FLIT_RECEIVE (R226 to R229). -/
def execFlitReceive (port : Fin 24) (a : FlitArrival) (s : State) : Out :=
  let p := port.val
  if (getPort s p).st ≠ .up then .next s
  else
    let s := forAll (List.range a.corrected) (fun _ => occur .fec)
      (modPort p (fun q => { q with feccw := satUp q.feccw a.corrected }) s)
    if !(flitGood a.flit) || a.bad.isSome then .next (spoiledFlit p a.bad s)
    else if a.flit.seq ≠ (getPort s p).rxNext then .next (modPort p discardFlit s)
    else .next (takeFlit p a.flit s)

/-- FLIT_NAK_RECEIVE (R228). -/
def execFlitNakReceive (port : Fin 24) (ack : BitVec 12) (s : State) : Out :=
  if (getPort s port.val).st = .up then .next (nakArrive port.val ack s) else .next s

/-! ### The packets of a DOWN port (R230, R231) -/

/-- A packet of a DOWN port goes out whole on another port, ahead of its new packets, with the numbers it has (R230). -/
def resendPacket (port : Nat) (o : OutPacket) (s : State) : State :=
  modPort port (fun q => { q with resend := SMap.upd [] q.resend (poolOf q o.p) (fun l => l ++ [{ o with left := [] }]) })
    (modFab (fun f => { f with sent := f.sent ++ [{ port := port, p := o.p }] }) s)

/-- Whether a VALID partition's routes use a direction group here. -/
def groupInUse (s : State) (g : Nat) : Bool :=
  match s.fab.selfIdx with
  | none => false
  | some i => s.fab.parts.any (fun kv => kv.2.valid && (groupsUsed (tableBytes s) kv.2.box i).contains g)

/-- The packets that a port holds: those sent and not acknowledged, those it was to send again, those under way, and those that
wait. -/
def portPackets (q : FabPort) : List OutPacket :=
  q.unacked.map (fun u => { p := u.2, numbered := true, left := [] })
    ++ (List.range 8).flatMap (fun pool => SMap.get [] q.resend pool ++ (SMap.get none q.sending pool).toList)
    ++ (List.range 8).flatMap (fun pool => (List.range 26).flatMap (fun i => SMap.get [] q.queue (outKey pool i)))

/-- A port without what it has sent or was to send. -/
def emptyPort (q : FabPort) : FabPort :=
  { q with unacked := [], replay := [], resend := [], sending := [], queue := [] }

/-- What a DOWN port holds goes to the lowest-numbered UP port of its group. -/
def movePackets (p r : Nat) (s : State) : State :=
  forAll (portPackets (getPort s p)) (resendPacket r) (modPort p emptyPort s)

/-- A port goes DOWN: what it has not had acknowledged goes out on the lowest UP port of its group; while the ports that are left
retrain, it waits for one of them; when every port of the group is DOWN, a route of a job is lost, and the packets with it (R230,
R231). -/
def portDown (p : Nat) (s : State) : State :=
  let s := modPort p (fun q => { q with st := .down, width := 0, lanes := 0 }) s
  let s := transitError p (occur .drop s)
  match lowestUp s (portGroup p) with
  | some r => movePackets p r s
  | none =>
    if (groupPorts (portGroup p)).any (portLive s) then s
    else
      let s := forAll (groupPorts (portGroup p)) (fun r => modPort r emptyPort) s
      if groupInUse s (portGroup p) then chargeCause causeLoss s else s

/-- A port of a group is UP again: it takes what DOWN ports of the group hold (R230). -/
def takeOver (p : Nat) (s : State) : State :=
  forAll ((groupPorts (portGroup p)).filter (fun r => decide ((getPort s r).st = .down))) (fun r => movePackets r p) s

/-! ### Discovery (R240, R241) -/

/-- The lowest-numbered UP port of the group on the route to the root (R246). -/
def rootPort (s : State) : Option Nat :=
  match s.fab.selfIdx with
  | none => none
  | some i => (nextGroup (tableBytes s) 0 true i (timeRoot (tableBytes s))).bind (lowestUp s)

/-- Stage 7 of power-up ends when no port trains any more (R241, R409). -/
def discoveryDone (s : State) : State :=
  if s.pwr.stage = 6 ∧ (List.range 24).all (fun p => decide ((getPort s p).st ≠ .training)) then
    let s := modFab (fun f => { f with ptbParent := (rootPort s).getD f.ptbParent }) s
    raise 0x0501 (hubUnit 3) {} { s with pwr := { s.pwr with stage := 7 } }
  else s

/-- The entry field that describes a port of a coordinate (R240). -/
def portField (t : List Byte) (i p hi lo : Nat) : Nat := entryField t i (0x20 + 4 * p) 4 hi lo

/-- CABLED of a port of this package. -/
def cabled (s : State) (p : Nat) : Bool :=
  match s.fab.selfIdx with
  | none => false
  | some i => decide (portField (tableBytes s) i p 19 19 = 1)

/-- The coordinate index of a serial. -/
def indexOfSerial (t : List Byte) (serial : Nat) : Option Nat :=
  let d := dims t
  (List.range (d.1 * d.2.1 * d.2.2)).find? (fun i => decide (leAt t (64 + 128 * i) 8 = serial))

/-- The identity that a port sends: SERIAL, its number and bits [63:0] of the digest of the table (R241). -/
def sendIdent (p : Nat) (s : State) : State :=
  modFab (fun f => { f with linkctl := f.linkctl ++ [(p, .ident s.fuses.serial p (BitVec.ofNat 64 (wTableDigest s)))] }) s

/-- A CABLED port trains, and sends LINKCTL IDENT (R241). -/
def trainPort (p : Nat) (s : State) : State := sendIdent p (modPort p (fun q => { q with st := .training }) s)

/-- A port that has met what its table entry does not allow (R241). -/
def holdPort (p : Nat) (code : EventCode) (s : State) : State :=
  discoveryDone (raise code (portUnit p) {} (modPort p (fun q => { q with st := .held }) s))

/-- LINKCTL_IDENT at a port that trains (R241). -/
def execLinkctlIdent (port : Fin 24) (serial : BitVec 64) (farPort : BitVec 5) (digest : BitVec 64) (s : State) : Out :=
  let p := port.val
  let q := getPort s p
  let t := tableBytes s
  let idx := (indexOfSerial t serial.toNat).getD 0
  let s1 := modPort p (fun q => { q with nbr := BitVec.ofNat 14 idx, nbrPort := farPort }) s
  if q.st = .notCabled then .next (holdPort p 0x0503 s1)
  else if q.st ≠ .training then .next s
  else
    match s.fab.selfIdx with
    | none => .next s
    | some i =>
      if indexOfSerial t serial.toNat = some (portField t i p 13 0) ∧ farPort.toNat = portField t i p 18 14 then
        if digest.toNat = wTableDigest s then
          let s := modPort p (fun q => { q with st := .up }) s1
          .next (discoveryDone (takeOver p (sendBitmaps [p] s)))
        else .next (holdPort p 0x0504 s1)
      else .next (holdPort p 0x0503 s1)

/-! ### Port loss (R229 to R231) -/

/-- LANE_DEGRADE: both ends stop DATA and train (R229); a trigger during training is ignored. -/
def execLaneDegrade (port : Fin 24) (s : State) : Out :=
  if (getPort s port.val).st = .up then .next (degradePort port.val s) else .next s

/-- The passing lanes of a mask, lowest first. -/
def lanesOf (m : BitVec 8) : List Nat := (List.range 8).filter (fun k => m.getLsbD k)

/-- W for a number of passing lanes (R229). -/
def laneWidth (n : Nat) : Nat := if 8 ≤ n then 8 else if 6 ≤ n then 6 else if 4 ≤ n then 4 else if 2 ≤ n then 2 else n

/-- A retrained port resumes: it has reported its mask and exchanges 16 IDLE flits, replays from ACK + 1 and takes traffic (R229). -/
def resumePort (p : Nat) (near : BitVec 8) (s : State) : State :=
  let s := sendLink p (.mask near) s
  let s := modPort p (fun q => (List.range 16).foldl (fun q _ => sendFlit .idle 0 false [] q) (resendFlits { q with st := .up })) s
  takeOver p (sendBitmaps [p] s)

/-- LANE_TRAINING_DONE: the width is fixed from both ends' masks; a retrained port resumes (R229). -/
def execLaneTrainingDone (port : Fin 24) (near far : BitVec 8) (s : State) : Out :=
  let p := port.val
  let q := getPort s p
  let pass := lanesOf (near &&& far)
  let w := laneWidth pass.length
  let lanes : BitVec 8 := (pass.take w).foldl (fun m k => m ||| (1 <<< k)) 0
  if q.st ≠ .retrain ∧ q.st ≠ .training then .next s
  else if w = 0 then .next (discoveryDone (portDown p s))
  else
    let s := modPort p (fun q => { q with width := w, lanes := lanes }) s
    if q.st = .training then .next s
    else
      let s := resumePort p near s
      if w < 8 then .next (raise 0x0506 (portUnit p) {} (occur .drop s)) else .next s

/-- IDENT_TIMEOUT: no IDENT within 100 ms (R241). -/
def execIdentTimeout (port : Fin 24) (s : State) : Out :=
  if (getPort s port.val).st = .training then
    .next (discoveryDone (raise 0x0505 (portUnit port.val) {} (modPort port.val (fun q => { q with st := .down }) s)))
  else .next s

/-- A retrain of a port: UP retrains, DOWN tries again, HELD stays HELD (R229, R241). -/
def retrainPort (p : Nat) (s : State) : State :=
  match (getPort s p).st with
  | .up => occur .retrain (modPort p (fun q => { q with st := .retrain }) s)
  | .down => if cabled s p then trainPort p s else s
  | _ => s

/-- FAB_PORT_RETRAIN: FAB_PORT_CFG.RETRAIN is written 1 for the selected port. -/
def execFabPortRetrain (m : Master) (s : State) : Out :=
  match selectors s m with
  | none => .next s
  | some x => .next (retrainPort (fld x.fabPort 4 0) s)

/-- PID_BITMAP: the partitions that are VALID at the neighbour (R243). -/
def execPidBitmap (port : Fin 24) (pids : List (BitVec 12)) (s : State) : Out :=
  if (getPort s port.val).st = .up then .next (modPort port.val (fun q => { q with pids := pids }) s) else .next s

/-! ### PTB discipline (R246, R247) -/

/-- Clamps an integer. -/
def clampInt (lim v : Int) : Int := max (-lim) (min lim v)

/-- The lowest-numbered UP port whose neighbour lies fewer hops from the root, but the present parent (R247). -/
def newParent (s : State) : Option Nat :=
  match s.fab.selfIdx with
  | none => none
  | some i =>
    let t := tableBytes s
    (List.range 24).find? (fun p => portUp s p && decide (p ≠ s.fab.ptbParent)
      && decide (torusHops t (getPort s p).nbr.toNat (timeRoot t) < torusHops t i (timeRoot t)))

/-- A good exchange: the first one before stage 8 sets PTB, else only the rate is steered (R246, R247). -/
def steer (off : Int) (s : State) : State :=
  let first := !s.fab.ptbSet && decide (s.pwr.stage.toNat < 7)
  let s := if first then
    { s with
      mgmt := { s.mgmt with ptb := s.mgmt.ptb + BitVec.ofInt 64 off }, pwr := { s.pwr with upAt := s.pwr.upAt + BitVec.ofInt 64 off } }
    else s
  modFab (fun f => { f with
    ptbMissed := 0, ptbSet := true, ptbOffset := BitVec.ofInt 16 (clampInt 32767 off)
    ptbRate := BitVec.ofInt 16 (if first then 0 else clampInt 10000 (100 * off))
    ptbState := if first then 1 else if -4 ≤ off ∧ off ≤ 4 then 2 else 1 }) s

/-- A missed exchange; the tenth in a row takes a new parent, or HOLDOVER without one (R247). -/
def missExchange (s : State) : State :=
  if s.fab.ptbMissed + 1 < 10 then modFab (fun f => { f with ptbMissed := f.ptbMissed + 1 }) s
  else
    match newParent s with
    | some p => modFab (fun f => { f with ptbMissed := 0, ptbParent := p, ptbState := if f.ptbState = 0 then 0 else 1 }) s
    | none =>
      if s.fab.ptbState = 3 then s
      else raise 0x0508 (hubUnit 4) {} (modFab (fun f => { f with ptbMissed := 0, ptbState := 3 }) s)

/-- The difference of two stamps as a signed number. -/
def stampDiff (a b : BitVec 64) : Int := (a - b).toInt

/-- The offset to the parent in ns, parent's time less the child's, from the four stamps in units of 0.5 ns: half the sum of the two
one-way differences, the two directions taken as symmetric, and rounded down (R246; log entry 39). -/
def timeOffset (x : TimeStamps) : Int := (stampDiff x.t2 x.t1 + stampDiff x.t3 x.t4) / 4

/-- The link delay in units of 0.5 ns (R246). -/
def timeDelay (x : TimeStamps) : Int := (stampDiff x.t4 x.t1 - stampDiff x.t3 x.t2) / 2

/-- TIME_EXCHANGE: a child sends a TIME flit to its parent and takes its offset and the link delay from the stamps of both; `none`
is an exchange that is missed, or whose flit was corrupted or replayed (R246, R247). -/
def execTimeExchange (stamps : Option TimeStamps) (s : State) : Out :=
  if s.fab.selfIdx.isNone || ptbRoot s then .next s
  else
    match stamps with
    | some x =>
      let s := sendLink s.fab.ptbParent (.time x.t1) s
      .next (steer (timeOffset x) (modFab (fun f => { f with ptbDelay := timeDelay x }) s))
    | none => .next (missExchange s)

end Sys2Proof.Machine
end

