-- ==== Sys2Proof/Machine/Mailbox.lean ====
section
/-! DEFINITION. Mailbox channels: bindings, posts, replies, notifications and rebinds (R380 to R387). -/

namespace Sys2Proof.Machine

/-! ### Masters and bindings (R386, R396) -/

/-- The master ID of a master (R386). -/
def midOf : Master → BitVec 8
  | .pf0h0 => 0x00
  | .pf0h1 => 0x00
  | .tray => 0x50
  | .core k => BitVec.ofNat 8 (0x40 + k.val)
  | .test => 0x70
  | .vf v => BitVec.ofNat 8 v.val
  | .base n => BitVec.ofNat 8 (0x48 + n.val)
  | .guest g => BitVec.ofNat 8 (0x60 + g.val)

/-- Whether a value is a master ID of the table (R386). -/
def midOk (m : Nat) : Bool :=
  decide (m < 0x44) || (decide (0x48 ≤ m) && decide (m < 0x51)) || decide (m = 0x60) || decide (m = 0x61) || decide (m = 0x70)

/-- A channel. -/
def getMbx (s : State) (ch : Nat) : Chan := SMap.get Chan.init s.mgmt.chans ch

/-- Changes a channel. -/
def modMbx (ch : Nat) (f : Chan → Chan) (s : State) : State :=
  modMgmt (fun m => { m with chans := SMap.upd Chan.init m.chans ch f }) s

/-- The first bound master. -/
def bindA (c : Chan) : Nat := fld c.bind 7 0

/-- The second bound master. -/
def bindB (c : Chan) : Nat := fld c.bind 15 8

/-- Whether a channel is enabled: EN, and two distinct master IDs of the table (R386). -/
def mbxOn (c : Chan) : Bool := bit c.bind 22 && midOk (bindA c) && midOk (bindB c) && decide (bindA c ≠ bindB c)

/-- Whether a host function reaches its mailbox window: PF0, or a VF that is enabled (R255). -/
def hostReaches (s : State) (mid : Nat) : Bool :=
  decide (mid = 0) || SMap.get false s.hif.vfEnabled (fcPort (funcCfg s mid)).val

/-- Whether test access acts: while debug is unlocked (R428). -/
def testActs (s : State) : Bool := s.mgmt.debug

/-- Whether a master is bound to an enabled channel, so that its accesses count (R380). -/
def mbxBound (s : State) (ch : Nat) (mid : BitVec 8) : Bool :=
  let c := getMbx s ch
  mbxOn c && (decide (mid.toNat = bindA c) || decide (mid.toNat = bindB c)) && (decide (0x40 ≤ mid.toNat) || hostReaches s mid.toNat)
    && (decide (mid.toNat ≠ 0x70) || testActs s)

/-- The bound master that is not a given one. -/
def otherMid (c : Chan) (mid : BitVec 8) : BitVec 8 :=
  BitVec.ofNat 8 (if mid.toNat = bindA c then bindB c else bindA c)

/-- A master's staging buffer in a channel (R380). -/
def staging (c : Chan) (mid : BitVec 8) : SMap (BitVec 32) := if mid.toNat = bindA c then c.stageA else c.stageB

/-- A write of MSG[k]: into the writer's staging buffer (R380). -/
def stageWord (mid : BitVec 8) (k : Nat) (v : BitVec 32) (c : Chan) : Chan :=
  if mid.toNat = bindA c then { c with stageA := SMap.set 0 c.stageA k v } else { c with stageB := SMap.set 0 c.stageB k v }

/-- A write of MSG[k] by a master. -/
def writeMsg (ch : Nat) (mid : BitVec 8) (k : Nat) (v : BitVec 32) (s : State) : State :=
  if mbxBound s ch mid then modMbx ch (stageWord mid k v) s else s

/-- The first words of a staging buffer laid over a channel's buffer. -/
def copyWords (n : Nat) (stage buf : SMap (BitVec 32)) : SMap (BitVec 32) :=
  (List.range n).foldl (fun b k => SMap.set 0 b k (SMap.get 0 stage k)) buf

/-! ### Notifications (R385) -/

/-- The host port of a notification: the function's; PF0's reads 0 (log entry 56). -/
def notifyPort (s : State) (mid : Nat) : Fin 2 := fcPort (funcCfg s mid)

/-- Notifies a bound master of a channel (R385, R414). -/
def notify (ch : Nat) (mid : BitVec 8) (s : State) : State :=
  let m := mid.toNat
  let vec := BitVec.ofNat 6 (fld (getMbx s ch).bind 21 16)
  if m = 0x70 then s
  else
    let s := modMgmt (fun g => { g with notified := g.notified ++ [{ mid := mid, ch := ch, vec := vec }] }) s
    if m < 0x40 then
      let msg : Msix := { func := Fin.ofNat 64 m, port := notifyPort s m, vec := vec }
      modHif (fun h => { h with msix := h.msix ++ [msg] }) s
    else if m = 0x50 then { s with pwr := { s.pwr with ibis := s.pwr.ibis ++ [0x02, BitVec.ofNat 8 ch] } }
    else s

/-! ### Posts and replies (R381 to R384) -/

/-- A word count of a post: WORDS in its range; outside the range the spec states no count, and it is free (log entry 57). -/
def postWords (w lo : Nat) (s : State) : Nat × State :=
  if lo ≤ w ∧ w ≤ 16 then (w, s)
  else
    let v := freeVal s
    (v.1.toNat % 17, v.2)

/-- A reply is in the buffer: CODE, WORDS and ACKER are recorded, FULL clears, ACKED sets, and SENDER is notified (R382). -/
def putReply (ch code words acker : Nat) (buf : SMap (BitVec 32)) (s : State) : State :=
  let s := modMbx ch (fun c => { c with
    full := false, acked := true, code := BitVec.ofNat 16 code, ackWords := BitVec.ofNat 5 words, words := BitVec.ofNat 5 words
    acker := BitVec.ofNat 8 acker, buf := buf }) s
  notify ch (getMbx s ch).sender s

/-- The mailbox block answers itself: no words, ACKER 0xFF (R384; for DOMAIN_RESET log entry 58). -/
def blockReply (ch code : Nat) (s : State) : State := putReply ch code 0 0xFF (getMbx s ch).buf s

/-- Whether the domain of a master is in reset or powered down: a position, or the host port of a function while its
PERSTn_N is asserted (R384; log entry 58). -/
def midDown (s : State) (mid : BitVec 8) : Bool :=
  let m := mid.toNat
  if m = 0 then SMap.get true s.hif.perst 0 && SMap.get true s.hif.perst 1
  else if m < 0x40 then SMap.get true s.hif.perst (fcPort (funcCfg s m)).val
  else if 0x48 ≤ m ∧ m < 0x50 then posnDown s (m - 0x48)
  else if m = 0x60 ∨ m = 0x61 then posnDown s (6 + (m - 0x60))
  else false

/-- CODE TIMEOUT. -/
def mbxTimeoutCode : Nat := 0x000A

/-- CODE DOMAIN_RESET. -/
def mbxDomainReset : Nat := 0x0009

/-- A SEND (R381, R384). -/
def sendPost (ch : Nat) (mid : BitVec 8) (v : BitVec 32) (s : State) : State :=
  if mbxBound s ch mid then
    let w := postWords (fld v 4 0) 1 s
    let s := modMbx ch (fun c => { c with
      buf := copyWords w.1 (staging c mid) c.buf, collision := c.collision || c.full, full := true, acked := false
      words := BitVec.ofNat 5 w.1, sender := mid, since := if c.full then c.since else s.mgmt.ptb }) w.2
    let other := otherMid (getMbx s ch) mid
    let s := notify ch other s
    if midDown s other then blockReply ch mbxDomainReset s else s
  else s

/-- Whether an ACK is accepted: FULL is 1, and it comes from the bound master that is not SENDER (R382). -/
def ackOk (s : State) (ch : Nat) (mid : BitVec 8) : Bool :=
  mbxBound s ch mid && (getMbx s ch).full && decide ((getMbx s ch).sender ≠ mid)

/-- An ACK (R382). -/
def ackPost (ch : Nat) (mid : BitVec 8) (v : BitVec 32) (s : State) : State :=
  if ackOk s ch mid then
    let w := postWords (fld v 20 16) 0 s
    let c := getMbx w.2 ch
    putReply ch (fld v 15 0) w.1 mid.toNat (copyWords w.1 (staging c mid) c.buf) w.2
  else s

/-- A write of STATUS: W1C on COLLISION and ACKED (R387). -/
def clearMbxStatus (ch : Nat) (mid : BitVec 8) (v : BitVec 32) (s : State) : State :=
  if mbxBound s ch mid then
    modMbx ch (fun c => { c with collision := c.collision && !(bit v 1), acked := c.acked && !(bit v 2) }) s
  else s

/-- MAILBOX_SEND (R381). -/
def execMailboxSend (ch : Fin 64) (mid : BitVec 8) (v : BitVec 32) (s : State) : Out := .next (sendPost ch.val mid v s)

/-- MAILBOX_ACK (R382). -/
def execMailboxAck (ch : Fin 64) (mid : BitVec 8) (v : BitVec 32) (s : State) : Out := .next (ackPost ch.val mid v s)

/-- MAILBOX_STATUS_CLEAR (R387). -/
def execMailboxStatusClear (ch : Fin 64) (mid : BitVec 8) (v : BitVec 32) (s : State) : Out :=
  .next (clearMbxStatus ch.val mid v s)

/-- MAILBOX_TIMEOUT: FULL has stayed 1 for 1 ms (R384). -/
def execMailboxTimeout (ch : Fin 64) (s : State) : Out :=
  let c := getMbx s ch.val
  if c.full then
    let s := advanceTo (c.since + msec 1) s
    .next (raise 0x0A09 (hubUnit 6) {} (blockReply ch.val mbxTimeoutCode s))
  else .next s

/-! ### Rebinds (R386) -/

/-- The fields of MBX_BIND. -/
def bindMask : BitVec 32 := 0x007FFFFF

/-- A channel takes a new binding: what its buffer held is discarded, and the flash keeps the binding (R386). -/
def rebind (ch : Nat) (v : BitVec 32) (s : State) : State :=
  let b := v &&& bindMask
  let s := modMbx ch (fun c => { c with
    bind := b, full := false, collision := false, acked := false, words := 0, buf := [] }) s
  raise 0x0A08 (hubUnit 6) {} (modMgmt (fun m => { m with bindFlash := SMap.set 0 m.bindFlash ch b }) s)

/-- PRESENCE_DENIED: a write to an RW-P field without presence is ignored (R379). -/
def presenceDenied (unit : Nat) (s : State) : State := raise 0x0A02 (hubUnit unit) {} s

/-- The binding word that MBX_REBIND names: MID_A, MID_B, VEC and EN at their places in MBX_BIND (R396). -/
def rebindWord (v : BitVec 32) : BitVec 32 :=
  BitVec.ofNat 32 (packF [(0, fld v 15 8), (8, fld v 23 16), (16, fld v 29 24), (22, fld v 30 30)])

/-- A write of MBX_REBIND under presence; GO applies it and reads 0 (R386, R396). -/
def writeRebind (v : BitVec 32) (s : State) : State :=
  if s.mgmt.presence then
    let s := modMgmt (fun m => { m with rebind := setFld (setFld v 31 31 0) 7 6 0 }) s
    if bit v 31 then rebind (fld v 5 0) (rebindWord v) s else s
  else presenceDenied 6 s

/-- MBX_REBIND_GO: MBX_REBIND is written with GO 1 (R386). -/
def execMbxRebindGo (v : BitVec 32) (s : State) : Out := .next (writeRebind (setFld v 31 31 1) s)

/-! ### The channel window (R380) -/

/-- A 32-bit write into the window of a channel, at a byte offset. -/
def writeWindow (ch off : Nat) (mid : BitVec 8) (v : BitVec 32) (s : State) : State :=
  if off < 0x40 then writeMsg ch mid (off / 4) v s
  else if off = 0x40 then sendPost ch mid v s
  else if off = 0x44 then ackPost ch mid v s
  else if off = 0x48 then clearMbxStatus ch mid v s
  else s

/-- STATUS of a channel (R387). -/
def wMbxStatus (c : Chan) : Nat :=
  packF [(0, flag c.full), (1, flag c.collision), (2, flag c.acked), (3, c.words.toNat), (8, c.sender.toNat)]

/-- A read of the window of a channel by a master: 0 when it is not bound (R380). -/
def readWindow (s : State) (ch off : Nat) (mid : BitVec 8) : Nat :=
  let c := getMbx s ch
  if !(mbxBound s ch mid) then 0
  else if off < 0x40 then (SMap.get 0 c.buf (off / 4)).toNat
  else if off = 0x44 then packF [(0, c.code.toNat), (16, c.ackWords.toNat), (24, c.acker.toNat)]
  else if off = 0x48 then wMbxStatus c
  else 0

end Sys2Proof.Machine
end

