-- ==== Sys2Proof/Machine/Firmware.lean ====
section
/-! DEFINITION. Firmware commands: how firmware reads and answers them, what each does, and how a long one ends (R374 to
R379, R384, R388, R390, R431, R432). -/

namespace Sys2Proof.Machine

/-! ### Return codes (R388) -/

/-- OK. -/
def fwOk : Nat := 0x0000
/-- ACCEPTED. -/
def fwAccepted : Nat := 0x0001
/-- BAD_COMMAND. -/
def fwBadCommand : Nat := 0x0002
/-- BAD_ARGUMENT. -/
def fwBadArgument : Nat := 0x0003
/-- NO_PRESENCE. -/
def fwNoPresence : Nat := 0x0004
/-- BUSY. -/
def fwBusy : Nat := 0x0005
/-- NOT_PERMITTED. -/
def fwNotPermitted : Nat := 0x0006
/-- CHECK_FAILED. -/
def fwCheckFailed : Nat := 0x0007

/-! ### Messages (R388) -/

/-- A firmware command as a core reads it from a channel. -/
structure FwMsg where
  core : Nat
  sender : Nat
  cmd : Nat
  ticket : BitVec 8
  buf : SMap (BitVec 32)
deriving DecidableEq, Repr

/-- The codes of the table (R388). -/
def fwCommands : List Nat := [0x0001, 0x0002, 0x0010, 0x0011, 0x0020, 0x0021, 0x0030, 0x0031, 0x0032, 0x0033, 0x0034, 0x0035]

/-- MSG[k] of a message. -/
def msgWord (m : FwMsg) (k : Nat) : BitVec 32 := SMap.get 0 m.buf k

/-- The command that waits in a channel for a firmware core: FULL, its other master a core, and firmware running; in RECOVERY
channel 1 alone is answered (R373, R388). -/
def fwMsg (s : State) (ch : Nat) : Option FwMsg :=
  let c := getMbx s ch
  let core := (otherMid c c.sender).toNat
  let awake := match s.mgmt.fw with
    | .boot => false
    | .running => true
    | .recovery => decide (ch = 1)
  if mbxOn c && c.full && awake && decide (0x40 ≤ core) && decide (core < 0x44) then
    let w := SMap.get 0 c.buf 0
    some { core := core - 0x40, sender := c.sender.toNat, cmd := fld w 15 0, ticket := BitVec.ofNat 8 (fld w 23 16), buf := c.buf }
  else none

/-- Firmware answers: its words through its staging buffer, and an ACK (R382, R388). -/
def fwReply (ch : Nat) (m : FwMsg) (code : Nat) (ws : List (BitVec 32)) (s : State) : State :=
  let mid := BitVec.ofNat 8 (0x40 + m.core)
  let s := forAll ((List.range ws.length).zip ws) (fun p s => writeMsg ch mid p.1 p.2 s) s
  ackPost ch mid (BitVec.ofNat 32 (packF [(0, code), (16, ws.length)])) s

/-- The words of a list of bytes from an offset, at most 14 (R388). -/
def replyWords (bs : List Byte) (off : Nat) : List (BitVec 32) :=
  (cut 4 ((bs.drop off).take 56)).map (fun w => BitVec.ofNat 32 (leNat w))

/-- Firmware answers with data: to a host sender's address in MSG[2] and MSG[3], or in reply words from the byte offset in
MSG[1] (R388). -/
def fwData (ch : Nat) (m : FwMsg) (bs : List Byte) (s : State) : State :=
  if m.sender < 0x40 then
    fwReply ch m fwOk [] (hostWrite ((msgWord m 2).toNat + 2 ^ 32 * (msgWord m 3).toNat) bs s)
  else fwReply ch m fwOk (replyWords bs (msgWord m 1).toNat) s

/-- Runs the handler of a command when that command waits in the channel; a code that the table does not list gets
BAD_COMMAND (R388). -/
def onCommand (ch : Fin 64) (cmd : Nat) (f : FwMsg → State → State) (s : State) : State :=
  match fwMsg s ch.val with
  | none => s
  | some m =>
    if m.cmd = cmd then f m s
    else if fwCommands.contains m.cmd then s
    else fwReply ch.val m fwBadCommand [] s

/-- Runs a presence-gated handler: without presence the answer is NO_PRESENCE (R379). -/
def underPresence (ch : Nat) (m : FwMsg) (f : State → State) (s : State) : State :=
  if s.mgmt.presence then f s else fwReply ch m fwNoPresence [] s

/-- The event source of a firmware core (R391). -/
def coreUnit (core : Nat) : BitVec 12 := hubUnit (8 + core)

/-! ### Commands that only read -/

/-- PING (R388). -/
def execPing (ch : Fin 64) (s : State) : Out := .next (onCommand ch 0x0001 (fun m => fwReply ch.val m fwOk []) s)

/-- The six words of INFO: GLB_ID, GLB_FEATURE, VERSION and GLB_FW_STATUS (R388). -/
def infoWords (s : State) : List (BitVec 32) :=
  [wGlbId s, wGlbId s / 2 ^ 32, wGlbFeature s, s.mgmt.fwVersion.toNat, wFwStatus s, wFwStatus s / 2 ^ 32].map (BitVec.ofNat 32)

/-- INFO (R388). -/
def execInfo (ch : Fin 64) (s : State) : Out :=
  .next (onCommand ch 0x0002 (fun m s => fwReply ch.val m fwOk (infoWords s) s) s)

/-- A list of bytes cut or filled with zeros to a length. -/
def padTo (n : Nat) (bs : List Byte) : List Byte := (bs ++ List.replicate (n - bs.length) 0).take n

/-- The NONCE of an ATTEST command: MSG[4] to MSG[11]. -/
def nonce (m : FwMsg) : List Byte := (List.range 8).flatMap (fun k => leBytes 4 (msgWord m (4 + k)).toNat)

/-- SHA-512 of the loaded install table; 0 when none is loaded (R377). -/
def tableDigest (s : State) : List Byte :=
  match s.fab.table with
  | none => List.replicate 64 0
  | some t => (Config.sha512 t).toList

/-- Bytes 0x00 to 0xFF of an attestation report (R377). -/
def reportBody (s : State) (nonce : List Byte) : List Byte :=
  leBytes 4 0x5454414B ++ leBytes 4 1 ++ leBytes 8 s.fuses.serial.toNat ++ padTo 32 nonce ++ leBytes 8 s.mgmt.ptb.toNat
    ++ leBytes 8 (packF [(0, s.fuses.idGen.toNat), (4, partCode s.fuses.part), (12, flag s.fuses.gradeE),
      (16, s.pkg.effective.toNat), (24, (enabledMask s).toNat), (32, flag s.mgmt.debug), (33, flag s.mgmt.sealOpened),
      (40, s.mgmt.tamper.toNat)])
    ++ idPublic s ++ padTo 64 s.mgmt.fwDigest ++ tableDigest s ++ leBytes 8 s.mgmt.fwVersion.toNat
    ++ leBytes 8 (leAt (tableBytes s) 0x10 8) ++ leBytes 16 0

/-- An attestation report (R377). -/
def report (s : State) (nonce : List Byte) : List Byte := reportBody s nonce ++ idSign s (reportBody s nonce)

/-- ATTEST (R377). -/
def execAttest (ch : Fin 64) (s : State) : Out :=
  .next (onCommand ch 0x0010 (fun m s => fwData ch.val m (report s (nonce m)) s) s)

/-- ID_CHAIN: the certificate and the link records (R376, R388). -/
def execIdChain (ch : Fin 64) (s : State) : Out :=
  .next (onCommand ch 0x0011 (fun m s => fwData ch.val m (Config.certificate s.fuses.serial ++ s.mgmt.links.flatten) s) s)

/-- The bytes of the capture record of a position: header and sections (R331). -/
def captureRecord (s : State) (n : Nat) : List Byte :=
  let h := memRead s (captureBase n) 256
  memRead s (captureBase n) (min 0x400000 (256 + ((List.range 7).map (fun k => leAt h (0x24 + 8 * k) 4)).sum))

/-- READ_CAPTURE: the record in the capture area of the position that MSG[4] names (R388; log entry 60). -/
def execReadCapture (ch : Fin 64) (s : State) : Out :=
  .next (onCommand ch 0x0020 (fun m s =>
    let n := (msgWord m 4).toNat
    if 7 < n || !(fitsCompute s.fuses.part n) then fwReply ch.val m fwBadArgument [] s
    else if posnDown s n then fwReply ch.val m mbxDomainReset [] s
    else fwData ch.val m (captureRecord s n) s) s)

/-! ### SCRUB (R390) -/

/-- A range without the capture areas, which are not scrubbed. -/
def outsideCapture (w : Window) : List Window :=
  let step := fun (l : List Window) (n : Nat) => l.flatMap (fun w =>
    let a := captureBase n
    let b := a + 0x400000
    [({ base := w.base, limit := min w.limit a } : Window), { base := max w.base b, limit := w.limit }].filter
      (fun w => decide (w.base < w.limit)))
  (List.range 8).foldl step [w]

/-- Whether positions are held by a context, or wait for a scrub. -/
def posnsHeld (s : State) (m : BitVec 8) : Bool :=
  (maskPosns m).any (fun n => (holderOf s n).isSome || (scrubPosns s).getLsbD n)

/-- The staging and scratchpad ranges of the positions that contexts hold or that wait for a scrub. -/
def heldLocal (s : State) : List Window :=
  ((List.range 8).filter (fun n => posnsHeld s (BitVec.ofNat 8 (2 ^ n)))).flatMap (fun n =>
    [{ base := stageBase n, limit := stageBase n + 0x8000000 }, { base := spBase (n * 256), limit := spBase (n * 256 + 256) }])

/-- Whether a SCRUB may take its target (R390): it names something that is there, and nothing that is held. -/
def scrubOk (s : State) (t : ScrubTarget) : Bool :=
  let w : Window := { base := t.lo.toNat, limit := t.hi.toNat }
  let ranged := decide (w.base < w.limit)
  (ranged || decide (t.posns ≠ 0)) && !(posnsHeld s t.posns)
    && (maskPosns t.posns).all (fitsCompute s.fuses.part)
    && (!ranged || (decide (place s w.base ≠ .unmapped) && decide (place s (w.limit - 1) ≠ .unmapped)
      && !((heldWindows s ++ heldLocal s).any (overlaps w))))

/-- SCRUB: PF0 and the tray controller may send it; the target waits on the scrub list (R289, R388, R390). -/
def execScrub (ch : Fin 64) (target : ScrubTarget) (s : State) : Out :=
  .next (onCommand ch 0x0021 (fun m s =>
    if m.sender ≠ 0 ∧ m.sender ≠ 0x50 then fwReply ch.val m fwNotPermitted [] s
    else if !(scrubOk s target) then fwReply ch.val m fwBadArgument [] s
    else
      let ws := if target.lo.toNat < target.hi.toNat then
        outsideCapture { base := target.lo.toNat, limit := target.hi.toNat } else []
      let s := modHif (fun h => { h with scrubs := h.scrubs ++
        [{ ctx := none, ticket := m.ticket, windows := ws, posns := target.posns }] }) s
      let s := modMgmt (fun g => { g with long := g.long ++
        [{ core := m.core, ticket := m.ticket, cmd := 0x0021, table := [], repair := none, ok := true }] }) s
      fwReply ch.val m fwAccepted [] s) s)

/-! ### The install table (R240, R379) -/

/-- The length of a table: header, entries and transit entries. -/
def tableLength (h : List Byte) : Nat :=
  let d := dims h
  64 + 128 * (d.1 * d.2.1 * d.2.2) + 16 * leAt h 0x0C 2

/-- Whether bits [hi:lo] of the dword at an offset are 0. -/
def clearAt (t : List Byte) (off hi lo : Nat) : Bool := decide (bitsOf (leAt t off 4) hi lo = 0)

/-- Whether the header of a table is well formed: its format, its ranges, and its reserved bits 0 (R240). -/
def tableHeaderOk (t : List Byte) : Bool :=
  let d := dims t
  let count := d.1 * d.2.1 * d.2.2
  decide (leAt t 0 4 = 1) && [d.1, d.2.1, d.2.2].all (fun n => decide (1 ≤ n) && decide (n ≤ 32)) && decide (count ≤ 16384)
    && decide (leAt t 0x0C 2 ≤ 4096) && clearAt t 4 7 6 && clearAt t 4 15 14 && clearAt t 4 31 22 && clearAt t 8 15 1
    && clearAt t 8 31 30 && clearAt t 0x0C 31 16 && decide (leNat ((t.drop 0x18).take 40) = 0)

/-- Whether the reserved bits of an entry are 0. -/
def entryReservedOk (t : List Byte) (i : Nat) : Bool :=
  let e := 64 + 128 * i
  clearAt t (e + 0x10) 14 14 && clearAt t (e + 0x10) 30 30 && clearAt t (e + 0x14) 3 1 && clearAt t (e + 0x14) 31 9
    && decide (leAt t (e + 0x18) 8 = 0) && (List.range 24).all (fun p => clearAt t (e + 0x20 + 4 * p) 31 20)

/-- Whether each cabled port of an entry names a port that names it back. -/
def entryReciprocal (t : List Byte) (count i : Nat) : Bool :=
  (List.range 24).all (fun p =>
    let j := portField t i p 13 0
    let q := portField t i p 18 14
    decide (portField t i p 19 19 = 0) || (decide (j < count) && decide (q < 24) && decide (portField t j q 19 19 = 1)
      && decide (portField t j q 13 0 = i) && decide (portField t j q 18 14 = p)))

/-- Whether a transit entry continues straight on one axis and index, with its reserved bits 0. -/
def transitOk (t : List Byte) (count j : Nat) : Bool :=
  let o := 64 + 128 * count + 16 * j
  let w := leAt t o 4
  let a := bitsOf w 18 14
  let b := bitsOf w 23 19
  decide (bitsOf w 13 0 < count) && decide (a < 24) && decide (b < 24) && decide (portAxis a = portAxis b)
    && decide (portGroup a ≠ portGroup b) && decide (a % 4 = b % 4) && decide (bitsOf w 31 28 = 0)
    && decide (leNat ((t.drop (o + 4)).take 12) = 0)

/-- Whether a table passes the checks of R240 for a package of a serial. -/
def tableOk (serial : BitVec 64) (t : List Byte) : Bool :=
  let d := dims t
  let count := d.1 * d.2.1 * d.2.2
  tableHeaderOk t && decide (t.length = tableLength t) && (List.range count).all (entryReservedOk t)
    && (List.range count).all (entryReciprocal t count) && (List.range (leAt t 0x0C 2)).all (transitOk t count)
    && (indexOfSerial t serial.toNat).isSome

/-- Bytes of the flash. -/
def flashRead (s : State) (a n : Nat) : List Byte := SMap.readRun erasedByte s.pwr.flash a n

/-- The table that an INSTALL_TABLE_WRITE takes: from the sender's host memory, or else from the install staging region
(R370, R388). -/
def sentTable (s : State) (m : FwMsg) : List Byte :=
  let src := fun (n : Nat) =>
    if m.sender < 0x40 then hostRead s ((msgWord m 2).toNat + 2 ^ 32 * (msgWord m 3).toNat) n else flashRead s 0x1000000 n
  src (tableLength (src 64))

/-- The hardware locks of firmware: 0 the flash controller, 1 the fuse controller, 2 the SEC engine, then two staging buffers
a channel (R389). -/
def lockHeld (s : State) (k : Nat) : Bool := (SMap.get none s.mgmt.locks k).isSome

/-- A core takes a lock. -/
def takeLock (k core : Nat) (s : State) : State := modMgmt (fun m => { m with locks := SMap.set none m.locks k (some core) }) s

/-- A lock is released. -/
def dropLock (k : Nat) (s : State) : State := modMgmt (fun m => { m with locks := SMap.set none m.locks k none }) s

/-- A long command starts under a lock and is answered with ACCEPTED; BUSY while the lock is held (R384, R388, R389). -/
def startLong (ch : Nat) (m : FwMsg) (lock : Nat) (l : LongCommand) (s : State) : State :=
  if lockHeld s lock then fwReply ch m fwBusy [] s
  else fwReply ch m fwAccepted [] (modMgmt (fun g => { g with long := g.long ++ [l] }) (takeLock lock m.core s))

/-- INSTALL_TABLE_WRITE (R379): the table is checked, and written when the command ends. -/
def execInstallTableWrite (ch : Fin 64) (s : State) : Out :=
  .next (onCommand ch 0x0030 (fun m => underPresence ch.val m (fun s =>
    let t := sentTable s m
    if tableOk s.fuses.serial t then
      startLong ch.val m 0 { core := m.core, ticket := m.ticket, cmd := 0x0030, table := t, repair := none, ok := true } s
    else fwReply ch.val m fwCheckFailed [] s)) s)

/-! ### Fuse repair (R64, R431, R432) -/

/-- The fuse array of a repair: its position's, or 8 for the hub's. -/
def repairHome : Repair → Nat
  | .macRow c _ => c.posn.val
  | .macCol c _ => c.posn.val
  | .lane hub n _ _ _ _ => if hub then 8 else n.val
  | .hbmLane n _ _ => n.val

/-- Fuse words of an array. -/
def repairWords (home : Nat) : Nat := if home = 8 then 64 else 256

/-- The rows, or the columns, that a map bypasses; `lo` is 0 for rows and 16 for columns (R65). -/
def bypassed (w : BitVec 32) (lo : Nat) : List Nat :=
  (if bit w (lo + 7) then [fld w (lo + 6) lo] else []) ++ (if bit w (lo + 15) then [fld w (lo + 14) (lo + 8)] else [])

/-- A map with its rows, or columns, set to at most two in increasing order. -/
def setBypassed (w : BitVec 32) (lo : Nat) (l : List Nat) : BitVec 32 :=
  let v := match l with
    | [] => 0
    | [a] => a + 128
    | a :: b :: _ => (min a b + 128) + 256 * (max a b + 128)
  setFld w (lo + 15) lo v

/-- The kind of a wire of an edge module: 0 data, then clock, valid and track (R203; the numbering is log entry 59). -/
def wireKind (wire : Nat) : Nat := if wire < 64 then 0 else if wire < 66 then 1 else if wire = 66 then 2 else 3

/-- Repair lanes of a kind, per module and direction (R203). -/
def wireSpares (kind : Nat) : Nat := if kind = 0 then 4 else 1

/-- Lane repairs fused for the same side, module, direction and kind. -/
def sameLanes (s : State) (hub : Bool) (n : Posn) (edge : Fin 14) (module : Fin 16) (tx : Bool) (kind : Nat) : Nat :=
  (s.fuses.laneRepairs.filter (fun r => match r with
    | .lane h n' e m t w => (h == hub) && (hub || decide (n' = n)) && decide (e = edge) && decide (m = module) && (t == tx)
        && decide (wireKind w.toNat = kind)
    | _ => false)).length

/-- Whether a repair names something that the part has. -/
def repairNames (s : State) : Repair → Bool
  | .macRow c r => fitsCompute s.fuses.part c.posn.val && decide (r.toNat < 66)
  | .macCol c r => fitsCompute s.fuses.part c.posn.val && decide (r.toNat < 66)
  | .lane hub n e _ _ _ => if hub then decide (e.val < 8) else (edgeEnds e.val).contains n.val
  | .hbmLane n _ _ => fitsCompute s.fuses.part n.val || fitsGuest s.fuses.part n.val

/-- Whether a repair keeps the limits of R431; the limits of the HBM3E standard are not in the spec. -/
def repairFits (s : State) : Repair → Bool
  | .macRow c r => let l := bypassed (SMap.get 0 s.fuses.macMapFused (cellNum c)) 0
      decide (l.length < 2) && !(l.contains r.toNat)
  | .macCol c r => let l := bypassed (SMap.get 0 s.fuses.macMapFused (cellNum c)) 16
      decide (l.length < 2) && !(l.contains r.toNat)
  | .lane hub n e m t w => decide (sameLanes s hub n e m t (wireKind w.toNat) < wireSpares (wireKind w.toNat))
  | .hbmLane _ _ _ => true

/-- The position that FUSE_BLOWN names. -/
def repairPosn : Repair → Option Nat
  | .macRow c _ => some c.posn.val
  | .macCol c _ => some c.posn.val
  | .lane hub n _ _ _ _ => if hub then none else some n.val
  | .hbmLane n _ _ => some n.val

/-- Whether a repair asks for a third bypassed row or column of a cell (R64). -/
def beyondBypasses (s : State) : Repair → Bool
  | .macRow c r => let l := bypassed (SMap.get 0 s.fuses.macMapFused (cellNum c)) 0
      decide (2 ≤ l.length) && !(l.contains r.toNat)
  | .macCol c r => let l := bypassed (SMap.get 0 s.fuses.macMapFused (cellNum c)) 16
      decide (2 ≤ l.length) && !(l.contains r.toNat)
  | _ => false

/-- A fault that needs more bypasses than its cell has left is a position loss (R64; log entry 138). -/
def loseBeyond (s : State) (r : Repair) (t : State) : State :=
  match repairPosn r, beyondBypasses s r && decide ((getPos s ((repairPosn r).getD 0)).st = .enabled) with
  | some n, true => losePosn n t
  | _, _ => t

/-- FUSE_REPAIR (R379, R432): the word is blown when the command ends; `readback` says whether the data bits then read back as
blown. -/
def execFuseRepair (ch : Fin 64) (r : Repair) (readback : Bool) (s : State) : Out :=
  .next (onCommand ch 0x0031 (fun m => underPresence ch.val m (fun s =>
    let home := repairHome r
    if !(repairNames s r) then fwReply ch.val m fwBadArgument [] s
    else if repairWords home ≤ SMap.get 0 s.fuses.wordsUsed home || !(repairFits s r) then loseBeyond s r (fwReply ch.val m fwNotPermitted [] s)
    else startLong ch.val m 1
      { core := m.core, ticket := m.ticket, cmd := 0x0031, table := [], repair := some r, ok := readback } s)) s)

/-- Changes the fuses. -/
def modFuses (f : Fuses → Fuses) (s : State) : State := { s with fuses := f s.fuses }

/-- A repair is fused, and in force after the next partition reset (R431). -/
def fuseIn (r : Repair) (f : Fuses) : Fuses :=
  let add := fun (c : CellId) (lo n : Nat) =>
    { f with macMapFused := SMap.upd 0 f.macMapFused (cellNum c) (fun w => setBypassed w lo (bypassed w lo ++ [n])) }
  match r with
  | .macRow c n => add c 0 n.toNat
  | .macCol c n => add c 16 n.toNat
  | _ => { f with laneRepairs := f.laneRepairs ++ [r] }

/-- A long command has ended with a code. -/
def logEnd (ticket : BitVec 8) (code : Nat) (s : State) : State :=
  modMgmt (fun m => { m with ended := m.ended ++ [(ticket, BitVec.ofNat 16 code)] }) s

/-- The end of a FUSE_REPAIR: data bits, read-back, then VALID (R432). -/
def endRepair (l : LongCommand) (r : Repair) (s : State) : State :=
  let s := modFuses (fun f => { f with wordsUsed := SMap.upd 0 f.wordsUsed (repairHome r) (fun n => n + 1) }) s
  if l.ok then
    logEnd l.ticket fwOk (raise 0x0A05 (coreUnit l.core) { posn := repairPosn r, arg0 := l.ticket.toNat } (modFuses (fuseIn r) s))
  else logEnd l.ticket fwCheckFailed s

/-- The end of a long command, after its second check of presence (R379, R384). -/
def endLong (l : LongCommand) (s : State) : State :=
  let s := dropLock (if l.cmd = 0x0030 then 0 else 1) s
  if !s.mgmt.presence then logEnd l.ticket fwNoPresence s
  else
    match l.repair with
    | some r => endRepair l r s
    | none =>
      logEnd l.ticket fwOk (raise 0x0A04 (coreUnit l.core) { arg0 := l.ticket.toNat }
        (modMgmt (fun m => { m with tableFlash := some l.table }) s))

/-- FIRMWARE_COMMAND_END: the oldest long command of a ticket ends; a SCRUB ends with its scrub (R384, R390). -/
def execFirmwareCommandEnd (ticket : BitVec 8) (s : State) : Out :=
  match placeOf (fun (l : LongCommand) => l.ticket == ticket && decide (l.cmd ≠ 0x0021)) s.mgmt.long with
  | none => .next s
  | some i =>
    match s.mgmt.long[i]? with
    | none => .next s
    | some l => .next (endLong l (modMgmt (fun m => { m with long := m.long.eraseIdx i }) s))

/-! ### Commands that act at once (R375, R376, R378, R379, R386) -/

/-- A link record: serial, new IDGEN and key, signed by the previous key (R376). -/
def linkRecord (s : State) : List Byte :=
  let gen := s.fuses.idGen + 1
  let body := leBytes 8 s.fuses.serial.toNat ++ leBytes 1 gen.toNat ++ List.replicate 23 0
    ++ (Config.ed25519Public (idSecretOf s.fuses.idSeed gen)).toList
  body ++ idSign s body

/-- ROTATE_ID (R379): IDGEN rises by one, and the old key signs the link record. -/
def execRotateId (ch : Fin 64) (s : State) : Out :=
  .next (onCommand ch 0x0032 (fun m => underPresence ch.val m (fun s =>
    if s.fuses.idGen = 15 then fwReply ch.val m fwNotPermitted [] s
    else
      let s := modMgmt (fun g => { g with links := g.links ++ [linkRecord s] }) s
      let s := modFuses (fun f => { f with idGen := f.idGen + 1 }) s
      fwReply ch.val m fwOk [] (raise 0x0A06 (coreUnit m.core) {} s))) s)

/-- DEBUG_UNLOCK (R379, R428). -/
def execDebugUnlock (ch : Fin 64) (s : State) : Out :=
  .next (onCommand ch 0x0033 (fun m => underPresence ch.val m (fun s =>
    fwReply ch.val m fwOk [] (raise 0x0A07 (coreUnit m.core) {} (modMgmt (fun g => { g with debug := true }) s)))) s)

/-- MBX_REBIND: the channel named takes the binding word given (R379, R386). -/
def execMbxRebind (ch target : Fin 64) (v : BitVec 32) (s : State) : Out :=
  .next (onCommand ch 0x0034 (fun m => underPresence ch.val m (fun s => fwReply ch.val m fwOk [] (rebind target.val v s))) s)

/-- SEAL_CLEAR: SEAL_OPENED clears, and the tamper count is kept (R379). -/
def execSealClear (ch : Fin 64) (s : State) : Out :=
  .next (onCommand ch 0x0035 (fun m => underPresence ch.val m (fun s =>
    fwReply ch.val m fwOk [] (modMgmt (fun g => { g with sealOpened := false }) s))) s)

end Sys2Proof.Machine
end

