-- ==== Sys2Proof/Machine/Presence.lean ====
section
/-! DEFINITION. Physical presence and the seal loop, the leases of firmware locks, the heartbeat, PTB samples, and the rings
that event records go to (R272, R378, R389, R392, R393, R396, R412). -/

namespace Sys2Proof.Machine

/-! ### Presence and the seal loop (R378, R412) -/

/-- PRESENCE_ASSERT: PRESENCE_N has been low for 50 ms; presence holds while the loop is closed too (R378). -/
def execPresenceAssert (s : State) : Out :=
  .next (modMgmt (fun m => { m with presenceLow := true, presence := m.sealClosed }) s)

/-- PRESENCE_END: PRESENCE_N rises (R378). -/
def execPresenceEnd (s : State) : Out := .next (modMgmt (fun m => { m with presenceLow := false, presence := false }) s)

/-- The closed loop opens: SEAL_OPENED, its event and its alert bit; presence ends, and the tamper count rises (R378). -/
def openSeal (s : State) : State :=
  if s.mgmt.sealClosed then
    let t := modMgmt (fun m => { m with
      sealClosed := false, sealOpened := true, presence := false, tamper := satUp m.tamper 1 }) s
    alertSets s (raise 0x0A03 (hubUnit 8) {} t)
  else s

/-- SEAL_OPENED (R378). -/
def execSealOpened (s : State) : Out := .next (openSeal s)

/-- SEAL_TOGGLE: the part inverts SEAL_A; `returns` says whether SEAL_B follows within 10 µs, which closes the loop or shows
that it is open (R378, R412). -/
def execSealToggle (returns : Bool) (s : State) : Out :=
  let s := modMgmt (fun m => { m with sealLevel := !m.sealLevel }) s
  if returns then .next (modMgmt (fun m => { m with sealClosed := true, presence := m.presenceLow }) s)
  else .next (openSeal s)

/-! ### Leases and the heartbeat (R389) -/

/-- FW_LOCK_EXPIRED: the lock is released, and the core that holds it is reset with what it runs (R389). -/
def execFwLockExpired (lock : Fin 131) (core : Fin 4) (s : State) : Out :=
  if SMap.get none s.mgmt.locks lock.val = some core.val then
    let s := modMgmt (fun m => { m with
      locks := SMap.set none m.locks lock.val none
      long := m.long.filter (fun l => decide (l.core ≠ core.val) || decide (l.cmd = 0x0021))
      coreResets := m.coreResets ++ [core.val] }) s
    .next (raise 0x0A0A (coreUnit core.val) {} s)
  else .next s

/-- HEARTBEAT: firmware counts while STATE reads RUNNING and the PLL of CLK_MGMT, bit 26 of PWR_PLL_STATUS, holds its lock
(R389, R408). -/
def execHeartbeat (s : State) : Out :=
  if s.mgmt.fw = .running ∧ bit s.pwr.pll 26 = true then
    .next (modMgmt (fun m => { m with heartbeat := m.heartbeat + 1 }) s)
  else .next s

/-- PTB_SAMPLE: 1,024 ns after the last one (R392). -/
def execPtbSample (s : State) : Out :=
  let t := s.mgmt.ptbSample + 1024
  .next (modMgmt (fun m => { m with ptbSample := t }) (advanceTo t s))

/-! ### Event rings (R272, R391, R393) -/

/-- The 32 bytes of an event record (R391). -/
def eventBytes (e : Event) (phase : Bool) : List Byte :=
  leBytes 4 (packF [(0, e.code.toNat), (16, e.src.toNat), (31, flag phase)]) ++ leBytes 4 e.seq.toNat ++ leBytes 8 e.stamp.toNat
    ++ leBytes 4 (packF [(0, (e.ctx.map BitVec.toNat).getD 0), (12, flag e.ctx.isSome), (13, (e.pid.map BitVec.toNat).getD 0),
      (25, flag e.pid.isSome), (26, (e.posn.map BitVec.toNat).getD 0), (29, flag e.posn.isSome)])
    ++ leBytes 4 e.arg0.toNat ++ leBytes 8 e.arg1.toNat

/-- Records of the part's event ring: 2^LOG2SIZE, and codes outside 6 to 16 act as 6 (R396). -/
def evtLog2 (s : State) : Nat :=
  let l := fld s.mgmt.evtCtrl 4 0
  if 6 ≤ l ∧ l ≤ 16 then l else 6

/-- Writes a record to the part's ring, and the MSI-X message after it, or counts it as lost (R393, R396). -/
def partRing (e : Event) (s : State) : State :=
  let m := s.mgmt
  let size := 2 ^ evtLog2 s
  let nextIdx := (m.evtHead.toNat + 1) % size
  if nextIdx = m.evtTail.toNat then modMgmt (fun m => { m with evtLost := satUp m.evtLost 1 }) s
  else
    let s := hostWrite (m.evtBase.toNat + 32 * m.evtHead.toNat) (eventBytes e m.evtPhase) s
    let s := modMgmt (fun m => { m with
      evtHead := BitVec.ofNat 16 nextIdx, evtPhase := if nextIdx = 0 then !m.evtPhase else m.evtPhase }) s
    let msg : Msix := { func := 0, port := if bit m.evtCtrl 9 then 1 else 0, vec := BitVec.ofNat 6 (fld m.evtCtrl 21 16) }
    modHif (fun h => { h with msix := h.msix ++ [msg] }) s

/-- A record for the part's ring: written while EN is 1, and else kept among the newest 4,096 (R393). -/
def toPartRing (e : Event) (s : State) : State :=
  if bit s.mgmt.evtCtrl 8 then partRing e s
  else if s.mgmt.kept.length < 4096 then modMgmt (fun m => { m with kept := m.kept ++ [e] }) s
  else modMgmt (fun m => { m with kept := m.kept.drop 1 ++ [e], evtLost := satUp m.evtLost 1 }) s

/-- A record for a context's ring (R272). -/
def toCtxRing (c : Ctx) (e : Event) (s : State) : State :=
  let x := getCtx s c
  if !(recordsOpen x) then s
  else
    let size := 2 ^ x.elog2
    let nextIdx := (x.evtWrite + 1) % size
    if nextIdx = x.evtHead then modCtx c (fun x => { x with evtLost := satUp x.evtLost 1 }) s
    else
      let s := hostWrite (x.ering.toNat + 32 * x.evtWrite) (eventBytes e x.evtPhase) s
      sendMsix x x.vecEvt (modCtx c (fun x => { x with
        evtWrite := nextIdx, evtPhase := if nextIdx = 0 then !x.evtPhase else x.evtPhase }) s)

/-- EVENT_RECORD_WRITE: the oldest record that waits goes to the part's ring, and to its context's (R393). -/
def execEventRecordWrite (s : State) : Out :=
  match s.mgmt.queue with
  | [] => .next s
  | e :: rest =>
    let s := toPartRing e (modMgmt (fun m => { m with queue := rest }) s)
    .next (match e.ctx with
      | some c => toCtxRing c e s
      | none => s)

/-- The fields of EVT_RING_CTRL. -/
def evtCtrlMask : BitVec 32 := 0x003F031F

/-- Writes EVT_RING_CTRL; setting EN writes the kept records (R393). -/
def writeEvtCtrl (v : BitVec 32) (s : State) : State :=
  let s := modMgmt (fun m => { m with evtCtrl := v &&& evtCtrlMask }) s
  if bit v 8 then forAll s.mgmt.kept partRing (modMgmt (fun m => { m with kept := [] }) s) else s

/-- EVT_RING_ENABLE: EVT_RING_CTRL is written (R393, R396). -/
def execEvtRingEnable (v : BitVec 32) (s : State) : Out := .next (writeEvtCtrl v s)

/-- Writes EVT_RING_TAIL, unless the value passes HEAD (R396, R462). -/
def writeEvtTail (v : BitVec 32) (s : State) : State :=
  let t := fld v 15 0
  if headOk (evtLog2 s) s.mgmt.evtTail.toNat s.mgmt.evtHead.toNat t then
    modMgmt (fun m => { m with evtTail := BitVec.ofNat 16 t }) s
  else raise 0x0602 (hubUnit 0) { arg0 := 0x018 + 65536 * t } s

/-- EVT_RING_TAIL_WRITE (R396). -/
def execEvtRingTailWrite (v : BitVec 32) (s : State) : Out := .next (writeEvtTail v s)

end Sys2Proof.Machine
end

