-- ==== Sys2Proof/Machine/Tray.lean ====
section
/-! DEFINITION. The tray controller's I3C interface, and the flash access behind it (R414 to R417). -/

namespace Sys2Proof.Machine

/-! ### Private writes and reads (R415) -/

/-- The master ID of the tray controller (R386, R414). -/
def trayMid : BitVec 8 := 0x50

/-- Changes the power and tray block. -/
def modPwr (f : Pwr → Pwr) (s : State) : State := { s with pwr := f s.pwr }

/-- A write of PWR_TRAY_ALERT: THERM and PLIMIT are W1C, MASK is RW (R417). -/
def writeAlert (v : BitVec 32) (s : State) : State :=
  modPwr (fun p => { p with
    alertTherm := p.alertTherm && !(bit v 2), alertLimit := p.alertLimit && !(bit v 3)
    alertMask := BitVec.ofNat 5 (fld v 12 8) }) s

/-- A write of PWR_TRAY_FLASH: GO starts OP unless an operation is in progress; OP 0 names none (R416, R417). -/
def writeFlash (v : BitVec 32) (s : State) : State :=
  let op := BitVec.ofNat 2 (fld v 1 0)
  let addr := BitVec.ofNat 24 (fld v 31 8)
  let go := bit v 2 && !s.pwr.flashBusy && decide (op ≠ 0)
  modPwr (fun p => { p with
    flashOp := op, flashAddr := addr, flashBusy := p.flashBusy || go, flashErr := p.flashErr && !go
    flashRun := if go then some (op, addr) else p.flashRun }) s

/-- One word of a private write, at an offset (R415). CHIP_REQ is bit 8 of the upper word of RAS_CAP_STATUS (R347). -/
def trayWrite (off : Nat) (v : BitVec 32) (s : State) : State :=
  if off % 4 ≠ 0 then s
  else if off < 0x10000 then writeWindow (off / 1024) (off % 1024) trayMid v s
  else if off = 0x10008 then writeAlert v s
  else if off = 0x10024 then { s with ras := { s.ras with chipReq := s.ras.chipReq && !(bit v 8) } }
  else if off = 0x10040 then writeFlash v s
  else if 0x10100 ≤ off ∧ off < 0x10200 then
    modPwr (fun p => { p with fbuf := SMap.set 0 p.fbuf ((off - 0x10100) / 4) v }) s
  else s

/-- I3C_PRIVATE_WRITE: the offset is set, and the words land at it and after it (R415). -/
def execI3cPrivateWrite (offset : BitVec 24) (data : List (BitVec 32)) (s : State) : Out :=
  let s := modPwr (fun p => { p with i3cOffset := offset }) s
  .next (forAll ((List.range data.length).zip data) (fun p s => trayWrite (offset.toNat + 4 * p.1) p.2 s) s)

/-- A 32-bit half of a 64-bit value. -/
def half (v off : Nat) : Nat := v / 2 ^ (8 * (off % 8)) % 2 ^ 32

/-- What a private read returns at an offset (R415). -/
def trayRead (s : State) (off : Nat) : Nat :=
  if off % 4 ≠ 0 then 0
  else if off < 0x10000 then readWindow s (off / 1024) (off % 1024) trayMid
  else if 0x10100 ≤ off ∧ off < 0x10200 then (SMap.get 0 s.pwr.fbuf ((off - 0x10100) / 4)).toNat
  else
    match off / 8 * 8 with
    | 0x10000 => half (wFwStatus s) off
    | 0x10008 => half (wAlert s) off
    | 0x10010 => half s.pwr.telem.toNat off
    | 0x10018 => half (wSecStatus s) off
    | 0x10020 => half (wCapStatus s) off
    | 0x10028 => half (wGlbId s) off
    | 0x10030 => half (packF [(0, s.pwr.stage.toNat), (32, s.pwr.ms.toNat)]) off
    | 0x10040 => half (wFlash s) off
    | _ => 0

/-- I3C_DYNAMIC_ADDRESS (R414). -/
def execI3cDynamicAddress (addr : BitVec 7) (s : State) : Out := .next (modPwr (fun p => { p with i3cDyn := some addr }) s)

/-! ### The flash (R370, R416) -/

/-- Whether a flash offset lies where the tray may program and erase: the image area and the install staging region. -/
def trayArea (a : Nat) : Bool := decide (a < 0x800000) || (decide (0x1000000 ≤ a) && decide (a < 0x1400000))

/-- The operation of a code that has been started and can act: firmware does not hold the flash lock (R416). -/
def flashReady (s : State) (op : BitVec 2) : Option Nat :=
  match s.pwr.flashRun with
  | none => none
  | some (o, a) => if o = op ∧ !(lockHeld s 0) then some (256 * a.toNat) else none

/-- A started operation has acted. -/
def flashActed (s : State) : State := modPwr (fun p => { p with flashRun := none }) s

/-- The page buffer as bytes. -/
def fbufBytes (s : State) : List Byte := (List.range 64).flatMap (fun k => leBytes 4 (SMap.get 0 s.pwr.fbuf k).toNat)

/-- The bytes of the flash at a page: the image and staging areas are kept byte by byte; how the data regions lay out what
they hold is not given, and they read free (log entry 62). -/
def pageBytes (a : Nat) (s : State) : List Byte × State :=
  if trayArea a then (flashRead s a 256, s) else freeBytes 32 s

/-- FLASH_READ (R416). -/
def execFlashRead (s : State) : Out :=
  match flashReady s 1 with
  | none => .next s
  | some a =>
    let r := pageBytes a s
    let ws := (cut 4 r.1).map (fun w => BitVec.ofNat 32 (leNat w))
    .next (flashActed (modPwr (fun p => { p with fbuf := SMap.run 0 0 ws }) r.2))

/-- Writes bytes of the flash. -/
def flashWrite (a : Nat) (bs : List Byte) (s : State) : State :=
  modPwr (fun p => { p with flash := SMap.writeRun erasedByte p.flash a bs }) s

/-- An operation that is refused: ERR, and nothing is written (R416). -/
def flashRefuse (s : State) : State := modPwr (fun p => { p with flashErr := true }) s

/-- FLASH_PROGRAM: the buffer goes to an erased page of an allowed area; what a page that is not erased then holds is free
(R416; log entry 62). -/
def execFlashProgram (s : State) : Out :=
  match flashReady s 2 with
  | none => .next s
  | some a =>
    if !(trayArea a) then .next (flashActed (flashRefuse s))
    else if (flashRead s a 256).all (fun b => decide (b = erasedByte)) then .next (flashActed (flashWrite a (fbufBytes s) s))
    else
      let r := freeBytes 32 s
      .next (flashActed (flashWrite a r.1 r.2))

/-- FLASH_ERASE: the 64 KiB sector of the page is erased (R416). -/
def execFlashErase (s : State) : Out :=
  match flashReady s 3 with
  | none => .next s
  | some a =>
    if !(trayArea a) then .next (flashActed (flashRefuse s))
    else
      let b := a / 65536 * 65536
      .next (flashActed (modPwr (fun p => { p with
        flash := p.flash.filter (fun kv => decide (kv.1 < b) || decide (b + 65536 ≤ kv.1)) }) s))

/-- FLASH_OP_DONE: BUSY clears once the operation has acted (R416, R417). -/
def execFlashOpDone (s : State) : Out :=
  if s.pwr.flashBusy && s.pwr.flashRun.isNone then .next (modPwr (fun p => { p with flashBusy := false }) s) else .next s

end Sys2Proof.Machine
end

