-- ==== Sys2Proof/Machine/Tap.lean ====
section
/-! DEFINITION. The TAP and the debug window (R423, R427 to R430, R447). -/

namespace Sys2Proof.Machine

/-- Board-test instructions act only while PKG_RESET_N is asserted (R428). -/
def boardTest (s : State) : Bool := s.pwr.pkgReset

/-- Private instructions act only before FACTORY_CLOSED, or after DEBUG_UNLOCK until chip reset (R428). -/
def privateTest (s : State) : Bool := !s.fuses.factoryClosed || s.mgmt.debug

/-- Loads an instruction that acts: what register it selects, and what it does to the outputs. -/
def loadIr (code : BitVec 8) (drBits : Nat) (boundary floated : Bool) (s : State) : State :=
  { s with test := { s.test with ir := code, refused := false, drBits := drBits, boundary := boundary, floated := floated } }

/-- Loads BYPASS in place of an instruction that is refused, and marks it for the next Capture-IR (R427, R428). -/
def refuseIr (s : State) : State :=
  { s with test := { s.test with ir := 0xFF, refused := true, drBits := 1, boundary := false, floated := false } }

/-- An instruction that may be refused. -/
def tapInstr (allowed : Bool) (code : BitVec 8) (drBits : Nat) (boundary floated : Bool) (s : State) : Out :=
  .next (if allowed then loadIr code drBits boundary floated s else refuseIr s)

/-- What Capture-IR loads (R427). -/
def captureIr (s : State) : BitVec 8 := if s.test.refused then 0x05 else 0x01

/-- The IDCODE register (R430). -/
def wIdcode (s : State) : Nat :=
  packF [(0, 1), (1, 0x5BA), (12, 0x5A00 + partCode s.fuses.part), (28, fld s.fuses.hubStep 7 4 - 0xA)]

/-- Test-Logic-Reset: IDCODE is selected (R423, R429). -/
def tapReset (s : State) : State :=
  { s with test := { s.test with ir := 0x02, refused := false, drBits := 32, boundary := false, floated := false } }

/-- EXTEST (R427). -/
def execExtest (s : State) : Out := tapInstr (boardTest s) 0x00 0 true false s

/-- SAMPLE/PRELOAD (R427). -/
def execSamplePreload (s : State) : Out := tapInstr true 0x01 0 false false s

/-- IDCODE (R427, R430). -/
def execIdcode (s : State) : Out := tapInstr true 0x02 32 false false s

/-- CLAMP (R427). -/
def execClamp (s : State) : Out := tapInstr (boardTest s) 0x03 1 true false s

/-- HIGHZ (R427). -/
def execHighz (s : State) : Out := tapInstr (boardTest s) 0x04 1 false true s

/-- EXTEST_PULSE (R427). -/
def execExtestPulse (s : State) : Out := tapInstr (boardTest s) 0x05 0 true false s

/-- EXTEST_TRAIN (R427). -/
def execExtestTrain (s : State) : Out := tapInstr (boardTest s) 0x06 0 true false s

/-- POSN_SEL (R427). -/
def execPosnSel (s : State) : Out := tapInstr (privateTest s) 0x10 8 false false s

/-- WIR_ACCESS (R427). -/
def execWirAccess (s : State) : Out := tapInstr (privateTest s) 0x11 0 false false s

/-- DWR_ACCESS (R427). -/
def execDwrAccess (s : State) : Out := tapInstr (privateTest s) 0x12 0 false false s

/-- MBIST (R427). -/
def execMbist (s : State) : Out := tapInstr (privateTest s) 0x20 0 false false s

/-- LANE_TEST (R425, R427). -/
def execLaneTest (s : State) : Out := tapInstr (privateTest s) 0x21 0 false false s

/-- FUSE_ACCESS (R427). -/
def execFuseAccess (s : State) : Out := tapInstr (privateTest s) 0x30 0 false false s

/-- BYPASS (R427). -/
def execBypass (s : State) : Out := tapInstr true 0xFF 1 false false s

/-- A write of one word of the debug window (R447; the source of the event is log entry 61). -/
def writeDebug (code word : Nat) (v : BitVec 64) (s : State) : State :=
  if s.mgmt.debug then { s with test := { s.test with window := SMap.set 0 s.test.window (code * 512 + word) v } }
  else presenceDenied 8 s

/-- DEBUG_WINDOW_WRITE: by a master that reaches the register map, at a private instruction's window (R437, R447). -/
def execDebugWindowWrite (m : Master) (code : BitVec 8) (word : BitVec 9) (v : BitVec 64) (s : State) : Out :=
  if (selIndex m).isSome && privateCodes.contains code.toNat then .next (writeDebug code.toNat word.toNat v s) else .next s

end Sys2Proof.Machine
end

