-- ==== Sys2Proof/Machine/Power.lean ====
section
/-! DEFINITION. The power pins, chip reset and power loss, thermal trips, PLLs, DAMPED control and telemetry (R328, R401 to
R403, R408, R409, R412, R413, R417). -/

namespace Sys2Proof.Machine

/-! ### Chip reset and power loss (R328, R413, R441) -/

/-- What the flash holds, and with it the logs of what has left the part: unchanged by a reset (R370). -/
def keepMgmt (old fresh : Mgmt) : Mgmt :=
  { fresh with
    tableFlash := old.tableFlash, bindFlash := old.bindFlash, gfwFlash := old.gfwFlash, gfwEnFlash := old.gfwEnFlash
    remapFlash := old.remapFlash, withdrawnFlash := old.withdrawnFlash, wfromFlash := old.wfromFlash, pcFlash := old.pcFlash
    links := old.links, tamper := old.tamper, presenceLow := old.presenceLow, notified := old.notified, ended := old.ended }

/-- The part after a reset: registers at their reset values, fuses and flash as they are, and what lies outside the part
unchanged. -/
def restart (s : State) : State :=
  let r := State.resetOf { s.fuses with macMap := s.fuses.macMapFused }
  { r with
    pending := s.pending, host := s.host, free := s.free, test := { s.test with window := [] }
    hif := { r.hif with msix := s.hif.msix, perst := s.hif.perst }
    fab := { r.fab with sent := s.fab.sent, tc0 := s.fab.tc0, bitmaps := s.fab.bitmaps, linkctl := s.fab.linkctl }
    bank := { r.bank with toPeer := s.bank.toPeer }
    mgmt := keepMgmt s.mgmt r.mgmt
    pwr := { r.pwr with
      flash := s.pwr.flash, i3cAddr := s.pwr.i3cAddr, i3cDyn := s.pwr.i3cDyn, i3cOffset := s.pwr.i3cOffset
      straps := s.pwr.straps, ibis := s.pwr.ibis } }

/-- Clears every staging SRAM but the capture area of a position (R328). -/
def clearStaging (keep : Option Nat) (s : State) : State :=
  forAll (List.range 8) (fun n =>
    memZero (stageBase n) (if keep = some n then captureBase n else stageBase n + 0x8000000)) s

/-- A chip reset: the memories stay but for the staging SRAMs; THERMTRIP_N stays latched (R328, R403). -/
def chipReset (keep : Option Nat) (s : State) : State :=
  let r := restart s
  clearStaging keep { r with
    mem := s.mem, failed := s.failed, ras := { r.ras with capCount := s.ras.capCount }
    pwr := { r.pwr with
      pkgReset := true, pwrGood := s.pwr.pwrGood, thermtrip := s.pwr.thermtrip, arithStopped := s.pwr.arithStopped } }

/-- PKG_RESET_ASSERT: ABORT and the loss of the ranks, the chip capture, and the reset; `captured` says whether the capture ended in its lease (R328,
R330). -/
def execPkgResetAssert (captured : Bool) (s : State) : Out :=
  if s.pwr.pkgReset then .next s
  else
    let keep := capturePosn s 4 0
    let s := writeCapture { level := 4, posn := 0, engine := 0, cause := capPkgReset } captured (loseRanks s)
    .next (chipReset keep s)

/-- Power-up starts at stage 3 (R409). -/
def startUp (s : State) : State := modPwr (fun p => { p with upAt := s.mgmt.ptb }) s

/-- Whether a board-test instruction is loaded. -/
def boardLoaded (s : State) : Bool := [0x00, 0x03, 0x04, 0x05, 0x06].contains s.test.ir.toNat

/-- PKG_RESET_DEASSERT: the TAP leaves a board-test instruction first, and stage 3 starts (R409, R429). -/
def execPkgResetDeassert (s : State) : Out :=
  if s.pwr.pkgReset then
    let s := if boardLoaded s then tapReset s else s
    .next (startUp (modPwr (fun p => { p with pkgReset := false }) s))
  else .next s

/-- PWR_GOOD_RISE: the address straps are sampled, and stage 3 starts (R409, R412, R414). -/
def execPwrGoodRise (straps : BitVec 2) (s : State) : Out :=
  if s.pwr.pwrGood then .next s
  else .next (startUp (modPwr (fun p => { p with
    pwrGood := true, straps := straps, i3cAddr := BitVec.ofNat 7 (0x30 + straps.toNat) }) s))

/-- PWR_GOOD_FALL: power loss; before it the hub injects ABORT if it still runs, and gives up its ranks (R333). Memories are lost, THERMTRIP_N is released, and
the TAP is reset (R328, R403, R413, R429). -/
def execPwrGoodFall (s : State) : Out :=
  if s.pwr.pwrGood then
    let s := if s.pwr.pkgReset then s else loseRanks s
    let r := tapReset (restart s)
    .next (modPwr (fun p => { p with pwrGood := false, i3cDyn := none, i3cOffset := 0 }) r)
  else .next s

/-! ### Thermal trips and PLLs (R403, R408) -/

/-- THERMTRIP: CLK_ARITH stops on every die and THERMTRIP_N latches; a hub that runs injects ABORT and gives up its
ranks (R323, R333, R403, R413). -/
def execThermtrip (s : State) : Out :=
  let s := if s.pwr.thermtrip || s.pwr.pkgReset then s else loseRanks s
  .next (modPwr (fun p => { p with thermtrip := true, arithStopped := true }) s)

/-- The lock bit of a PLL in PWR_PLL_STATUS (R417). -/
def pllBit : Pll → Nat
  | .arith n => n.val
  | .noc n => 8 + n.val
  | .hbm n => 16 + n.val
  | .hubNoc => 24
  | .d2d => 25
  | .mgmt => 26
  | .serdes => 27
  | .pcie => 28

/-- PLL_LOCK_LOSS: a position's PLL resets the position, a hub PLL requests a chip reset, and the heartbeat stops with CLK_MGMT
(R408). -/
def execPllLockLoss (p : Pll) (s : State) : Out :=
  let s := modPwr (fun q => { q with pll := q.pll &&& ~~~(BitVec.ofNat 32 (2 ^ pllBit p)) }) s
  match p with
  | .arith n => .next (partitionReset n.val capFirmware s)
  | .noc n => .next (partitionReset n.val capFirmware s)
  | .hbm n => .next (partitionReset n.val capFirmware s)
  | .mgmt => .next s
  | .hubNoc => .next (requestChip s)
  | .d2d => .next (requestChip s)
  | .serdes => .next (requestChip s)
  | .pcie => .next (requestChip s)

/-! ### Draught and telemetry (R399, R401, R402) -/

/-- TDP in watts (R399). -/
def tdpW : PartNum → Nat
  | .zsn2 => 1800
  | .zsn4 => 3200
  | .zsn8 => 6000
  | .zsn8g => 6000

/-- DAMP_W as it acts: between 30 % of TDP and TDP (R417). -/
def dampW (s : State) : Nat :=
  let t := tdpW s.fuses.part
  max (t * 3 / 10) (min t (fld s.pwr.cap 15 0))

/-- DAMP_CONTROL: the 10 µs average of package power moves FRAC by one (R401). -/
def execDampControl (avgW : Nat) (s : State) : Out :=
  if s.pwr.modes.draught ≠ .damped then .next s
  else if dampW s < avgW then
    .next (modPwr (fun p => { p with frac := if 16 < p.frac.toNat then p.frac - 1 else p.frac }) s)
  else if 100 * avgW < 97 * dampW s then
    .next (modPwr (fun p => { p with frac := if p.frac.toNat < 64 then p.frac + 1 else p.frac }) s)
  else .next s

/-- Whether an event that is raised at most once per 100 ms may be raised now. -/
def due100 (s : State) (last : Option (BitVec 64)) : Bool :=
  match last with
  | none => true
  | some t => decide (100000000 ≤ (s.mgmt.ptb - t).toNat)

/-- PWR_LIMIT, with its alert bit (R402). -/
def limitEvent (pkgW : Nat) (s : State) : State :=
  if fld s.pwr.cap 31 16 < pkgW && due100 s s.pwr.limitAt then
    raise 0x0B04 (hubUnit 8) {} (modPwr (fun p => { p with alertLimit := true, limitAt := some s.mgmt.ptb }) s)
  else s

/-- THERM_WARN, with its alert bit (R402). -/
def warnEvent (tdie thub : Nat) (s : State) : State :=
  if s.pwr.warn.toNat ≤ max tdie thub && due100 s s.pwr.thermAt then
    raise 0x0B03 (hubUnit 8) {} (modPwr (fun p => { p with alertTherm := true, thermAt := some s.mgmt.ptb }) s)
  else s

/-- TELEMETRY_UPDATE (R402, R417). -/
def execTelemetryUpdate (tdie : BitVec 8) (tposn : Posn) (thub : BitVec 8) (pkgW : BitVec 16) (s : State) : Out :=
  let w := BitVec.ofNat 64 (packF [(0, tdie.toNat), (8, tposn.val), (16, thub.toNat), (32, pkgW.toNat)])
  .next (alertSets s (warnEvent tdie.toNat thub.toNat (limitEvent pkgW.toNat (modPwr (fun p => { p with telem := w }) s))))

end Sys2Proof.Machine
end

