-- ==== Sys2Proof/Machine/Boot.lean ====
section
/-! DEFINITION. The stages of power-up that are commands of their own: management boot, die inventory, HBM training, fabric
discovery and host links (R209, R212 to R214, R240, R241, R371 to R373, R409 to R411). -/

namespace Sys2Proof.Machine

/-! ### Management boot (R371 to R373) -/

/-- Bytes of the longest body. -/
def imageMax : Nat := 8388352

/-- Whether the header of an image passes: MAGIC, FORMAT, LENGTH and reserved bits (R371, R372). -/
def imageHeaderOk (h : List Byte) : Bool :=
  let len := leAt h 8 4
  decide (leAt h 0 4 = 0x57464B5A) && decide (leAt h 4 4 = 1) && decide (len % 64 = 0) && decide (len ≤ imageMax)
    && decide (leNat ((h.drop 0x14).take 12) = 0) && decide (leNat ((h.drop 0x80).take 128) = 0)

/-- The image digest: the header with SIGNATURE 0, then the body (R371). -/
def imageDigest (h body : List Byte) : List Byte :=
  (Config.sha512 (h.take 0x40 ++ List.replicate 64 0 ++ h.drop 0x80 ++ body)).toList

/-- The boot failure of R373, or 0: 2 header, 3 key digest, 4 signature. -/
def bootFail (s : State) : Nat :=
  let h := flashRead s 0 256
  let signer := (h.drop 0x20).take 32
  if !(imageHeaderOk h) then 2
  else if ((Config.sha512 signer).toList.take 32) ≠ leBytes 32 s.fuses.fwKey.toNat then 3
  else if !(Config.ed25519Verify signer (imageDigest h (flashRead s 256 (leAt h 8 4))) ((h.drop 0x40).take 64)) then 4
  else 0

/-- The PLLs are locked: the hub's, and those of every fitted position (R372, R417). -/
def lockAll (s : State) : State :=
  let hub := modPwr (fun p => { p with pll := p.pll ||| 0x1F000000 }) s
  forAll ((List.range 8).filter (fun n => fitsCompute s.fuses.part n || fitsGuest s.fuses.part n)) lockPlls hub

/-- Firmware writes the bindings and the firewall from its configuration, and locks both (R221, R372). -/
def loadConfig (s : State) : State :=
  let s := forAll s.mgmt.bindFlash (fun kv => modMbx kv.1 (fun c => { c with bind := kv.2 })) s
  let s := modMgmt (fun m => { m with mbxLock := true }) s
  if hasGfw s then
    forAll [0, 1] (fun g => modGfw g (fun w => { w with
      en := s.mgmt.gfwEnFlash.getLsbD g, lock := true
      rules := (s.mgmt.gfwFlash.filter (fun kv => decide (kv.1 / 32 = g))).map (fun kv => (kv.1 % 32, kv.2)) })) s
  else s

/-- MANAGEMENT_BOOT: the image is checked; firmware runs, or the part enters RECOVERY (R372, R373, R409, R410). -/
def execManagementBoot (s : State) : Out :=
  if s.mgmt.fw = .boot ∧ s.pwr.stage = 2 ∧ s.pwr.pwrGood ∧ !s.pwr.pkgReset then
    let fail := bootFail s
    let h := flashRead s 0 256
    let s := lockAll s
    if fail ≠ 0 then .next (alertSets s (modMgmt (fun m => { m with fw := .recovery, fail := BitVec.ofNat 4 fail }) s))
    else
      let digest := imageDigest h (flashRead s 256 (leAt h 8 4))
      let s := modMgmt (fun m => { m with
        fw := .running, fail := 0, fwVersion := BitVec.ofNat 32 (leAt h 0x0C 4), fwDigest := digest }) s
      .next (raise 0x0A01 (hubUnit 8) {} (modPwr (fun p => { p with stage := 3 }) (loadConfig s)))
  else .next s

/-! ### Die inventory (R209, R212 to R214) -/

/-- What a position reads after inventory: the dies of a position below HUB_MIN disable it (R213). -/
def inventoryState (s : State) (n : Nat) : PosState :=
  let f := posnFuses s n
  if fitsGuest s.fuses.part n then (if f.baseLevel < s.fuses.hubMin then .disabledLevel else .guest)
  else if fitsCompute s.fuses.part n then
    (if f.dieLevel < s.fuses.hubMin ∨ f.baseLevel < s.fuses.hubMin then .disabledLevel else .enabled)
  else .absent

/-- GLB_FEATURE.EFFECTIVE: the least level of the hub and of the dies of ENABLED and GUEST positions (R213). -/
def effectiveLevel (s : State) : Nat :=
  (List.range 8).foldl (fun m n =>
    let f := posnFuses s n
    match inventoryState s n with
    | .enabled => min m (min f.dieLevel.toNat f.baseLevel.toNat)
    | .guest => min m f.baseLevel.toNat
    | _ => m) s.fuses.hubLevel.toNat

/-- Whether an edge is DISABLED: held so on the ZSN-8G, or at a position that is ABSENT or DISABLED_LEVEL (R19, R209). -/
def edgeDisabled (s : State) (e : Nat) : Bool :=
  (decide (s.fuses.part = .zsn8g) && (decide (e = 10) || decide (e = 13))) ||
    (edgeEnds e).any (fun n => decide ((getPos s n).st = .absent) || decide ((getPos s n).st = .disabledLevel))

/-- DIE_INVENTORY (R212, R213): position states, the effective level, P, the errata, and the edges that train. -/
def execDieInventory (s : State) : Out :=
  if s.pwr.stage = 3 ∧ s.mgmt.fw = .running then
    let eff := effectiveLevel s
    let st := inventoryState s
    let s := forAll (List.range 8) (fun n => modPos n (fun p => { p with
      st := st n, errata := decide (st n = .enabled) || decide (st n = .guest) })) s
    let s := { s with pkg := { s.pkg with
      effective := BitVec.ofNat 8 eff
      invEnabled := BitVec.ofNat 8 (((List.range 8).map (fun n => if st n = .enabled then 2 ^ n else 0)).sum) } }
    let s := raise 0x0401 (hubUnit 8) {} (modPwr (fun p => { p with stage := 4 }) s)
    let s := forAll (List.range 14) (fun e s =>
      if edgeDisabled s e then modEdge e (fun x => { x with st := .disabled }) s else startEdge e s) s
    .next (d2dStage s)
  else .next s

/-! ### HBM training (R185, R188, R390, R409) -/

/-- The HBM of every ENABLED position, as the power-up scrub takes it: every local region but a guest's, and the wide one. -/
def hbmWindows (s : State) : List Window :=
  ((List.range 8).filter (fun n => decide ((getPos s n).st = .enabled))).map (fun n =>
    ({ base := localBase n, limit := localBase (n + 1) } : Window)) ++ [{ base := wideBase, limit := 0x020000000000 }]

/-- HBM_TRAINING: tables are reloaded, pseudo-channels that fail are mapped out, and the power-up scrub starts (R185, R188,
R390, R410). -/
def execHbmTraining (failed : List (Posn × Fin 64)) (s : State) : Out :=
  if s.pwr.stage = 5 then
    let live := (List.range 8).filter (fun n => decide ((getPos s n).st = .enabled) || decide ((getPos s n).st = .guest))
    let s := forAll live (fun n => modPos n (reloadRemap s.mgmt n)) s
    let s := forAll (failed.filter (fun f => live.contains f.1.val && decide ((getChan (getPos s f.1.val) f.2.val).st = .normal)))
      (fun f s =>
        let s := modChan f.1.val f.2.val (fun c => { c with st := .limp }) s
        let s := raise 0x0304 (posUnit f.1.val (0x40 + f.2.val)) { posn := some f.1.val } s
        mapoutFinish f.1.val f.2.val none (mapoutStart f.1.val f.2.val none s)) s
    let s := modHif (fun h => { h with scrubs := h.scrubs ++
      [{ ctx := none, ticket := 0, windows := hbmWindows s, posns := 0 }] }) s
    .next (raise 0x0B01 (hubUnit 8) {} (modPwr (fun p => { p with stage := 6 }) s))
  else .next s

/-! ### Fabric discovery (R240, R241) -/

/-- FABRIC_DISCOVERY: the install table is loaded and cabled ports train; a table that is not loaded leaves every port HELD
(R240, R241, R410). -/
def execFabricDiscovery (s : State) : Out :=
  if s.pwr.stage = 6 then
    let bad := raise 0x0502 (hubUnit 3) {} (forAll (List.range 24) (fun p => modPort p (fun q => { q with st := .held })) s)
    match s.mgmt.tableFlash with
    | none => .next (discoveryDone bad)
    | some t =>
      if tableOk s.fuses.serial t then
        let s := modFab (fun f => { f with table := some t, selfIdx := indexOfSerial t s.fuses.serial.toNat }) s
        let s := forAll (List.range 24) (fun p s =>
          if cabled s p then trainPort p s else modPort p (fun q => { q with st := .notCabled }) s) s
        .next (discoveryDone s)
      else .next (discoveryDone bad)
  else .next s

/-! ### Host links (R409, R411) -/

/-- Whether every host port whose PERSTn_N is deasserted has its link (R410). -/
def hostsUp (s : State) : Bool := [0, 1].all (fun p => SMap.get true s.hif.perst p || SMap.get false s.hif.linkUp p)

/-- HOST_LINK_TRAINING: with PERSTn_N deasserted a port trains; once stage 7 has ended its stage 8 ends, and HOST_LINK_UP is
raised; the power-up's stage 8 ends with the last port that it waits for (R409 to R411, R462). -/
def execHostLinkTraining (port : Fin 2) (width : BitVec 5) (rate : BitVec 7) (s : State) : Out :=
  let s := modHif (fun h => { h with perst := SMap.set true h.perst port.val false }) s
  if s.pwr.stage.toNat < 7 then .next s
  else
    let s := modHif (fun h => { h with linkUp := SMap.set false h.linkUp port.val true }) s
    let ms := BitVec.ofNat 32 ((s.mgmt.ptb - s.pwr.upAt).toNat / 1000000)
    let s := if s.pwr.stage = 7 ∧ hostsUp s then modPwr (fun p => { p with stage := 8, ms := ms }) s else s
    .next (raise 0x0B02 (hubUnit (0x40 + port.val))
      { arg0 := packF [(0, port.val), (1, width.toNat), (6, rate.toNat)] } s)

end Sys2Proof.Machine
end

