-- ==== Sys2Proof/Machine/StepTx.lean ====
section
/-! DEFINITION. The step transaction: opening a step, casting its vote, the vote tree, the resolution, and the two roles of a
commit (R293 to R314, R343). -/

namespace Sys2Proof.Machine

/-! ### Opening (R295, R298, R301) -/

/-- Whether the partition entry bound to a context lets it open steps: VALID and RANKED, with a rank map of exactly the ranks
0 to NR − 1; a context that no entry names runs alone (R298; log entry 41). -/
def entryOpens (s : State) (c : Ctx) : Bool :=
  match boundEntry s c with
  | some k => (getPart s k).ranked && ranksDense (getPart s k)
  | none => !(s.fab.parts.any (fun kv => kv.2.ctx == c))

/-- The status and DETAIL that refuse a STEP_OPEN: the first check of R298 that fails; a half-restored state comes first
(R365). An area on a guest position holds no ember (R4; log entry 132). -/
def openRefusal (s : State) (c : Ctx) (w : BitVec 512) : Option (Nat × Nat) :=
  let base := dfld w 0x18 47 0
  let len := dfld w 0x20 39 0
  if s.bank.restore = .failed ∧ s.bank.restoreCtx = some (c, (getCtx s c).gen) then some (0x33, 5)
  else if !(entryOpens s c) then some (stBadTarget, 0)
  else if dfld w 0x10 63 0 ≠ s.step.next.toNat then some (stStepOrder, s.step.next.toNat % 2 ^ 32)
  else if base % 4096 ≠ 0 ∨ len % 4096 ≠ 0 ∨ len < 8192 then some (stEmberBad, 1)
  else if !(reaches (getCtx s c) base len) || guestHolds s base len then some (stEmberBad, 2)
  else if s.step.held.any (fun h => decide (base < h.emberBase + h.emberBytes) && decide (h.emberBase < base + len)) then
    some (stEmberBad, 3)
  else if s.pwr.modes.mirror && !(inMirrorEntry s base len) then some (stEmberBad, 4)
  else none

/-- Descriptors that hold no later one of their context: a SNAP and a BANK, which end after a boundary to come (R172, R356). -/
def holdsNoLater (w : BitVec 512) : Bool := decide (dOpcode w = 0x0A) || decide (dOpcode w = 0x0B)

/-- Descriptors that run on no position, for which a STEP fence does not wait: those that hold no later one, a STEP_VOTE, and an
AUDIT, which ends after the boundary of a step to come (R85; log entry 134). -/
def offPosition (w : BitVec 512) : Bool :=
  holdsNoLater w || decide (dOpcode w = 0x08) || (decide (dOpcode w = 0x09) && decide (dfld w 0x10 3 0 = 4))

/-- Whether the fence of a STEP_OPEN has drained: earlier descriptors complete on the positions, cells idle (R85). -/
def openDrained (s : State) (c : Ctx) : Bool := (getCtx s c).started.all (fun d => offPosition d.words) && cellsIdle s c

/-- The attempt under which a step opens for the first time here (R297, R339). -/
def firstAttempt (s : State) (step : BitVec 64) : BitVec 4 :=
  match s.step.abortNext.find? (fun a => a.1 == step) with
  | some a => a.2.1
  | none =>
    match s.step.openAttempt with
    | some a => if a.1 = step then a.2 else 0
    | none => 0

/-- INBYTES of a step whose ember was pulled at a promotion, from the step record it holds; else 0 (R339). -/
def pulledBytes (s : State) (n : BitVec 64) (w : BitVec 512) : Nat :=
  if s.step.pulled.contains n then leAt (memRead s (dfld w 0x18 47 0 + dfld w 0x20 39 0 - 4096) 24) 16 8 else 0

/-- A step as it opens (R145, R165, R275, R295). -/
def openedStep (s : State) (c : Ctx) (d : Desc) : Held :=
  let w := d.words
  let n := BitVec.ofNat 64 (dfld w 0x10 63 0)
  { step := n, ctx := c, st := .opened, attempt := firstAttempt s n, check := !s.step.clearNext, cause := 0
    emberBase := dfld w 0x18 47 0, emberBytes := dfld w 0x20 39 0, inbytes := pulledBytes s n w, broken := false, checks := [], vnon := []
    variant := none, umask := 0, updl := [], lists := [], vote := none, mask := 0, voteKey := none, castAt := 0, resSegs := []
    abortAt := none, mirrored := false, ownerDone := false, mirrorDone := false, index := d.index, words := w, openKey := d.key
    alone := (boundEntry s c).isNone, recordSent := false, syncRec := recordSync s c, outCrc := [], voted := false, lag := (none, 0) }

/-- The causes that a step aborts with as soon as it opens: those charged to it beforehand, EMBER when its ember is BROKEN,
and CHECK when its check flag was cleared beforehand (R296, R297, R300, R335). -/
def openCauses (s : State) (h : Held) : List (BitVec 8) :=
  let named := (s.step.abortNext.filter (fun a => a.1 == h.step)).map (fun a => a.2.2)
  let early := if s.step.clearNext then s.step.abortNext.map (fun a => a.2.2) ++ [causeCheck] else []
  named ++ (if h.broken then [causeEmber] else []) ++ early

/-- After a step has opened: the causes that waited for it are charged. -/
def chargeOpened (step : BitVec 64) (s : State) : State :=
  match heldPlace s step, heldStep s step with
  | some i, some h =>
    let causes := openCauses s h
    let s := modStep (fun e => { e with
      clearNext := false, abortNext := e.abortNext.filter (fun a => decide (step < a.1)), openAttempt := none }) s
    match causes with
    | [] => s
    | x :: _ => injectAbort i x s
  | _, _ => s

/-- A step opens as its STEP_OPEN passes the checks: SEQ.NEXT goes on, its ember slot is taken, and the causes that waited for it are
charged (R295, R298). -/
def openStep (c : Ctx) (d : Desc) (s : State) : State :=
  let h := openedStep s c d
  let s := modStep (fun e => { e with held := e.held ++ [h], next := e.next + 1, openWaitSince := none }) s
  chargeOpened h.step (headWriteBack c s)

/-- The STEP fence of the STEP_OPEN of the held step at a place runs: the sync objects are recorded, and the descriptor completes (R85,
R275, R298). -/
def openFence (c : Ctx) (d : Desc) (i : Nat) (h : Held) (s : State) : State :=
  let rec1 := recordSync s c
  let r := stepFence c (modHeld i (fun h => { h with syncRec := rec1 }) s)
  finishStarting c { d with step := some h.step, attempt := h.attempt } r.1.1 r.1.2 r.2

/-- The place of the step that a STEP_OPEN has opened, while its fence waits. -/
def openedBy (s : State) (c : Ctx) (d : Desc) : Option Nat := placeOf (fun h => h.ctx == c && h.openKey == d.key) s.step.held

/-- The fence of a STEP_OPEN that has opened its step runs once it has drained (R85, R298). -/
def settleOpen (c : Ctx) (d : Desc) (s : State) : State :=
  match (openedBy s c d).bind (fun i => s.step.held[i]?.map (fun h => (i, h))), startingOf s c 0x07 with
  | some (i, h), some _ => if openDrained s c then openFence c d i h s else s
  | _, _ => s

/-- A step reopens under its next attempt; it keeps its ember and repeats no check (R287, R298). -/
def reopen (c : Ctx) (d : Desc) (i : Nat) (h : Held) (s : State) : State :=
  let s := modHeld i (fun h => { h with check := true, checks := [], vnon := [], outCrc := [] }) s
  let s := modCtx c (fun x => { x with replay := x.replay.filter (fun k => k != h.step) }) s
  chargeOpened h.step (openFence c d i h s)

/-- STEP_OPEN (R298): checks, waits for a free ember slot, opens the step, and waits for its fence to drain; a refetched one of a step
that is held reopens it, unless it has halted. -/
def execStepOpen (ctx : Ctx) (s : State) : Out :=
  match startingOf s ctx 0x07 with
  | none => .next s
  | some d =>
    let n := BitVec.ofNat 64 (dfld d.words 0x10 63 0)
    if (openedBy s ctx d).isSome then .next (settleOpen ctx d s)
    else
      match d.refetched && (getCtx s ctx).replay.contains n, heldPlace s n, heldStep s n with
      | true, some i, some h =>
        if decide (h.st = .opened) && openDrained s ctx then .next (reopen ctx d i h s) else .next s
      | _, _, _ =>
        match openRefusal s ctx d.words with
        | some r => .next (finishStarting ctx d r.1 r.2 s)
        | none =>
          if s.pwr.modes.depth ≤ s.step.held.length then
            .next (modStep (fun e => { e with openWaitSince := e.openWaitSince.or (some s.mgmt.ptb) }) s)
          else .next (settleOpen ctx d (openStep ctx d s))

/-- STEP_DEPTH_TIMEOUT: a STEP_OPEN has waited for an ember slot for HIF_SYNC_WAIT.LIMIT (R298). -/
def execStepDepthTimeout (ctx : Ctx) (s : State) : Out :=
  match startingOf s ctx 0x07, s.step.openWaitSince with
  | some d, some t =>
    let lim := fld s.hif.syncWait 23 0
    let s := advanceTo (t + msec (if lim = 0 then 10000 else lim)) s
    let s := modStep (fun e => { e with openWaitSince := none }) s
    .next (finishStarting ctx d stStepDepth s.step.held.length s)
  | _, _ => .next s

/-! ### Forming the vote (R27, R146, R165, R166, R304) -/

/-- The skip mask of the package: the variants with a non-finite count above 0 on a position. -/
def skipMask (h : Held) : BitVec 1024 :=
  h.vnon.foldl (fun (m : BitVec 1024) kv => if kv.2 = 0 then m else m ||| BitVec.shiftLeft 1 (kv.1 % 1024)) 0

/-- The contribution of R146: the vote, and the abort cause of an ABORT. A context whose capacity has shrunk votes ABORT
until a RESTORE (R189). -/
def contribution (s : State) (h : Held) (w : BitVec 512) (lists : Option (SMap (List UpdEntry))) : Outcome3 × BitVec 8 :=
  let pairs := (maskPosns (getCtx s h.ctx).posns).map (fun n => SMap.get CheckPair.init h.checks n)
  let checked := (pairs.map (fun p => p.checked.toNat)).sum
  if (getCtx s h.ctx).shrunk then (.abort, causeCapacity)
  else if !h.check then (.abort, causeCheck)
  else if lists.isNone then (.abort, causeProgram)
  else if checked ≠ dfld w 0x18 39 0 || pairs.any (fun p => decide (p.checked = 0xFFFFFFFF)) then (.abort, causeProgram)
  else if pairs.any (fun p => decide (p.nonfinite ≠ 0)) then (.skip, 0)
  else (.commit, 0)

/-- UPDL of a STEP_VOTE body. -/
def voteLists (w : BitVec 512) : SMap (BitVec 32) :=
  (List.range 8).foldl (fun m n => SMap.set 0 m n (BitVec.ofNat 32 (dfld w (0x20 + 4 * n) 31 0))) []

/-- The 4,096 bytes that hold the step record (R299, R304). -/
def stepRecord (h : Held) : List Byte :=
  leBytes 8 h.step.toNat ++ leBytes 8 (h.attempt.toNat + 2 ^ 8 * h.umask.toNat + 2 ^ 16 * flag h.mirrored)
    ++ leBytes 8 h.inbytes ++ (List.range 8).flatMap (fun n => leBytes 4 (SMap.get 0 h.updl n).toNat)
    ++ List.replicate 4040 0

/-! ### The vote tree (R305, R309, R343) -/

/-- The segments of a mask that are not 0, or segment 0 alone. -/
def maskSegs (mask : BitVec 1024) : List (Nat × Nat) :=
  let l := ((List.range 16).map (fun k => (k, fld mask (64 * k + 63) (64 * k)))).filter (fun p => decide (p.2 ≠ 0))
  if l.isEmpty then [(0, 0)] else l

/-- The bodies of the messages that carry a mask and an outcome (R309). -/
def maskBodies (mask : BitVec 1024) (outcome : Nat) : List (BitVec 128) :=
  let l := maskSegs mask
  l.map (fun p => BitVec.ofNat 128 (p.2 + 2 ^ 64 * p.1 + 2 ^ 68 * (l.length - 1) + 2 ^ 72 * outcome))

/-- NSEGM1 + 1 of a VOTE or RESOLVE. -/
def msgSegs (m : Tc0) : Nat := fld m.body 71 68 + 1

/-- The mask bits of one message, in place. -/
def msgMask (m : Tc0) : BitVec 1024 := BitVec.ofNat 1024 (fld m.body 63 0) <<< (64 * msgSeg m)

/-- The children of a rank in a tree of NR ranks. -/
def childRanks (rank nr : Nat) : List Nat := ((List.range 16).map (fun i => 16 * rank + 1 + i)).filter (fun r => decide (r < nr))

/-- The rank count of a context's partition: 1 for a context that runs alone. -/
def rankTotal (s : State) (c : Ctx) : Nat :=
  match boundEntry s c with
  | none => 1
  | some k => rankCount (getPart s k)

/-- A subtree's vote: whether it is SKIP, its mask, and when its last message came. -/
structure SubVote where
  child : Nat
  skip : Bool
  mask : BitVec 1024
  since : BitVec 64
deriving DecidableEq, Repr

/-- The vote of a child for a step and attempt, once every message of it is held. -/
def childVote (s : State) (h : Held) (r : Nat) : Option SubVote :=
  let ms := s.step.votes.filter (fun v => !v.rollcall && decide (v.child.toNat = r) && v.msg.step == h.step
    && v.msg.attempt == h.attempt && decide (msgOutcome v.msg ≤ 1))
  match ms.getLast? with
  | none => none
  | some l =>
    if (ms.map (fun v => msgSeg v.msg)).eraseDups.length < msgSegs l.msg then none
    else some
      { child := r, skip := ms.any (fun v => decide (msgOutcome v.msg = 1))
        mask := ms.foldl (fun (m : BitVec 1024) v => m ||| msgMask v.msg) 0, since := l.since }

/-- STEP_LAGGARD's child and lag in µs of a subtree vote (R343). -/
def laggard (castAt : BitVec 64) (vs : List SubVote) : Option (BitVec 14) × Nat :=
  match vs with
  | [] => (none, 0)
  | v :: t =>
    let last := t.foldl (fun a b => if a.since < b.since then b else a) v
    let rest := (vs.filter (fun u => decide (u.child ≠ last.child))).map SubVote.since
    if last.since ≤ castAt then (none, (castAt - last.since).toNat / 1000)
    else
      let prev := rest.foldl (fun a b => if a < b then b else a) castAt
      (some (BitVec.ofNat 14 last.child), (last.since - prev).toNat / 1000)

/-! ### Resolution (R266, R294, R301, R306, R307, R311, R312) -/

/-- STEP_CSYNC is signalled, if it is enabled (R312). -/
def signalCsync (s : State) : State :=
  if bit s.step.csync 16 then syncRequest (fld s.step.csync 15 0) 10 (.add 1) s else s

/-- Votes of steps up to one are of no use any more. -/
def dropVotes (step : BitVec 64) (s : State) : State :=
  modStep (fun e => { e with votes := e.votes.filter (fun v => decide (step < v.msg.step)) }) s

/-- The STEP_VOTE of a step completes with its outcome (R285). -/
def completeVote (h : Held) (outcome : Nat) (s : State) : State :=
  match h.voteKey with
  | none => s
  | some k => completeKey h.ctx k stOk outcome 10 s

/-- Puts a step into the list of the partner's steps, or changes the entry that is there. -/
def setPeerStep (p : PeerStep) (g : PeerStep → PeerStep) (l : List PeerStep) : List PeerStep :=
  if l.any (fun q => q.step == p.step) then l.map (fun q => if q.step = p.step then g q else q) else l ++ [p]

/-- Whether 64 bytes of the mirror hold the partner's step record of a step with MIR set (R304, R311). -/
def isPeerRecord (s : State) (a : Nat) (step : BitVec 64) : Bool :=
  (s.step.peerEntries.filterMap Prod.snd).any (fun e => decide (e.mir ≤ a) && decide (a + 64 ≤ e.mir + e.length))
    && decide (leNat (memRead s a 8) = step.toNat) && decide (bitsOf (leNat (memRead s (a + 10) 1)) 0 0 = 1)

/-- Whether the mirror holds such a record at all: a step record starts the last 4,096 bytes of an ember area (R299). -/
def anyPeerRecord (s : State) (step : BitVec 64) : Bool :=
  (s.step.peerEntries.filterMap Prod.snd).any (fun e =>
    (List.range (e.length / 4096)).any (fun i => isPeerRecord s (e.mir + 4096 * i) step))

/-- The partner's step, as it resolves here, where the mirror holds its step record with MIR set: it has a partner role here, whether
MIRROR is on here or not (R294, R301, R311; log entry 46). -/
def notePeer (step : BitVec 64) (mask : BitVec 1024) (skip : Bool) (s : State) : State :=
  if !(anyPeerRecord s step) then s
  else
  let p : PeerStep :=
    { step := step, mask := mask, resolved := true, skip := skip, partnerDone := false, ownerDone := false }
  modStep (fun e => { e with
    peerSteps := setPeerStep p (fun q => { q with mask := mask, resolved := true, skip := skip }) e.peerSteps }) s

/-- The writes of a SKIP by the commit engine in the owner role, and its boundary (R172, R294). -/
def writeSkip (k : SkipStep) (s : State) : State :=
  atBoundary k.ctx k.step (modStep (fun e => { e with number := k.step + 1, cursor := e.cursor + BitVec.ofNat 64 k.inbytes }) s)

/-- Whether an owner-role commit of an earlier step still runs. -/
def earlierCommit (s : State) (step : BitVec 64) : Bool :=
  s.step.held.any (fun h => decide (h.st = .committing) && !h.ownerDone && decide (h.step < step))

/-- The oldest SKIP that waited for earlier commits is written, when none runs any more; then the next. -/
def settleSkips : Nat → State → State
  | 0, s => s
  | fuel + 1, s =>
    match s.step.skipQ with
    | [] => s
    | k :: t => if earlierCommit s k.step then s else settleSkips fuel (writeSkip k (modStep (fun e => { e with skipQ := t }) s))

/-- The held step at a place resolves SKIP (R294, R301, R312). -/
def resolveSkip (i : Nat) (s : State) : State :=
  match s.step.held[i]? with
  | none => s
  | some h =>
    let s := recordWait h (resolveStats h false 0 s)
    let s := modStep (fun e => { e with
      held := e.held.filter (fun k => k.step != h.step || k.ctx != h.ctx), skips := satUp e.skips 1
      skipQ := e.skipQ ++ [{ step := h.step, ctx := h.ctx, inbytes := h.inbytes, mirrored := h.mirrored }] }) s
    let s := notePeer h.step 0 true s
    let s := signalCsync (settleSkips s.step.skipQ.length s)
    headWriteBack h.ctx (sendRecord h.ctx (completeVote h 1 (dropVotes h.step s)))

/-- Variants of a mask. -/
def maskCount (mask : BitVec 1024) : Nat := ((List.range 1024).filter (fun v => mask.getLsbD v)).length

/-- STEP_VMASK, STEP_VSTAT and VARIANT_SKIP of a COMMIT (R169). -/
def noteMask (h : Held) (mask : BitVec 1024) (s : State) : State :=
  let n := maskCount mask
  let s := modStep (fun e => { e with vmask := mask, nskip := BitVec.ofNat 11 n, vskipTotal := satUp e.vskipTotal n }) s
  if n = 0 then s else raise 0x0203 (hubUnit 1) { ctx := some h.ctx, arg0 := n, arg1 := h.step.toNat } s

/-- STALE follows a COMMIT with MIRROR off (R303). -/
def staleMirror (s : State) : State :=
  if s.pwr.modes.mirror then s
  else modStep (fun e => { e with mirror := match e.mirror with
    | .unpaired => .unpaired
    | .lost => .lost
    | _ => .stale }) s

/-- The held step at a place resolves COMMIT with a mask: the commit engines start (R140, R153, R169, R311). -/
def resolveCommit (i : Nat) (mask : BitVec 1024) (s : State) : State :=
  match s.step.held[i]? with
  | none => s
  | some h =>
    let s := recordWait h (resolveStats h true mask s)
    let s := modHeld i (fun k => { k with st := .committing, mask := mask }) s
    let s := notePeer h.step mask false s
    headWriteBack h.ctx (sendRecord h.ctx (completeVote h 0 (dropVotes h.step (staleMirror (noteMask h mask s)))))

/-- A cast step resolves COMMIT or SKIP. -/
def resolveCast (i : Nat) (skip : Bool) (mask : BitVec 1024) (s : State) : State :=
  if skip then resolveSkip i s else resolveCommit i mask s

/-- Floods the RESOLVE messages of a step over a partition from its root (R306). -/
def floodResolve (c : Ctx) (step : BitVec 64) (attempt : BitVec 4) (outcome : Nat) (mask : BitVec 1024) (s : State) : State :=
  match boundEntry s c with
  | none => s
  | some k =>
    forAll (maskBodies mask outcome) (fun b s => floodOwn k (tc0Msg s k 3 attempt 0 step b) s) s

/-- Sends a vote to the parent in the tree (R305). -/
def voteUp (c : Ctx) (step : BitVec 64) (attempt : BitVec 4) (outcome : Nat) (mask : BitVec 1024) (s : State) : State :=
  match boundEntry s c with
  | none => s
  | some k =>
    let e := getPart s k
    forAll (maskBodies mask outcome) (fun b s =>
      sendTc0Rank e ((e.rank.toNat - 1) / 16) (tc0Msg s k 2 attempt 0 step b) s) s

/-- Whether this package has no rank in the partition of a context, or has lost the entry: it casts nothing there (R314, R333). -/
def rankless (s : State) (c : Ctx) : Bool :=
  match boundEntry s c with
  | none => lostEntry s c
  | some k => !(getPart s k).ranked

/-- The subtree vote of the cast step at a place, once its own vote and every child's are held: it goes up, or the root
resolves (R305, R306). -/
def tryTree (i : Nat) (s : State) : State :=
  match s.step.held[i]? with
  | none => s
  | some h =>
    if decide (h.st ≠ .cast) || h.voted || follower s || rankless s h.ctx || h.abortAt.isSome then s
    else
      let ranks := childRanks (rankOf s h.ctx).toNat (rankTotal s h.ctx)
      let vs := ranks.filterMap (childVote s h)
      if vs.length < ranks.length then s
      else
        let skip := decide (h.vote = some .skip) || vs.any SubVote.skip
        let mask := vs.foldl (fun (m : BitVec 1024) v => m ||| v.mask) h.mask
        let s := modHeld i (fun k => { k with voted := true, lag := laggard h.castAt vs }) s
        let out := if skip then 1 else 0
        if isRoot s h.ctx then
          resolveCast i skip mask (floodResolve h.ctx h.step h.attempt out (if skip then 0 else mask) s)
        else voteUp h.ctx h.step h.attempt out mask s

/-! ### Casting (R304) -/

/-! ### Messages of the tree (R305, R306) -/

/-- The context that a partition's step messages are for: bound to its VALID entry, and holding the step engine. -/
def stepCtxOf (s : State) (pid : BitVec 12) : Option (Nat × Ctx) :=
  (entryOfPid s pid).map (fun k => (k, (getPart s k).ctx))

/-- A TC0 message whose partition is not VALID here is dropped and counted. -/
def dropTc0 (s : State) : State := modFab (fun f => { f with drop := satUp f.drop 1 }) s

/-- Holds a VOTE message. -/
def keepVote (child : BitVec 14) (rollcall : Bool) (msg : Tc0) (s : State) : State :=
  modStep (fun e => { e with votes := e.votes ++ [{ child := child, rollcall := rollcall, since := s.mgmt.ptb, msg := msg }] }) s

/-- Whether a VOTE is for a step or attempt that this package has passed: it is discarded (R305). -/
def staleVote (s : State) (msg : Tc0) : Bool :=
  match heldStep s msg.step with
  | some h => decide (h.st = .committing) || decide (msg.attempt < h.attempt)
  | none => decide (msg.step < s.step.next)

/-- A subtree vote of a child is held, and the subtree may be complete with it (R305, R306). -/
def voteArrives (child : BitVec 14) (msg : Tc0) (s : State) : State :=
  match stepCtxOf s msg.pid with
  | none => dropTc0 s
  | some _ =>
    if staleVote s msg then s
    else
      let s := keepVote child false msg s
      match heldPlace s msg.step with
      | some i => tryTree i s
      | none => s

/-- VOTE_RECEIVE: a subtree vote of a child (R305). -/
def execVoteReceive (child : BitVec 14) (msg : Tc0) (s : State) : Out := .next (voteArrives child msg s)

/-- Forwards a RESOLVE once on every port of the flood but the arrival port (R306). -/
def forwardResolve (k port : Nat) (msg : Tc0) (s : State) : State :=
  let e := getPart s k
  if e.resolved.contains (resolveKey msg) then s
  else
    sendTc0 (floodPorts s e (some port)) msg (modPart k (fun e => { e with resolved := e.resolved ++ [resolveKey msg] }) s)

/-- A segment of a COMMIT or SKIP for the cast step at a place; the last one resolves it. -/
def takeSegment (i : Nat) (h : Held) (msg : Tc0) (s : State) : State :=
  let seg := BitVec.ofNat 4 (msgSeg msg)
  let segs := h.resSegs.filter (fun p => p.1 != seg) ++ [(seg, BitVec.ofNat 64 (fld msg.body 63 0))]
  let s := modHeld i (fun k => { k with resSegs := segs }) s
  if segs.length < msgSegs msg then s
  else
    let mask := segs.foldl (fun (m : BitVec 1024) p => m ||| BitVec.shiftLeft (p.2.setWidth 1024) (64 * p.1.toNat)) (0 : BitVec 1024)
    resolveCast i (decide (msgOutcome msg = 1)) mask s

/-- A RESOLVE is forwarded once, and the member resolves when it holds every segment (R295, R306); a follower takes its
outcomes from its leader alone (R345). -/
def resolveArrives (port : Nat) (msg : Tc0) (s : State) : State :=
  match stepCtxOf s msg.pid with
  | none => transitTc0 port msg s
  | some (k, _) =>
    let s := forwardResolve k port msg s
    match heldPlace s msg.step, heldStep s msg.step with
    | some i, some h =>
      if h.st = .cast ∧ h.attempt = msg.attempt ∧ follower s = false then
        match msgOutcome msg with
        | 0 => takeSegment i h msg s
        | 1 => takeSegment i h msg s
        | 2 => resolveAbort i (if h.abortAt.isSome then h.cause else msg.cause) s
        | _ => s
      else s
    | _, _ => s

/-- RESOLVE (R306). -/
def execResolve (port : Fin 24) (msg : Tc0) (s : State) : Out := .next (resolveArrives port.val msg s)

/-- CAST_RESOLVE_TIMEOUT: no RESOLVE within 100 µs of an ABORT that names a cast step (R295, R297); one whose entry is VALID no more is
left to the root (R314). -/
def execCastResolveTimeout (s : State) : Out :=
  match placeOf (fun h => decide (h.st = .cast) && h.abortAt.isSome && !(lostEntry s h.ctx)) s.step.held with
  | none => .next s
  | some i =>
    match s.step.held[i]? with
    | none => .next s
    | some h => .next (resolveAbort i h.cause (advanceTo (h.abortAt.getD 0 + usec 100) s))

/-- STEP_CFG.LEASE in ms: 0 acts as 2,000 (R321). -/
def voteLease (s : State) : Nat := if fld s.step.cfg 15 0 = 0 then 2000 else fld s.step.cfg 15 0

/-- VOTE_LEASE_EXPIRY: the oldest cast step has not resolved within the lease; the ABORT names it (R307; log entry 45). One whose
partition entry is VALID no more is left to the root (R314). -/
def execVoteLeaseExpiry (s : State) : Out :=
  match placeOf (fun h => decide (h.st = .cast) && !(lostEntry s h.ctx)) s.step.held with
  | none => .next s
  | some i =>
    match s.step.held[i]? with
    | none => .next s
    | some h => .next (injectAbort i causeVoteTimeout (advanceTo (h.castAt + msec (voteLease s)) s))

/-- STEP_CTRL.ABORT is written 1. -/
def hostAbort (s : State) : State := if (stepHolder s).isSome then chargeCause causeHost s else s

/-- STEP_CTRL_ABORT: cause HOST is charged to the context that holds the step engine (R296, R321). -/
def execStepCtrlAbort (s : State) : Out := .next (hostAbort s)

/-! ### The roles of a commit (R301, R311 to R313) -/

/-- Ember of a step is released when its owner role is done and, with MIRROR on, the partner's MIRROR_DONE is here (R312). -/
def releaseEmber (s : State) : State :=
  modStep (fun e => { e with held := e.held.filter (fun h =>
    !(decide (h.st = .committing) && h.ownerDone && (!h.mirrored || h.mirrorDone))) }) s

/-- The ember mirror of the partner's steps is released (R301). -/
def releasePeers (s : State) : State :=
  modStep (fun e => { e with peerSteps := e.peerSteps.filter (fun p => !(p.partnerDone && (p.ownerDone || p.skip))) }) s

/-- Sends a promoted spare what it pulls, once every commit role here is done: this package's mirror of the lost rank's state
into the owned areas, and this package's own state into the mirror areas, ember among both. The spare holds this package's
commits and its own from then on (R29, R339; log entry 47). -/
def tryPull (s : State) : State :=
  match stepHolder s with
  | none => s
  | some c =>
    if !s.step.pullFor || s.step.held.any (fun h => decide (h.st = .committing) && !h.ownerDone)
        || s.step.peerSteps.any (fun p => p.resolved && !p.partnerDone) then s
    else
      let dst := s.step.partner.toNat
      let s := forAll (s.step.peerEntries.filterMap Prod.snd) (fun e s => sendRange .pull c dst e.mir e.length e.own s) s
      let s := forAll (s.step.entries.filterMap Prod.snd) (fun e s => sendRange .pull c dst e.own e.length e.mir s) s
      releasePeers (releaseEmber (modStep (fun e => { e with
        pullFor := false, peerSteps := e.peerSteps.map (fun p => { p with ownerDone := true })
        held := e.held.map (fun h => { h with mirrorDone := h.mirrorDone || decide (h.st = .committing) }) }) s))

/-- The areas that the commit of a held step writes. -/
def writtenAreas (h : Held) : List (Nat × Nat) := commitAreas h.variant h.mask h.lists

/-- The group digests of the areas that a commit wrote (R345). -/
def writtenDigests (s : State) (h : Held) : List (BitVec 64) :=
  (writtenAreas h).flatMap (fun a => groupDigests s a.1 a.2 0 ((a.2 + groupBytes - 1) / groupBytes))

/-- The leader sends its follower the digests of what its commit wrote (R345; log entry 44). -/
def sendDigests (h : Held) (s : State) : State :=
  if (shadowPeer s).isSome then sendFollower h.ctx ((writtenDigests s h).flatMap (fun d => leBytes 8 d.toNat)) s else s

/-- The owner role of a committing step: its lists run, and the step number and cursor are written (R311, R312). -/
def ownerRole (i : Nat) (misses : List CommitMiss) (h : Held) (s : State) : State :=
  let s := commitLists true misses h.variant h.mask h.lists s
  let s := modStep (fun e => { e with number := h.step + 1, cursor := e.cursor + BitVec.ofNat 64 h.inbytes }) s
  let s := if h.mirrored then sendFence 8 h.step h.attempt 0 s else s
  let s := signalCsync (modHeld i (fun k => { k with ownerDone := true }) s)
  let s := releaseEmber (atBoundary h.ctx h.step (sendDigests h s))
  tryPull (chargeMisses misses h.mirrored (settleSkips s.step.skipQ.length s))

/-- OWNER_ROLE_DONE: the oldest COMMITTING step's owner role is done on every position (R311). -/
def execOwnerRoleDone (misses : List CommitMiss) (s : State) : Out :=
  match placeOf (fun h => decide (h.st = .committing) && !h.ownerDone) s.step.held with
  | none => .next s
  | some i =>
    match s.step.held[i]? with
    | none => .next s
    | some h =>
      if s.step.peerSteps.any (fun p => p.resolved && !p.partnerDone && decide (p.step < h.step)) then .next s
      else .next (ownerRole i misses h s)

/-- Translates an address of the partner's into this package's mirror (R303). -/
def peerAddr (s : State) (a : Nat) : Option Nat :=
  ((s.step.peerEntries.filterMap Prod.snd).find? (fun e => decide (e.own ≤ a) && decide (a < e.own + e.length))).map
    (fun e => e.mir + (a - e.own))

/-- The bytes of the partner's memory as its mirror here holds them. -/
def peerRead (s : State) (a n : Nat) : List Byte :=
  match peerAddr s a with
  | some m => memRead s m n
  | none => List.replicate n 0

/-- An entry of the partner's list with every address translated. -/
def peerEntry (s : State) (e : UpdEntry) : UpdEntry :=
  let t := fun (a : Nat) => (peerAddr s a).getD 0
  { e with g := t e.g, m := t e.m, v := t e.v, w := t e.w, wc := 0, hdr := t e.hdr, wcopy := false }

/-- The partner's lists of a step, as its step record names them (R149, R311). -/
def peerLists (s : State) (rec1 : List Byte) : SMap (List UpdEntry) :=
  let umask := BitVec.ofNat 8 (leAt rec1 9 1)
  (maskPosns umask).foldl (fun m n =>
    match readList (peerRead s) (leAt rec1 (0x18 + 4 * n) 4 * 65536) with
    | some l => SMap.set [] m n (l.map (peerEntry s))
    | none => m) []

/-- The partner role of a step of the partner's (R294, R311). -/
def partnerRole (p : PeerStep) (record : Nat) (block : Option (BitVec 48)) (misses : List CommitMiss) (s : State) : State :=
  let rec1 := memRead s record 64
  let vt := block.map (fun b => variantTable (memRead s b.toNat 12352))
  let s := if p.skip then s else commitLists false misses vt p.mask (peerLists s rec1) s
  let s := modStep (fun e => { e with
    peerNumber := p.step + 1, peerCursor := e.peerCursor + BitVec.ofNat 64 (leAt rec1 0x10 8)
    peerSteps := e.peerSteps.map (fun q => if q.step = p.step then { q with partnerDone := true } else q) }) s
  let s := if p.skip then s
    else peerAuditBoundary p.step (sendFence 9 p.step (BitVec.ofNat 4 (leAt rec1 8 1 % 16)) 0 s)
  let s := releasePeers s
  tryPull (if p.skip then peerAuditBoundary p.step s else chargeMisses misses true s)

/-- PARTNER_ROLE_DONE: the partner role of the oldest resolved step is done. `record` is where the partner's step record lies in
its mirror here, `block` where its variant block does (R311; log entry 46). A group that the partner sends again comes first
(R319). -/
def execPartnerRoleDone (record : BitVec 48) (block : Option (BitVec 48)) (misses : List CommitMiss) (s : State) : Out :=
  match s.step.peerSteps.find? (fun p => p.resolved && !p.partnerDone) with
  | none => .next s
  | some p =>
    if isPeerRecord s record.toNat p.step && !(earlierCommit s p.step) && s.step.peerResend.isEmpty then
      .next (partnerRole p record.toNat block misses s)
    else .next s

/-- The partner's owner role of a step is done (R301, R311). -/
def ownerDoneArrives (b : FenceBody) (s : State) : State :=
  let p : PeerStep :=
    { step := b.step, mask := 0, resolved := false, skip := false, partnerDone := false, ownerDone := true }
  let known := s.step.peerSteps.any (fun q => q.step == b.step)
  if !known && decide (b.step < s.step.number) then s
  else releasePeers (modStep (fun e => { e with
    peerSteps := setPeerStep p (fun q => { q with ownerDone := true }) e.peerSteps }) s)

/-- OWNER_DONE (R311). -/
def execOwnerDone (b : FenceBody) (s : State) : Out := .next (ownerDoneArrives b s)

/-- The partner has committed this package's step in its mirror (R312). -/
def mirrorDoneArrives (b : FenceBody) (s : State) : State :=
  match heldPlace s b.step with
  | none => s
  | some i => releaseEmber (modHeld i (fun h => { h with mirrorDone := true }) s)

/-- MIRROR_DONE (R312). -/
def execMirrorDone (b : FenceBody) (s : State) : Out := .next (mirrorDoneArrives b s)

end Sys2Proof.Machine
end

