-- ==== Sys2Proof/Machine/Rounds.lean ====
section
/-! DEFINITION. Received ABORTs, the drain of an aborted attempt, the DRAINED votes and REPLAY, the rounds that declare lost
ranks, and the promotion of a spare (R28, R297, R315, R317, R335 to R341). -/

namespace Sys2Proof.Machine

/-! ### Ranks, spares and partners -/

/-- Coordinates of the install table. -/
def tableSize (t : List Byte) : Nat := (dims t).1 * (dims t).2.1 * (dims t).2.2

/-- The SPARE links from a coordinate, up to a number of them, whatever SPARE_V says (R337). -/
def rawChain (t : List Byte) : Nat → Nat → List Nat
  | 0, _ => []
  | n + 1, i =>
    let j := entryField t i 0x10 4 29 16
    j :: rawChain t n j

/-- The coordinate that a package stands for in the mirror pairs of the table: its own, or for a spare the one whose chain
leads to it. -/
def originOf (t : List Byte) (i : Nat) : Nat :=
  if (partnerOf t i).isSome then i
  else ((List.range (tableSize t)).find? (fun j =>
    (partnerOf t j).isSome && (spareChain t 4 j).contains i)).getD i

/-- The coordinate that a rank map gives a rank. -/
def rankCoord (e : Part) (r : Nat) : Nat := fld (SMap.get 0 e.map r) 13 0

/-- The valid ranks of an entry's map. -/
def validRanks (e : Part) : List Nat := (e.map.filter (fun kv => kv.2.getLsbD 15)).map Prod.fst

/-- The rank that holds the mirror of a rank. -/
def mirrorRank (t : List Byte) (e : Part) (r : Nat) : Option Nat :=
  match partnerOf t (originOf t (rankCoord e r)) with
  | none => none
  | some p => (validRanks e).find? (fun q => decide (originOf t (rankCoord e q) = p))

/-! ### Votes of a round (R315, R335) -/

/-- Whether a DRAINED vote or roll-call copy of a rank is held for a round. -/
def holdsDrained (s : State) (r : Round) (rollcall : Bool) (rank : Nat) : Bool :=
  s.step.votes.any (fun v => v.rollcall == rollcall && decide (v.child.toNat = rank) && v.msg.step == r.step
    && v.msg.attempt == r.attempt && decide (msgOutcome v.msg = 3))

/-- Reloads the bodies that a program-memory fault had hit from where they were last loaded (R80). -/
def reloadBodies (s : State) : State :=
  let slots := s.progReload.flatMap (fun b => (List.range b.2.2).map (fun i => b.1 * 4096 + b.2.1 + i))
  let s := forAll slots (fun k s =>
    let a := SMap.get 0 s.progSrc k
    if a = 0 then s
    else { s with prog := SMap.set 0 s.prog k (BitVec.ofNat 64 (leNat (memRead s (a - 1) 8))) }) s
  { s with progReload := [] }

/-- The held steps of a context as a replay leaves them: the ABORTING ones reopen under the next attempt, up to the first that has
halted, where fetch ends (R295, R317; log entry 135). -/
def reopenHeld (c : Ctx) : List Held → List Held
  | [] => []
  | h :: t =>
    if h.ctx == c && decide (h.st = .halted) then h :: t
    else (if h.ctx == c && decide (h.st = .aborting) then { h with st := .opened, attempt := h.attempt + 1 } else h) :: reopenHeld c t

/-- The aborted steps replay: they reopen as their descriptors are fetched again, under the next attempt (R287, R295, R315
stage 6). -/
def replayHere (c : Ctx) (r : Round) (s : State) : State :=
  let s := reloadBodies s
  let here := s.step.held.any (fun h => h.ctx == c && decide (h.st = .aborting) && h.step == r.step)
  let s := modStep (fun e => { e with
    openAttempt := if here then e.openAttempt else some (r.step, r.attempt)
    held := reopenHeld c e.held
    votes := e.votes.filter (fun v => decide (msgOutcome v.msg ≠ 3)), round := none }) s
  let rel := releaseOf s c
  headWriteBack c (modCtx c (fun x => { x with fetch := rel, fetchStopped := false }) s)

/-- Sends a message without a mask up the tree. -/
def drainedUp (c : Ctx) (r : Round) (s : State) : State := voteUp c r.step r.attempt 3 0 s

/-- The subtree's DRAINED leaves, or the root floods REPLAY, once this package and every child have drained (R315, R335). -/
def tryDrained (s : State) : State :=
  match s.step.round, stepHolder s with
  | some r, some c =>
    if !r.ownDrained || r.sentUp || follower s || rankless s c then s
    else if (childRanks (rankOf s c).toNat (rankTotal s c)).all (holdsDrained s r false) then
      if decide (rankOf s c = 0) then replayHere c r (floodResolve c r.step r.attempt 3 0 s)
      else drainedUp c r (modStep (fun e => { e with round := some { r with sentUp := true } }) s)
    else s
  | _, _ => s

/-- The roll-call copy of a round goes to a rank (R335). -/
def sendRollCall (c : Ctx) (r : Round) (rank : Nat) (s : State) : State :=
  match boundEntry s c with
  | none => s
  | some k => sendTc0Rank (getPart s k) rank (tc0Msg s k 2 r.attempt 0 r.step (outcomeBody 3)) s

/-- This package casts DRAINED, with its roll-call copy to the acting root (R315 stage 5, R335). -/
def castDrained (s : State) : State :=
  match s.step.round, stepHolder s with
  | some r, some c =>
    if rankless s c then s
    else
      let s := modStep (fun e => { e with round := some { r with ownDrained := true } }) s
      tryDrained (if rankOf s c = 0 then s else sendRollCall c r 0 s)
  | _, _ => s

/-! ### Halting (R317, R341) -/

/-- A step halts: its STEP_OPEN completes STEP_HALTED with the cause and the attempts run, and the event is raised (R317, R320). -/
def haltStep (cause : BitVec 8) (i : Nat) (s : State) : State :=
  match s.step.held[i]? with
  | none => s
  | some h =>
    let n := (h.attempt + 1).toNat
    haltAt i stStepHalted (fun _ => cause.toNat + 256 * n)
      (raise 0x0702 (hubUnit 1) { ctx := some h.ctx, arg1 := h.step.toNat } s)

/-- The step at a place halts, and no round goes on (R317, R336). -/
def haltRound (cause : BitVec 8) (i : Nat) (s : State) : State :=
  haltStep cause i (modStep (fun e => { e with round := none }) s)

/-- The place of the oldest ABORTING step. -/
def abortingPlace (s : State) : Option Nat := placeOf (fun h => decide (h.st = .aborting)) s.step.held

/-- STEP_CFG.MAXATT: 0 acts as 4 (R321). -/
def maxAttempts (s : State) : Nat := if fld s.step.cfg 19 16 = 0 then 4 else fld s.step.cfg 19 16

/-- Whether an EMBER stream of an aborted step has not completed (R315 stage 5). -/
def emberRuns (s : State) : Bool :=
  s.streams.any (fun kv => decide (kv.2.st ≠ .free) && (match kv.2.ember with
    | some n => s.step.held.any (fun h => h.step == n && decide (h.st = .aborting))
    | none => false))

/-- The places of the ABORTING steps whose next attempt would reach STEP_CFG.MAXATT (R317). -/
def lastAttempts (s : State) : List Nat :=
  (s.step.held.zipIdx.filter (fun q => decide (q.1.st = .aborting) && decide (maxAttempts s ≤ q.1.attempt.toNat + 1))).map Prod.snd

/-- Every ABORTING step that has run its last attempt halts with its own cause (R317; log entry 135). -/
def haltSpent (s : State) : State :=
  forAll (lastAttempts s) (fun i s => haltStep ((s.step.held[i]?.map Held.cause).getD 0) i s) s

/-- Stage 5 of R315 ends, when the outstanding count of the old attempt is 0 or 2 ms have passed: the steps at their last attempt halt
(R317), and while the oldest goes on DRAINED is cast. -/
def drainEnds (c : Ctx) (r : Round) (i : Nat) (s : State) : State :=
  let s := if (getCtx s c).outstanding = 0 then s else advanceTo (r.startedAt + msec 2) s
  let spent := (lastAttempts s).contains i
  let s := haltSpent s
  if spent then modStep (fun e => { e with round := none }) s else castDrained s

/-- ABORT_DRAIN_DONE: stage 5 of R315 ends, once every EMBER stream of the aborted steps has completed. -/
def execAbortDrainDone (s : State) : Out :=
  match s.step.round, abortingPlace s with
  | some r, some i =>
    if r.ownDrained || emberRuns s then .next s
    else
      match s.step.held[i]? with
      | none => .next s
      | some h => .next (drainEnds h.ctx r i s)
  | _, _ => .next s

/-! ### Declarations (R336, R337, R341) -/

/-- The valid entries of a declaration: the lost rank and the coordinate that takes it. -/
def declEntries (body : BitVec 128) : List (Nat × Nat) :=
  ((List.range 4).filter (fun k => bit body (32 * k + 31))).map (fun k =>
    (fld body (32 * k + 13) (32 * k), fld body (32 * k + 27) (32 * k + 14)))

/-- The BODY of a declaration. -/
def declBody (l : List (Nat × Nat)) : BitVec 128 :=
  BitVec.ofNat 128 (packCodes 32 (l.map (fun p => p.1 + 2 ^ 14 * p.2 + 2 ^ 31)))

/-- The coordinates of lost ranks are replaced in the map, in hub SRAM and in memory (R337). -/
def replaceCoords (k : Nat) (l : List (Nat × Nat)) (s : State) : State :=
  forAll l (fun p s =>
    let w := 0x8000 + p.2
    memWrite ((getPart s k).rmap.toNat + 2 * p.1) (leBytes 2 w)
      (modPart k (fun e => { e with map := SMap.set 0 e.map p.1 (BitVec.ofNat 16 w) }) s)) s

/-- The rank whose package is this package's mirror partner. -/
def partnerRank (s : State) (e : Part) : Option Nat :=
  (validRanks e).find? (fun q => decide (some (rankCoord e q) = mirrorPartner s))

/-- MIRROR_LOST stops a promotion under way here, and LOST holds where a lost rank is the own partner (R341). -/
def stopPromotion (e : Part) (lost : List Nat) (s : State) : State :=
  let gone := match partnerRank s e with
    | some p => lost.contains p
    | none => false
  modStep (fun t => { t with pullFor := false, mirror := if gone then .lost else t.mirror }) s

/-- MIRROR_LOST halts every member: the event, the status, and LOST where a lost rank is the own partner (R341). -/
def mirrorLostHalt (k i : Nat) (lost : List Nat) (s : State) : State :=
  let e := getPart s k
  let s := raise 0x0705 (hubUnit 1) { ctx := some e.ctx, arg1 := ((s.step.held[i]?).map (fun h => h.step.toNat)).getD 0 } s
  haltLost i (stopPromotion e lost s)

/-- The next attempt of a step in ABORTING begins with stages 2 to 5 again (R337). -/
def restartRound (k i : Nat) (l : List (Nat × Nat)) (s : State) : State :=
  match s.step.held[i]? with
  | none => s
  | some h =>
    let c := h.ctx
    let s := modCtx c (fun x => { x with ae := x.ae + 1 }) s
    let r := dropStreams c (aeStale (getCtx s c)) s
    let mine := partnerRank s (getPart s k)
    let s := modStep (fun e => { e with
      dropped := satUp e.dropped r.1, cause := causeLoss, aborts := satUp e.aborts 1
      partner := match l.find? (fun p => decide (some p.1 = mine)) with
        | some p => BitVec.ofNat 14 p.2
        | none => e.partner
      held := mapFrom i (fun g => g.ctx == c && decide (g.st = .aborting))
        (fun g => { g with attempt := g.attempt + 1, cause := causeLoss }) e.held }) r.2
    let s := raise 0x0701 (hubUnit 1)
      { ctx := some c, arg0 := (h.attempt + 1).toNat + 16 * causeLoss.toNat, arg1 := h.step.toNat } s
    let old := match s.step.round with
      | some r => r.promoting.filter (fun p => !(holdsDrained s r true p.toNat))
      | none => []
    modStep (fun e => { e with round := some { newRound { h with attempt := h.attempt + 1 } s.mgmt.ptb with
      afterDecl := true, promoting := old ++ l.map (fun p => BitVec.ofNat 14 p.1) } }) s

/-- A declaration for the step in ABORTING at a place (R336, R337, R341). -/
def takeDeclaration (k i : Nat) (msg : Tc0) (s : State) : State :=
  let l := declEntries msg.body
  let own := (getPart s k).rank.toNat
  let lost := l.map Prod.fst
  if msg.cause = causeMirrorLost then
    mirrorLostHalt k i lost (if lost.contains own then loseRankIn k s else s)
  else if l.isEmpty then haltRound causeLoss i s
  else if lost.contains own then
    loseRankIn k (modStep (fun e => { e with round := none }) (replaceCoords k l s))
  else restartRound k i l (replaceCoords k l s)

/-! ### Pairing of a spare (R302, R338) -/

/-- Whether two entries of the table share a failure-domain tag. -/
def tagsShared (t : List Byte) (a b : Nat) : Bool :=
  [(0x08, 15, 0), (0x08, 31, 16), (0x0C, 15, 0), (0x0C, 31, 16)].any (fun f =>
    decide (entryField t a f.1 4 f.2.1 f.2.2 = entryField t b f.1 4 f.2.1 f.2.2))

/-- PARTNUM of an entry. -/
def entryPart (t : List Byte) (i : Nat) : Nat := entryField t i 0x14 4 7 4

/-- The reason of R302 that the table and the rank map give against a pairing of two coordinates, in the name of a third
whose partner the second must be. -/
def pairReason (s : State) (own named : Nat) (e : Option Part) : Option Nat :=
  let t := tableBytes s
  match partnerOf t named with
  | none => some 1
  | some p =>
    if partnerOf t p ≠ some named then some 1
    else if tagsShared t own p then some 2
    else if entryPart t own ≠ entryPart t p then some 3
    else
      match e with
      | none => some 5
      | some e => if (validRanks e).any (fun r => decide (originOf t (rankCoord e r) = p)) then none else some 5

/-- The spare declines: it stays silent (R338). -/
def declineRank (k : Nat) (rank : Nat) (s : State) : State :=
  raise 0x0805 (hubUnit 1) { ctx := some (getPart s k).ctx, pid := some (getPart s k).pid }
    { s with ras := { s.ras with spareState := .declined, spareRank := BitVec.ofNat 14 rank, spareWait := none } }

/-- Whether the first three conditions of R338 hold for an entry. -/
def mayTakeRank (s : State) (own k : Nat) : Bool :=
  let spare := decide (entryField (tableBytes s) own 0x14 4 0 0 = 1) && decide (spareStateNow s = .ready)
  spareEntryReady s (getPart s k) && (spare || decide (s.ras.shadowState = .admitted))

/-- A package named at NEW takes up a rank: it asks the lost rank's mirror partner to pair, or declines (R338). -/
def offerRank (k : Nat) (rank own : Nat) (msg : Tc0) (s : State) : State :=
  let e := getPart s k
  let t := tableBytes s
  let named := originOf t own
  match mirrorRank t e rank with
  | none => declineRank k rank s
  | some q =>
    let p := rankCoord e q
    if mayTakeRank s own k && (pairReason s own named (some e)).isNone && !(tagsShared t own p)
        && decide (entryPart t own = entryPart t p) then
      let s := { s with ras := { s.ras with
        spareWait := some { entry := k, rank := BitVec.ofNat 14 rank, partner := p, step := msg.step, attempt := msg.attempt
                            since := s.mgmt.ptb } } }
      sendTc0To e p (tc0Msg s k 4 msg.attempt 0 msg.step (BitVec.ofNat 128 (1 + pairRest s 0))) s
    else declineRank k rank s

/-- A declaration at a package without a rank in the partition: its map follows, and it takes up the rank given to it. -/
def declaredElsewhere (k : Nat) (msg : Tc0) (s : State) : State :=
  let l := declEntries msg.body
  if msg.cause = causeLoss ∧ (getPart s k).ranked = false then
    match s.fab.selfIdx with
    | none => s
    | some own =>
      match l.find? (fun p => decide (p.2 = own)) with
      | none => replaceCoords k l s
      | some p => offerRank k p.1 own msg (replaceCoords k l s)
  else s

/-- The spare has paired: it takes the rank; it fetches no descriptor before the REPLAY (R315 stage 6, R338, R339). -/
def acceptRank (w : SpareWait) (s : State) : State :=
  let e := getPart s w.entry
  let s := modPart w.entry (fun e => { e with ranked := true, rank := w.rank }) s
  let r : Round :=
    { step := w.step, attempt := w.attempt + 1, startedAt := w.since, afterDecl := true, ownDrained := false
      sentUp := false, actingRoot := false, promoting := [w.rank] }
  let s := modStep (fun t => { t with mirror := .paired, partner := BitVec.ofNat 14 w.partner, round := some r }) s
  let s := modCtx e.ctx (fun x => { x with fetchStopped := true }) s
  raise 0x0804 (hubUnit 1) { ctx := some e.ctx, pid := some e.pid }
    { s with ras := { s.ras with spareState := .pulling, spareRank := w.rank, sparePulled := 0, spareWait := none } }

/-! ### Received ABORTs (R28, R297) -/

/-- An ABORT for a step that waits to open, or for a later attempt of one: the step aborts when it opens. -/
def abortLater (msg : Tc0) (s : State) : State :=
  modStep (fun e => { e with abortNext := e.abortNext ++ [(msg.step, msg.attempt, msg.cause)] }) s

/-- An ABORT that names a step already resolved: the oldest unresolved step aborts, or the next step opened (R28). -/
def abortResolved (msg : Tc0) (s : State) : State :=
  match placeOf unresolved s.step.held with
  | some i => abortNamed i msg.cause s
  | none => modStep (fun e => { e with clearNext := true, abortNext := e.abortNext ++ [(e.next, 0, msg.cause)] }) s

/-- Whether an ABORT has the form of a declaration: its BODY holds entries, or its cause is MIRROR_LOST, or it is the LOSS of
an acting root (R336, R337). -/
def declares (msg : Tc0) : Bool :=
  decide (msg.body ≠ 0) || decide (msg.cause = causeMirrorLost)
    || (decide (msg.cause = causeLoss) && decide (msg.origin.toNat ≤ 1))

/-- Whether an ABORT is a declaration of a round for a step in ABORTING: it names the next attempt (R336, R337). -/
def isDeclaration (h : Held) (msg : Tc0) : Bool :=
  decide (h.st = .aborting) && decide (msg.attempt = h.attempt + 1) && declares msg

/-- The round that a declaration is for at a package that has taken a rank and holds no step yet (R336, R339). -/
def joinerRound (s : State) (msg : Tc0) : Option Round :=
  s.step.round.filter (fun r => r.step == msg.step && r.attempt == msg.attempt && declares msg)

/-- The round of a package that has taken a rank ends: its step aborts with the cause as it opens (R297, R317, R341). -/
def endJoining (k : Nat) (msg : Tc0) (s : State) : State :=
  modCtx (getPart s k).ctx (fun x => { x with fetchStopped := false })
    (modStep (fun e => { e with round := none }) (abortLater msg s))

/-- The next attempt of a round at a package that has taken a rank: it has no work of the old attempt to drain (R315, R337). -/
def joinAgain (r : Round) (l : List (Nat × Nat)) (s : State) : State :=
  let old := r.promoting.filter (fun p => !(holdsDrained s r true p.toNat))
  let s := modStep (fun e => { e with round := some { r with
    attempt := r.attempt + 1, startedAt := s.mgmt.ptb, afterDecl := true, ownDrained := false, sentUp := false
    actingRoot := false, promoting := old ++ l.map (fun p => BitVec.ofNat 14 p.1) } }) s
  if s.ras.spareState = .promoted then castDrained s else s

/-- A declaration at a package that has taken a rank and holds no step yet (R336, R337, R340, R341). -/
def joinerDeclared (k : Nat) (r : Round) (msg : Tc0) (s : State) : State :=
  let l := declEntries msg.body
  let lost := l.map Prod.fst
  let e := getPart s k
  if msg.cause = causeMirrorLost then
    let s := if lost.contains e.rank.toNat then loseRankIn k s else s
    endJoining k msg (stopPromotion e lost
      (raise 0x0705 (hubUnit 1) { ctx := some e.ctx, arg1 := r.step.toNat } s))
  else if l.isEmpty then endJoining k msg s
  else if lost.contains e.rank.toNat then
    modCtx e.ctx (fun x => { x with fetchStopped := false })
      (loseRankIn k (modStep (fun e => { e with round := none }) (replaceCoords k l s)))
  else joinAgain r l (replaceCoords k l s)

/-- The step engine takes an ABORT of a partition by the state of the step it names (R297). -/
def abortArrives (k : Nat) (msg : Tc0) (s : State) : State :=
  if !(getPart s k).ranked then declaredElsewhere k msg s
  else if !(getCtx s (getPart s k).ctx).holdsStep then s
  else
    match heldPlace s msg.step, heldStep s msg.step with
    | some i, some h =>
      if h.st = .committing then abortResolved msg s
      else if h.st = .halted then s
      else if isDeclaration h msg then takeDeclaration k i msg s
      else if h.attempt < msg.attempt then abortLater msg s
      else if h.attempt = msg.attempt then abortNamed i msg.cause s
      else s
    | _, _ =>
      match joinerRound s msg with
      | some r => joinerDeclared k r msg s
      | none => if msg.step < s.step.next then abortResolved msg s else abortLater msg s

/-- The router forwards an ABORT that is higher than any before and hands it to the step engine; another is dropped (R239,
R297). One of a partition that is not VALID here is transit. -/
def routeAbort (port : Nat) (msg : Tc0) (s : State) : State :=
  match entryOfPid s msg.pid with
  | none => transitTc0 port msg s
  | some k =>
    if keyHigher msg.step msg.attempt (getPart s k).abortKey then
      abortArrives k msg (floodAbort k (some port) msg s)
    else s

/-- ABORT_RECEIVE (R239, R297). -/
def execAbortReceive (port : Fin 24) (msg : Tc0) (s : State) : Out := .next (routeAbort port.val msg s)

/-! ### DRAINED and REPLAY (R315, R335) -/

/-- Whether a DRAINED is for a step or attempt that this package has passed. -/
def staleDrained (s : State) (msg : Tc0) : Bool :=
  match heldStep s msg.step with
  | some h => decide (h.st = .committing) || decide (msg.attempt ≤ h.attempt)
  | none => decide (msg.step < s.step.next) && s.step.round.isNone

/-- A DRAINED of a child, or a roll-call copy, is held (R335). -/
def drainedArrives (rollcall : Bool) (msg : Tc0) (s : State) : State :=
  match entryOfPid s msg.pid with
  | none => dropTc0 s
  | some _ => if staleDrained s msg then s else tryDrained (keepVote msg.origin rollcall msg s)

/-- VOTE_DRAINED (R335). -/
def execVoteDrained (rollcall : Bool) (msg : Tc0) (s : State) : Out := .next (drainedArrives rollcall msg s)

/-- A RESOLVE REPLAY is forwarded once, and the member replays (R306, R315 stage 6). -/
def replayArrives (port : Nat) (msg : Tc0) (s : State) : State :=
  match entryOfPid s msg.pid with
  | none => transitTc0 port msg s
  | some k =>
    let c := (getPart s k).ctx
    let s := forwardResolve k port msg s
    match s.step.round with
    | some r => if r.step = msg.step ∧ r.attempt = msg.attempt ∧ rankless s c = false then replayHere c r s else s
    | none => s

/-- RESOLVE_REPLAY (R315). -/
def execResolveReplay (port : Fin 24) (msg : Tc0) (s : State) : Out := .next (replayArrives port.val msg s)

/-! ### Leases of a round (R336) -/

/-- RAS_SPARE_CFG.DRAIN_LEASE in ms: 0 acts as 20 (R347). -/
def drainLease (s : State) : Nat := if fld s.ras.spareCfg 15 0 = 0 then 20 else fld s.ras.spareCfg 15 0

/-- RAS_SPARE_CFG.PROMOTE_LEASE in ms: 0 acts as 2,000 (R347). -/
def promoteLease (s : State) : Nat := if fld s.ras.spareCfg 31 16 = 0 then 2000 else fld s.ras.spareCfg 31 16

/-- The lease LR of a round. -/
def roundLease (s : State) (r : Round) : Nat := if r.afterDecl then promoteLease s else drainLease s

/-- The time base at the end of a round's lease and a number of drain leases more. -/
def roundTime (s : State) (r : Round) (drains : Nat) (s' : State) : State :=
  advanceTo (r.startedAt + msec (roundLease s r + drains * drainLease s)) s'

/-- The ranks that have sent no roll-call in a round; rank 1 as acting root counts rank 0 among them. -/
def lostRanks (s : State) (e : Part) (r : Round) : List Nat :=
  (List.range (rankCount e)).filter (fun q =>
    if q = e.rank.toNat then !r.ownDrained
    else (r.actingRoot && decide (q = 0)) || !(holdsDrained s r true q))

/-- Whether a lost rank, or one whose promotion has not completed, is lost together with its mirror partner. -/
def pairLost (s : State) (e : Part) (r : Round) (lost : List Nat) : Bool :=
  let t := tableBytes s
  let gone := lost ++ (r.promoting.map BitVec.toNat).filter (fun q => !(holdsDrained s r true q))
  lost.any (fun q => match mirrorRank t e q with
    | some p => gone.contains p
    | none => false)

/-- The candidates for lost ranks in increasing rank order; none when one of them has no candidate (R337). A coordinate given
to an earlier rank of the same declaration is taken (log entry 48). -/
def candidates (t : List Byte) (e : Part) : List Nat → List Nat → Option (List (Nat × Nat))
  | _, [] => some []
  | used, q :: rest =>
    match (rawChain t 4 (rankCoord e q)).find? (fun j => decide (j < tableSize t) && !(used.contains j)) with
    | none => none
    | some j => (candidates t e (j :: used) rest).map (fun l => (q, j) :: l)

/-- The acting root declares a set of lost ranks; a pair lost, or MIRROR off, comes before the count, since MIRROR_LOST lists the
ranks up to 4 (R336, R337; log entry 139). -/
def declareLost (k : Nat) (r : Round) (lost : List Nat) (s : State) : State :=
  let e := getPart s k
  let t := tableBytes s
  let toss := fun (cause : BitVec 8) (body : BitVec 128) (s : State) =>
    let msg := tc0Msg s k 1 r.attempt cause r.step body
    match abortingPlace s with
    | none => s
    | some i => takeDeclaration k i msg (floodAbort k none msg s)
  if lost.isEmpty then s
  else if pairLost s e r lost || !s.pwr.modes.mirror then
    toss causeMirrorLost (declBody ((lost.take 4).map (fun q => (q, 0)))) s
  else if 4 < lost.length then toss causeLoss 0 s
  else
    match candidates t e (mapCoords e.map) lost with
    | none => toss causeLoss 0 s
    | some l => toss causeLoss (declBody l) s

/-- ROUND_LEASE_EXPIRY: at LR the acting root declares the ranks that have sent no roll-call (R336). -/
def execRoundLeaseExpiry (s : State) : Out :=
  match s.step.round, stepHolder s with
  | some r, some c =>
    match boundEntry s c with
    | none => .next s
    | some k =>
      if isRoot s c then .next (declareLost k r (lostRanks s (getPart s k) r) (roundTime s r 0 s)) else .next s
  | _, _ => .next s

/-- ROLL_CALL_RESEND: at LR and one drain lease, a member sends its roll-call to rank 1 as well (R336). -/
def execRollCallResend (s : State) : Out :=
  match s.step.round, stepHolder s with
  | some r, some c =>
    if r.ownDrained && decide (1 < (rankOf s c).toNat) && !(rankless s c) then
      .next (sendRollCall c r 1 (roundTime s r 1 s))
    else .next s
  | _, _ => .next s

/-- ROOT_FALLBACK: at LR and two drain leases rank 1 acts as root, and counts rank 0 as lost (R336). -/
def execRootFallback (s : State) : Out :=
  match s.step.round, stepHolder s with
  | some r, some c =>
    match boundEntry s c with
    | none => .next s
    | some k =>
      if rankOf s c = 1 ∧ rankless s c = false then
        let r := { r with actingRoot := true }
        let s := modStep (fun e => { e with round := some r }) (roundTime s r 2 s)
        .next (declareLost k r (lostRanks s (getPart s k) r) s)
      else .next s
  | _, _ => .next s

/-- ROUND_HALT_TIMEOUT: at LR and four drain leases a member halts (R336). -/
def execRoundHaltTimeout (s : State) : Out :=
  match s.step.round, abortingPlace s with
  | some r, some i =>
    match s.step.held[i]? with
    | none => .next s
    | some h => .next (haltRound h.cause i (roundTime s r 4 s))
  | _, _ => .next s

/-! ### Promotion (R339) -/

/-- The working weights under the WCOPY entries of one update list (R339 stage 4). -/
def workingWeights (a : Nat) (s : State) : State :=
  match readList (memRead s) a with
  | none => s
  | some l => forAll (l.filter UpdEntry.wcopy) (fun e s => forAll (List.range (e.elements / 1024)) (writeWorking e) s) s

/-- Whether an address lies in the areas a spare pulls: its owned areas, and the areas that mirror the partner. -/
def pulledArea (maps : List MirMap) (a : Nat) : Bool :=
  maps.any (fun m =>
    let base := if m.mine then m.own.toNat else m.mir.toNat
    decide (base ≤ a) && decide (a < base + m.length.toNat))

/-- The mapping entries that the partner has sent, for one side. -/
def mapsOf (mine : Bool) (maps : List MirMap) : SMap (Option MirEntry) :=
  maps.foldl (fun t m =>
    if m.mine = mine then
      SMap.set none t m.entry.val (some { own := m.own.toNat, mir := m.mir.toNat, length := m.length.toNat })
    else t) []

/-- PROMOTION_PULL_DONE: the pulls end; the spare writes its working weights, takes the step registers, its own and the copy of its
partner's, and casts DRAINED (R339 stages 3 to 7). -/
def execPromotionPullDone (pulled : List (Nat × Byte)) (maps : List MirMap) (lists : List (BitVec 48))
    (embers : List (BitVec 64)) (stepNumber : BitVec 64) (cursors : PulledCursors) (next : BitVec 64)
    (s : State) : Out :=
  if s.ras.spareState = .pulling then
    let l := pulled.filter (fun c => pulledArea maps c.1)
    let s := forAll l (fun c s => memWrite c.1 [c.2] s) s
    let s := modStep (fun e => { e with entries := mapsOf true maps, peerEntries := mapsOf false maps }) s
    let s := forAll lists (fun a s => workingWeights a.toNat s) s
    let s := modStep (fun e => { e with
      number := stepNumber, cursor := cursors.own, next := next, peerNumber := stepNumber, peerCursor := cursors.peer, mirror := .synced
      pulled := embers }) s
    .next (castDrained { s with ras := { s.ras with
      spareState := .promoted, sparePulled := BitVec.ofNat 32 (l.length / 2 ^ 20) } })
  else .next s

end Sys2Proof.Machine
end

