-- ==== Sys2Proof/Machine/MirrorCmds.lean ====
section
/-! DEFINITION. The MIRROR family and the FENCE messages of pairing, mapping and auditing (R302, R303, R309, R319, R339). -/

namespace Sys2Proof.Machine

/-- The starting MIRROR descriptor of a context with a given OP. -/
def startingMirror (s : State) (c : Ctx) (op : Nat) : Option Desc :=
  (startingOf s c 0x09).filter (fun d => decide (dfld d.words 0x10 3 0 = op))

/-- Whether a MIRROR operation is turned away: the context holds a step, or MIRROR is on for any but AUDIT (R303). -/
def mirrorBusy (s : State) (c : Ctx) (op : Nat) : Bool :=
  s.step.held.any (fun h => h.ctx == c) || (s.pwr.modes.mirror && decide (op ≠ 4))

/-- Completes a MIRROR descriptor with MIRROR_BUSY. -/
def refuseBusy (c : Ctx) (d : Desc) (s : State) : State := finishStarting c d stMirrorBusy (mirrorCode s.step.mirror) s

/-- The reason is kept and the event raised when pairing or a MAP is refused (R302). -/
def noteRefusal (c : Ctx) (reason : Nat) (s : State) : State :=
  raise 0x0703 (hubUnit 1) { ctx := some c } (modStep (fun e => { e with reason := BitVec.ofNat 4 reason }) s)

/-- The MAP that waits is refused (R302). -/
def refuseMap (w : MapWait) (reason : Nat) (s : State) : State :=
  completeKey w.ctx w.key stMirrorRefused reason 10
    (noteRefusal w.ctx reason (modStep (fun e => { e with mapWait := none }) s))

/-- The MAP that waits for the partner, if its descriptor has not completed. -/
def liveMap (s : State) : Option MapWait := s.step.mapWait.filter (fun w => (startedDesc s w.ctx w.key).isSome)

/-- Whether two areas overlap. -/
def areasMeet (a n b m : Nat) : Bool := decide (a < b + m) && decide (b < a + n)

/-- Whether a MAP conflicts: the entry is in use, or its OWN area overlaps another entry or lies outside the windows (R302); a guest
position holds no owned state (R4; log entry 132). -/
def mapConflict (s : State) (c : Ctx) (entry : Nat) (m : MirEntry) : Bool :=
  (SMap.get none s.step.entries entry).isSome || !(reaches (getCtx s c) m.own m.length)
    || guestHolds s m.own m.length
    || s.step.entries.any (fun kv => match kv.2 with
      | some e => areasMeet m.own m.length e.own e.length
      | none => false)

/-- A MAP of a paired context goes to the partner, or conflicts (R303). -/
def sendMap (w : MapWait) (s : State) : State :=
  if mapConflict s w.ctx w.entry w.e then refuseMap w 8 s
  else
    sendFence 4 0 0 (mapRest w.entry w.e.own w.e.mir w.e.length)
      (modStep (fun e => { e with mapWait := some { w with pairing := false } }) s)

/-- Whether the package has been paired by the first MAP of a context (R302). -/
def pairedBy (s : State) (c : Ctx) : Bool := decide (s.step.pairedCtx = some (c, (getCtx s c).gen))

/-- MIRROR MAP: it pairs the package first if this is the context's first MAP, and asks the partner to take the entry (R302,
R303). -/
def execMirrorMap (ctx : Ctx) (s : State) : Out :=
  match startingMirror s ctx 1 with
  | none => .next s
  | some d =>
    if mirrorBusy s ctx 1 then .next (refuseBusy ctx d s)
    else if (liveMap s).isSome then .next s
    else
      let w := d.words
      let m : MapWait :=
        { ctx := ctx, key := d.key, entry := dfld w 0x10 11 8
          e := { own := dfld w 0x18 47 0, mir := dfld w 0x20 47 0, length := dfld w 0x28 39 0 }
          pairing := true, since := s.mgmt.ptb }
      let s1 := keepStarting ctx d (modStep (fun e => { e with mapWait := some m }) s)
      if pairedBy s ctx then .next (sendMap m s1)
      else
        match s.fab.selfIdx with
        | none => .next (refuseMap m 1 s1)
        | some own =>
          match pairReason s own own ((boundEntry s ctx).map (getPart s)) with
          | some r => .next (refuseMap m r s1)
          | none =>
            match boundEntry s ctx, ownPartner s with
            | some k, some p =>
              .next (sendTc0To (getPart s k) p (tc0Msg s k 4 0 0 0 (BitVec.ofNat 128 (1 + pairRest s 0))) s1)
            | _, _ => .next (refuseMap m 1 s1)

/-- PAIRED follows a pairing, a MAP or an UNMAP (R303). -/
def setPaired (s : State) : State :=
  modStep (fun e => { e with mirror := if e.mirror = .unpaired then .unpaired else .paired }) s

/-- MIRROR UNMAP clears the entry here and at the partner (R303). -/
def execMirrorUnmap (ctx : Ctx) (s : State) : Out :=
  match startingMirror s ctx 2 with
  | none => .next s
  | some d =>
    if mirrorBusy s ctx 2 then .next (refuseBusy ctx d s)
    else
      let n := dfld d.words 0x10 11 8
      let s := modStep (fun e => { e with entries := SMap.set none e.entries n none }) (setPaired s)
      .next (finishStarting ctx d stOk 0 (sendFence 7 0 0 (mapRest n 0 0 0) s))

/-- The FILL under way, if its descriptor has not completed. -/
def liveFill (s : State) : Option FillRun := s.step.fill.filter (fun f => (startedDesc s f.ctx f.key).isSome)

/-- A FILL ends when every byte is acknowledged: SYNCED holds (R303). -/
def finishFill (s : State) : State :=
  match liveFill s with
  | some f =>
    if f.left = 0 then
      completeKey f.ctx f.key stOk 0 10 (modStep (fun e => { e with
        fill := none, mirror := if e.mirror = .filling then .synced else e.mirror }) s)
    else s
  | none => s

/-- One packet of a FILL is acknowledged (R303). -/
def fillAcked (s : State) : State :=
  finishFill (modStep (fun e => { e with fill := e.fill.map (fun f => { f with left := f.left - 1 }) }) s)

/-- The packet that carries the step number and cursor of a FILL: 16 bytes, of which the spec gives no layout (log entry 49). -/
def numbersPacket (s : State) : Packet :=
  dataPacket 2 (2 ^ 20 * StepCopy.fillNumbers.code) 0 0 (leBytes 8 s.step.number.toNat ++ leBytes 8 s.step.cursor.toNat)

/-- Sends every owned area to its mirror area, with the step number and cursor. -/
def sendFill (c : Ctx) (s : State) : State :=
  match mirrorPartner s, boundEntry s c with
  | some p, some k =>
    let s := forAll (s.step.entries.filterMap Prod.snd) (fun e s => sendRange .fill c p e.own e.length e.mir s) s
    sendPacket (getPart s k) 0 p (numbersPacket s) s
  | _, _ => s

/-- Packets of a FILL that the partner acknowledges. -/
def fillPackets (s : State) (c : Ctx) : Nat :=
  match mirrorPartner s, boundEntry s c with
  | some _, some _ => ((s.step.entries.filterMap Prod.snd).map (fun e => rangePackets e.length)).sum + 1
  | _, _ => 0

/-- MIRROR FILL copies every owned area to its mirror area, with the step number and cursor; FILLING holds until every byte is
acknowledged (R303; log entry 49). A second one waits for the one under way. -/
def execMirrorFill (ctx : Ctx) (s : State) : Out :=
  match startingMirror s ctx 3 with
  | none => .next s
  | some d =>
    if mirrorBusy s ctx 3 then .next (refuseBusy ctx d s)
    else if (liveFill s).isSome then .next s
    else
      let run : FillRun := { ctx := ctx, key := d.key, left := fillPackets s ctx }
      let s := keepStarting ctx d (modStep (fun e => { e with
        fill := some run, mirror := if e.mirror = .unpaired then .unpaired else .filling }) s)
      .next (finishFill (sendFill ctx s))

/-- The step whose boundary an audit takes: the oldest uncast step, or the next one (R319). -/
def auditStep (s : State) : BitVec 64 :=
  match oldestUncast s with
  | some h => h.step
  | none => s.step.next

/-- MIRROR AUDIT starts the comparison of a range, by its groups (R319; log entries 43, 50). -/
def execMirrorAudit (ctx : Ctx) (s : State) : Out :=
  match startingMirror s ctx 4 with
  | none => .next s
  | some d =>
    if mirrorBusy s ctx 4 then .next (refuseBusy ctx d s)
    else if (s.step.audit.filter (fun a => (startedDesc s a.ctx a.key).isSome)).isSome then .next s
    else
      let w := d.words
      let n := dfld w 0x10 11 8
      let own := dfld w 0x18 47 0
      let len := dfld w 0x28 39 0
      match SMap.get none s.step.entries n with
      | none => .next (finishStarting ctx d stBadTarget 0x11 s)
      | some e =>
        if own < e.own ∨ e.own + e.length < own + len then .next (finishStarting ctx d stBadTarget 0x18 s)
        else if len = 0 then .next (finishStarting ctx d stOk 0 s)
        else
          let first := (own - e.own) / groupBytes
          let count := ((own - e.own) + len + groupBytes - 1) / groupBytes - first
          let a : Audit :=
            { ctx := ctx, key := d.key, step := auditStep s, entry := n, first := first, groups := count, compared := 0
              differed := 0, digests := none, theirs := [] }
          let s := keepStarting ctx d (modStep (fun e => { e with audit := some a }) s)
          .next (sendFence 10 a.step 0 (auditRest n first count) s)

/-! ### Pairing messages (R302) -/

/-- PAIR_TIMEOUT: no answer within 10 ms (R302); a spare that waits declines (R338). -/
def execPairTimeout (s : State) : Out :=
  match s.ras.spareWait, liveMap s with
  | some w, _ => .next (declineRank w.entry w.rank.toNat (advanceTo (w.since + msec 10) s))
  | none, some w => if w.pairing then .next (refuseMap w 6 (advanceTo (w.since + msec 10) s)) else .next s
  | none, none => .next s

/-- The reason against a pairing that the other side's PAIR or PAIR_OK shows. -/
def answerReason (s : State) (b : FenceBody) : Option Nat :=
  if b.partnum.toNat ≠ partCode s.fuses.part then some 3
  else if b.enabled ≠ enabledMask s then some 4 else none

/-- Whether the spare of the partner's rank is joining. -/
def partnerJoins (s : State) : Bool :=
  match s.step.round, (stepHolder s).bind (boundEntry s) with
  | some r, some k =>
    match partnerRank s (getPart s k) with
    | some q => r.promoting.contains (BitVec.ofNat 14 q)
    | none => false
  | _, _ => false

/-- The reason of R302 that the table gives against the spare that takes the partner's rank. -/
def joinReason (s : State) (own : Nat) : Option Nat :=
  let t := tableBytes s
  let p := s.step.partner.toNat
  if !(partnerJoins s) then none
  else if tagsShared t own p then some 2
  else if entryPart t own ≠ entryPart t p then some 3
  else none

/-- Sends the mapping entries of both sides to the spare (R339 stage 1; log entry 140). -/
def sendMaps (s : State) : State :=
  let all := s.step.entries ++ s.step.peerEntries
  forAll all (fun kv s => match kv.2 with
    | some e => sendFence 4 0 0 (mapRest kv.1 e.own e.mir e.length) s
    | none => s) s

/-- A PAIR: this package runs its own checks and answers (R302); the partner of a lost rank then sends the mapping entries and what
the spare pulls (R339). -/
def pairArrives (b : FenceBody) (s : State) : State :=
  let e := ((stepHolder s).bind (boundEntry s)).map (getPart s)
  let why := match s.fab.selfIdx with
    | none => some 1
    | some own => ((pairReason s own own e).or (joinReason s own)).or (answerReason s b)
  match why with
  | some r => sendFence 3 b.step b.attempt (pairRest s r) s
  | none =>
    let s := sendFence 2 b.step b.attempt (pairRest s 0) s
    if partnerJoins s then tryPull (modStep (fun t => { t with pullFor := true }) (sendMaps s)) else s

/-- PAIR (R302, R339). -/
def execPair (b : FenceBody) (s : State) : Out := .next (pairArrives b s)

/-- A PAIR_OK: the pairing is complete, and the MAP goes on; a spare takes its rank (R302, R338). -/
def pairOkArrives (b : FenceBody) (s : State) : State :=
  match s.ras.spareWait, liveMap s with
  | some w, _ =>
    match answerReason s b with
    | some _ => declineRank w.entry w.rank.toNat s
    | none => acceptRank w s
  | none, some w =>
    if w.pairing then
      match answerReason s b with
      | some r => refuseMap w r s
      | none =>
        let p := BitVec.ofNat 14 ((ownPartner s).getD 0)
        let g := (getCtx s w.ctx).gen
        sendMap w (modStep (fun e => { e with mirror := .paired, partner := p, pairedCtx := some (w.ctx, g) }) s)
    else s
  | none, none => s

/-- PAIR_OK (R302, R338). -/
def execPairOk (b : FenceBody) (s : State) : Out := .next (pairOkArrives b s)

/-- A PAIR_REFUSED: the pairing is refused; the package stays UNPAIRED (R302). -/
def pairRefusedArrives (b : FenceBody) (s : State) : State :=
  match s.ras.spareWait, liveMap s with
  | some w, _ => declineRank w.entry w.rank.toNat s
  | none, some w => if w.pairing then refuseMap w (if b.enabled ≠ enabledMask s then 4 else 7) s else s
  | none, none => s

/-- PAIR_REFUSED (R302). -/
def execPairRefused (b : FenceBody) (s : State) : Out := .next (pairRefusedArrives b s)

/-! ### Mapping messages (R303) -/

/-- Whether this package takes a mirror area: inside its bound context's windows, and overlapping no other entry of the owner
(R303); a guest position holds no mirrored state (R4; log entry 132). -/
def mirrorAreaOk (s : State) (b : FenceBody) : Bool :=
  match stepHolder s with
  | none => false
  | some c =>
    reaches (getCtx s c) b.mir.toNat b.length.toNat && !(guestHolds s b.mir.toNat b.length.toNat)
      && s.step.peerEntries.all (fun kv => decide (kv.1 = b.entry.toNat) || (match kv.2 with
        | some e => !(areasMeet b.mir.toNat b.length.toNat e.mir e.length)
        | none => true))

/-- A MAP: this package accepts or refuses an entry of its partner's (R303). -/
def mapArrives (b : FenceBody) (s : State) : State :=
  let rest := mapRest b.entry.toNat b.own.toNat b.mir.toNat b.length.toNat
  let e : MirEntry := { own := b.own.toNat, mir := b.mir.toNat, length := b.length.toNat }
  if mirrorAreaOk s b then
    sendFence 5 b.step b.attempt rest
      (modStep (fun t => { t with peerEntries := SMap.set none t.peerEntries b.entry.toNat (some e) }) s)
  else sendFence 6 b.step b.attempt rest s

/-- MAP (R303). -/
def execMap (b : FenceBody) (s : State) : Out := .next (mapArrives b s)

/-- A MAP_OK: the owner sets the entry and its MAP completes (R303). -/
def mapOkArrives (b : FenceBody) (s : State) : State :=
  match liveMap s with
  | none => s
  | some w =>
    if !w.pairing && decide (w.entry = b.entry.toNat) then
      completeKey w.ctx w.key stOk 0 10 (modStep (fun e => { e with
        mapWait := none, mirror := .paired, entries := SMap.set none e.entries w.entry (some w.e) }) s)
    else s

/-- MAP_OK (R303). -/
def execMapOk (b : FenceBody) (s : State) : Out := .next (mapOkArrives b s)

/-- A MAP_REFUSED: the partner refuses the MAP (R302 reason 7). -/
def mapRefusedArrives (b : FenceBody) (s : State) : State :=
  match liveMap s with
  | none => s
  | some w => if !w.pairing && decide (w.entry = b.entry.toNat) then refuseMap w 7 s else s

/-- MAP_REFUSED (R302). -/
def execMapRefused (b : FenceBody) (s : State) : Out := .next (mapRefusedArrives b s)

/-- An UNMAP: the partner clears its side of the entry (R303). -/
def unmapArrives (b : FenceBody) (s : State) : State :=
  modStep (fun e => { e with peerEntries := SMap.set none e.peerEntries b.entry.toNat none }) s

/-- UNMAP (R303). -/
def execUnmap (b : FenceBody) (s : State) : Out := .next (unmapArrives b s)

/-! ### Audit messages (R319) -/

/-- Whether this package's boundary of a step of its partner's has passed: its partner role, or the SKIP, has written the partner's step
number into the mirror (R311, R319). -/
def peerBoundaryPassed (s : State) (step : BitVec 64) : Bool := decide (step < s.step.peerNumber)

/-- An AUDIT_START: the range is marked for this package's boundary of the step, or that boundary has passed (R319). -/
def auditStartArrives (b : FenceBody) (s : State) : State :=
  if peerBoundaryPassed s b.step then
    sendFence 11 b.step 0 (auditRest b.entry.toNat b.group.toNat b.groups.toNat) s
  else
    let a : Audit :=
      { ctx := 0, key := 0, step := b.step, entry := b.entry.toNat, first := b.group.toNat, groups := b.groups.toNat
        compared := 0, differed := 0, digests := none, theirs := [] }
    modStep (fun e => { e with peerAudit := some a }) s

/-- AUDIT_START (R319). -/
def execAuditStart (b : FenceBody) (s : State) : Out := .next (auditStartArrives b s)

/-- An AUDIT_LATE: the owner starts again at the next step (R319). -/
def auditLateArrives (b : FenceBody) (s : State) : State :=
  match s.step.audit with
  | none => s
  | some a =>
    if a.step = b.step then
      let n := if a.step + 1 < s.step.number then s.step.number else a.step + 1
      let s := modAudit (fun a => { a with step := n, compared := 0, differed := 0, digests := none, theirs := [] }) s
      sendFence 10 n 0 (auditRest a.entry a.first a.groups) s
    else s

/-- AUDIT_LATE (R319). -/
def execAuditLate (b : FenceBody) (s : State) : Out := .next (auditLateArrives b s)

/-- An AUDIT_DIGEST: the partner's digest of one group is compared (R319). -/
def auditDigestArrives (b : FenceBody) (s : State) : State :=
  match s.step.audit with
  | none => s
  | some a =>
    let g := b.group.toNat
    if a.step = b.step ∧ a.first ≤ g ∧ g < a.first + a.groups ∧ (SMap.get none a.theirs g).isNone then
      compareGroup g (modAudit (fun a => { a with theirs := SMap.set none a.theirs g (some b.digest) }) s)
    else s

/-- AUDIT_DIGEST (R319). -/
def execAuditDigest (b : FenceBody) (s : State) : Out := .next (auditDigestArrives b s)

end Sys2Proof.Machine
end

