-- ==== Sys2Proof/Machine/Shadow.lean ====
section
/-! DEFINITION. Shadow admission at the follower, and the cast of a step's vote, after which a follower takes the outcome that its
leader has sent (R27, R304, R344 to R347). -/

namespace Sys2Proof.Machine

/-! ### The follower (R344 to R346) -/

/-- Changes the shadow registers. -/
def modRas (f : Ras → Ras) (s : State) : State := { s with ras := f s.ras }

/-- ADMIT_N: 0 acts as 100 (R347). -/
def admitSteps (s : State) : Nat := if fld s.ras.shadowCfg 31 16 = 0 then 100 else fld s.ras.shadowCfg 31 16

/-- The follower leaves its role: RANKED is cleared and the event raised (R346). -/
def leaveShadow (st : ShadowState) (code : EventCode) (step : Nat) (s : State) : State :=
  let e := getPart s s.ras.shadowEntry
  raise code (hubUnit 1) { ctx := some e.ctx, pid := some e.pid, arg1 := step }
    (modPart s.ras.shadowEntry (fun e => { e with ranked := false })
      (modRas (fun r => { r with shadowState := st, shadowQ := [] }) s))

/-- A step whose digests are all equal counts; enough of them admit the package (R346). -/
def stepMatches (s : State) : State :=
  let s := modRas (fun r => { r with shadowMatched := satUp r.shadowMatched 1 }) s
  if admitSteps s ≤ s.ras.shadowMatched.toNat then leaveShadow .admitted 0x0806 0 s else s

/-- A step with a digest that differs ejects the follower (R346). -/
def stepDiffers (step : BitVec 64) (s : State) : State :=
  leaveShadow .ejected 0x0807 step.toNat (modRas (fun r => { r with shadowMismatch := BitVec.ofNat 32 step.toNat }) s)

/-- The follower takes a record's outcome for its cast step at a place: COMMIT runs the owner role only, with the record's mask;
the digests of the output tensors, and of the areas that a commit wrote, are compared (R345). -/
def takeRecord (i : Nat) (h : Held) (r : ShadowRec) (s : State) : State :=
  let outs := h.outCrc.map Prod.snd
  let own : List (BitVec 64) × State :=
    if r.outcome = 1 then (outs, resolveSkip i s)
    else
      let s := resolveCommit i r.mask s
      match s.step.held[i]? with
      | none => (outs, s)
      | some k =>
        let s := ownerRole i [] k s
        (outs ++ writtenDigests s k, s)
  if own.1 = r.digests then stepMatches own.2 else stepDiffers r.step own.2

/-- The oldest record is taken when the step it names is cast here; an ABORT discards the attempt (R345, R346). -/
def settleRecord (s : State) : State :=
  match s.ras.shadowQ with
  | [] => s
  | r :: rest =>
    let done := modRas (fun q => { q with shadowQ := rest })
    match heldPlace s r.step, heldStep s r.step with
    | some i, some h =>
      if r.outcome = 2 then resolveAbort i (if h.abortAt.isSome then h.cause else s.step.cause) (done s)
      else if h.st = .cast then takeRecord i h r (done s)
      else s
    | _, _ => if r.outcome = 2 then done s else s

/-- A follower settles the record that waits for the step it has cast. -/
def settleRecords (s : State) : State := if s.ras.shadowState = .following then settleRecord s else s

/-- The outputs' mask of a record, from its 32-bit words. -/
def maskOfWords (ws : List (BitVec 32)) : BitVec 1024 := BitVec.ofNat 1024 (packCodes 32 (ws.map BitVec.toNat))

/-- SHADOW_RECORD_RECEIVE: the leader's record of a step arrives at the follower (R345). -/
def execShadowRecordReceive (step : BitVec 64) (outcome : BitVec 2) (mask : List (BitVec 32)) (digests : List (BitVec 64))
    (s : State) : Out :=
  if s.ras.shadowState = .following then
    let r : ShadowRec := { step := step, outcome := outcome, mask := maskOfWords mask, digests := digests }
    .next (settleRecords (modRas (fun q => { q with shadowQ := q.shadowQ ++ [r] }) s))
  else .next s

/-- SHADOW_STATE_LOADED: the leader's state, step number and cursor are here (R344, R346). -/
def execShadowStateLoaded (state : List (Nat × Byte)) (stepNumber cursor : BitVec 64) (s : State) : Out :=
  if s.ras.shadowState = .loading then
    let x := getCtx s (getPart s s.ras.shadowEntry).ctx
    let s := forAll (state.filter (fun c => reaches x c.1 1)) (fun c s => memWrite c.1 [c.2] s) s
    .next (modRas (fun r => { r with shadowState := .following })
      (modStep (fun e => { e with number := stepNumber, cursor := cursor }) s))
  else .next s

/-- SHADOW_TIMEOUT: no record or state within 10 ms of the leader's boundary, or the leader has lost its rank (R346). -/
def execShadowTimeout (s : State) : Out :=
  if follower s then .next (leaveShadow .lost 0x0808 0 s) else .next s

/-- The rank that the map gives a coordinate. -/
def rankAt (e : Part) (i : Nat) : Nat := ((validRanks e).find? (fun r => decide (rankCoord e r = i))).getD 0

/-- The follower takes the leader's rank in the entry of the context that holds the step engine, where it has none (R344). -/
def startFollowing (peer : Nat) (s : State) : State :=
  let s := modRas (fun r => { r with shadowState := .loading, shadowMatched := 0, shadowQ := [] }) s
  match (stepHolder s).bind (boundEntry s) with
  | none => s
  | some k =>
    if (getPart s k).ranked then s
    else
      modRas (fun r => { r with shadowEntry := k })
        (modPart k (fun e => { e with ranked := true, rank := BitVec.ofNat 14 (rankAt e peer) }) s)

/-- A write of RAS_SHADOW_CFG: PEER and ROLE act at once, ADMIT_N at the next STEP fence (R344, R346, R347). -/
def writeShadowCfg (v : BitVec 32) (s : State) : State :=
  let role := fld v 15 14
  let s := modRas (fun r => { r with
    shadowCfg := setFld r.shadowCfg 15 0 (fld v 15 0), shadowAdmitW := BitVec.ofNat 16 (fld v 31 16)
    shadowSent := r.shadowSent && decide (role = 1) }) s
  match s.ras.shadowState with
  | .off => if role = 2 then startFollowing (fld v 13 0) s else s
  | .admitted => if role = 0 then modRas (fun r => { r with shadowState := .off }) s else s
  | .ejected => if role = 0 then modRas (fun r => { r with shadowState := .off }) s else s
  | .lost => if role = 0 then modRas (fun r => { r with shadowState := .off }) s else s
  | .loading => s
  | .following => s

/-- SHADOW_CFG_WRITE (R344). -/
def execShadowCfgWrite (v : BitVec 32) (s : State) : Out := .next (writeShadowCfg v s)

/-! ### Casting (R304) -/

/-- The vote of the step at a place is cast: it goes up the tree, and the PTB of the cast is recorded (R304 item 4). -/
def castNow (i : Nat) (s : State) : State :=
  let now := s.mgmt.ptb
  settleRecords (tryTree i (modHeld i (fun h => { h with st := .cast, castAt := now, recordSent := false }) s))

/-- The step record of the step at a place is written; with MIRROR on it goes to the ember mirror, and the cast waits for the
acknowledgement (R304 item 3). -/
def sendStepRecord (c : Ctx) (i : Nat) (h : Held) (s : State) : State :=
  let at_ := h.emberBase + h.emberBytes - 4096
  let s := memWrite at_ (stepRecord h) s
  if h.mirrored && mirrorable s c at_ then
    modHeld i (fun k => { k with recordSent := true }) (sendMirror c (2 ^ 20 * StepCopy.record.code) 0 at_ (stepRecord h) s)
  else castNow i s

/-- Casts the vote of the step at a place for its STEP_VOTE, which has started (R304). -/
def castVote (d : Desc) (i : Nat) (h : Held) (s : State) : State :=
  let w := d.words
  let mirror := s.pwr.modes.mirror
  let lists := validLists s h mirror (BitVec.ofNat 8 (dfld w 0x18 47 40)) (voteLists w)
  let vote := contribution s h w lists
  match vote.1 with
  | .abort => injectAbort i vote.2 s
  | out =>
    let h' : Held := { h with
      umask := BitVec.ofNat 8 (dfld w 0x18 47 40), updl := voteLists w, lists := lists.getD [], vote := some out
      mask := skipMask h, voteKey := some d.key, mirrored := mirror }
    sendStepRecord h.ctx i h' (modHeld i (fun _ => h') s)

/-- Whether a STEP_VOTE waits no more: every other descriptor of its step that holds a later one has completed; a STEP_VOTE that came
after it holds it no more (R172, R304, R356). -/
def voteReady (s : State) (c : Ctx) (d : Desc) (n : BitVec 64) : Bool :=
  (getCtx s c).started.all (fun e => decide (e.step ≠ some n) || holdsNoLater e.words
    || (decide (dOpcode e.words = 0x08) && decide (d.key ≤ e.key)))

/-- What refuses a STEP_VOTE: its status and DETAIL (R304). -/
def voteRefusal (s : State) (c : Ctx) (d : Desc) : Option (Nat × Nat) :=
  let umask := BitVec.ofNat 8 (dfld d.words 0x18 47 40)
  match oldestUncast s with
  | none => some (stStepOrder, s.step.next.toNat % 2 ^ 32)
  | some h =>
    if h.step ≠ BitVec.ofNat 64 (dfld d.words 0x10 63 0) ∨ h.ctx ≠ c then some (stStepOrder, h.step.toNat % 2 ^ 32)
    else if umask &&& (getCtx s c).posns ≠ umask then some (stBadTarget, 0x1D)
    else none

/-- A STEP_VOTE that has started casts as soon as it waits no more (R304). -/
def tryVote (c : Ctx) (d : Desc) (s : State) : State :=
  match placeOf uncast s.step.held, oldestUncast s with
  | some i, some h => if h.voteKey.isNone && voteReady s c d h.step then castVote d i h s else s
  | _, _ => s

/-- The started STEP_VOTE of a context that has not begun to cast. -/
def waitingVote (s : State) (c : Ctx) : Option Desc :=
  (getCtx s c).started.find? (fun d => decide (dOpcode d.words = 0x08) && !(s.step.held.any (fun h => h.voteKey == some d.key)))

/-- STEP_VOTE (R304): it checks and starts, waits until every descriptor of the step has completed, and casts; one that waits is
looked at again where no STEP_VOTE is starting. -/
def execStepVote (ctx : Ctx) (s : State) : Out :=
  match startingOf s ctx 0x08 with
  | some d =>
    match voteRefusal s ctx d with
    | some r => .next (finishStarting ctx d r.1 r.2 s)
    | none => .next (tryVote ctx d (keepStarting ctx d s))
  | none =>
    match waitingVote s ctx with
    | none => .next s
    | some d =>
      match voteRefusal s ctx d with
      | some r => .next (completeKey ctx d.key r.1 r.2 0 s)
      | none => .next (tryVote ctx d s)

/-- The partner acknowledges the copy of a step record: the vote that waits for it is cast (R304 item 3). -/
def recordAcked (s : State) : State :=
  match placeOf Held.recordSent s.step.held with
  | some i => castNow i s
  | none => s

end Sys2Proof.Machine
end

