-- ==== Sys2Proof/Machine/Registers.lean ====
section
/-! DEFINITION. Writes of registers: access codes, locks, staging, selectors, domains and sizes (R14, R16, R434 to R442, and
the register tables of the chapters). -/

namespace Sys2Proof.Machine

/-- A word with only the bits of a mask. -/
def keep (k : Nat) (mask : Nat) (v : BitVec 64) : BitVec k := BitVec.ofNat k (v.toNat &&& mask)

/-! ### Selectors (R438) -/

/-- Changes the selector copy of a master. -/
def modSel (m : Master) (f : Selectors → Selectors) (s : State) : State :=
  match selIndex m with
  | none => s
  | some i => { s with sel := SMap.upd Selectors.init s.sel i f }

/-- A write of a selector register. -/
def writeSel (m : Master) (off : Nat) (v : BitVec 64) : Option (State → State) :=
  match off with
  | 0x01000010 => some (modSel m (fun x => { x with memPc := keep 32 0x73F v }))
  | 0x01000028 => some (modSel m (fun x => { x with memRemap := keep 32 0x0703FFFF v }))
  | 0x01400008 => some (fun s => if hasGfw s then modSel m (fun x => { x with gfwRule := keep 32 0x11F v }) s else s)
  | 0x01600010 => some (modSel m (fun x => { x with fabPort := keep 32 0x1F v }))
  | 0x01600030 => some (modSel m (fun x => { x with fabPart := keep 32 0xF v }))
  | 0x01A00000 => some (modSel m (fun x => { x with statSlot := keep 32 0x7FFF v }))
  | 0x02400000 => some (modSel m (fun x => { x with repair := keep 32 0x7FF v }))
  | _ => none

/-! ### Registers with their own rules -/

/-- MEM_CFG: the layout, until LOCK (R178, R199). -/
def writeMemCfg (v : BitVec 64) (s : State) : State :=
  if s.memRegs.lock then s
  else { s with memRegs := { s.memRegs with localRows := keep 18 0x3FFFF v, lock := bit v 31 } }

/-- MBX_BIND[c], until MBX_CTRL.LOCK (R386, R442). -/
def writeBind (c : Nat) (v : BitVec 64) (s : State) : State :=
  if s.mgmt.mbxLock then s else modMbx c (fun x => { x with bind := v.setWidth 32 &&& bindMask }) s

/-- SEC_STATUS: under presence a 0 clears SEAL_OPENED (R378, R396). -/
def writeSec (v : BitVec 64) (s : State) : State :=
  if !s.mgmt.presence then presenceDenied 8 s
  else if bit v 2 then s
  else modMgmt (fun m => { m with sealOpened := false }) s

/-- PKG_GFW_CTRL[g]: EN and LOCK, until LOCK (R221, R222). -/
def writeGfwCtrl (g : Nat) (v : BitVec 64) (s : State) : State :=
  if hasGfw s && !(getGfw s g).lock then modGfw g (fun w => { w with en := bit v 0, lock := bit v 1 }) s else s

/-- PKG_GFW_VADDR[g].VALID is W1C (R222). -/
def writeGfwVaddr (g : Nat) (v : BitVec 64) (s : State) : State :=
  if hasGfw s && bit v 63 then modGfw g (fun w => { w with vaddr := setFld w.vaddr 63 63 0 }) s else s

/-- A field of the selected firewall rule, until its guest's LOCK (R222). -/
def writeRule (x : Selectors) (f : GfwRule → GfwRule) (s : State) : State :=
  let g := fld x.gfwRule 8 8
  if hasGfw s && !(getGfw s g).lock then
    modGfw g (fun w => { w with rules := SMap.upd GfwRule.init w.rules (fld x.gfwRule 4 0) f }) s
  else s

/-- FAB_PORT_CFG of the selected port: FEC_LIMIT is staged, RETRAIN acts at once (R229, R252). -/
def writePortCfg (p : Nat) (v : BitVec 64) (s : State) : State :=
  if 24 ≤ p then s
  else
    let s := modPort p (fun q => { q with cfgW := keep 16 0xFFFF v }) s
    if bit v 16 then retrainPort p s else s

/-- FAB_PART_CFG of the selected entry: fields other than VALID are written only while VALID is 0 (R242, R252). -/
def writePartCfg (k : Nat) (v : BitVec 64) (s : State) : State :=
  if (getPart s k).valid then (if bit v 12 then s else clearValid k s)
  else
    let s := modPart k (fun e => { e with
      pid := BitVec.ofNat 12 (fld v 11 0), ranked := bit v 13, rank := BitVec.ofNat 14 (fld v 27 14)
      ctx := BitVec.ofNat 12 (fld v 43 32) }) s
    if bit v 12 then setValid k s else s

/-- FAB_PART_BOX of the selected entry, while VALID is 0 (R252). -/
def writePartBox (k : Nat) (v : BitVec 64) (s : State) : State :=
  if (getPart s k).valid then s else modPart k (fun e => { e with box := keep 64 0xFFFFFFFFF v }) s

/-- RAS_RESET: GO starts the reset of LEVEL; the capture is within its lease (R325, R347). -/
def writeRasReset (m : Master) (v : BitVec 32) (s : State) : State :=
  match rasMaster m with
  | none => s
  | some cause =>
    let s := setRasReset v s
    if !(bit v 31) then s
    else
      match fld v 1 0 with
      | 1 =>
        match engineRequest (fld v 6 4) (fld v 13 8) cause with
        | none => s
        | some r => startReset r true s
      | 2 => startReset { level := 3, posn := fld v 6 4, engine := 0, cause := cause } true s
      | 3 => requestChip s
      | _ => s

/-- STAT_SLOT_CFG of the selected slot: staged, and the slot's RUN restarts (R144, R153). -/
def writeSlotCfg (n slot : Nat) (v : BitVec 64) (s : State) : State :=
  modPos n (fun p => { p with
    slotCfgW := SMap.set slotCfgInit p.slotCfgW slot (keep 32 0x1FFFFF v), slotRun := SMap.set 0 p.slotRun slot 0 }) s

/-- CTX_CMD of a function (R292). -/
def writeCtxCmd (f : Fin 64) (v : BitVec 64) (s : State) : State :=
  let c := BitVec.ofNat 12 (fld v 11 0)
  match fld v 13 12 with
  | 1 => createCmd f c .good s
  | 2 => teardownCmd f c s
  | 3 => queryCmd f c s
  | _ => s

/-! ### The map of writable registers (R445) -/

/-- Hub registers of 32 bits, of the blocks HIF to PKG. -/
def write32A (m : Master) (off : Nat) (v : BitVec 64) (s : State) : Option State :=
  match off with
  | 0x00200200 => some (modHif (fun h => { h with syncWait := keep 32 0xFFFFFF v }) s)
  | 0x00800008 => some (writeEvtCtrl (v.setWidth 32) s)
  | 0x00800018 => some (writeEvtTail (v.setWidth 32) s)
  | 0x00A00000 => some (modMgmt (fun g => { g with mbxLock := g.mbxLock || bit v 0 }) s)
  | 0x00A00008 => some (writeRebind (v.setWidth 32) s)
  | 0x00E00000 => some (writeRasReset m (v.setWidth 32) s)
  | 0x00E00008 => some { s with ras := { s.ras with wdogW := keep 32 0xFFFF v } }
  | 0x00E00018 => some { s with ras := { s.ras with spareCfgW := v.setWidth 32 } }
  | 0x00E00028 => some (writeShadowCfg (v.setWidth 32) s)
  | 0x01000000 => some (writeMemCfg v s)
  | 0x01000038 => some { s with memRegs := { s.memRegs with rasCfgW := v.setWidth 32 } }
  | 0x01400000 => some { s with pkg := { s.pkg with edgeCfgW := keep 32 0xFFFF v } }
  | _ => none

/-- Hub registers of 32 bits, of the blocks STEP to SEC. -/
def write32B (off : Nat) (v : BitVec 64) (s : State) : Option State :=
  match off with
  | 0x01C00000 => some (modStep (fun e => { e with cfgW := keep 32 0xFFFFF v }) s)
  | 0x01C00008 => some (if bit v 0 then hostAbort s else s)
  | 0x01C00048 => some (modStep (fun e => { e with csyncW := keep 32 0x1FFFF v }) s)
  | 0x01C00068 => some (modStep (fun e => { e with epochWait := keep 32 0xFFFFFF v }) s)
  | 0x02000008 => some (modPwr (fun p => { p with capW := v.setWidth 32 }) s)
  | 0x02000018 => some (modPwr (fun p => { p with warnW := keep 8 0xFF v }) s)
  | 0x02000048 => some (modPwr (fun p => { p with kindleW := keep 32 0x0FFFFFFF v }) s)
  | 0x02200000 => some (writeSec v s)
  | _ => none

/-- Registers of 32 bits that a selector reaches. -/
def write32S (x : Selectors) (off : Nat) (v : BitVec 64) (s : State) : Option State :=
  let n := fld x.statSlot 14 12
  match off with
  | 0x01600028 => some (writePortCfg (fld x.fabPort 4 0) v s)
  | 0x01A00008 => some (if (getPos s n).st = .enabled then writeSlotCfg n (fld x.statSlot 11 0) v s else s)
  | _ => none

/-- Registers of 32 bits of a position (R436): only an ENABLED position takes a write. -/
def write32P (off : Nat) (v : BitVec 64) (s : State) : Option State :=
  let p := posnOffset off
  let live := decide ((getPos s p.2).st = .enabled)
  match p.1 with
  | 0x01A10008 => some (if live then modPos p.2 (fun q => { q with ringCtrlW := keep 32 0x11F v }) s else s)
  | 0x01A10018 => some (if live then writeStatTail p.2 (v.setWidth 32) s else s)
  | _ => none

/-- Hub registers of 64 bits, and those that a selector reaches. An EVT_RING_BASE written with bits [11:0] not 0 is kept and used
as written (DESIGN CHOICE, log entry 112). -/
def write64H (x : Selectors) (off : Nat) (v : BitVec 64) (s : State) : Option State :=
  let k := fld x.fabPart 3 0
  match off with
  | 0x00800000 => some (modMgmt (fun g => { g with evtBase := v }) s)
  | 0x01400010 => some (writeRule x (fun r => { r with base := v.setWidth 48 }) s)
  | 0x01400018 => some (writeRule x (fun r => { r with limit := v.setWidth 48 }) s)
  | 0x01400020 => some (writeRule x (fun r => { r with attr := v.setWidth 33 }) s)
  | 0x01600038 => some (writePartCfg k v s)
  | 0x01600040 => some (writePartBox k v s)
  | 0x01600048 => some (writeRmap k v s)
  | 0x01A00018 => some { s with memRegs := { s.memRegs with ufwW := keep 64 0x0000FFFF0001FFFF v } }
  | 0x01C00010 => some (if s.step.held.isEmpty then modStep (fun e => { e with next := v }) s else s)
  | 0x01E00000 => some { s with bank := { s.bank with watchCfgW := keep 64 0xF1FFFF v } }
  | 0x01E00008 => some { s with bank := { s.bank with thrW := v } }
  | _ => none

/-- Indexed registers of 64 bits, those of a position, and the debug window. A STAT_RING_BASE written with bits [11:0] not 0
is kept and used as written (DESIGN CHOICE, log entry 112). -/
def write64I (off : Nat) (v : BitVec 64) (s : State) : Option State :=
  ((slotIn off 0x200000 64).map (fun f => writeFuncCfg f v s)).or <|
  ((slotIn off 0x1400040 2).map (fun g => writeGfwCtrl g v s)).or <|
  ((slotIn off 0x1400050 2).map (fun g => writeGfwVaddr g v s)).or <|
  ((debugWord off).map (fun d => writeDebug d.1 d.2 v s)).or <|
  let p := posnOffset off
  if 0x10000 ≤ off % 0x200000 ∧ off % 0x200000 < 0x90000 ∧ p.1 = 0x01A10000 then
    some (if (getPos s p.2).st = .enabled then modPos p.2 (fun q => { q with ringBaseW := v.setWidth 48 }) s else s)
  else none

/-- A write of a register of 32 bits by a master, at its slot. -/
def write32 (m : Master) (off : Nat) (v : BitVec 64) (s : State) : Option State :=
  ((writeSel m off v).map (fun f => f s)).or <|
  (write32A m off v s).or <|
  (write32B off v s).or <|
  ((selectors s m).bind (fun x => write32S x off v s)).or <|
  ((slotIn off 0xA00100 64).map (fun c => writeBind c v s)).or <|
  (if 0x10000 ≤ off % 0x200000 ∧ off % 0x200000 < 0x90000 then write32P off v s else none)

/-- A write of a register of 64 bits by a master. -/
def write64 (m : Master) (off : Nat) (v : BitVec 64) (s : State) : Option State :=
  ((selectors s m).bind (fun x => write64H x off v s)).or (write64I off v s)

/-- A write into a function page (R292): CTX_BLOCK by one 64-bit access, CTX_CMD in the lower half of its slot. -/
def writePage (f : Fin 64) (off : Nat) (wide : Bool) (v : BitVec 64) (s : State) : State :=
  if off = 8 ∧ wide then
    modHif (fun h => { h with pages := SMap.upd FuncPage.init h.pages f.val (fun p => { p with ctxBlock := v }) }) s
  else if off = 0x10 then writeCtxCmd f v s
  else s

/-- A write of the BAR0 layout of R433, aligned to its size: a 32-bit access reaches the lower half of a 32-bit register, a 64-bit
access every register (R434, R435). -/
def writeBar0 (m : Master) (off : Nat) (wide : Bool) (v : BitVec 64) (s : State) : State :=
  if 0x03FF0000 ≤ off ∧ off < 0x04000000 then writePage 0 (off - 0x03FF0000) wide v s
  else
    match write32 m off v s with
    | some t => t
    | none => if wide then (write64 m off v s).getD s else s

/-- Whether a master reaches the BAR0 layout: PF0, firmware cores and test access (R437, R439). -/
def reachesMap (s : State) : Master → Bool
  | .pf0h0 => true
  | .pf0h1 => true
  | .core _ => true
  | .test => testActs s
  | _ => false

/-- The blocks of the management complex: in RECOVERY only the core that runs the boot ROM reaches them (R373; log entry 63). -/
def mgmtBlock (off : Nat) : Bool := [0, 4, 5, 6, 16, 17, 18].contains (off / 0x200000)

/-- Whether RECOVERY turns an access away. -/
def recoveryBars (s : State) (m : Master) (off : Nat) : Bool :=
  decide (s.mgmt.fw = .recovery) && mgmtBlock off && decide (m ≠ .core 0)

/-- A write of 32 or 64 bits that is aligned to its size. -/
def writeAligned (m : Master) (off : Nat) (wide : Bool) (v : BitVec 64) (s : State) : State :=
  if 0x4000000 ≤ off then
    let w := off - 0x4000000
    if m = .tray ∨ 0x10000 ≤ w then s
    else
      let s := writeWindow (w / 1024) (w % 1024) (midOf m) (v.setWidth 32) s
      if wide then writeWindow (w / 1024) (w % 1024 + 4) (midOf m) (BitVec.ofNat 32 (fld v 63 32)) s else s
  else
    match m with
    | .vf f => if funcLive s f then writePage f off wide v s else s
    | _ => if reachesMap s m && !(recoveryBars s m off) then writeBar0 m off wide v s else s

/-- REGISTER_WRITE: a write of 32 or 64 bits, aligned; others are ignored (R435), and so is one that the hub answers with an error, in
chip reset or without power (R16, R436). Offsets from 0x400_0000 on are the mailbox
windows (R380; log entry 64). -/
def execRegisterWrite (m : Master) (offset : BitVec 27) (size : AccessSize) (v : BitVec 64) (s : State) : Out :=
  let off := offset.toNat
  if hubDown s then .next s
  else
  match size with
  | .w32 => if off % 4 = 0 then .next (writeAligned m off false (keep 64 0xFFFFFFFF v) s) else .next s
  | .w64 => if off % 8 = 0 then .next (writeAligned m off true v s) else .next s
  | .other => .next s

end Sys2Proof.Machine
end

