-- ==== Sys2Proof/Machine/Router.lean ====
section
/-! DEFINITION. The router: a packet that arrives at a Yalxo port is delivered here, forwarded in its partition, forwarded in
transit or dropped, and a delivered packet has its effect (R230, R232, R233, R235, R238, R239, R243 to R245, R251, R277, R306,
R309, R315, R345). -/

namespace Sys2Proof.Machine

/-! ### Arrival (R230, R232, R235) -/

/-- The flits of a packet leave the receive buffer: those of the pool that holds them (R235). -/
def releaseHeld (pool : Nat) (p : Packet) (q : FabPort) : FabPort :=
  let n := flitCount p
  let at_ := if n ≤ (SMap.get [] q.held pool).length then pool else (pool + 4) % 8
  { q with
    held := SMap.upd [] q.held at_ (fun l => l.drop n)
    freed := SMap.upd 0 q.freed at_ (fun c => c + min n (SMap.get [] q.held at_).length) }

/-- The number of an originating port and class in a direction group of arrival (R230). -/
def deliveredKey (port : Nat) (p : Packet) : Nat := (portGroup port * 32 + p.lport.toNat) * 4 + p.tc.val

/-- Whether the packet's LSEQ for its LPORT has been delivered already (R230): one of the last 1,024, the flits that a sender can hold
(log entry 129). -/
def isRepeat (s : State) (port : Nat) (p : Packet) : Bool :=
  (SMap.get [] s.fab.delivered (deliveredKey port p)).contains p.lseq

/-- Counts a packet that is discarded in FAB_DROP. -/
def dropPacket (s : State) : State := modFab (fun f => { f with drop := satUp f.drop 1 }) s

/-! ### Forwarding (R233, R244, R245) -/

/-- The way on of a packet that arrived at a port: R233's, or straight on for one that was sent the other way round a ring, which
turns no further on that axis (R233, R334). -/
def forwardPort (s : State) (port : Nat) (e : Part) (i dst : Nat) (p : Packet) : Option Nat :=
  let straight := if portGroup port % 2 = 0 then portGroup port + 1 else portGroup port - 1
  match nextGroup (tableBytes s) e.box false i dst with
  | none => none
  | some g => if g = portGroup port then outPort s straight (port % 4) p else routePort s e (port % 4) i dst p

/-- A packet of a local partition goes on toward its destination, on the port index it came in on (R233; log entry 66). -/
def forwardPacket (port : Nat) (e : Part) (dst : Nat) (p : Packet) (s : State) : State :=
  match s.fab.selfIdx with
  | none => dropPacket s
  | some i =>
    match forwardPort s port e i dst p with
    | none => dropPacket s
    | some out => emitOn out port p s

/-! ### Delivery (R243, R251, R277, R309, R345) -/

/-- Whether an attempt of a context is aborting, or has halted, here: stage 3 of R315 holds until the replay. -/
def inDrain (s : State) (c : Ctx) : Bool :=
  s.step.held.any (fun h => h.ctx == c && (decide (h.st = .aborting) || decide (h.st = .halted)))

/-- Whether an address lies in an area that mirrors the partner's: where ember-mirror writes land (R301, R315). -/
def inMirrorArea (s : State) (a : Nat) : Bool :=
  (s.step.peerEntries.filterMap Prod.snd).any (fun e => decide (e.mir ≤ a) && decide (a < e.mir + e.length))

/-- The data of a stream packet land where the bound context reaches, past a guest's firewall, and elsewhere are discarded (R175,
R217, R258). A cell scratchpad takes nothing here: stream data enter a cell through its ports alone (R41). -/
def landPacket (c : Ctx) (p : Packet) (s : State) : State :=
  let a := fld p.target 47 0
  if reaches (getCtx s c) a p.data.length && !(inScratchpads a) then guardedWrite (placerMid s a) c a p.data s else s

/-- The acknowledgement of a stream packet goes back to its source (R232). -/
def ackPacket (port : Nat) (e : Part) (p : Packet) (s : State) : State :=
  match coordIdx (tableBytes s) p.src with
  | none => s
  | some src => sendPacket e (port % 4) src { p with pkind := 1, len := 0, target := 0, data := [] } s

/-- Whether a stream packet that comes while an attempt ends is exempt: an ember-mirror write of the partner's, which travels on TC2
to an area that mirrors the partner's (R315, R316). -/
def exemptPacket (s : State) (p : Packet) : Bool :=
  decide (p.pkind = 0) && decide (p.tc = 2) && inMirrorArea s (fld p.target 47 0)

/-- The number of the stream among all positions that an acknowledgement names (log entry 122). -/
def ackedStream (p : Packet) : Nat := fld p.aux 59 40

/-- An acknowledgement of a stream packet: that of an ember-mirror copy ends its wait (R300), as do those of a step record and of a
FILL (R303, R304). The other acknowledgements are the command CHUNK_RETURN. -/
def ackArrives (p : Packet) (s : State) : State :=
  let k := ackedStream p
  let code := copyCode p
  if p.tc ≠ 2 then s
  else if code = StepCopy.record.code then recordAcked s
  else if code = StepCopy.fill.code ∨ code = StepCopy.fillNumbers.code then fillAcked s
  else if code = 0 ∧ (getStream s k).st ≠ .free ∧ 0 < (getStream s k).copies then mirrorAcked k s
  else s

/-- The length of the group of the partner's that starts at an address of the mirror here (R319). -/
def groupLength (s : State) (base : Nat) : Nat :=
  match (s.step.peerEntries.filterMap Prod.snd).find? (fun e => decide (e.mir ≤ base) && decide (base < e.mir + e.length)) with
  | some e => min groupBytes (e.mir + e.length - base)
  | none => 0

/-- Bytes of a group that the partner sends again have arrived: the next partner role waits for the rest (R319; log entry 136). -/
def groupArrives (p : Packet) (s : State) : State :=
  let base := fld p.target 47 0 - fld p.aux 39 0
  let n := SMap.get 0 s.step.peerResend base + p.data.length
  modStep (fun e => { e with peerResend := SMap.set 0 e.peerResend base (if groupLength s base ≤ n then 0 else n) }) s

/-- What the data of a step engine's packet do here: the numbers of a FILL are the copy of the partner's (R303, R319), and the rest
lands. -/
def landCopy (c : Ctx) (p : Packet) (s : State) : State :=
  if p.tc = 2 ∧ copyCode p = StepCopy.fillNumbers.code then
    modStep (fun e => { e with
      peerNumber := BitVec.ofNat 64 (leAt p.data 0 8), peerCursor := BitVec.ofNat 64 (leAt p.data 8 8) }) s
  else if p.tc = 2 ∧ copyCode p = StepCopy.group.code then groupArrives p (landPacket c p s)
  else landPacket c p s

/-- A stream packet is delivered (R198, R315 stage 3). -/
def deliverStream (port k : Nat) (p : Packet) (s : State) : State :=
  let e := getPart s k
  if p.pkind = 1 then ackArrives p s
  else if inDrain s e.ctx && !(exemptPacket s p) then
    modStep (fun t => { t with dropped := satUp t.dropped 1 }) s
  else ackPacket port e p (landCopy e.ctx p s)

/-- The elements of a reduction packet. -/
def packetWords (p : Packet) : List (BitVec 32) :=
  (cut 4 p.data).map (fun bs => BitVec.ofNat 32 (leNat bs))

/-- A reduction packet is delivered (R232, R249, R251). -/
def deliverReduction (p : Packet) (s : State) : State :=
  let t := fun (hi lo : Nat) => fld p.target hi lo
  let off := fld p.aux 39 0
  let redid := BitVec.ofNat 16 (t 15 0)
  if p.pkind = 2 then
    arriveOperand redid { shard := t 31 16, lo := t 45 32, hi := t 62 48, off := off, data := packetWords p } s
  else arriveResult redid (t 31 16) off (packetWords p) s

/-- The message of a TC0 packet (R238). -/
def tc0Of (p : Packet) : Tc0 :=
  let h := leAt p.data 0 8
  { pid := p.pid, mkind := BitVec.ofNat 4 (bitsOf h 3 0), attempt := BitVec.ofNat 4 (bitsOf h 7 4)
    cause := BitVec.ofNat 8 (bitsOf h 15 8), origin := BitVec.ofNat 14 (bitsOf h 29 16)
    step := BitVec.ofNat 64 (leAt p.data 8 8), body := BitVec.ofNat 128 (leAt p.data 16 16) }

/-- The lease time after which members send their roll-call to rank 1 as well has passed in a round (R336). -/
def resendTime (s : State) (r : Round) : Bool :=
  decide (r.startedAt + msec (roundLease s r + drainLease s) ≤ s.mgmt.ptb)

/-- Whether a DRAINED message is a roll-call copy: its sender is no child here, or it is the first of a child's two at rank 0,
or one that comes when roll-calls go to rank 1 as well. The two messages differ in nothing else (R335, R336; log entry 65). -/
def isRollCall (s : State) (k : Nat) (msg : Tc0) : Bool :=
  let e := getPart s k
  let child := (childRanks e.rank.toNat (rankCount e)).contains msg.origin.toNat
  match s.step.round with
  | none => !child
  | some r => !child || (!(holdsDrained s r true msg.origin.toNat) && (decide (e.rank = 0) || resendTime s r))

/-- A FENCE message of the mirror partner takes effect by its FOP (R309). -/
def deliverFence (msg : Tc0) (s : State) : State :=
  let b := fenceBody msg
  match fld msg.body 3 0 with
  | 1 => pairArrives b s
  | 2 => pairOkArrives b s
  | 3 => pairRefusedArrives b s
  | 4 => mapArrives b s
  | 5 => mapOkArrives b s
  | 6 => mapRefusedArrives b s
  | 7 => unmapArrives b s
  | 8 => ownerDoneArrives b s
  | 9 => mirrorDoneArrives b s
  | 10 => auditStartArrives b s
  | 11 => auditLateArrives b s
  | 12 => auditDigestArrives b s
  | _ => dropPacket s

/-- A point-to-point TC0 message is delivered: VOTE, FENCE and SYNC (R277, R305, R309, R335). -/
def deliverTc0 (k : Nat) (msg : Tc0) (s : State) : State :=
  match msg.mkind.toNat with
  | 2 => if msgOutcome msg = 3 then drainedArrives (isRollCall s k msg) msg s else voteArrives msg.origin msg s
  | 4 => deliverFence msg s
  | 5 => syncArrives msg.pid (BitVec.ofNat 16 (fld msg.body 15 0)) (BitVec.ofNat 32 (fld msg.body 63 32)) s
  | _ => dropPacket s

/-- The leader's hub copies what it delivers to its follower on TC2 (R345). -/
def copyToFollower (port : Nat) (e : Part) (p : Packet) (s : State) : State :=
  match shadowPeer s with
  | none => s
  | some f => sendPacket e (port % 4) f { p with tc := 2 } s

/-- Whether a packet for this coordinate may be delivered: its entry is RANKED; a spare hears the FENCE answer it waits for
(R243, R338; log entry 65). -/
def mayDeliver (s : State) (k : Nat) (p : Packet) : Bool :=
  (getPart s k).ranked || (s.ras.spareWait.isSome && decide (p.pkind = 4) && decide ((tc0Of p).mkind = 4))

/-- A packet for this coordinate in a VALID partition (R243). -/
def deliverPacket (port k : Nat) (p : Packet) (s : State) : State :=
  if mayDeliver s k p then
    let s := copyToFollower port (getPart s k) p s
    match p.pkind.toNat with
    | 2 => deliverReduction p s
    | 3 => deliverReduction p s
    | 4 => deliverTc0 k (tc0Of p) s
    | _ => deliverStream port k p s
  else dropPacket s

/-- A flooded TC0 message of a local partition: ABORT, or RESOLVE by its OUTCOME (R239, R306, R315). -/
def routeFlood (port : Nat) (msg : Tc0) (s : State) : State :=
  if msg.mkind = 1 then routeAbort port msg s
  else if msgOutcome msg = 3 then replayArrives port msg s
  else resolveArrives port msg s

/-- Whether a packet is a flooded message, which every member acts on and forwards itself: ABORT or RESOLVE. -/
def isFlood (p : Packet) : Bool :=
  decide (p.pkind = 4) && (decide ((tc0Of p).mkind = 1) || decide ((tc0Of p).mkind = 3))

/-- Whether a packet names this package's own coordinate, and is no flooded message, which goes from neighbour to neighbour. -/
def forSelf (s : State) (p : Packet) : Bool :=
  !(isFlood p) && s.fab.selfIdx.isSome && decide (coordIdx (tableBytes s) p.dst = s.fab.selfIdx)

/-- Where a good packet goes (R233, R239, R243 to R245, R306). One for its own coordinate whose PID is not VALID here is discarded
and counted (R243). -/
def routePacket (port : Nat) (p : Packet) (s : State) : State :=
  if p.pkind = 4 ∧ (tc0Of p).mkind = 6 then transitArrive port p s
  else
    match entryOfPid s p.pid with
    | none => if forSelf s p then dropPacket s else transitPacket port p s
    | some k =>
      if isFlood p then routeFlood port (tc0Of p) s
      else
        match coordIdx (tableBytes s) p.dst with
        | none => dropPacket s
        | some dst =>
          if s.fab.selfIdx = some dst then deliverPacket port k p s else forwardPacket port (getPart s k) dst p s

/-- A packet whose flits are all in the receive buffer of a port. -/
def receivePacket (port : Nat) (p : Packet) (s : State) : State :=
  let pool := if (entryOfPid s p.pid).isSome then p.tc.val else p.tc.val + 4
  let s := modPort port (releaseHeld pool p) s
  if p.reserved || decide (4 < p.pkind.toNat) then dropPacket s
  else if isRepeat s port p then s
  else routePacket port p (modFab (fun f => { f with
    delivered := SMap.upd [] f.delivered (deliveredKey port p) (fun l => (l ++ [p.lseq]).drop (l.length + 1 - 1024)) }) s)

/-- PACKET_RECEIVE (R243). -/
def execPacketReceive (port : Fin 24) (p : Packet) (s : State) : Out :=
  if (getPort s port.val).st = .up then .next (receivePacket port.val p s) else .next s

end Sys2Proof.Machine
end

