-- ==== Sys2Proof/Machine/Vops.lean ====
section
/-! DEFINITION. The vector operations: one meaning for each VOPC of R111, R126, R139 and R145, over the shared row of the
D unit. -/

namespace Sys2Proof.Machine

/-- VOPC 0x00 CVT: s1. -/
def execCvt (i : VopIssue) (s : State) : Out := .next (vopRow i 0x00 s)

/-- VOPC 0x01 ADD: s1 + s2. -/
def execAdd (i : VopIssue) (s : State) : Out := .next (vopRow i 0x01 s)

/-- VOPC 0x02 SUB: s1 − s2. -/
def execSub (i : VopIssue) (s : State) : Out := .next (vopRow i 0x02 s)

/-- VOPC 0x03 MUL: s1 × s2. -/
def execMul (i : VopIssue) (s : State) : Out := .next (vopRow i 0x03 s)

/-- VOPC 0x04 DIV: s1 / s2. -/
def execDiv (i : VopIssue) (s : State) : Out := .next (vopRow i 0x04 s)

/-- VOPC 0x05 MAX: the larger (R108). -/
def execMax (i : VopIssue) (s : State) : Out := .next (vopRow i 0x05 s)

/-- VOPC 0x06 MIN: the smaller (R108). -/
def execMin (i : VopIssue) (s : State) : Out := .next (vopRow i 0x06 s)

/-- VOPC 0x07 ABS: |s1|. -/
def execAbs (i : VopIssue) (s : State) : Out := .next (vopRow i 0x07 s)

/-- VOPC 0x08 NEG: −s1. -/
def execNeg (i : VopIssue) (s : State) : Out := .next (vopRow i 0x08 s)

/-- VOPC 0x09 SQRT: the square root. -/
def execSqrt (i : VopIssue) (s : State) : Out := .next (vopRow i 0x09 s)

/-- VOPC 0x0A RSQRT: 1/√s1. -/
def execRsqrt (i : VopIssue) (s : State) : Out := .next (vopRow i 0x0A s)

/-- VOPC 0x0B RECIP: 1/s1. -/
def execRecip (i : VopIssue) (s : State) : Out := .next (vopRow i 0x0B s)

/-- VOPC 0x0C EXP: e to the s1. -/
def execExp (i : VopIssue) (s : State) : Out := .next (vopRow i 0x0C s)

/-- VOPC 0x0D LOG: the natural logarithm. -/
def execLog (i : VopIssue) (s : State) : Out := .next (vopRow i 0x0D s)

/-- VOPC 0x0E CMPLT: s1 < s2 (R109). -/
def execCmplt (i : VopIssue) (s : State) : Out := .next (vopRow i 0x0E s)

/-- VOPC 0x0F CMPLE: s1 ≤ s2 (R109). -/
def execCmple (i : VopIssue) (s : State) : Out := .next (vopRow i 0x0F s)

/-- VOPC 0x10 CMPEQ: s1 = s2 (R109). -/
def execCmpeq (i : VopIssue) (s : State) : Out := .next (vopRow i 0x10 s)

/-- VOPC 0x11 MULROW: s1 times row 0 of s2. -/
def execMulrow (i : VopIssue) (s : State) : Out := .next (vopRow i 0x11 s)

/-- VOPC 0x12 ADDROW: s1 plus row 0 of s2. -/
def execAddrow (i : VopIssue) (s : State) : Out := .next (vopRow i 0x12 s)

/-- VOPC 0x13 PACK4: E2M1 codes into the paired layout (R113). -/
def execPack4 (i : VopIssue) (s : State) : Out := .next (vopRow i 0x13 s)

/-- VOPC 0x20 RSUMD: down sum (R127). -/
def execRsumd (i : VopIssue) (s : State) : Out := .next (vopRow i 0x20 s)

/-- VOPC 0x21 RSUMA: across sum (R128). -/
def execRsuma (i : VopIssue) (s : State) : Out := .next (vopRow i 0x21 s)

/-- VOPC 0x22 RSSQD: down sum of squares (R127). -/
def execRssqd (i : VopIssue) (s : State) : Out := .next (vopRow i 0x22 s)

/-- VOPC 0x23 RSSQA: across sum of squares (R128). -/
def execRssqa (i : VopIssue) (s : State) : Out := .next (vopRow i 0x23 s)

/-- VOPC 0x24 RMVD: down mean and variance (R129). -/
def execRmvd (i : VopIssue) (s : State) : Out := .next (vopRow i 0x24 s)

/-- VOPC 0x25 RMVA: across mean and variance (R129). -/
def execRmva (i : VopIssue) (s : State) : Out := .next (vopRow i 0x25 s)

/-- VOPC 0x26 RAMAXD: down max |x| (R130). -/
def execRamaxd (i : VopIssue) (s : State) : Out := .next (vopRow i 0x26 s)

/-- VOPC 0x27 RAMAXA: across max |x| (R130). -/
def execRamaxa (i : VopIssue) (s : State) : Out := .next (vopRow i 0x27 s)

/-- VOPC 0x28 TOPK1: the 1 largest values and their positions (R131). -/
def execTopk1 (i : VopIssue) (s : State) : Out := .next (vopRow i 0x28 s)

/-- VOPC 0x29 TOPK2: the 2 largest values and their positions (R131). -/
def execTopk2 (i : VopIssue) (s : State) : Out := .next (vopRow i 0x29 s)

/-- VOPC 0x2A TOPK3: the 3 largest values and their positions (R131). -/
def execTopk3 (i : VopIssue) (s : State) : Out := .next (vopRow i 0x2A s)

/-- VOPC 0x2B TOPK4: the 4 largest values and their positions (R131). -/
def execTopk4 (i : VopIssue) (s : State) : Out := .next (vopRow i 0x2B s)

/-- VOPC 0x2C TOPK5: the 5 largest values and their positions (R131). -/
def execTopk5 (i : VopIssue) (s : State) : Out := .next (vopRow i 0x2C s)

/-- VOPC 0x2D TOPK6: the 6 largest values and their positions (R131). -/
def execTopk6 (i : VopIssue) (s : State) : Out := .next (vopRow i 0x2D s)

/-- VOPC 0x2E TOPK7: the 7 largest values and their positions (R131). -/
def execTopk7 (i : VopIssue) (s : State) : Out := .next (vopRow i 0x2E s)

/-- VOPC 0x2F TOPK8: the 8 largest values and their positions (R131). -/
def execTopk8 (i : VopIssue) (s : State) : Out := .next (vopRow i 0x2F s)

/-- VOPC 0x30 FCHECK: counts non-finite elements (R145). -/
def execFcheck (i : VopIssue) (s : State) : Out := .next (vopRow i 0x30 s)

/-- VOPC 0x31 STCLOSE: closes the cell's partial of a slot (R139). -/
def execStclose (i : VopIssue) (s : State) : Out := .next (vopRow i 0x31 s)

end Sys2Proof.Machine
end

