-- ==== Sys2Proof/Machine/Dispatch.lean ====
section
/-! DEFINITION. The one place that sends a command to its meaning. -/

namespace Sys2Proof.Machine

/-- The effect of one command on everything but the queue. -/
def exec (i : Instr) (s : State) : Host.Outcome State Fault Refusal :=
  match i with
  | .nop op => Sys2Proof.Machine.execNop op s
  | .prog op => Sys2Proof.Machine.execProg op s
  | .endBody op => Sys2Proof.Machine.execEndBody op s
  | .seta op => Sys2Proof.Machine.execSeta op s
  | .adda op => Sys2Proof.Machine.execAdda op s
  | .loop op => Sys2Proof.Machine.execLoop op s
  | .endl op => Sys2Proof.Machine.execEndl op s
  | .waits op => Sys2Proof.Machine.execWaits op s
  | .mm op err gap => Sys2Proof.Machine.execMm op err gap s
  | .drain op err => Sys2Proof.Machine.execDrain op err s
  | .sin op => Sys2Proof.Machine.execSin op s
  | .sout op err => Sys2Proof.Machine.execSout op err s
  | .cvt op => Sys2Proof.Machine.execCvt op s
  | .add op => Sys2Proof.Machine.execAdd op s
  | .sub op => Sys2Proof.Machine.execSub op s
  | .mul op => Sys2Proof.Machine.execMul op s
  | .div op => Sys2Proof.Machine.execDiv op s
  | .max op => Sys2Proof.Machine.execMax op s
  | .min op => Sys2Proof.Machine.execMin op s
  | .abs op => Sys2Proof.Machine.execAbs op s
  | .neg op => Sys2Proof.Machine.execNeg op s
  | .sqrt op => Sys2Proof.Machine.execSqrt op s
  | .rsqrt op => Sys2Proof.Machine.execRsqrt op s
  | .recip op => Sys2Proof.Machine.execRecip op s
  | .exp op => Sys2Proof.Machine.execExp op s
  | .log op => Sys2Proof.Machine.execLog op s
  | .cmplt op => Sys2Proof.Machine.execCmplt op s
  | .cmple op => Sys2Proof.Machine.execCmple op s
  | .cmpeq op => Sys2Proof.Machine.execCmpeq op s
  | .mulrow op => Sys2Proof.Machine.execMulrow op s
  | .addrow op => Sys2Proof.Machine.execAddrow op s
  | .pack4 op => Sys2Proof.Machine.execPack4 op s
  | .rsumd op => Sys2Proof.Machine.execRsumd op s
  | .rsuma op => Sys2Proof.Machine.execRsuma op s
  | .rssqd op => Sys2Proof.Machine.execRssqd op s
  | .rssqa op => Sys2Proof.Machine.execRssqa op s
  | .rmvd op => Sys2Proof.Machine.execRmvd op s
  | .rmva op => Sys2Proof.Machine.execRmva op s
  | .ramaxd op => Sys2Proof.Machine.execRamaxd op s
  | .ramaxa op => Sys2Proof.Machine.execRamaxa op s
  | .topk1 op => Sys2Proof.Machine.execTopk1 op s
  | .topk2 op => Sys2Proof.Machine.execTopk2 op s
  | .topk3 op => Sys2Proof.Machine.execTopk3 op s
  | .topk4 op => Sys2Proof.Machine.execTopk4 op s
  | .topk5 op => Sys2Proof.Machine.execTopk5 op s
  | .topk6 op => Sys2Proof.Machine.execTopk6 op s
  | .topk7 op => Sys2Proof.Machine.execTopk7 op s
  | .topk8 op => Sys2Proof.Machine.execTopk8 op s
  | .fcheck op => Sys2Proof.Machine.execFcheck op s
  | .stclose op => Sys2Proof.Machine.execStclose op s
  | .mmComplete c stalls => Sys2Proof.Machine.execMmComplete c stalls s
  | .drainComplete c => Sys2Proof.Machine.execDrainComplete c s
  | .vopComplete c => Sys2Proof.Machine.execVopComplete c s
  | .sinComplete c => Sys2Proof.Machine.execSinComplete c s
  | .soutComplete c => Sys2Proof.Machine.execSoutComplete c s
  | .sorgSignalArrive c => Sys2Proof.Machine.execSorgSignalArrive c s
  | .drainBankFullStart c => Sys2Proof.Machine.execDrainBankFullStart c s
  | .knPartialLeft r => Sys2Proof.Machine.execKnPartialLeft r s
  | .bodyStart c err => Sys2Proof.Machine.execBodyStart c err s
  | .epochStall c => Sys2Proof.Machine.execEpochStall c s
  | .streamUnitArrive c sctx unit => Sys2Proof.Machine.execStreamUnitArrive c sctx unit s
  | .kindleStart c => Sys2Proof.Machine.execKindleStart c s
  | .kindleGapExpiry c => Sys2Proof.Machine.execKindleGapExpiry c s
  | .kindleRampStep c => Sys2Proof.Machine.execKindleRampStep c s
  | .doorbellTail f page v => Sys2Proof.Machine.execDoorbellTail f page v s
  | .doorbellChead f page v => Sys2Proof.Machine.execDoorbellChead f page v s
  | .doorbellEhead f page v => Sys2Proof.Machine.execDoorbellEhead f page v s
  | .descriptorFetch => Sys2Proof.Machine.execDescriptorFetch s
  | .descriptorStart ctx => Sys2Proof.Machine.execDescriptorStart ctx s
  | .nopDescriptor ctx => Sys2Proof.Machine.execNopDescriptor ctx s
  | .copy ctx => Sys2Proof.Machine.execCopy ctx s
  | .stream ctx => Sys2Proof.Machine.execStream ctx s
  | .streamReduce ctx => Sys2Proof.Machine.execStreamReduce ctx s
  | .tile ctx => Sys2Proof.Machine.execTile ctx s
  | .programBody ctx => Sys2Proof.Machine.execProgramBody ctx s
  | .cellConfig ctx => Sys2Proof.Machine.execCellConfig ctx s
  | .modes ctx => Sys2Proof.Machine.execModes ctx s
  | .discard ctx => Sys2Proof.Machine.execDiscard ctx s
  | .fence ctx => Sys2Proof.Machine.execFence ctx s
  | .stepFence ctx => Sys2Proof.Machine.execStepFence ctx s
  | .syncSetValue ctx => Sys2Proof.Machine.execSyncSetValue ctx s
  | .syncAdd ctx => Sys2Proof.Machine.execSyncAdd ctx s
  | .syncClearErr ctx => Sys2Proof.Machine.execSyncClearErr ctx s
  | .syncRemoteAdd ctx => Sys2Proof.Machine.execSyncRemoteAdd ctx s
  | .syncObjectUpdate obj => Sys2Proof.Machine.execSyncObjectUpdate obj s
  | .syncTimeout ctx => Sys2Proof.Machine.execSyncTimeout ctx s
  | .stepOpen ctx => Sys2Proof.Machine.execStepOpen ctx s
  | .stepDepthTimeout ctx => Sys2Proof.Machine.execStepDepthTimeout ctx s
  | .stepVote ctx => Sys2Proof.Machine.execStepVote ctx s
  | .mirrorMap ctx => Sys2Proof.Machine.execMirrorMap ctx s
  | .mirrorUnmap ctx => Sys2Proof.Machine.execMirrorUnmap ctx s
  | .mirrorFill ctx => Sys2Proof.Machine.execMirrorFill ctx s
  | .mirrorAudit ctx => Sys2Proof.Machine.execMirrorAudit ctx s
  | .bankStart ctx peer => Sys2Proof.Machine.execBankStart ctx peer s
  | .bankCancel ctx => Sys2Proof.Machine.execBankCancel ctx s
  | .snap ctx => Sys2Proof.Machine.execSnap ctx s
  | .restore ctx peer => Sys2Proof.Machine.execRestore ctx peer s
  | .restoreComplete ctx peer => Sys2Proof.Machine.execRestoreComplete ctx peer s
  | .variant ctx => Sys2Proof.Machine.execVariant ctx s
  | .teardown ctx => Sys2Proof.Machine.execTeardown ctx s
  | .ctxCreate f ctx read => Sys2Proof.Machine.execCtxCreate f ctx read s
  | .ctxTeardown f ctx => Sys2Proof.Machine.execCtxTeardown f ctx s
  | .ctxQuery f ctx => Sys2Proof.Machine.execCtxQuery f ctx s
  | .hifFuncCfgWrite f v => Sys2Proof.Machine.execHifFuncCfgWrite f v s
  | .teardownGenerationChange ctx => Sys2Proof.Machine.execTeardownGenerationChange ctx s
  | .teardownFinish ctx => Sys2Proof.Machine.execTeardownFinish ctx s
  | .firmwareScrub => Sys2Proof.Machine.execFirmwareScrub s
  | .functionLevelReset f port => Sys2Proof.Machine.execFunctionLevelReset f port s
  | .perstAssert port => Sys2Proof.Machine.execPerstAssert port s
  | .hostLinkDown port => Sys2Proof.Machine.execHostLinkDown port s
  | .engineTurn posn engine turn => Sys2Proof.Machine.execEngineTurn posn engine turn s
  | .chunkReturn posn sctx errs data => Sys2Proof.Machine.execChunkReturn posn sctx errs data s
  | .patrolRead posn pc slot errs => Sys2Proof.Machine.execPatrolRead posn pc slot errs s
  | .stripeRemap posn stripe why => Sys2Proof.Machine.execStripeRemap posn stripe why s
  | .channelRetrain posn ch => Sys2Proof.Machine.execChannelRetrain posn ch s
  | .retrainComplete posn ch => Sys2Proof.Machine.execRetrainComplete posn ch s
  | .mapout posn m => Sys2Proof.Machine.execMapout posn m s
  | .statPartialArrive posn => Sys2Proof.Machine.execStatPartialArrive posn s
  | .statRingTailWrite posn v => Sys2Proof.Machine.execStatRingTailWrite posn v s
  | .edgeFrameReceive e module fr => Sys2Proof.Machine.execEdgeFrameReceive e module fr s
  | .edgeNakReceive e module ack => Sys2Proof.Machine.execEdgeNakReceive e module ack s
  | .edgeSbinitTimeout e => Sys2Proof.Machine.execEdgeSbinitTimeout e s
  | .edgeModuleTrainingDone e near far => Sys2Proof.Machine.execEdgeModuleTrainingDone e near far s
  | .edgeLinkinitDone e => Sys2Proof.Machine.execEdgeLinkinitDone e s
  | .edgeRetrainTrigger e => Sys2Proof.Machine.execEdgeRetrainTrigger e s
  | .edgeQuarantine e => Sys2Proof.Machine.execEdgeQuarantine e s
  | .quarantineTimeout e => Sys2Proof.Machine.execQuarantineTimeout e s
  | .edgeSidebandPoll e mask ctag => Sys2Proof.Machine.execEdgeSidebandPoll e mask ctag s
  | .guestFirewallCheck g inbound unit addr mid ctx => Sys2Proof.Machine.execGuestFirewallCheck g inbound unit addr mid ctx s
  | .flitReceive port a => Sys2Proof.Machine.execFlitReceive port a s
  | .flitNakReceive port ack => Sys2Proof.Machine.execFlitNakReceive port ack s
  | .laneDegrade port => Sys2Proof.Machine.execLaneDegrade port s
  | .laneTrainingDone port near far => Sys2Proof.Machine.execLaneTrainingDone port near far s
  | .fabPortRetrain m => Sys2Proof.Machine.execFabPortRetrain m s
  | .packetReceive port p => Sys2Proof.Machine.execPacketReceive port p s
  | .linkctlIdent port serial farPort digest => Sys2Proof.Machine.execLinkctlIdent port serial farPort digest s
  | .identTimeout port => Sys2Proof.Machine.execIdentTimeout port s
  | .pidBitmap port pids => Sys2Proof.Machine.execPidBitmap port pids s
  | .timeExchange stamps => Sys2Proof.Machine.execTimeExchange stamps s
  | .transitErrReceive port pid => Sys2Proof.Machine.execTransitErrReceive port pid s
  | .syncMessageReceive pid obj value => Sys2Proof.Machine.execSyncMessageReceive pid obj value s
  | .reductionOperandArrive redid shard lo hi offset data => Sys2Proof.Machine.execReductionOperandArrive redid shard lo hi offset data s
  | .partitionValidSet m => Sys2Proof.Machine.execPartitionValidSet m s
  | .partitionValidClear m => Sys2Proof.Machine.execPartitionValidClear m s
  | .rankMapReload m v => Sys2Proof.Machine.execRankMapReload m v s
  | .abortReceive port msg => Sys2Proof.Machine.execAbortReceive port msg s
  | .stepCtrlAbort => Sys2Proof.Machine.execStepCtrlAbort s
  | .castResolveTimeout => Sys2Proof.Machine.execCastResolveTimeout s
  | .voteReceive child msg => Sys2Proof.Machine.execVoteReceive child msg s
  | .voteDrained rollcall msg => Sys2Proof.Machine.execVoteDrained rollcall msg s
  | .resolve port msg => Sys2Proof.Machine.execResolve port msg s
  | .resolveReplay port msg => Sys2Proof.Machine.execResolveReplay port msg s
  | .voteLeaseExpiry => Sys2Proof.Machine.execVoteLeaseExpiry s
  | .ownerRoleDone misses => Sys2Proof.Machine.execOwnerRoleDone misses s
  | .partnerRoleDone record block misses => Sys2Proof.Machine.execPartnerRoleDone record block misses s
  | .abortDrainDone => Sys2Proof.Machine.execAbortDrainDone s
  | .roundLeaseExpiry => Sys2Proof.Machine.execRoundLeaseExpiry s
  | .rollCallResend => Sys2Proof.Machine.execRollCallResend s
  | .rootFallback => Sys2Proof.Machine.execRootFallback s
  | .roundHaltTimeout => Sys2Proof.Machine.execRoundHaltTimeout s
  | .promotionPullDone pulled maps lists embers stepNumber cursors next => Sys2Proof.Machine.execPromotionPullDone pulled maps lists embers stepNumber cursors next s
  | .pairTimeout => Sys2Proof.Machine.execPairTimeout s
  | .pair b => Sys2Proof.Machine.execPair b s
  | .pairOk b => Sys2Proof.Machine.execPairOk b s
  | .pairRefused b => Sys2Proof.Machine.execPairRefused b s
  | .map b => Sys2Proof.Machine.execMap b s
  | .mapOk b => Sys2Proof.Machine.execMapOk b s
  | .mapRefused b => Sys2Proof.Machine.execMapRefused b s
  | .unmap b => Sys2Proof.Machine.execUnmap b s
  | .ownerDone b => Sys2Proof.Machine.execOwnerDone b s
  | .mirrorDone b => Sys2Proof.Machine.execMirrorDone b s
  | .auditStart b => Sys2Proof.Machine.execAuditStart b s
  | .auditLate b => Sys2Proof.Machine.execAuditLate b s
  | .auditDigest b => Sys2Proof.Machine.execAuditDigest b s
  | .shadowCfgWrite v => Sys2Proof.Machine.execShadowCfgWrite v s
  | .shadowStateLoaded state stepNumber cursor => Sys2Proof.Machine.execShadowStateLoaded state stepNumber cursor s
  | .shadowRecordReceive step outcome mask digests => Sys2Proof.Machine.execShadowRecordReceive step outcome mask digests s
  | .shadowTimeout => Sys2Proof.Machine.execShadowTimeout s
  | .snapshotComplete ctx e => Sys2Proof.Machine.execSnapshotComplete ctx e s
  | .bankSign e => Sys2Proof.Machine.execBankSign e s
  | .bankDone => Sys2Proof.Machine.execBankDone s
  | .watchOccurrence src stamp => Sys2Proof.Machine.execWatchOccurrence src stamp s
  | .watchWindowClose => Sys2Proof.Machine.execWatchWindowClose s
  | .mailboxSend ch mid v => Sys2Proof.Machine.execMailboxSend ch mid v s
  | .mailboxAck ch mid v => Sys2Proof.Machine.execMailboxAck ch mid v s
  | .mailboxStatusClear ch mid v => Sys2Proof.Machine.execMailboxStatusClear ch mid v s
  | .mailboxTimeout ch => Sys2Proof.Machine.execMailboxTimeout ch s
  | .ping ch => Sys2Proof.Machine.execPing ch s
  | .info ch => Sys2Proof.Machine.execInfo ch s
  | .attest ch => Sys2Proof.Machine.execAttest ch s
  | .idChain ch => Sys2Proof.Machine.execIdChain ch s
  | .readCapture ch => Sys2Proof.Machine.execReadCapture ch s
  | .scrub ch target => Sys2Proof.Machine.execScrub ch target s
  | .installTableWrite ch => Sys2Proof.Machine.execInstallTableWrite ch s
  | .fuseRepair ch r readback => Sys2Proof.Machine.execFuseRepair ch r readback s
  | .rotateId ch => Sys2Proof.Machine.execRotateId ch s
  | .debugUnlock ch => Sys2Proof.Machine.execDebugUnlock ch s
  | .mbxRebind ch target v => Sys2Proof.Machine.execMbxRebind ch target v s
  | .mbxRebindGo v => Sys2Proof.Machine.execMbxRebindGo v s
  | .sealClear ch => Sys2Proof.Machine.execSealClear ch s
  | .firmwareCommandEnd ticket => Sys2Proof.Machine.execFirmwareCommandEnd ticket s
  | .presenceAssert => Sys2Proof.Machine.execPresenceAssert s
  | .presenceEnd => Sys2Proof.Machine.execPresenceEnd s
  | .sealOpened => Sys2Proof.Machine.execSealOpened s
  | .sealToggle returns => Sys2Proof.Machine.execSealToggle returns s
  | .fwLockExpired lock core => Sys2Proof.Machine.execFwLockExpired lock core s
  | .heartbeat => Sys2Proof.Machine.execHeartbeat s
  | .ptbSample => Sys2Proof.Machine.execPtbSample s
  | .eventRecordWrite => Sys2Proof.Machine.execEventRecordWrite s
  | .evtRingEnable v => Sys2Proof.Machine.execEvtRingEnable v s
  | .evtRingTailWrite v => Sys2Proof.Machine.execEvtRingTailWrite v s
  | .managementBoot => Sys2Proof.Machine.execManagementBoot s
  | .dieInventory => Sys2Proof.Machine.execDieInventory s
  | .hbmTraining failed => Sys2Proof.Machine.execHbmTraining failed s
  | .fabricDiscovery => Sys2Proof.Machine.execFabricDiscovery s
  | .hostLinkTraining port width rate => Sys2Proof.Machine.execHostLinkTraining port width rate s
  | .rasResetEngine m v captured => Sys2Proof.Machine.execRasResetEngine m v captured s
  | .rasResetPartition m v captured => Sys2Proof.Machine.execRasResetPartition m v captured s
  | .rasResetChipRequest m v => Sys2Proof.Machine.execRasResetChipRequest m v s
  | .engineWatchdog posn engine stateError captured => Sys2Proof.Machine.execEngineWatchdog posn engine stateError captured s
  | .captureLeaseExpiry => Sys2Proof.Machine.execCaptureLeaseExpiry s
  | .partitionResetDone posn => Sys2Proof.Machine.execPartitionResetDone posn s
  | .partitionResetTimeout posn => Sys2Proof.Machine.execPartitionResetTimeout posn s
  | .pkgResetAssert captured => Sys2Proof.Machine.execPkgResetAssert captured s
  | .pkgResetDeassert => Sys2Proof.Machine.execPkgResetDeassert s
  | .pwrGoodRise straps => Sys2Proof.Machine.execPwrGoodRise straps s
  | .pwrGoodFall => Sys2Proof.Machine.execPwrGoodFall s
  | .thermtrip => Sys2Proof.Machine.execThermtrip s
  | .pllLockLoss p => Sys2Proof.Machine.execPllLockLoss p s
  | .dampControl avgW => Sys2Proof.Machine.execDampControl avgW s
  | .telemetryUpdate tdie tposn thub pkgW => Sys2Proof.Machine.execTelemetryUpdate tdie tposn thub pkgW s
  | .i3cPrivateWrite offset data => Sys2Proof.Machine.execI3cPrivateWrite offset data s
  | .i3cDynamicAddress addr => Sys2Proof.Machine.execI3cDynamicAddress addr s
  | .flashRead => Sys2Proof.Machine.execFlashRead s
  | .flashProgram => Sys2Proof.Machine.execFlashProgram s
  | .flashErase => Sys2Proof.Machine.execFlashErase s
  | .flashOpDone => Sys2Proof.Machine.execFlashOpDone s
  | .extest => Sys2Proof.Machine.execExtest s
  | .samplePreload => Sys2Proof.Machine.execSamplePreload s
  | .idcode => Sys2Proof.Machine.execIdcode s
  | .clamp => Sys2Proof.Machine.execClamp s
  | .highz => Sys2Proof.Machine.execHighz s
  | .extestPulse => Sys2Proof.Machine.execExtestPulse s
  | .extestTrain => Sys2Proof.Machine.execExtestTrain s
  | .posnSel => Sys2Proof.Machine.execPosnSel s
  | .wirAccess => Sys2Proof.Machine.execWirAccess s
  | .dwrAccess => Sys2Proof.Machine.execDwrAccess s
  | .mbist => Sys2Proof.Machine.execMbist s
  | .laneTest => Sys2Proof.Machine.execLaneTest s
  | .fuseAccess => Sys2Proof.Machine.execFuseAccess s
  | .bypass => Sys2Proof.Machine.execBypass s
  | .debugWindowWrite m code word v => Sys2Proof.Machine.execDebugWindowWrite m code word v s
  | .registerWrite m offset size v => Sys2Proof.Machine.execRegisterWrite m offset size v s
  | .edgeSidebandUp e => Sys2Proof.Machine.execEdgeSidebandUp e s
  | .linkinitModuleFail e module => Sys2Proof.Machine.execLinkinitModuleFail e module s
  | .hostDmaError ctx => Sys2Proof.Machine.execHostDmaError ctx s
  | .contextResetTimeout ctx => Sys2Proof.Machine.execContextResetTimeout ctx s
  | .engineResetTimeout posn engine => Sys2Proof.Machine.execEngineResetTimeout posn engine s
  | .engineResetDone posn engine => Sys2Proof.Machine.execEngineResetDone posn engine s
  | .bankSignTimeout => Sys2Proof.Machine.execBankSignTimeout s
  | .vfEnable port => Sys2Proof.Machine.execVfEnable port s
  | .reservedOpcode op => Sys2Proof.Machine.execReservedOpcode op s

end Sys2Proof.Machine
end

