-- ==== Sys2Proof/Machine/Tick.lean ====
section
/-! DEFINITION. What goes on while no command waits: the time base, the watch, a guest's transfers, and the flits and frames of the
links (log entry 2). -/

namespace Sys2Proof.Machine

/-- What the units of the part do by themselves, once each: the watch takes the occurrences created, a guest's transfers arrive, each
port sends at most one flit and each edge at most one frame (R204, R218, R226, R349). -/
def unitsGoOn (s : State) : State :=
  let s := deliverGuest 1 (deliverGuest 0 (deliverWatch s))
  forAll (List.range 14) edgeGoesOn (forAll (List.range 24) portTick s)

/-- A step on an empty queue: the time base counts on, and the units go on (log entry 2). -/
def tick (s : State) : State := unitsGoOn (idleTick s)

end Sys2Proof.Machine
end

