-- ==== Sys2Proof/Safety.lean ====
section
/-! DEFINITION. What counts as a sound state and a safe step, in the terms the statements use: the canonical form of memory, the
identity that the factory has fused, and what a command may not touch. -/

namespace Sys2Proof.Machine

/-- The canonical form of a memory: addresses strictly rising, no entry equal to what an unlisted address reads as. -/
def Memory.wf (m : Mem) : Bool := SMap.wf 0 m

/-- Both memories of a state are in canonical form. -/
def State.canonical (s : State) : Bool := Memory.wf s.mem && Memory.wf s.host

/-- What the factory fuses into a package for good: everything in the fuses but the repairs and the identity generation that
the field adds (R2, R212, R375, R432, R443). -/
def factoryFuses (f : Fuses) : Fuses :=
  { f with idGen := 0, macMap := [], macMapFused := [], wordsUsed := [], laneRepairs := [] }

/-- What no command changes: the queue and the factory's fuses. -/
def State.steady (s : State) : List Instr × Fuses := (s.pending, factoryFuses s.fuses)

/-- What every command keeps of the state before it: the queue and the factory's fuses as they are, an identity generation that
never falls, and the canonical form of memory. -/
def Kept (s t : State) : Prop :=
  t.steady = s.steady ∧ s.fuses.idGen.toNat ≤ t.fuses.idGen.toNat ∧ (s.canonical = true → t.canonical = true)

/-- A step is safe when it neither faults nor refuses. -/
def safeStep (s : State) : Prop := ∃ t, step s = .next t

/-! ### What goes on by itself (log entry 2) -/

/-- A port that has nothing to send: it is not UP, or no pool holds a flit and no freed count or ACK waits (R226, R227). -/
def quietPort (q : FabPort) : Prop := q.st ≠ .up ∨ ((∀ k < 8, poolWaits q k = false) ∧ owesFlit q = false)

/-- An edge that has nothing to do: it is not about to enter MBINIT, and no frame waits (R204, R209, R210). -/
def quietEdge (x : Edge) : Prop := x.st ≠ .retrain ∧ x.st ≠ .quarantine ∧ edgeOwes x = false

/-- A state in which no unit of the part goes on by itself: no occurrence is on its way to the watch, no transfer of a guest is
under way, and the ports and edges have nothing to send. -/
def quiet (s : State) : Prop :=
  s.bank.arrivals = [] ∧ (∀ g < 2, (getGfw s g).passed = []) ∧ (∀ p < 24, quietPort (getPort s p)) ∧
    ∀ e < 14, quietEdge (getEdge s e)

/-! ### How an instruction leaves its cell (R74 to R76) -/

/-- A cell's body `r` executes the word `w` next: no reserved bit of it is set, and its WEN condition holds (R68, R73, R74). -/
def issues (s : State) (c : CellId) (r : Run) (w : BitVec 64) : Prop :=
  (getCell s (cellNum c)).run = some r ∧ runWord s (cellNum c) r = w ∧ reservedBit w = false ∧
    waitReady s (cellNum c) w = true ∧ s.pwr.arithStopped = false

/-- A cell's semaphores once an instruction has taken the wait of its WEN field (R74). -/
def semsTaken (s : State) (c : CellId) (w : BitVec 64) : SMap (BitVec 8) :=
  let m := (getCell s (cellNum c)).sems
  if bit w 57 then SMap.upd 0 m (fld w 56 54) (fun v => v - 1) else m

/-- Whether an instruction's completion signal travels to the gang's origin (R76). -/
def signalsOrigin (s : State) (c : CellId) (w : BitVec 64) : Bool :=
  bit w 53 && bit w 52 && decide (1 < (gangCells s (cellNum c)).length)

/-- A cell's semaphores once an instruction has signalled its completion there (R76). -/
def semsSignalled (s : State) (c : CellId) (w : BitVec 64) (m : SMap (BitVec 8)) : SMap (BitVec 8) :=
  if bit w 53 && !(signalsOrigin s c w) then SMap.upd 0 m (fld w 51 49) (fun v => v + 1) else m

/-- An instruction's signal does not raise a semaphore of its cell above 255 (R76). -/
def signalFits (s : State) (c : CellId) (w : BitVec 64) (m : SMap (BitVec 8)) : Prop :=
  bit w 53 = true → signalsOrigin s c w = false → SMap.get 0 m (fld w 51 49) ≠ 255

/-- The state after a sequencer instruction: the body and the semaphores of its cell, and a SORG signal on its way. -/
def seqDone (s : State) (c : CellId) (w : BitVec 64) (r : Option Run) (m : SMap (BitVec 8)) : State :=
  { s with
    cells := SMap.set Cell.init s.cells (cellNum c) { getCell s (cellNum c) with run := r, sems := semsSignalled s c w m }
    sorg := if signalsOrigin s c w then s.sorg ++ [(gangOrigin s (cellNum c), fld w 51 49)] else s.sorg }

/-- The state after the word `w` has issued into a unit: the body has moved on, the wait of WEN is taken, and the cell changes as
`f` says (R74, R75). -/
def issued (s : State) (c : CellId) (r : Run) (w : BitVec 64) (f : Cell → Cell) : State :=
  { s with
    cells := SMap.set Cell.init s.cells (cellNum c)
      (f { getCell s (cellNum c) with run := some { r with pc := r.pc + 1 }, sems := semsTaken s c w }) }

/-- The sequencer rows with an opcode of their own, each with it (R72). -/
def opRows (c : CellId) (e er : ReadErr) (gap : Nat) : List (Instr × Nat) :=
  [(.nop ⟨c, e⟩, 0x00), (.prog ⟨c, e⟩, 0x01), (.endBody ⟨c, e⟩, 0x02), (.seta ⟨c, e⟩, 0x04), (.adda ⟨c, e⟩, 0x05), (.loop ⟨c, e⟩, 0x06),
    (.endl ⟨c, e⟩, 0x07), (.waits ⟨c, e⟩, 0x08), (.mm ⟨c, e⟩ er gap, 0x10), (.drain ⟨c, e⟩ er, 0x18), (.sin ⟨c, e⟩, 0x20), (.sout ⟨c, e⟩ er, 0x21)]

/-- The vector operations, each with its VOPC (R111, R126, R139, R145). -/
def vopRows (c : CellId) (e er : ReadErr) : List (Instr × Nat) :=
  [(.cvt ⟨c, e, er⟩, 0x00), (.add ⟨c, e, er⟩, 0x01), (.sub ⟨c, e, er⟩, 0x02), (.mul ⟨c, e, er⟩, 0x03), (.div ⟨c, e, er⟩, 0x04),
    (.max ⟨c, e, er⟩, 0x05), (.min ⟨c, e, er⟩, 0x06), (.abs ⟨c, e, er⟩, 0x07), (.neg ⟨c, e, er⟩, 0x08), (.sqrt ⟨c, e, er⟩, 0x09),
    (.rsqrt ⟨c, e, er⟩, 0x0A), (.recip ⟨c, e, er⟩, 0x0B), (.exp ⟨c, e, er⟩, 0x0C), (.log ⟨c, e, er⟩, 0x0D), (.cmplt ⟨c, e, er⟩, 0x0E),
    (.cmple ⟨c, e, er⟩, 0x0F), (.cmpeq ⟨c, e, er⟩, 0x10), (.mulrow ⟨c, e, er⟩, 0x11), (.addrow ⟨c, e, er⟩, 0x12),
    (.pack4 ⟨c, e, er⟩, 0x13), (.rsumd ⟨c, e, er⟩, 0x20), (.rsuma ⟨c, e, er⟩, 0x21), (.rssqd ⟨c, e, er⟩, 0x22), (.rssqa ⟨c, e, er⟩, 0x23),
    (.rmvd ⟨c, e, er⟩, 0x24), (.rmva ⟨c, e, er⟩, 0x25), (.ramaxd ⟨c, e, er⟩, 0x26), (.ramaxa ⟨c, e, er⟩, 0x27), (.topk1 ⟨c, e, er⟩, 0x28),
    (.topk2 ⟨c, e, er⟩, 0x29), (.topk3 ⟨c, e, er⟩, 0x2A), (.topk4 ⟨c, e, er⟩, 0x2B), (.topk5 ⟨c, e, er⟩, 0x2C), (.topk6 ⟨c, e, er⟩, 0x2D),
    (.topk7 ⟨c, e, er⟩, 0x2E), (.topk8 ⟨c, e, er⟩, 0x2F), (.fcheck ⟨c, e, er⟩, 0x30), (.stclose ⟨c, e, er⟩, 0x31)]

/-- The state once an instruction's word has been fetched: its corrected errors are counted (R66, R79). -/
def fetched (s : State) (c : CellId) (e : ReadErr) : State := countCorrectedCell (cellNum c) e.corrected s

/-- A unit operation that an idle unit has taken and started: its address registers are those read at issue (R75). -/
def startedOp (r : Run) (w : BitVec 64) (err : ReadErr) (left : Nat) : UnitOp :=
  { newOp r w [] err 0 with started := true, left := left }

/-- A cell's partials after an instruction whose elements the statistics unit sees, when its slot is enabled (R137, R405). -/
def partialsSeen (s : State) (c : CellId) (w : BitVec 64) (f : Fmt) (seen : List Seen) : SMap Partial :=
  let k := getCell s (cellNum c)
  if bit w 21 && s.pwr.modes.stats then
    SMap.upd Partial.init k.partials (fld w 20 9)
      (fun p => observeAll (SMap.get slotCfgInit (getPos s c.posn.val).slotCfg (fld w 20 9)) f (cellNum c) p seen)
  else k.partials

/-- The state after a VOP that an idle D unit starts at once: the bytes at its destination, the partial of its slot, the operation in
the unit, and what its reads of the scratchpad reported (R66). -/
def vopStarted (s : State) (c : CellId) (r : Run) (w : BitVec 64) (err : ReadErr) (bytes : List Byte) (f : Fmt)
    (seen : List Seen) : State :=
  storageError (cellNum c) err
    { issued s c r w (fun k => { k with unitD := [startedOp r w err 0], partials := partialsSeen s c w f seen }) with
      mem := spWrite s.mem (spBase (cellNum c)) (areg r (fld w 40 37)).toNat bytes }

/-- A format field of a word, FP32 where the code is reserved (the checks of R79 have refused those). -/
def fmtAt (w : BitVec 64) (hi lo : Nat) : Fmt := (wFmt w hi lo).getD .fp32

/-- The source rows of a VOP whose offset is in the register that bits [hi:lo] name (R73, R111). -/
def vopSource (s : State) (c : CellId) (r : Run) (w : BitVec 64) (hi lo : Nat) : List Row :=
  areaF32 s.mem (spBase (cellNum c)) (areg r (fld w hi lo)).toNat (fmtAt w 30 27) (fld w 8 0 + 1)

/-- A VOP that may issue into an idle D unit: its code, its formats and the room (R72, R74, R79). -/
def vopIssues (s : State) (c : CellId) (r : Run) (w : BitVec 64) (vopc : Nat) : Prop :=
  issues s c r w ∧ r.pc + 1 < r.len ∧ wOp w = 0x19 ∧ wVopc w = vopc ∧ vopBad w = false ∧
    (getCell s (cellNum c)).unitD = []

end Sys2Proof.Machine
end

