-- ==== Sys2Proof/Certificates/Slice0/Obligations.lean ====
section
/-! DEFINITION. The statements about the model: what a step does, what each family of commands changes and leaves, and the
invariants that every step keeps. Each is a proposition over every state and operand that its premises admit. -/

open Sys2Proof Sys2Proof.Machine

/-! ### The queue, reset and the invariants -/

/-- A step carries out the command at the front of the queue, with the queue's rest. -/
def Obligations.StepRunsFront : Prop :=
  ∀ (c : Instr) (rest : List Instr) (s : State),
    step { s with pending := c :: rest } = exec c { s with pending := rest }

/-- On an empty queue of a part in which no unit has anything to do, a step counts the time base on and changes nothing else: by
one nanosecond, and by none or two where what RATE has gathered makes up one (R246). That a step on an empty queue is a tick is
the model's choice (log entry 2). -/
def Obligations.IdleStepTicks : Prop :=
  ∀ s : State, s.pending = [] →
    let f := s.fab.ptbFrac + s.fab.ptbRate.toInt
    let at_ := fun (p : BitVec 64) (k : Int) => { s with
      mgmt := { s.mgmt with ptb := p }, fab := { s.fab with ptbFrac := k } }
    (quiet s → -100000000 < f → f < 100000000 → step s = .next (at_ (s.mgmt.ptb + 1) f)) ∧
    (quiet s → 100000000 ≤ f → step s = .next (at_ (s.mgmt.ptb + 2) (f - 100000000))) ∧
    (quiet s → f ≤ -100000000 → step s = .next (at_ s.mgmt.ptb (f + 100000000)))

/-- The reset values that the spec states, read at State.reset: R291 and R292 (the host interface), R321 (the step engine), R347
(resets and spares), R368 (banking), R396 (the management complex), R417 (power and tray), R222 (edges), R252 (ports), R199 and
R153 (memory and statistics). Choices of the model that it rests on: log entries 5 and 7. -/
def Obligations.ResetValues : Prop :=
  State.reset.pending = [] ∧
    getCell State.reset 0 = Cell.init ∧ (getCell State.reset 0).bank0.st = .empty ∧
    (getPos State.reset 3).st = .absent ∧ (getPos State.reset 3).ringCtrl = 6 ∧
    State.reset.memRegs.rasCfg = 0x18080040 ∧ State.reset.memRegs.ufw = 0x000003E80001863C ∧
    SMap.get 0 State.reset.hif.funcCfg 0 = 0x1000000001000000 ∧ SMap.get 0 State.reset.hif.funcCfg 5 = 0 ∧
    State.reset.hif.syncWait = 0x2710 ∧ (getCtx State.reset 7).st = .free ∧
    State.reset.pkg.edgeCfg = 0x100 ∧ (getPort State.reset 9).st = .down ∧ (getPort State.reset 9).cfg = 0x10 ∧
    State.reset.step.cfg = 0x000407D0 ∧ State.reset.step.epochWait = 0x2710 ∧ State.reset.step.next = 0 ∧
    State.reset.step.mirror = .unpaired ∧
    State.reset.ras.wdog = 0x1F4 ∧ State.reset.ras.spareCfg = 0x07D00014 ∧ State.reset.ras.shadowCfg = 0x00640000 ∧
    State.reset.bank.watchCfg = 0x00000000002103E8 ∧ State.reset.bank.thr = 0x0010000004010100 ∧
    State.reset.mgmt.evtCtrl = 6 ∧
    State.reset.pwr.cap = 0x17701068 ∧ State.reset.pwr.frac = 0x40 ∧ State.reset.pwr.kindle = 0x09000BB8 ∧
    State.reset.pwr.i3cAddr = 0x30 ∧ State.reset.test.ir = 0x02

/-- Reset meets the invariant that `StepKeepsCanonical` keeps, and holds no byte of memory. Choices of the model that it rests
on: log entry 1. -/
def Obligations.ResetIsCanonical : Prop :=
  State.reset.canonical = true ∧ ∀ a n, memRead State.reset a n = List.replicate n 0

/-- Every step, over any command and any state, keeps both memories in canonical form, so that equal memories stay equal data. -/
def Obligations.StepKeepsCanonical : Prop :=
  ∀ s t : State, s.canonical = true → step s = .next t → t.canonical = true

/-- No step changes what the factory has fused into the package, and none lowers the identity generation. -/
def Obligations.StepKeepsFactoryFuses : Prop :=
  ∀ s t : State, step s = .next t →
    factoryFuses t.fuses = factoryFuses s.fuses ∧ s.fuses.idGen.toNat ≤ t.fuses.idGen.toNat

/-- Every command answers a next state whatever the state, so no command stops the part; and its effect never touches the queue:
what it may do to come later commands it does through the state. -/
def Obligations.CommandsComplete : Prop :=
  ∀ (i : Instr) (s : State), ∃ t, exec i s = .next t ∧ t.pending = s.pending

/-! ### Cells -/

/-- The sequencer instructions that end at issue: the body moves on, an address register, a loop or a semaphore changes as R72
says, the completion signal goes out, and nothing else in the package changes. END ends the body of its cell once the four units
are idle, and the TILE completes with OK when it was the last of the cells named (R68, R72). -/
def Obligations.SequencerInstructions : Prop :=
  (∀ (s : State) (c : CellId) (e : ReadErr) (r : Run) (w : BitVec 64), issues s c r w → e.uncorrected = false →
      r.pc + 1 < r.len →
      let s' := fetched s c e
      let m := semsTaken s c w
      let on := { r with pc := r.pc + 1 }
      (wOp w = 0x00 → signalFits s c w m → exec (.nop ⟨c, e⟩) s = .next (seqDone s' c w (some on) m)) ∧
      (wOp w = 0x01 → signalFits s c w m →
        exec (.prog ⟨c, e⟩) s = .next (seqDone s' c w (some { on with kindle := if r.pc = 0 then bit w 0 else r.kindle }) m)) ∧
      (wOp w = 0x04 → signalFits s c w m → exec (.seta ⟨c, e⟩) s = .next (seqDone s' c w
        (some { on with aregs := SMap.set 0 r.aregs (fld w 48 45) (BitVec.ofNat 20 (fld w 19 0)) }) m)) ∧
      (wOp w = 0x05 → signalFits s c w m → exec (.adda ⟨c, e⟩) s = .next (seqDone s' c w
        (some { on with aregs := SMap.set 0 r.aregs (fld w 48 45) (areg r (fld w 48 45) + BitVec.ofNat 20 (fld w 19 0)) }) m)) ∧
      (wOp w = 0x06 → r.loops.length < 4 → signalFits s c w m → exec (.loop ⟨c, e⟩) s = .next (seqDone s' c w
        (some { on with loops := (r.pc + 1, fld w 15 0) :: r.loops }) m)) ∧
      (wOp w = 0x07 → ∀ rest start, r.loops = (start, 0) :: rest → signalFits s c w m →
        exec (.endl ⟨c, e⟩) s = .next (seqDone s' c w (some { on with loops := rest }) m)) ∧
      (wOp w = 0x07 → ∀ rest start k, r.loops = (start, k + 1) :: rest → start < r.len → signalFits s c w m →
        exec (.endl ⟨c, e⟩) s = .next (seqDone s' c w (some { r with pc := start, loops := (start, k) :: rest }) m)) ∧
      (wOp w = 0x08 → 0 < fld w 7 0 → fld w 7 0 ≤ (SMap.get 0 m (fld w 48 46)).toNat →
        let taken := SMap.upd 0 m (fld w 48 46) (fun v => v - BitVec.ofNat 8 (fld w 7 0))
        signalFits s c w taken → exec (.waits ⟨c, e⟩) s = .next (seqDone s' c w (some on) taken))) ∧
  (∀ (s : State) (c : CellId) (e : ReadErr) (r : Run) (w : BitVec 64),
      issues s c r w → e.uncorrected = false → wOp w = 0x02 → unitsIdle (getCell s (cellNum c)) = true → signalFits s c w (semsTaken s c w) →
      let t := seqDone (fetched s c e) c w none (semsTaken s c w)
      (startedDesc s r.ctx r.key = none → exec (.endBody ⟨c, e⟩) s = .next t) ∧
      ∀ d, startedDesc s r.ctx r.key = some d →
        let left := d.cells &&& ~~~(BitVec.ofNat 256 (2 ^ (cellNum c % 256)))
        (left = 0 → exec (.endBody ⟨c, e⟩) s = .next (completeKey r.ctx r.key stOk 0 (c.posn.val + 1) t)) ∧
        (left ≠ 0 → exec (.endBody ⟨c, e⟩) s = .next (modCtx r.ctx (fun x => { x with
          started := x.started.map (fun k => if k.key = r.key then { k with cells := left } else k) }) t)))

/-- An instruction that the sequencer may not run stops it in place of its action: a word that cannot be corrected (PROG_ECC), a
reserved opcode or VOPC, a reserved bit that is set, a fifth nested loop, an ENDL without a loop, a WAITS of COUNT 0, and an
instruction that leads past the body's length (R66, R79). What a sequencer fault leaves (R79, R89): no body in its cell, the
record of the fault, SEQ_FAULT raised, the TILE completed with TILE_FAULT, and no change of another cell, of memory or of an
accumulator. Choices of the model that it rests on: log entries 23, 69, 70 and 108. -/
def Obligations.SequencerFaults : Prop :=
  (∀ (s : State) (c : CellId) (e er : ReadErr) (gap : Nat) (r : Run) (w : BitVec 64),
      (getCell s (cellNum c)).run = some r → runWord s (cellNum c) r = w → s.pwr.arithStopped = false →
      let n := cellNum c
      let s' := fetched s c e
      (e.uncorrected = true → ∀ i, ((∃ op, (i, op) ∈ opRows c e er gap ∧ wOp w = op) ∨
          ∃ v, (i, v) ∈ vopRows c e er ∧ wOp w = 0x19 ∧ wVopc w = v) →
        exec i s = .next (seqFault n 0xA (runSlot r) s)) ∧
      (e.uncorrected = false → waitReady s n w = true →
        (reservedBit w = true → ∀ i op,
          (i, op) ∈ ([(.nop ⟨c, e⟩, 0x00), (.prog ⟨c, e⟩, 0x01), (.seta ⟨c, e⟩, 0x04), (.adda ⟨c, e⟩, 0x05), (.loop ⟨c, e⟩, 0x06),
            (.endl ⟨c, e⟩, 0x07)] : List (Instr × Nat)) → wOp w = op → exec i s = .next (seqFault n 1 (runSlot r) s')) ∧
        (knownOps.contains (wOp w) = false ∨ (wOp w = 0x19 ∧ vopcReserved (wVopc w) = true) →
          exec (.reservedOpcode ⟨c, e⟩) s = .next (seqFault n 1 (runSlot r) s')) ∧
        (reservedBit w = false → wOp w = 0x06 → 4 ≤ r.loops.length →
          exec (.loop ⟨c, e⟩) s = .next (seqFault n 5 (runSlot r) s')) ∧
        (reservedBit w = false → wOp w = 0x07 → r.loops = [] → exec (.endl ⟨c, e⟩) s = .next (seqFault n 5 (runSlot r) s')) ∧
        (reservedBit w = false → wOp w = 0x08 → fld w 7 0 = 0 →
          exec (.waits ⟨c, e⟩) s = .next (seqFault n 7 (runSlot r) s')) ∧
        (wOp w = 0x00 → w = 0 → r.len ≤ r.pc + 1 →
          exec (.nop ⟨c, e⟩) s = .next (seqFault n 6 ((r.first + (r.pc + 1)) % 4096)
            { s' with cells := SMap.set Cell.init s.cells n { getCell s n with run := some { r with pc := r.pc + 1 } } })))) ∧
  (∀ (s : State) (c : CellId) (r : Run) (code : Nat) (slot : BitVec 12), code ≠ 0xA → s.step.held = [] →
      (getCell s (cellNum c)).run = some r →
      let n := cellNum c
      let f : SeqFault :=
        { x := BitVec.ofNat 4 c.x.val, y := BitVec.ofNat 4 c.y.val, code := BitVec.ofNat 4 code, pc := slot
          count := (getPos s c.posn.val).seqFault.count + 1 }
      let t := seqFault n code slot.toNat s
      (getCell t n).run = none ∧
      (getPos t c.posn.val).seqFault = f ∧
      t.mgmt.queue = s.mgmt.queue ++
        [{ code := 0x0101, src := posUnit c.posn.val 0x22, seq := SMap.get 0 s.mgmt.seqs (posUnit c.posn.val 0x22).toNat
           stamp := stampOf s (posUnit c.posn.val 0x22), ctx := some r.ctx, pid := none, posn := some (BitVec.ofNat 3 c.posn.val), arg0 := 0
           arg1 := 0 }] ∧
      startedDesc t r.ctx r.key = none ∧
      t.host = (completeKey r.ctx r.key stTileFault (seqFaultWord f + 2 ^ 24 * c.posn.val) (c.posn.val + 1) s).host ∧
      (∀ m, m ≠ n → getCell t m = getCell s m) ∧ t.mem = s.mem ∧ t.acc = s.acc)

/-- An instruction of a unit joins its unit's queue with its address registers as they are at issue, the body moves on, and the
unit starts what it can; a unit holds two operations at most (R74, R75). -/
def Obligations.UnitInstructionsIssue : Prop :=
  ∀ (s : State) (c : CellId) (r : Run) (w : BitVec 64) (e err : ReadErr) (gap : Nat),
    issues s c r w → e.uncorrected = false → r.pc + 1 < r.len →
    let s' := fetched s c e
    let n := cellNum c
    let k := getCell s n
    (wOp w = 0x10 → k.unitM.length < 2 → mmFault s n w = none →
      exec (.mm ⟨c, e⟩ err gap) s =
        .next (startM n (issued s' c r w (fun k => { k with unitM := k.unitM ++ [newOp r w [] err gap] })))) ∧
    (wOp w = 0x18 → k.unitD.length < 2 → drainFault s n w = none →
      exec (.drain ⟨c, e⟩ err) s =
        .next (startD n (issued s' c r w (fun k => { k with unitD := k.unitD ++ [newOp r w (fusedOf k r w) err 0] })))) ∧
    (wOp w = 0x20 → k.unitI.length < 2 → portFault s n w false = none →
      exec (.sin ⟨c, e⟩) s =
        .next (startI n (issued s' c r w (fun k => { k with
          unitI := k.unitI ++ [{ newOp r w [] { corrected := 0, uncorrected := false } 0 with left := fld w 38 24 + 1 }] })))) ∧
    (wOp w = 0x21 → k.unitO.length < 2 → portFault s n w true = none →
      exec (.sout ⟨c, e⟩ err) s =
        .next (startO n (issued s' c r w (fun k => { k with unitO := k.unitO ++ [newOp r w [] err 0] }))))

/-- An operation that ends in its unit: the pass leaves its banks FULL and counts the cycles of the array, the drain leaves its
bank EMPTY, an FCHECK counts toward its step's pair or, on a slot of a bound variant, toward the variant's count, and each leaves
its unit, signals, and lets the next operation start (R51, R76, R78, R145). Choices of the model that it rests on: log entries 12
and 13. -/
def Obligations.UnitOperationsComplete : Prop :=
  ∀ (s : State) (c : CellId) (stalls : Nat) (o : UnitOp) (rest : List UnitOp), o.started = true → s.pwr.arithStopped = false →
    let n := cellNum c
    let k := getCell s n
    (∀ i, k.unitM = o :: rest → passInfo o.word = some i → partialsLeft s n i.bank = true → rest = [] →
      let lost := stalls * (gangCells s n).length
      exec (.mmComplete c stalls) s =
        .next (startM n (signalDone n o.word (modPos c.posn.val (fun p => { p with
          arrayBusy := p.arrayBusy + BitVec.ofNat 64 (o.left + lost)
          bankStall := p.bankStall + BitVec.ofNat 64 lost })
          (fillBanks n i.bank (modCell n (fun k => { k with unitM := [] }) s)))))) ∧
    (k.unitD = o :: rest → wOp o.word = 0x18 →
      let t := modCell n (fun k => { setBank (bit o.word 36) { st := .empty, kn := false } k with unitD := rest }) s
      exec (.drainComplete c) s = .next (startM (gangOrigin t n) (startD n (signalDone n o.word t)))) ∧
    (k.unitD = o :: rest → wOp o.word = 0x19 → wVopc o.word ≠ 0x30 →
      exec (.vopComplete c) s = .next (startD n (signalDone n o.word (modCell n (fun k => { k with unitD := rest }) s)))) ∧
    (∀ st i h, k.unitD = o :: rest → wOp o.word = 0x19 → wVopc o.word = 0x30 → bit o.word 21 = false →
      o.step = some st → heldPlace s st = some i → s.step.held[i]? = some h → h.st = .opened →
      exec (.vopComplete c) s = .next (startD n (signalDone n o.word (modHeld i (fun h =>
        if h.st = .opened then { h with checks := SMap.upd CheckPair.init h.checks c.posn.val (fun p =>
          { checked := stopInc p.checked (64 * (fld o.word 8 0 + 1)), nonfinite := stopInc p.nonfinite o.left }) } else h)
        (modCell n (fun k => { k with unitD := rest }) s))))) ∧
    (∀ st i h v, k.unitD = o :: rest → wOp o.word = 0x19 → wVopc o.word = 0x30 → bit o.word 21 = true →
      o.step = some st → heldPlace s st = some i → s.step.held[i]? = some h → h.st = .opened →
      slotVariant h (fld o.word 20 9) = some v →
      ∃ t, exec (.vopComplete c) s = .next t ∧
        t = startD n (signalDone n o.word (modHeld i (fun h => if h.st = .opened then checkAdd n o h else h)
          (modCell n (fun k => { k with unitD := rest }) s))) ∧
        (checkAdd n o h).vnon = SMap.upd 0 h.vnon (c.posn.val * 1024 + v) (fun k => stopInc k o.left) ∧
        (checkAdd n o h).checks = SMap.upd CheckPair.init h.checks c.posn.val (fun p =>
          { checked := stopInc p.checked (64 * (fld o.word 8 0 + 1)), nonfinite := stopInc p.nonfinite 0 })) ∧
    (k.unitI = o :: rest → o.left = 0 →
      exec (.sinComplete c) s = .next (startI n (signalDone n o.word (modCell n (fun k => { k with unitI := rest }) s)))) ∧
    (k.unitO = o :: rest →
      exec (.soutComplete c) s = .next (startO n (signalDone n o.word (modCell n (fun k => { k with unitO := rest }) s))))

/-- A pass of form MN in a cell outside every gang fills its bank: each site holds the sum of R122 over its row of A and its
column of B, from +0 or, with KEEP, from what the bank held; the bank is BUSY, what the reads corrected is counted, and no other
register changes (R42, R66, R78). Choices of the model that it rests on: log entry 19. -/
def Obligations.PassFillsBank : Prop :=
  ∀ (s : State) (c : CellId) (o : UnitOp) (i : PassInfo),
    let n := cellNum c
    let k := getCell s n
    k.unitM = [o] → o.started = false → o.err.uncorrected = false → passInfo o.word = some i → i.kn = false → i.seg = false →
    k.cfg.gang = none → ramped s = false → k.kPhase = .off →
    (bankOf k i.bank).st = (if i.keep then .full else .empty) → draining k i.bank = false →
    let t := startM n s
    let as := operandLanes s.mem n o.a.toNat i.a (decide (i.a = .mxE2m1) && decide (i.b = .mxE2m1)) i.k
    let bs := operandLanes s.mem n o.b.toNat i.b (decide (i.a = .mxE2m1) && decide (i.b = .mxE2m1)) i.k
    (∀ p q, p < 64 → q < 64 → accAt t n i.bank p q =
      siteSum i.rule (if i.keep then accAt s n i.bank p q else 0)
        (siteSteps (as.getD p []) (bs.getD q []) ((scaleLanes s.mem n o.c.toNat i.a i.k).getD p [])
          ((scaleLanes s.mem n o.d.toNat i.b i.k).getD q []))) ∧
    (∀ a, a < accBase n i.bank ∨ accBase n i.bank + 4096 ≤ a → SMap.get 0 t.acc a = SMap.get 0 s.acc a) ∧
    (bankOf (getCell t n) i.bank).st = .busy ∧
    bankOf (getCell t n) (!i.bank) = bankOf k (!i.bank) ∧
    (∀ m, m ≠ n → getCell t m = getCell s m) ∧
    { t with cells := s.cells, acc := s.acc } = countCorrectedCell n o.err.corrected s

/-- A VOP of R111 that an idle D unit takes: every element of the destination is the operation on the elements of the sources,
MULROW and ADDROW taking row 0 of the second, converted to DFMT under SAT; the statistics see the elements written, and nothing
else changes. Choices of the model that it rests on: log entries 14 and 67. -/
def Obligations.ElementwiseOperations : Prop :=
  ∀ (s : State) (c : CellId) (e er : ReadErr) (r : Run) (w : BitVec 64) (i : Instr) (v : Nat) (row0 : Bool)
    (f : BitVec 32 → BitVec 32 → BitVec 32),
    (i, v, row0, f) ∈ ([
      (.cvt ⟨c, e, er⟩, 0x00, false, fun a _ => canon a), (.add ⟨c, e, er⟩, 0x01, false, fadd), (.sub ⟨c, e, er⟩, 0x02, false, fsub),
      (.mul ⟨c, e, er⟩, 0x03, false, fmul), (.div ⟨c, e, er⟩, 0x04, false, fdiv), (.max ⟨c, e, er⟩, 0x05, false, fmax), (.min ⟨c, e, er⟩, 0x06, false, fmin),
      (.abs ⟨c, e, er⟩, 0x07, false, fun a _ => fabs a), (.neg ⟨c, e, er⟩, 0x08, false, fun a _ => fneg a),
      (.sqrt ⟨c, e, er⟩, 0x09, false, fun a _ => fsqrt a), (.rsqrt ⟨c, e, er⟩, 0x0A, false, fun a _ => frsqrt a),
      (.recip ⟨c, e, er⟩, 0x0B, false, fun a _ => frecip a), (.exp ⟨c, e, er⟩, 0x0C, false, fun a _ => fexp a),
      (.log ⟨c, e, er⟩, 0x0D, false, fun a _ => flog a),
      (.cmplt ⟨c, e, er⟩, 0x0E, false, fun a b => boolF32 ((f32 a).lt (f32 b))),
      (.cmple ⟨c, e, er⟩, 0x0F, false, fun a b => boolF32 ((f32 a).lt (f32 b) || (f32 a).eqv (f32 b))),
      (.cmpeq ⟨c, e, er⟩, 0x10, false, fun a b => boolF32 ((f32 a).eqv (f32 b))),
      (.mulrow ⟨c, e, er⟩, 0x11, true, fmul), (.addrow ⟨c, e, er⟩, 0x12, true, fadd)] :
        List (Instr × Nat × Bool × (BitVec 32 → BitVec 32 → BitVec 32))) →
    vopIssues s c r w v → e.uncorrected = false →
    let a := vopSource s c r w 48 45
    let b := vopSource s c r w 44 41
    let rows := (List.range (fld w 8 0 + 1)).map (fun p => (List.range 64).map (fun e =>
      f ((a.getD p []).getD e 0) ((b.getD (if row0 then 0 else p) []).getD e 0)))
    let dst := encodeArea (fmtAt w 26 23) (bit w 22) rows []
    exec i s = .next (vopStarted (fetched s c e) c r w er dst.bytes (fmtAt w 26 23) dst.seen)

/-- The reductions of R126 to R130 as an idle D unit takes them: the rows that each writes from DREG. TOPK1 to TOPK8 as an idle D
unit takes them: the value row and the position row of the k largest values of the area, read row after row, and only the
selected values are observed (R131). Choices of the model that it rests on: log entries 14 and 68. -/
def Obligations.ReductionsAndSelects : Prop :=
  (∀ (s : State) (c : CellId) (e er : ReadErr) (r : Run) (w : BitVec 64) (i : Instr) (v : Nat) (f : List Row → List Row),
      (i, v, f) ∈ ([
        (.rsumd ⟨c, e, er⟩, 0x20, fun a => [(List.range 64).map (fun e => downSum (lane a e))]),
        (.rsuma ⟨c, e, er⟩, 0x21, fun a => acrossRows (a.map acrossSum)),
        (.rssqd ⟨c, e, er⟩, 0x22, fun a => [(List.range 64).map (fun e => downSum ((lane a e).map (fun x => fmul x x)))]),
        (.rssqa ⟨c, e, er⟩, 0x23, fun a => acrossRows (a.map (fun p => acrossSum (p.map (fun x => fmul x x))))),
        (.rmvd ⟨c, e, er⟩, 0x24, fun a => [(List.range 64).map (fun e => (downMoments (lane a e)).1),
          (List.range 64).map (fun e => (downMoments (lane a e)).2)]),
        (.rmva ⟨c, e, er⟩, 0x25, fun a => acrossRows (a.map (fun p => (acrossMoments p).1))
          ++ acrossRows (a.map (fun p => (acrossMoments p).2))),
        (.ramaxd ⟨c, e, er⟩, 0x26, fun a => [(List.range 64).map (fun e => maxAbs (lane a e))]),
        (.ramaxa ⟨c, e, er⟩, 0x27, fun a => acrossRows (a.map maxAbs))] : List (Instr × Nat × (List Row → List Row))) →
      vopIssues s c r w v → e.uncorrected = false →
      let dst := encodeArea (fmtAt w 26 23) (bit w 22) (f (vopSource s c r w 48 45)) []
      exec i s = .next (vopStarted (fetched s c e) c r w er dst.bytes (fmtAt w 26 23) dst.seen)) ∧
  (∀ (s : State) (c : CellId) (e er : ReadErr) (r : Run) (w : BitVec 64) (i : Instr) (k : Nat),
      (i, k) ∈ ([(.topk1 ⟨c, e, er⟩, 1), (.topk2 ⟨c, e, er⟩, 2), (.topk3 ⟨c, e, er⟩, 3), (.topk4 ⟨c, e, er⟩, 4), (.topk5 ⟨c, e, er⟩, 5), (.topk6 ⟨c, e, er⟩, 6), (.topk7 ⟨c, e, er⟩, 7),
        (.topk8 ⟨c, e, er⟩, 8)] : List (Instr × Nat)) →
      vopIssues s c r w (0x27 + k) → e.uncorrected = false →
      let cand := topK k 0 (vopSource s c r w 48 45).flatten []
      let rows := topRows cand
      exec i s = .next (vopStarted (fetched s c e) c r w er ((rows.1 ++ rows.2).flatMap (fun v => leBytes 4 v.toNat)) .fp32
        (cand.map (fun v => ⟨v.1, false, false⟩))))

/-- PACK4 copies E2M1 codes and scales into the paired layout; FCHECK writes nothing and keeps the non-finite elements that it
reads until it completes; STCLOSE hands the cell's partial of its slot to the base controller under the step and attempt of the
body (R113, R139, R145). -/
def Obligations.OtherVectorOperations : Prop :=
  ∀ (s : State) (c : CellId) (e er : ReadErr) (r : Run) (w : BitVec 64), e.uncorrected = false →
    let n := cellNum c
    let s' := fetched s c e
    let rows := vopSource s c r w 48 45
    let slot := fld w 20 9
    (vopIssues s c r w 0x13 →
      exec (.pack4 ⟨c, e, er⟩) s = .next (storageError n er
        { issued s' c r w (fun k => { k with unitD := [startedOp r w er 0] }) with
          mem := spWrite s.mem (spBase n) (areg r (fld w 40 37)).toNat
            (pack4Bytes s.mem (spBase n) (areg r (fld w 48 45)).toNat (fld w 8 0 + 1)) })) ∧
    (vopIssues s c r w 0x30 →
      exec (.fcheck ⟨c, e, er⟩) s = .next (storageError n er (issued s' c r w (fun k => { k with
        unitD := [startedOp r w er (nonFiniteCount rows)]
        partials := partialsSeen s c w (fmtAt w 30 27) (rows.flatten.map (fun x => ⟨x, false, false⟩)) })))) ∧
    (vopIssues s c r w 0x31 →
      let t := issued s' c r w (fun k => { k with
        unitD := [startedOp r w er 0], partials := SMap.set Partial.init k.partials slot Partial.init })
      exec (.stclose ⟨c, e, er⟩) s = .next (storageError n er (modPos c.posn.val (fun p => { p with
        partialQ := p.partialQ ++ [{ slot := slot, p := SMap.get Partial.init (getCell s n).partials slot
                                     step := (stepTag s r.step).1, attempt := (stepTag s r.step).2 }] }) t)))

/-- What a drain writes: the rows of its bank, each element flushed, through the fused list, with the residual added where RES
says, converted to DFMT at DREG and to CFMT at CREG where COPY says; the statistics of its slot see DFMT's elements, and a
storage error met on the way is counted or clears the check flag (R53 to R56, R66). What a fused operation that is not
elementwise gives is a free value of its operands (log entry 21); that all rows are read before any is written is the model's
choice (log entry 14). A write of whole units into a scratchpad changes no byte outside the units it names, each at its offset
modulo 2^20, so no byte of another cell's (R38). Choices of the model that it rests on: log entries 20 and 22. -/
def Obligations.CellMemoryWrites : Prop :=
  (∀ (s : State) (c : CellId) (o : UnitOp),
      let n := cellNum c
      let w := o.word
      let bank := fun r => (accRow s n (bit w 36) r).map flushF32
      let list := o.fused.map (fun v => (v.1, v.2.toNat))
      let fused := fusedList s.mem (spBase n) list ((List.range 64).map (fun r => (bank r).map Prod.fst))
      let rows := if bit w 27 then List.zipWith (List.zipWith fadd) (areaF32 s.mem (spBase n) o.b.toNat .fp32 64) fused
        else fused
      let dst := encodeArea (fmtAt w 35 32) (bit w 25) rows ((List.range 64).map (fun r => (bank r).map Prod.snd))
      let mem := spWrite s.mem (spBase n) o.a.toNat dst.bytes
      let t := { s with
        mem := if bit w 26 then
            spWrite mem (spBase n) o.c.toNat (encodeArea (fmtAt w 31 28) (bit w 25) rows []).bytes
          else mem }
      runDrain n o s = storageError n o.err
        (if bit w 24 then observeSlot n (fld w 23 12) (fmtAt w 35 32) dst.seen t else t)) ∧
  (∀ (mem : Mem) (base off : Nat) (bs : List Byte) (a : Nat),
      (∀ j, 64 * j < bs.length → a < base + unitOff (off + 64 * j) ∨ base + unitOff (off + 64 * j) + 64 ≤ a) →
      SMap.get 0 (spWrite mem base off bs) a = SMap.get 0 mem a)

/-- What waits at a cell and comes: a SORG signal reaches the origin's semaphore, a waiting DRAIN starts on its FULL bank, or at
its cell's own ready cycle of R51 before the whole gang's, a partial leaves its bank EMPTY, and a stream unit lands where the SIN
that waits for it says (R76 to R78, R123). -/
def Obligations.CellEvents : Prop :=
  ∀ (s : State) (c : CellId), s.pwr.arithStopped = false →
    let n := cellNum c
    let k := getCell s n
    (∀ sem rest, s.sorg = (n, sem) :: rest → SMap.get 0 k.sems sem ≠ 255 →
      exec (.sorgSignalArrive c) s = .next { s with
        sorg := rest
        cells := SMap.set Cell.init s.cells n { k with
          sems := SMap.set 0 k.sems sem (SMap.get 0 k.sems sem + 1) } }) ∧
    (∀ o rest, k.unitD = o :: rest → o.started = false → wOp o.word = 0x18 → (bankOf k (bit o.word 36)).st = .full →
      exec (.drainBankFullStart c) s = .next (runDrain n { o with started := true, left := 0 }
        (modCell n (fun k => { k with unitD := { o with started := true, left := 0 } :: rest }) s))) ∧
    (∀ o rest, k.unitD = o :: rest → o.started = false → wOp o.word = 0x18 → earlyReady s n = true →
      exec (.drainBankFullStart c) s = .next (startD n (fillBank (bit o.word 36) n s))) ∧
    (∀ b err, partialBank s n = some b → k.unitD = [] →
      exec (.knPartialLeft ⟨c, err⟩) s =
        .next (storageError n err (modCell n (setBank b { st := .empty, kn := true }) s))) ∧
    (∀ sctx unit o rest p, k.unitI = o :: rest → 0 < o.left → opPort o = p →
      (List.range 16).find? (fun p =>
        let q := SMap.get PortCfg.init k.cfg.ports p
        q.en && !q.out && q.sctx == sctx) = some p → SMap.get [] k.fifoIn p = [] →
      let off := o.a.toNat + 64 * (fld o.word 38 24 + 1 - o.left)
      ∃ t, exec (.streamUnitArrive c sctx unit) s = .next t ∧
        t.mem = SMap.writeRun 0 s.mem (spBase n + unitOff off) unit ∧
        (getCell t n).unitI = { o with started := true, left := o.left - 1 } :: rest ∧
        SMap.get [] (getCell t n).fifoIn p = [] ∧ { t with cells := s.cells, mem := s.mem } = s ∧
        ∀ m, m ≠ n → getCell t m = getCell s m)

/-- A cell whose body has ended takes the TILE that waits first by its epoch: current, it starts the body with its registers at
0, or stops with NO_PROGRAM or PROG_ECC; behind, it waits; ahead, or behind for longer than the limit, the TILE ends without
running (R66, R68, R69, R79, R86, R87). NUM_SEQ_FAULT.PC 0 of a PID outside the table is the model's choice (log entry 108), and
so is the moment from which the limit counts (log entry 107). Kindling starts at full activity in the gap after a pass; at GAP it
ends at once, or in STEADY ramps down level by level, and a pass that waits turns the ramp upward (R57 to R60). The activity
count's weight is the model's choice (log entry 13). Choices of the model that it rests on: log entry 16. -/
def Obligations.BodiesStartAndArraysKindle : Prop :=
  (∀ (s : State) (c : CellId) (t : TileWait) (rest : List TileWait),
      let n := cellNum c
      let k := getCell s n
      s.pwr.arithStopped = false → k.run = none → k.tiles = t :: rest →
      let d := epochDistance s n t.epoch
      let ev : EvArgs := { ctx := some t.ctx, posn := some c.posn.val }
      let runs := fun (r : Run) (u : State) => { u with
        cells := SMap.set Cell.init s.cells n { k with run := some r, tiles := rest } }
      (∀ e err, d = 0 → SMap.get none k.cfg.table t.pid.toNat = some e → err.uncorrected = false →
        (progMatches (runWord s n (newRun t e)) t e = true →
          exec (.bodyStart c err) s = .next (runs (newRun t e) (countCorrectedCell n err.corrected s))) ∧
        (progMatches (runWord s n (newRun t e)) t e = false →
          exec (.bodyStart c err) s = .next (seqFault n 9 (runSlot (newRun t e))
            (runs (newRun t e) (countCorrectedCell n err.corrected s))))) ∧
      (∀ e err, d = 0 → SMap.get none k.cfg.table t.pid.toNat = some e → err.uncorrected = true →
        exec (.bodyStart c err) s = .next (seqFault n 0xA (runSlot (newRun t e)) (runs (newRun t e) s))) ∧
      (∀ err, d = 0 → SMap.get none k.cfg.table t.pid.toNat = none →
        exec (.bodyStart c err) s = .next (seqFault n 9 0 (runs (newRun t { first := 0, len := 0 }) s))) ∧
      (0 < d → d < 32768 → ∀ err, exec (.bodyStart c err) s = .next s) ∧
      (32768 ≤ d → ∀ err, exec (.bodyStart c err) s =
        .next (dropTile t n stEpochAhead (raise 0x0102 (posUnit c.posn.val 0x22) ev s))) ∧
      (0 < d → d < 32768 → exec (.epochStall c) s = .next (dropTile t n stEpochStall
        (raise 0x0103 (posUnit c.posn.val 0x22) ev (advanceTo (t.since + usec (fld s.step.epochWait 23 0)) s))))) ∧
  (∀ (s : State) (c : CellId), s.pwr.arithStopped = false →
      let n := cellNum c
      let k := getCell s n
      let gap := fld s.pwr.kindle 19 0
      let hold := fld s.pwr.kindle 27 20
      let put := fun (p : KindlePhase) (l : Nat) (t : State) => modCell n (fun k => { k with kPhase := p, kLevel := l }) t
      (gangOrigin s n = n → k.unitM = [] → k.kPhase = .off → k.kLevel = 8 → kindles s k = true →
        exec (.kindleStart c) s = .next (modCell n (fun k => { k with kPhase := .kindling }) s)) ∧
      (k.kPhase = .kindling → ramped s = false →
        exec (.kindleGapExpiry c) s = .next (put .off 0 (countKindle n gap 8 s))) ∧
      (k.kPhase = .kindling → ramped s = true →
        exec (.kindleGapExpiry c) s = .next (put .rampDown 7 (countKindle n gap 8 s))) ∧
      (∀ l, k.kPhase = .rampDown → k.kLevel = l + 1 →
        exec (.kindleRampStep c) s =
          .next (modCell n (fun k => { k with kLevel := l }) (countKindle n hold (l + 1) s))) ∧
      (k.kPhase = .rampDown → k.kLevel = 0 →
        exec (.kindleRampStep c) s = .next (modCell n (fun k => { k with kPhase := .off }) (countKindle n hold 0 s))) ∧
      (∀ l, l < 8 → k.kPhase = .rampUp → k.kLevel = l →
        exec (.kindleRampStep c) s =
          .next (startM n (modCell n (fun k => { k with kLevel := l + 1 }) (countKindle n hold (l + 1) s)))))

/-! ### Statistics -/

/-- HSHIFT of a statistics record is the smallest value from 0 to 12 for which every histogram count shifted right by it is at
most 0xF_FFFF, and HIST[b] holds count[b] shifted right by HSHIFT, truncated; both are read at their places in the record's 128
bytes, for any partial whose counts have stopped where R139 stops them (R142). -/
def Obligations.HistogramField : Prop :=
  ∀ (g : RecordTag) (p : Partial),
    SMap.wf 0 p.hist = true → (∀ kv ∈ p.hist, kv.1 < 32 ∧ kv.2 ≤ 0xFFFFFFFF) →
    let bs := recordBytes g p
    let shift := leNat ((bs.drop 0x28).take 4) % 32
    let count := fun (b : Nat) => SMap.get 0 p.hist b
    bs.length = 128 ∧ shift ≤ 12 ∧ (∀ b, b < 32 → count b / 2 ^ shift ≤ 0xFFFFF) ∧
    (∀ k, k < shift → ∃ b, b < 32 ∧ 0xFFFFF < count b / 2 ^ k) ∧
    (∀ b, b < 32 → leNat (bs.drop 0x30) / 2 ^ (20 * b) % 2 ^ 20 = count b / 2 ^ shift)

/-- A partial that arrives merges into its slot and, with enough of them, closes a record; a write of STAT_RING_TAIL frees
records up to HEAD and raises DOORBELL_BAD past it (R139, R143). An occurrence counts in the window that holds its stamp, and one
of the next window waits; the source that reaches its threshold raises ADVISORY once in the window; when the window closes the
counts begin again from 0. The occurrences that this part's units have created come first (R348 to R350; log entries 54, 118).
Choices of the model that it rests on: log entry 24. -/
def Obligations.StatisticsAndWatch : Prop :=
  (∀ (s : State) (posn : Posn) (m : PartialMsg) (rest : List PartialMsg) (v : BitVec 32),
      let n := posn.val
      let p := getPos s n
      let cfg := SMap.get slotCfgInit p.slotCfg m.slot
      let old := SMap.get Merged.init p.merged m.slot
      let sum := mergePartials old.p m.p
      let taken := modPos n (fun q => { q with partialQ := rest }) s
      let size := statRingSize p
      let t := fld v 15 0
      let fits := t < size ∧ (t + size - p.ringTail.toNat) % size ≤ (p.ringHead.toNat + size - p.ringTail.toNat) % size
      (p.partialQ = m :: rest → slotEn cfg = true → s.pwr.modes.stats = true →
        (old.count + 1 < slotCells cfg → exec (.statPartialArrive posn) s = .next (modPos n (fun q => { q with
          merged := SMap.set Merged.init q.merged m.slot { count := old.count + 1, p := sum } }) taken)) ∧
        (slotCells cfg ≤ old.count + 1 → exec (.statPartialArrive posn) s =
          .next (closeRecord n m.slot m.step m.attempt false sum (modPos n (fun q => { q with
            merged := SMap.set Merged.init q.merged m.slot Merged.init }) taken)))) ∧
      (p.st = .enabled → fits →
        exec (.statRingTailWrite posn v) s = .next (modPos n (fun p => { p with ringTail := BitVec.ofNat 16 t }) s)) ∧
      (p.st = .enabled → ¬fits → ∃ ev, exec (.statRingTailWrite posn v) s = .next (raise 0x0602 (posUnit n 0x22) ev s))) ∧
  (∀ (s : State) (src : WatchSource) (stamp : BitVec 64),
      let v := deliverWatch (advanceTo stamp s)
      let u := deliverWatch s
      let k := stamp.toNat / watchPeriod v
      let one := modBank (watchAdd src) v
      let end_ := BitVec.ofNat 64 ((u.bank.window + 1) * watchPeriod u) + usec 10
      (∀ t, s.bank.arrivals = [(src, t)] →
        u = takeOccurrence t.toNat src t.toNat (modBank (fun b => { b with arrivals := [] }) s)) ∧
      (bit v.bank.watchCfg 16 = false → exec (.watchOccurrence src stamp) s = .next v) ∧
      (bit v.bank.watchCfg 16 = true → (v.mgmt.ptb.toNat - 10000) / watchPeriod v ≤ v.bank.window →
        (k = v.bank.window → watchHit one src = false → exec (.watchOccurrence src stamp) s = .next one) ∧
        (k = v.bank.window → watchHit one src = true → v.bank.advised = false → v.pwr.modes.autoBank = false →
          exec (.watchOccurrence src stamp) s = .next (raise 0x0901 (hubUnit 0x0C)
            { ctx := stepHolder v, arg0 := watchBits one, arg1 := v.bank.window * watchPeriod v }
            (modBank (fun b => { b with
              advised := true, advSrc := BitVec.ofNat 4 (watchBits one), advCount := satUp b.advCount 1 }) one))) ∧
        (k = v.bank.window → watchHit one src = true → v.bank.advised = true →
          exec (.watchOccurrence src stamp) s = .next one) ∧
        (k = v.bank.window + 1 →
          exec (.watchOccurrence src stamp) s = .next (modBank (fun b => { b with early := b.early ++ [src] }) v))) ∧
      (u.bank.early = [] → exec .watchWindowClose s = .next (modBank (fun b => { b with
        mem := 0, fec := 0, drop := 0, retrain := 0, window := u.bank.window + 1, early := [], advised := false })
        (advanceTo end_ u))))

/-! ### Doorbells, descriptors, sync objects and configuration -/

/-- A doorbell write by a live function to the page of an ACTIVE context: the index it carries is taken when it is in range and
passes nothing that the part has not freed or written, and DOORBELL_BAD is raised otherwise; a write to any other page is dropped
(R267). -/
def Obligations.DoorbellsMoveIndices : Prop :=
  ∀ (s : State) (f : Fin 64) (page : BitVec 12) (v : BitVec 32),
    let t := fld v 15 0
    let set := fun (c : Ctx) (g : Context → Context) => Host.Outcome.next (modCtx c g s)
    let bad := fun (c : Ctx) (off : Nat) =>
      Host.Outcome.next (raise 0x0602 (hubUnit 0) { ctx := some c, arg0 := off + 65536 * t } s)
    (doorbellCtx s f page = none → exec (.doorbellTail f page v) s = .next s ∧ exec (.doorbellChead f page v) s = .next s ∧
      exec (.doorbellEhead f page v) s = .next s) ∧
    ∀ c, doorbellCtx s f page = some c →
      let x := getCtx s c
      (tailOk x t = true → exec (.doorbellTail f page v) s = set c (fun x => { x with tail := t })) ∧
      (tailOk x t = false → exec (.doorbellTail f page v) s = bad c 0x000) ∧
      (headOk x.clog2 x.cplHead x.cplWrite t = true →
        exec (.doorbellChead f page v) s = set c (fun x => { x with cplHead := t })) ∧
      (headOk x.clog2 x.cplHead x.cplWrite t = false → exec (.doorbellChead f page v) s = bad c 0x004) ∧
      (headOk x.elog2 x.evtHead x.evtWrite t = true →
        exec (.doorbellEhead f page v) s = set c (fun x => { x with evtHead := t })) ∧
      (headOk x.elog2 x.evtHead x.evtWrite t = false → exec (.doorbellEhead f page v) s = bad c 0x008)

/-- A descriptor that completes at once leaves its record at the write index of its completion ring, moves the index on and turns
the phase where it wraps, sends its interrupt, and hands its SIG to the sync object's arbiter; no other byte of host memory, no
other context and nothing outside the host interface changes (R263, R270, R271). -/
def Obligations.DescriptorCompletionRecord : Prop :=
  ∀ (s : State) (c : Ctx) (d : Desc) (status detail : Nat),
    let x := getCtx s c
    let at_ := x.cring.toNat + 16 * x.cplWrite
    let idx := (x.cplWrite + 1) % 2 ^ x.clog2
    recordsOpen x = true → (dCpl d.words = true ∨ status ≠ 0) →
    let t := finishStarting c d status detail s
    hostRead t at_ 16 = completionBytes d.index status (dOpcode d.words) (dTag d.words) detail d.attempt x.cplPhase ∧
    (∀ a, a < at_ ∨ at_ + 16 ≤ a → hostRead t a 1 = hostRead s a 1) ∧
    getCtx t c = { x with
      starting := none, cplWrite := idx, cplPhase := if idx = 0 then !x.cplPhase else x.cplPhase } ∧
    t.hif.msix = s.hif.msix ++ (if dIrq d.words then [{ func := x.func, port := x.port, vec := x.vecCpl }] else []) ∧
    t.hif.syncQ = s.hif.syncQ ++ (if dSig d.words && inSyncRange x (dSigSync d.words) then
      [{ obj := BitVec.ofNat 16 (dSigSync d.words), requester := 0, op := if status = 0 then .add 1 else .setError }] else []) ∧
    (∀ m, m ≠ c → getCtx t m = getCtx s m) ∧ { t with hif := s.hif, host := s.host } = s

/-- The command processor reads the next context's posted entries in ring order, as many as R268 lets one request cover, moves
FETCH on, and writes RELEASE and FETCH back to HEADWB (R23, R266, R268). The front descriptor of an ACTIVE context starts once
its sync object has reached its value, under the newest held step; one that offends completes instead, one that ran before a
replay or in the shadow completes with OK where R287 names its family, and one whose object holds ERROR completes with SYNC_ERROR
(R265, R269, R274, R287). Choices of the model that it rests on: log entries 17 and 42. -/
def Obligations.DescriptorsAreFetchedAndStarted : Prop :=
  (∀ (s : State) (i : Nat),
      roundRobin s.hif.fetchPtr 4096 (fun c => decide (0 < fetchCount (SMap.get Context.init s.hif.ctxs c))) = some i →
      let c := BitVec.ofNat 12 i
      let x := getCtx s c
      let n := fetchCount x
      ∃ t, exec .descriptorFetch s = .next t ∧
        (getCtx t c).fetch = (x.fetch + n) % 2 ^ x.dlog2 ∧
        (getCtx t c).fetched.length = x.fetched.length + n ∧
        (∀ k, k < n → ((getCtx t c).fetched[x.fetched.length + k]?).map Desc.words =
          some (BitVec.ofNat 512 (leNat (hostRead s (x.dring.toNat + 64 * (x.fetch + k)) 64)))) ∧
        t.hif.fetchPtr = (i + 1) % 4096 ∧
        hostRead t x.headwb.toNat 8 = leBytes 8 ((getCtx t c).release + 65536 * (getCtx t c).fetch) ∧
        (∀ a, a < x.headwb.toNat ∨ x.headwb.toNat + 8 ≤ a → hostRead t a 1 = hostRead s a 1) ∧
        (∀ m, m ≠ c → getCtx t m = getCtx s m) ∧ { t with hif := s.hif, host := s.host } = s) ∧
  (∀ (s : State) (c : Ctx) (d : Desc) (rest : List Desc),
      let x := getCtx s c
      let o := getSync s (dWaitSync d.words)
      let waits := dWait d.words && inSyncRange x (dWaitSync d.words)
      let latched := x.waiting.any WaitRec.reached
      let ready := !waits || latched || (!o.error && syncReached o (dWaitValue d.words))
      let h := newestHeld s c
      let again := d.refetched || h.any (fun k => s.step.pulled.contains k.step)
      x.fetched = d :: rest → x.st = .active → x.starting = none → x.fetchStopped = false →
      let started : Desc :=
        { d with step := h.map Held.step, attempt := (h.map Held.attempt).getD 0, refetched := again }
      let begun := modCtx c (fun x => { x with
        fetched := rest, waiting := none, starting := some started
        refetchEnd := if d.refetched then x.refetchEnd else some ((d.index.toNat + 1) % 2 ^ x.dlog2) }) s
      (ready = true → again = true → refetchOk d.words = true →
        exec (.descriptorStart c) s = .next (finishStarting c started stOk 0 begun)) ∧
      (ready = true → (again = false ∨ refetchOk d.words = false) →
        (offences x d.words = [] → (needsStep (dOpcode d.words) = false ∨ x.holdsStep = true) →
          exec (.descriptorStart c) s = .next begun) ∧
        (offences x d.words = [] → needsStep (dOpcode d.words) = true → x.holdsStep = false →
          exec (.descriptorStart c) s = .next (finishStarting c started stBadTarget 0 begun)) ∧
        (∀ off st, firstOffence (offences x d.words) = some (off, st) →
          exec (.descriptorStart c) s = .next (finishStarting c started st off begun))) ∧
      (waits = true → x.waiting = none → o.error = false → syncReached o (dWaitValue d.words) = false →
        exec (.descriptorStart c) s =
          .next (modCtx c (fun x => { x with waiting := some { since := s.mgmt.ptb, reached := false } }) s)) ∧
      (waits = true → latched = false → o.error = true →
        exec (.descriptorStart c) s = .next (failFront c d stSyncError (dWaitSync d.words) s)))

/-- NOP and a plain FENCE complete with OK, DISCARD drops the pending shadows, and the three local SYNC operations hand their
update to the object's arbiter while REMOTE_ADD sends it to the package of a rank (R82, R276, R277, R286). One update of a sync
object at a time, in turn over the requesters, changes it as R274 says; a wait that lasts for the limit ends in SYNC_TIMEOUT; and
a SYNC message adds to the object of the context bound to its PID, or raises SYNC_REMOTE_BAD where the object is not that
context's (R23, R274, R277). Choices of the model that it rests on: log entry 28. -/
def Obligations.SyncAndSimpleDescriptors : Prop :=
  (∀ (s : State) (c : Ctx) (d : Desc),
      let w := d.words
      let obj := dfld w 0x10 15 0
      let v := BitVec.ofNat 32 (dfld w 0x18 31 0)
      let ok := fun t => Host.Outcome.next (finishStarting c d stOk 0 t)
      let ask := fun (op : SyncOp) =>
        ok (modHif (fun h => { h with syncQ := h.syncQ ++ [{ obj := BitVec.ofNat 16 obj, requester := 0, op := op }] }) s)
      (startingOf s c 0x00 = some d → exec (.nopDescriptor c) s = ok s) ∧
      (startingOf s c 0x05 = some d → dOpf0 w = false → (getCtx s c).started = [] → exec (.fence c) s = ok s) ∧
      (startingOf s c 0x04 = some d → dfld w 0x10 3 0 = 4 → ∃ t, exec (.discard c) s = ok t ∧
        (∀ n, getPos t n = if n ∈ configPosns w then { getPos s n with shadowEpoch := none } else getPos s n) ∧
        { t with posns := s.posns } = s) ∧
      (startingOf s c 0x06 = some d → inSyncRange (getCtx s c) obj = true →
        (dfld w 0x10 18 16 = 0 → exec (.syncSetValue c) s = ask (.setValue v)) ∧
        (dfld w 0x10 18 16 = 1 → exec (.syncAdd c) s = ask (.add v)) ∧
        (dfld w 0x10 18 16 = 2 → exec (.syncClearErr c) s = ask .clearErr)) ∧
      (∀ k, startingOf s c 0x06 = some d → dfld w 0x10 18 16 = 3 → boundEntry s c = some k →
        (SMap.get 0 (getPart s k).map (dfld w 0x14 13 0)).getLsbD 15 = true →
        exec (.syncRemoteAdd c) s = ok (sendTc0Rank (getPart s k) (dfld w 0x14 13 0)
          (tc0Msg s k 5 0 0 0 (BitVec.ofNat 128 (obj + 2 ^ 32 * dfld w 0x18 31 0))) s))) ∧
  (∀ (s : State) (obj pidObj : BitVec 16) (c : Ctx) (pid : BitVec 12) (v : BitVec 32),
      (∀ u rest, s.hif.syncQ = u :: rest → u.obj = obj → u.requester < 11 → SMap.get 0 s.hif.syncPtr obj.toNat = u.requester →
        (∀ kv ∈ s.hif.ctxs, kv.2.waiting = none) →
        ∃ t, exec (.syncObjectUpdate obj) s = .next t ∧
          getSync t obj.toNat = syncApply (getSync s obj.toNat) u.op ∧ t.hif.syncQ = rest ∧
          SMap.get 0 t.hif.syncPtr obj.toNat = (u.requester + 1) % 11 ∧
          (∀ o, o ≠ obj.toNat → getSync t o = getSync s o) ∧
          { t with hif := s.hif } = s ∧ t.hif.ctxs = s.hif.ctxs) ∧
      (∀ wr d rest, (getCtx s c).waiting = some wr → (getCtx s c).fetched = d :: rest → wr.reached = false →
        exec (.syncTimeout c) s = .next (failFront c d stSyncTimeout (dWaitSync d.words)
          (advanceTo (wr.since + msec (if fld s.hif.syncWait 23 0 = 0 then 10000 else fld s.hif.syncWait 23 0)) s))) ∧
      (∀ k, entryOfPid s pid = some k → inSyncRange (getCtx s (getPart s k).ctx) pidObj.toNat = true →
        exec (.syncMessageReceive pid pidObj v) s = .next (modHif (fun h => { h with
          syncQ := h.syncQ ++ [{ obj := pidObj, requester := 9, op := .add v }] }) s)) ∧
      (∀ k, entryOfPid s pid = some k → inSyncRange (getCtx s (getPart s k).ctx) pidObj.toNat = false →
        exec (.syncMessageReceive pid pidObj v) s =
          .next (raise 0x0603 (hubUnit 0) { ctx := some (getPart s k).ctx, arg0 := pidObj.toNat } s)))

/-- TILE gives every named cell the body to run, last in its queue, and waits for them; PROGRAM_BODY copies instructions into the
program memory of every named cell at once, unless it would write inside a body of an active table (R68, R83, R86). -/
def Obligations.TilesAndBodies : Prop :=
  ∀ (s : State) (c : Ctx) (d : Desc),
    let w := d.words
    (startingOf s c 0x03 = some d →
      let named := maskCells (dfld w 0x10 10 8) (BitVec.ofNat 256 (dfld w 0x20 255 0))
      let wait : TileWait :=
        { ctx := c, key := d.key, pid := BitVec.ofNat 6 (dfld w 0x10 5 0)
          epoch := BitVec.ofNat 16 (dfld w 0x10 23 16 * 256 + fld w 31 24), step := d.step, since := s.mgmt.ptb }
      ∃ t, exec (.tile c) s = .next t ∧
        (∀ n, getCell t n = if n ∈ named then { getCell s n with tiles := (getCell s n).tiles ++ [wait] } else getCell s n) ∧
        getCtx t c = { getCtx s c with
          starting := none
          started := (getCtx s c).started ++ [{ d with cells := BitVec.ofNat 256 (dfld w 0x20 255 0) }] } ∧
        (∀ m, m ≠ c → getCtx t m = getCtx s m) ∧ { t with cells := s.cells, hif := s.hif } = s) ∧
    (startingOf s c 0x04 = some d → dfld w 0x10 3 0 = 1 → unlocked s (dfld w 0x18 47 0) = false →
      let slot := dfld w 0x14 11 0
      let len := dfld w 0x14 27 16 + 1
      let src := dfld w 0x18 47 0
      (∀ k, lowest ((configCells w).map (bodyClash s slot len)) = some k →
        exec (.programBody c) s = .next (finishStarting c d stConfigConflict k s)) ∧
      (lowest ((configCells w).map (bodyClash s slot len)) = none → slot + len ≤ 4096 →
        ∃ t, exec (.programBody c) s = .next (finishStarting c d stOk 0 t) ∧
          (∀ n k, n ∈ configCells w → k < len → SMap.get 0 t.prog (n * 4096 + slot + k) =
            BitVec.ofNat 64 (leAt (memRead s src (8 * len)) (8 * k) 8)) ∧
          (∀ n k, k < 4096 → (n ∉ configCells w ∨ k < slot ∨ slot + len ≤ k) →
            SMap.get 0 t.prog (n * 4096 + k) = SMap.get 0 s.prog (n * 4096 + k)) ∧
          { t with prog := s.prog, progSrc := s.progSrc } = s))

/-- CELL_CONFIG writes the items of its image into the shadow of every named cell, and MODES stages its word, under a target
epoch that is the next of every named position or already pending there; the active configuration does not change (R82, R84,
R283, R284). Choices of the model that it rests on: log entries 25, 26 and 27. -/
def Obligations.ConfigurationGoesToShadow : Prop :=
  ∀ (s : State) (c : Ctx) (d : Desc),
    let w := d.words
    let e := BitVec.ofNat 16 (dfld w 0x10 31 16)
    let bs := memRead s (dfld w 0x18 47 0) 576
    startingOf s c 0x04 = some d →
    (∀ t, dfld w 0x10 3 0 = 2 → unlocked s (dfld w 0x18 47 0) = false → openShadows e (configPosns w) s = .inr t →
      imageRefused bs (configCells w) = none →
      ∃ u, exec (.cellConfig c) s = .next (finishStarting c d stOk 0 u) ∧
        (∀ n, (getCell u n).cfg = (getCell s n).cfg) ∧
        (∀ n, n ∈ configCells w → (getCell u n).shadow = writeItems bs (getCell t n).shadow) ∧
        (∀ n, n ∉ configCells w → getCell u n = getCell t n) ∧
        (∀ n, n ∈ configPosns w → (getPos u n).shadowEpoch = some e) ∧
        { u with cells := s.cells, posns := s.posns } = s) ∧
    (∀ t, dfld w 0x10 3 0 = 3 → openShadows e (configPosns w) s = .inr t →
      ∃ u, exec (.modes c) s = .next (finishStarting c d stOk 0 u) ∧
        SMap.get 0 u.pwr.staged c.toNat = mergeMode (SMap.get 0 s.pwr.staged c.toNat) (BitVec.ofNat 16 (dfld w 0x14 15 0)) ∧
        u.pwr.modes = s.pwr.modes ∧ (∀ n, (getCell u n).cfg = (getCell s n).cfg) ∧
        (∀ n, n ∈ configPosns w → (getPos u n).shadowEpoch = some e) ∧
        { u with cells := s.cells, posns := s.posns, pwr := s.pwr } = s) ∧
    (∀ k, openShadows e (configPosns w) s = .inl k →
      (dfld w 0x10 3 0 = 3 → exec (.modes c) s = .next (finishStarting c d stBadEpoch k s)) ∧
      (dfld w 0x10 3 0 = 2 → unlocked s (dfld w 0x18 47 0) = false →
        exec (.cellConfig c) s = .next (finishStarting c d stBadEpoch k s)))

/-- A STEP fence on a position with a pending shadow whose gangs agree makes that shadow the active configuration of every cell
and its epoch the active one; on a position without one nothing is configured anew; in both, semaphores go to 0, banks to EMPTY
and the array cold, and no other position changes (R60, R69, R78, R85). A STEP fence of a FENCE descriptor completes with the
status of the first refusal: the staged modes', else the first discarded shadow's, else OK (R85, R404). Choices of the model that
it rests on: log entry 25. -/
def Obligations.StepFences : Prop :=
  (∀ (s : State) (n : Nat),
      let rest := fun (k : Cell) => { k with
        sems := [], bank0 := { k.bank0 with st := .empty }, bank1 := { k.bank1 with st := .empty }
        kPhase := KindlePhase.off, kLevel := 0 }
      (∀ e, (getPos s n).shadowEpoch = some e → gangClash s n = none →
        let t := (fencePosn n s).2
        (fencePosn n s).1 = none ∧
        (∀ m, cellPosn m = n → getCell t m = { rest (getCell s m) with cfg := (getCell s m).shadow }) ∧
        (∀ m, cellPosn m ≠ n → getCell t m = getCell s m) ∧
        (getPos t n).activeEpoch = e ∧ (getPos t n).shadowEpoch = none) ∧
      ((getPos s n).shadowEpoch = none →
        let t := (fencePosn n s).2
        (∀ m, cellPosn m = n → getCell t m = rest (getCell s m)) ∧ (∀ m, cellPosn m ≠ n → getCell t m = getCell s m) ∧
        { getPos t n with kindleCnt := (getPos s n).kindleCnt } = getPos s n ∧ (∀ m, m ≠ n → getPos t m = getPos s m)) ∧
      (∀ e k, (getPos s n).shadowEpoch = some e → gangClash s n = some k →
        (fencePosn n s).1 = some k ∧ (getPos (fencePosn n s).2 n).shadowEpoch = none ∧
        (getPos (fencePosn n s).2 n).activeEpoch = (getPos s n).activeEpoch)) ∧
  (∀ (s : State) (c : Ctx) (d : Desc),
      startingOf s c 0x05 = some d → dOpf0 d.words = true → (getCtx s c).started = [] → cellsIdle s c = true →
      let staged := SMap.get 0 s.pwr.staged c.toNat
      let modes := applyModes c s
      let posns := fencePosns (maskPosns (getCtx s c).posns) modes.2
      (staged ≠ 0 → modeRefused s staged = true →
        exec (.stepFence c) s = .next (finishStarting c d stModeUnsupported staged.toNat (applyStaged posns.2))) ∧
      (∀ k, staged = 0 ∨ modeRefused s staged = false → posns.1 = some k →
        exec (.stepFence c) s = .next (finishStarting c d stBadConfig (cellDetail k) (applyStaged posns.2))) ∧
      (staged = 0 ∨ modeRefused s staged = false → posns.1 = none →
        exec (.stepFence c) s = .next (finishStarting c d stOk 0 (applyStaged posns.2))) ∧
      (staged ≠ 0 → modeRefused s staged = false → modes.2.pwr.modes = modesAfter s.pwr.modes staged))

/-! ### Streams, memory and reductions -/

/-- COPY and STREAM start, and bind a FREE stream context on a position that answers when every byte range in the package lies in
the owner's windows; they complete with the refusal otherwise. A COPY waits for a busy context, a STREAM does not (R178, R195,
R196, R279, R280, R299). Choices of the model that it rests on: log entries 71, 123 and 137. -/
def Obligations.StreamsBind : Prop :=
  ∀ (s : State) (c : Ctx) (d : Desc) (r : StreamReq),
    let w := d.words
    let x := getCtx s c
    let k := streamKey r.posn r.sctx
    let inWin := streamInWindows x r.src r.dst r.length (64 * r.runU) (64 * r.stepU)
    let bound : StreamCtx :=
      { st := .ready, owner := c, gen := x.gen, src := r.src, dst := r.dst, length := r.length, runU := r.runU
        stepU := r.stepU, tc := r.tc, port := x.port, key := d.key, ember := if r.ember then d.step else none, step := d.step
        ae := x.ae, x := r.ember, issued := 0, acked := 0, inflight := [], copies := 0 }
    let kept := modCtx c (fun x => { x with starting := none, started := x.started ++ [d] }) s
    let done := fun (st detail : Nat) => Host.Outcome.next (refuseStream c d r.ember st detail kept)
    let started := Host.Outcome.next { kept with streams := SMap.set StreamCtx.init s.streams k bound }
    let locked := sideUnlocked s r.src = false ∧ sideUnlocked s r.dst = false
    let openOk := locked ∧ (r.ember = true → (emberStep s c).any (fun h => emberFits h r.dst r.length) = true)
    (startingOf s c 0x01 = some d → copyReq s c w = some r →
      (openOk → (getStream s k).st = .free →
        (inWin = true → posnAnswers s r.posn = true → exec (.copy c) s = started) ∧
        (inWin = false → exec (.copy c) s = done stStreamWindow 0) ∧
        (inWin = true → posnAnswers s r.posn = false → exec (.copy c) s = done stDomainReset 0)) ∧
      (openOk → (getStream s k).st ≠ .free → exec (.copy c) s = .next kept) ∧
      (¬locked → exec (.copy c) s = done stMemUnlocked 0) ∧
      (locked → r.ember = true → emberStep s c = none →
        exec (.copy c) s = .next (finishStarting c d stBadTarget 2 s)) ∧
      (∀ h, locked → r.ember = true → emberStep s c = some h → emberFits h r.dst r.length = false →
        exec (.copy c) s = done stBadTarget 0x18)) ∧
    (startingOf s c 0x02 = some d → dfld w 0x10 23 20 ≠ 1 → streamReq w = r →
      (openOk → (getStream s k).st = .free → inWin = true → posnAnswers s r.posn = true → exec (.stream c) s = started) ∧
      (openOk → (getStream s k).st = .free → inWin = false → exec (.stream c) s = done stStreamWindow 0) ∧
      (openOk → (getStream s k).st = .free → inWin = true → posnAnswers s r.posn = false →
        exec (.stream c) s = done stDomainReset 0) ∧
      (openOk → (getStream s k).st ≠ .free → exec (.stream c) s = done stStreamBusy r.sctx) ∧
      (¬locked → exec (.stream c) s = done stMemUnlocked 0) ∧
      (locked → r.ember = true → emberStep s c = none →
        exec (.stream c) s = .next (finishStarting c d stBadTarget 2 s)) ∧
      (∀ h, locked → r.ember = true → emberStep s c = some h → emberFits h r.dst r.length = false →
        exec (.stream c) s = done stBadTarget 0x20))

/-- A transfer engine with room grants the next requesting stream in turn, which moves one chunk: 4,096 bytes at most, no more
than is left, and not across a stripe; a stream whose generation has passed moves nothing, and one that a check stops ends (R23,
R184, R196, R197, R198). Choices of the model that it rests on: log entries 75, 117 and 121. -/
def Obligations.EngineMovesOneChunk : Prop :=
  ∀ (s : State) (posn : Posn) (engine : Fin 32) (credit : Bool) (store : ReadErr) (i : Nat),
    let n := posn.val
    let p := getPos s n
    let k := streamKey n (32 * i + engine.val)
    let t := getStream s k
    let turn := storeRead n store
      (modPos n (fun p => { p with turnPtr := SMap.set 0 p.turnPtr engine.val ((i + 1) % 4096) }) s)
    posnAnswers s n = true → engine.val ∉ p.engReset → engineLoad s n engine.val < 64 →
    roundRobin (SMap.get 0 p.turnPtr engine.val) 4096 (fun i => wantsTurn s (streamKey n (32 * i + engine.val))) = some i →
    (∀ g, streamLive turn t = true → turnStop turn t = none → credit = true → chunkLen turn k t ≠ 0 →
      guestPass n t (chunkLen turn k t) turn = (true, g) →
      exec (.engineTurn posn engine ⟨credit, store⟩) s = .next (moveChunk k (chunkLen turn k t) g)) ∧
    (∀ g, streamLive turn t = true → turnStop turn t = none → credit = true → chunkLen turn k t ≠ 0 →
      guestPass n t (chunkLen turn k t) turn = (false, g) →
      exec (.engineTurn posn engine ⟨credit, store⟩) s = .next (endStream k stStreamWindow (t.acked / 64) g)) ∧
    (∀ st, streamLive turn t = true → turnStop turn t = some st →
      exec (.engineTurn posn engine ⟨credit, store⟩) s = .next (stopStream k t.issued st turn)) ∧
    (streamLive turn t = true → turnStop turn t = none → credit = false →
      exec (.engineTurn posn engine ⟨credit, store⟩) s = .next turn) ∧
    (streamLive turn t = false → t.inflight = [] →
      exec (.engineTurn posn engine ⟨credit, store⟩) s =
        .next { turn with streams := SMap.set StreamCtx.init s.streams k StreamCtx.init }) ∧
    chunkLen turn k t ≤ 4096 ∧ chunkLen turn k t ≤ t.length - t.issued

/-- The oldest chunk of a stream that returns good lands at its offset from the destination and is acknowledged there; the last
one completes the stream with OK. A failed burst of HBM ends it with STREAM_UE, one that meets a held channel waits in its queue,
and a chunk of a passed generation is discarded and counted (R184, R187, R196, R198). A STREAM of kind REDUCE binds its stream
context, opens this member's part when its windows and room allow, and its leaves send; an operand that arrives waits for its
partner, or the sum of both, the lower members' on the left, goes on from the node: here it lands. What no open reduction takes
is discarded and counted, and the step aborts (R134, R135, R248 to R251, R281). Choices of the model that it rests on: log
entries 29, 31 and 75. -/
def Obligations.ChunksLandAndReductionsPair : Prop :=
  (∀ (s v : State) (posn : Posn) (sctx : BitVec 17) (errs : List BurstErr) (data : List Byte) (ch : Chunk) (rest : List Chunk)
      (src : Side) (a : BitVec 48),
      let k := streamKey posn.val sctx.toNat
      let t := getStream s k
      let back := chunkBack k v
      let landed := modStream k (fun t => { t with acked := t.acked + ch.len }) (memWrite (a.toNat + ch.off) ch.data back)
      let comes := streamLive s t = true ∧ queuedChunks s k = 0 ∧ landable s k t = true ∧ edgeHeld s posn.val t = false
      t.inflight = ch :: rest → t.st ≠ .free →
      (comes → chunkHold s t ch.off = none → stopAt s t ch.off = none → t.src = src → (∀ r b, src ≠ .fabric r b) →
        (getStream v k).inflight = ch :: rest → (getStream v k).acked = t.acked → (getStream v k).dst = .dpa a →
        (getStream v k).ember = none → (getStream v k).src = src → (getStream v k).length = t.length →
        (getStream v k).st = t.st → (getStream v k).copies = 0 →
        (chunkVerdict t ch.off ch.len errs s = (false, v) → cellOf back a.toNat = none →
          guestOf back (a.toNat + ch.off) = none →
          ((rest ≠ [] ∨ t.acked + ch.len ≠ t.length) →
            exec (.chunkReturn posn sctx errs data) s = .next landed) ∧
          (rest = [] → t.st = .done → t.acked + ch.len = t.length →
            exec (.chunkReturn posn sctx errs data) s = .next (endStream k stOk 0 landed))) ∧
        (chunkVerdict t ch.off ch.len errs s = (true, v) →
          exec (.chunkReturn posn sctx errs data) s = .next (endStream k stStreamUe (t.acked / 64) back))) ∧
      (∀ n q, comes → chunkHold s t ch.off = some (n, q) →
        exec (.chunkReturn posn sctx errs data) s = .next (modPos n (fun p => { p with
          chanQ := SMap.upd [] p.chanQ q (fun l => l ++ [{ key := k, desc := t.key, errs := errs, data := data }]) }) s)) ∧
      (∀ st, comes → chunkHold s t ch.off = none → stopAt s t ch.off = some st →
        exec (.chunkReturn posn sctx errs data) s = .next (stopStream k ch.off st (chunkBack k s))) ∧
      (streamLive s t = false → rest ≠ [] → queuedChunks s k ≤ rest.length →
        exec (.chunkReturn posn sctx errs data) s = .next (countDropped t.owner 1 (chunkBack k s)))) ∧
  (∀ (s g : State) (c : Ctx) (d : Desc) (redid shard : BitVec 16) (lo hi : BitVec 15) (off : BitVec 40)
      (data : List (BitVec 32)) (i j : Nat) (r : Reduction) (n : RedNode),
      let w := d.words
      let ns := readNodes s (dfld w 0x38 47 0) (dfld w 0x38 63 48)
      let new := newReduction c d ns
      (startingOf s c 0x02 = some d → dfld w 0x10 23 20 = 1 →
        [dfld w 0x20 47 0, dfld w 0x28 47 0, dfld w 0x38 47 0].any (unlocked s) = false →
        ((getStream s new.stream).st ≠ .free →
          exec (.streamReduce c) s = .next (finishStarting c d stStreamBusy (dfld w 0x10 16 0) s)) ∧
        ((getStream s new.stream).st = .free → redInWindows (getCtx s c) w ns = true →
          posnAnswers s (dfld w 0x10 19 17) = true →
          (redWindows new ≤ 128 - s.fab.windowsUsed → mayRead new s = (true, g) → tracksOutputs g = false →
            let t := modFab (fun f => { f with
              reductions := f.reductions.filter (fun q => !(q.done && q.redid == new.redid)) ++ [new]
              windowsUsed := f.windowsUsed + redWindows new })
                (modStream new.stream (fun _ => redStream (keepStarting c d g) c d) (keepStarting c d g))
            ∃ m, redPlace t new.redid true = some m ∧ exec (.streamReduce c) s = .next (finishRed m (pumpLeaves m t))) ∧
          (128 - s.fab.windowsUsed < redWindows new →
            exec (.streamReduce c) s = .next (chargeCause causeProgram
              (finishStarting c d stRedNobuf (128 - s.fab.windowsUsed) s))))) ∧
      (let o : RedOperand := { shard := shard.toNat, lo := lo.toNat, hi := hi.toNat, off := off.toNat, data := data }
       let z := { o with data := realElements s i off.toNat data }
       redPlace s redid true = some i → s.fab.reductions[i]? = some r → placeOf (takesOperand o) r.nodes = some j →
        r.nodes[j]? = some n →
        (r.operands.find? (partnerOperand n z) = none →
          exec (.reductionOperandArrive redid shard lo hi off data) s =
            .next (finishRed i (pumpLeaves i (modRed i (fun r => { r with operands := r.operands ++ [z] }) s)))) ∧
        (∀ q, r.operands.find? (partnerOperand n z) = some q → n.land = true → n.bcast = false →
          let sum := if z.lo < q.lo then List.zipWith fadd z.data q.data else List.zipWith fadd q.data z.data
          exec (.reductionOperandArrive redid shard lo hi off data) s =
            .next (finishRed i (pumpLeaves i (landRed i n.shard off.toNat sum
              (modRed i (fun r => { r with sent := SMap.upd 0 r.sent j (fun k => k + sum.length) })
                (modRed i (fun r => { r with operands := r.operands.filter (fun y => !(partnerOperand n z y)) }) s))))))) ∧
      (redPlace s redid true = none → s.step.held.any (fun h => decide (h.st = .aborting) || decide (h.st = .halted)) = false →
        exec (.reductionOperandArrive redid shard lo hi off data) s =
          .next (chargeCause causeProgram (modFab (fun f => { f with drop := satUp f.drop 1 }) s))))

/-- What the patrol finds in a slot: a burst that the stack corrected counts for its pseudo-channel, one that the controller
corrected counts for its stripe, channel and pseudo-channel and for the error-rate watch, and a failed one is marked, recorded
and clears the check flag (R182 to R184). A stripe that held a failed burst, or gathered enough corrected ones, is mapped to the
lowest FREE reserve entry, with its event and the tables saved, and an entry that held it is BAD; where no entry is FREE it is
withdrawn. One of persistent state waits for a commit that runs, and what is withdrawn already stays so (R185, R186, R190). A
channel that runs is held for its retrain in both pseudo-channels; when they pass, the bursts saved from their last reserve slots
are written back and the accesses that waited are released. One that fails goes LIMP, and its map-out starts when no commit of
persistent state runs, PC0 before PC1 (R187, R188). Choices of the model that it rests on: log entries 30, 75, 119, 130 and 131.
-/
def Obligations.MemoryControllers : Prop :=
  (∀ (s : State) (posn : Posn) (pc : Fin 64) (slot : BitVec 18) (l a : Nat) (b : Nat),
      let n := posn.val
      let q := pc.val
      slotHolds (getPos s n) q slot.toNat = some l → stripeDpa s n l = some a → b < 64 → a % 64 = 0 →
      (getChan (getPos s n) q).dead = false → (∀ k, k < 64 → s.failed.contains (a / 64 + k) = false) →
      let seen := modPos n (fun p => { p with stripeCe := SMap.set 0 p.stripeCe l 0 }) s
      exec (.patrolRead posn pc slot []) s = .next seen ∧
      exec (.patrolRead posn pc slot [{ burst := b, onDie := true, result := .clean }]) s =
        .next (modChan n q (fun c => { c with odce := satUp c.odce 1 }) seen) ∧
      (fld s.memRegs.rasCfg 15 0 = 0 →
        ∃ t, exec (.patrolRead posn pc slot [{ burst := b, onDie := false, result := .corrected }]) s = .next t ∧
        SMap.get 0 (getPos t n).stripeCe l = 1 ∧
        (SMap.get [] (getPos t n).chanCe (q / 2)).getLast? = some s.mgmt.ptb ∧
        (getChan (getPos t n) q).ce = satUp (getChan (getPos s n) q).ce 1 ∧
        t.bank.arrivals = s.bank.arrivals ++ [(.mem, s.mgmt.ptb)] ∧
        (∀ m, m ≠ n → getPos t m = getPos s m) ∧ { t with posns := s.posns, bank := s.bank } = s) ∧
      exec (.patrolRead posn pc slot [{ burst := b, onDie := false, result := .failed }]) s =
        .next (clearCheck (recordFailed n q l (a + 64 * b) (markFailed (a + 64 * b) seen))) ∧
      (getChan (getPos (recordFailed n q l (a + 64 * b) (markFailed (a + 64 * b) seen)) n) q).ue =
        satUp (getChan (getPos s n) q).ue 1) ∧
  (∀ (s : State) (posn : Posn) (stripe : BitVec 24) (pulled : Option (List (Nat × Byte))),
      let n := posn.val
      let p := getPos s n
      let l := stripe.toNat
      let waits := commitRunning s && (stripeDpa s n l).any (fun a => mirroredArea s a 4096)
      let calm := modPos n (fun p => { p with
        failedStripes := p.failedStripes.filter (fun k => k ≠ l), stripeCe := SMap.set 0 p.stripeCe l 0 }) s
      let gone := match remapOf p l with
        | some o => modPos n (fun p => { p with remap := SMap.set Remap.init p.remap o { st := .bad, home := 0 } }) calm
        | none => calm
      let map := fun (r : Nat) => modPos n (fun p => { p with
        remap := SMap.set Remap.init p.remap r { st := .mapped, home := stripe } }) gone
      let told := fun (r : Nat) (t : State) =>
        raise 0x0302 (posUnit n (0x40 + chanOf p l)) { posn := some n, arg0 := r, arg1 := l } t
      let worn := p.failedStripes.contains l = false ∧ fld s.memRegs.rasCfg 23 16 ≠ 0 ∧
        fld s.memRegs.rasCfg 23 16 ≤ SMap.get 0 p.stripeCe l
      l < stripesPerPosn →
      (withdrawn p l = true → exec (.stripeRemap posn stripe ⟨true, pulled⟩) s = .next calm) ∧
      (withdrawn p l = false →
        (waits = false → ∀ r, lowestFree (getPos gone n) = some r →
          exec (.stripeRemap posn stripe ⟨true, pulled⟩) s = .next (saveRemap n (told r (restoreStripe n l pulled (map r))))) ∧
        (worn → ∀ r, lowestFree (getPos gone n) = some r →
          exec (.stripeRemap posn stripe ⟨false, pulled⟩) s = .next (saveRemap n (told r (map r)))) ∧
        (waits = false → lowestFree (getPos gone n) = none →
          exec (.stripeRemap posn stripe ⟨true, pulled⟩) s = .next (saveRemap n (withdraw n l gone))) ∧
        (waits = true → exec (.stripeRemap posn stripe ⟨true, pulled⟩) s = .next s))) ∧
  (∀ (s : State) (posn : Posn) (ch : Fin 32) (pc : Fin 64) (dead : Bool) (pulled : Option (List (Nat × Byte))),
      let n := posn.val
      let st := fun (q : Nat) => (getChan (getPos s n) q).st
      (st (2 * ch.val) = .normal → st (2 * ch.val + 1) = .normal → ∃ t, exec (.channelRetrain posn ch) s = .next t ∧
        (∀ q, getChan (getPos t n) q = if q / 2 = ch.val then
          { getChan (getPos s n) q with st := .retrain, retrains := satUp (getChan (getPos s n) q).retrains 1 }
          else getChan (getPos s n) q) ∧
        (∀ q, q / 2 = ch.val → SMap.get [] (getPos t n).saveBuf q = saveSlot s n q) ∧
        t.mgmt.queue.length = s.mgmt.queue.length + 1 ∧ t.bank.arrivals = s.bank.arrivals ++ [(.retrain, s.mgmt.ptb)] ∧
        (∀ m, m ≠ n → getPos t m = getPos s m) ∧
        { t with posns := s.posns, mgmt := s.mgmt, bank := s.bank } = s) ∧
      (st (2 * ch.val) = .retrain → st (2 * ch.val + 1) = .retrain →
        exec (.retrainComplete posn ch) s = .next (releaseChannel n ch.val
          (modChan n (2 * ch.val + 1) (fun c => { c with st := .normal }) (writeBack n (2 * ch.val + 1)
            (modChan n (2 * ch.val) (fun c => { c with st := .normal }) (writeBack n (2 * ch.val) s)))))) ∧
      (st pc.val = .retrain →
        exec (.mapout posn ⟨pc, dead, pulled⟩) s = .next (clearCheck (raise 0x0304 (posUnit n (0x40 + pc.val))
          { posn := some n } (modChan n pc.val (fun c => { c with st := .limp, dead := dead }) s)))) ∧
      (st pc.val = .limp → pcWaits s n pc.val = false → commitRunning s = false →
        exec (.mapout posn ⟨pc, dead, pulled⟩) s = .next (mapoutStart n pc.val pulled s)) ∧
      (st pc.val = .mapout → commitRunning s = false →
        exec (.mapout posn ⟨pc, dead, pulled⟩) s = .next (mapoutFinish n pc.val pulled s)) ∧
      ((st pc.val = .limp ∧ (pcWaits s n pc.val = true ∨ commitRunning s = true)) ∨ (st pc.val = .mapout ∧ commitRunning s = true) →
        exec (.mapout posn ⟨pc, dead, pulled⟩) s = .next s))

/-! ### Contexts -/

/-- CTX_CMD: CREATE makes a context from a good block ACTIVE with its sync objects at 0 and its rings at their start, keeping its
generation, and loads CTX_STATUS; a failed check loads its RESULT and changes nothing else, but that a block that cannot be read
is an error of the function's AER; QUERY only loads CTX_STATUS (R253, R257, R259, R292). HIF_FUNC_CFG takes a write that R256
does not refuse, with its reserved bits 0, and raises HIF_CFG_REFUSED otherwise; VF Enable fixes VFPAGES of the port's VFs, and
of its SR-IOV capability, once (R255, R256). -/
def Obligations.ContextsAndFunctions : Prop :=
  (∀ (s : State) (f : Fin 64) (c : Ctx) (read : HostReadEnd), funcLive s f = true →
      let r := createResult s f.val c read
      let q := if inFuncRange s f.val c.toNat then 0 else 1
      let status := fun (r : Nat) (t : State) => modHif (fun h => { h with
        pages := SMap.upd FuncPage.init h.pages f.val (fun p => { p with
          statCtx := c, result := BitVec.ofNat 4 r, inRange := inFuncRange s f.val c.toNat }) }) t
      (r ≠ 0 → (r ≠ 3 ∨ read = .good) → exec (.ctxCreate f c read) s = .next (status r s)) ∧
      (r = 3 → read ≠ .good → exec (.ctxCreate f c read) s =
        .next (status 3 (modHif (fun h => { h with aer := SMap.upd [] h.aer f.val (fun l => l ++ [read]) }) s))) ∧
      (r = 0 →
        let x := createdContext s f (getCtx s c)
        ∃ t, exec (.ctxCreate f c read) s = .next t ∧ getCtx t c = x ∧ x.st = .active ∧ x.gen = (getCtx s c).gen ∧
          (∀ o, getSync t o = if x.syncBase ≤ o ∧ o < x.syncBase + x.syncCount then SyncObj.init else getSync s o) ∧
          (∀ m, m ≠ c → getCtx t m = getCtx s m) ∧ (SMap.get FuncPage.init t.hif.pages f.val).result = 0 ∧
          { t with hif := s.hif } = s) ∧
      exec (.ctxQuery f c) s = .next (status q s)) ∧
  (∀ (s : State) (f : Fin 64) (v : BitVec 64) (port : Fin 2),
      let kept := setFld (setFld (setFld v 31 26 0) 63 61 0) 25 25 (if f.val = 0 then 0 else fld v 25 25)
      (funcCfgRefused s f.val kept = false → exec (.hifFuncCfgWrite f v) s =
        .next (modHif (fun h => { h with funcCfg := SMap.set 0 h.funcCfg f.val kept }) s)) ∧
      (funcCfgRefused s f.val kept = true → exec (.hifFuncCfgWrite f v) s =
        .next (raise 0x0601 (hubUnit 0) { arg0 := f.val, arg1 := v.toNat } s)) ∧
      (SMap.get false s.hif.vfEnabled port.val = false → ∃ t, exec (.vfEnable port) s = .next t ∧
        SMap.get false t.hif.vfEnabled port.val = true ∧ vfBar2Of t port = vfPagesOf s port ∧
        (∀ g, g < 64 → (SMap.get FuncPage.init t.hif.pages g).vfPages =
          if g ≠ 0 ∧ fcPort (funcCfg s g) = port then vfPagesOf s port else (SMap.get FuncPage.init s.hif.pages g).vfPages) ∧
        t.hif.ctxs = s.hif.ctxs ∧ t.hif.funcCfg = s.hif.funcCfg ∧ { t with hif := s.hif } = s))

/-- A teardown begins by descriptor, by CTX_CMD, by a host DMA error, by a function level reset and by the loss of a host port;
it changes the generation once the resolved commits have ended, which stops the context's records (R88, R288, R290, R324). The
end of a teardown: the generation rises by one at its change; at the end the completion is written, TORN_DOWN is raised, the
context is FREE with nothing held, its steps are gone, and its memory waits for the firmware scrub, which zeroes it (R257, R288,
R289, R390). Choices of the model that it rests on: log entries 32 and 78. -/
def Obligations.Teardowns : Prop :=
  (∀ (s : State) (f : Fin 64) (c : Ctx) (d : Desc) (port : Fin 2),
      (startingOf s c 0x0E = some d → (getCtx s c).started = [] →
        exec (.teardown c) s = .next (beginTeardown c (some d) s)) ∧
      (funcLive s f = true → inFuncRange s f.val c.toNat = true → (getCtx s c).st = .active →
        exec (.ctxTeardown f c) s = .next (setStatus f.val c 0 (beginTeardown c none s))) ∧
      ((getCtx s c).st = .active → exec (.hostDmaError c) s = .next (beginTeardown c none s)) ∧
      ((getCtx s c).st = .active → ∀ td, beginTeardown c td s = teardownStage2 c (modCtx c (fun x => { x with
        st := .draining, fetchStopped := true, fetched := [], starting := none, waiting := none, tearDesc := td
        tearT0 := none }) s)) ∧
      (f ≠ 0 → exec (.functionLevelReset f port) s = .next (tearAll (fun x => decide (x.func = f)) s)) ∧
      exec (.functionLevelReset 0 port) s = .next (modHif (fun h => { h with
        vfEnabled := SMap.set false h.vfEnabled port.val false }) (tearAll (onHostPort s port) s)) ∧
      exec (.perstAssert port) s = .next (modHif (fun h => { h with
        perst := SMap.set true h.perst port.val true, linkUp := SMap.set false h.linkUp port.val false })
          (tearAll (onHostPort s port) (pathLost port s))) ∧
      exec (.hostLinkDown port) s = .next (modHif (fun h => { h with
        linkUp := SMap.set false h.linkUp port.val false }) (tearAll (onHostPort s port) (pathLost port s))) ∧
      ((getCtx s c).st = .draining → exec (.contextResetTimeout c) s = .next (forAll (issuingEngines s c)
        (fun r => startReset r true) s))) ∧
  (∀ (s : State) (c : Ctx) (t0 : BitVec 64) (w : Window),
      let x := getCtx s c
      (x.st = .draining → x.tearT0 = none → commitsRun s c = false → ∃ t, exec (.teardownGenerationChange c) s = .next t ∧
        (getCtx t c).gen = x.gen + 1 ∧ (getCtx t c).tearT0 = some s.mgmt.ptb ∧ recordsOpen (getCtx t c) = false ∧
        t.mem = s.mem ∧ t.acc = s.acc ∧ t.prog = s.prog ∧ t.step = s.step) ∧
      (x.st = .draining → x.tearT0 = some t0 → ∃ t, exec (.teardownFinish c) s = .next t ∧
        (getCtx t c).st = .free ∧ (getCtx t c).gen = x.gen ∧ (getCtx t c).posns = 0 ∧ (getCtx t c).windows = [] ∧
        (getCtx t c).holdsStep = false ∧
        t.step.held = s.step.held.filter (fun h => h.ctx != c) ∧
        t.hif.scrubs = s.hif.scrubs ++ [{ ctx := some c, ticket := 0, windows := x.windows, posns := x.posns }] ∧
        t.mem = s.mem ∧ t.cells = s.cells) ∧
      (∀ rest k, s.hif.scrubs = { ctx := some k, ticket := 0, windows := [w], posns := 0 } :: rest →
        ∃ t, exec .firmwareScrub s = .next t ∧ t.hif.scrubs = rest ∧
          (∀ a, SMap.get 0 t.mem a = if w.base ≤ a ∧ a < w.limit then 0 else SMap.get 0 s.mem a) ∧
          t.cells = s.cells ∧ t.host = s.host))

/-! ### The step transaction -/

/-- STEP_OPEN completes with its first refusal, waits while every ember slot is held, or opens its step last in the list and
moves SEQ.NEXT on (a step that alone carries its number and has no cause waiting), and completes when its fence has drained; a
wait as long as the limit ends in STEP_DEPTH; a good variant block is bound to the step open, a bad one completes BAD_VARIANT and
aborts the step with PROGRAM, and with no step open it only completes BAD_VARIANT (R158, R295, R298, R310). Choices of the model
that it rests on: log entries 10, 41, 132 and 134. -/
def Obligations.StepsOpen : Prop :=
  ∀ (s : State) (c : Ctx) (d : Desc) (t0 : BitVec 64) (i : Nat) (h : Held),
    let w := d.words
    let n := BitVec.ofNat 64 (dfld w 0x10 63 0)
    let a := dfld w 0x10 47 0
    let bs := memRead s a 12352
    let lim := fld s.hif.syncWait 23 0
    let offs := variantBad (getCtx s c).posns bs ++ (slotsMeet (variantSlots bs)).toList
    (startingOf s c 0x07 = some d → d.refetched = false → openedBy s c d = none →
      (∀ st det, openRefusal s c w = some (st, det) → exec (.stepOpen c) s = .next (finishStarting c d st det s)) ∧
      (openRefusal s c w = none → s.pwr.modes.depth ≤ s.step.held.length → exec (.stepOpen c) s =
        .next (modStep (fun e => { e with openWaitSince := e.openWaitSince.or (some s.mgmt.ptb) }) s)) ∧
      (openRefusal s c w = none → s.step.held.length < s.pwr.modes.depth →
        heldStep s n = none → s.step.clearNext = false → s.step.abortNext = [] → ∃ t, exec (.stepOpen c) s = .next t ∧
        t.step.held = s.step.held ++ [openedStep s c d] ∧ t.step.next = s.step.next + 1 ∧
        t.step.number = s.step.number ∧ t.step.cursor = s.step.cursor ∧
        (getCtx t c).starting = (if openDrained s c then none else some d) ∧
        t.mem = s.mem ∧ t.prog = s.prog ∧ t.streams = s.streams)) ∧
    (startingOf s c 0x07 = some d → openedBy s c d = some i → s.step.held[i]? = some h →
      (openDrained s c = true → exec (.stepOpen c) s = .next (openFence c d i h s)) ∧
      (openDrained s c = false → exec (.stepOpen c) s = .next s)) ∧
    (startingOf s c 0x07 = some d → s.step.openWaitSince = some t0 → exec (.stepDepthTimeout c) s =
      .next (finishStarting c d stStepDepth s.step.held.length (modStep (fun e => { e with openWaitSince := none })
        (advanceTo (t0 + msec (if lim = 0 then 10000 else lim)) s)))) ∧
    (startingOf s c 0x0D = some d → (getCtx s c).started = [] → d.step = some h.step → heldPlace s h.step = some i →
      s.step.held[i]? = some h →
      (h.st ≠ .opened → exec (.variant c) s = .next (finishStarting c d stBadVariant 0 s)) ∧
      (h.st = .opened → h.variant = none → h.emberBase ≤ a → a + 12352 ≤ h.emberBase + h.emberBytes →
      reaches (getCtx s c) a 12352 = true →
      (offs = [] → exec (.variant c) s = .next (finishStarting c d stOk 0
        (modHeld i (fun h => { h with variant := some (variantTable bs) }) s))) ∧
      (∀ o, leastOf offs = some o → exec (.variant c) s =
        .next (injectAbort i causeProgram (finishStarting c d stBadVariant o s)))))

/-- STEP_VOTE for a step that is not the oldest uncast one completes STEP_ORDER; one whose contribution is ABORT injects the
ABORT with its cause; else it casts: the step record is written at the end of ember, with MIRROR on its copy is acknowledged
first, and the vote waits for the children's. A vote of a child is held unless it is for a step or attempt that is past, and one
of an unknown partition is dropped and counted (R304, R305, R309). Choices of the model that it rests on: log entry 137. -/
def Obligations.VotesAreCast : Prop :=
  ∀ (s : State) (c : Ctx) (d : Desc) (i r : Nat) (h : Held) (child : BitVec 14) (msg : Tc0),
    let w := d.words
    let n := BitVec.ofNat 64 (dfld w 0x10 63 0)
    let umask := BitVec.ofNat 8 (dfld w 0x18 47 40)
    let mirror := s.pwr.modes.mirror
    let lists := validLists s h mirror umask (voteLists w)
    let vote := contribution s h w lists
    let voted : Held := { h with
      umask := umask, updl := voteLists w, lists := lists.getD [], vote := some vote.1
      mask := skipMask h, voteKey := some d.key, mirrored := mirror }
    let cast : Held := { voted with st := .cast, castAt := s.mgmt.ptb, recordSent := false }
    let kept := keepStarting c d s
    let at_ := h.emberBase + h.emberBytes - 4096
    (startingOf s c 0x08 = some d → oldestUncast s = none →
      exec (.stepVote c) s = .next (finishStarting c d stStepOrder (s.step.next.toNat % 2 ^ 32) s)) ∧
    (startingOf s c 0x08 = some d → placeOf uncast s.step.held = some i → oldestUncast s = some h →
      (h.step ≠ n ∨ h.ctx ≠ c →
        exec (.stepVote c) s = .next (finishStarting c d stStepOrder (h.step.toNat % 2 ^ 32) s)) ∧
      (h.step = n → h.ctx = c → umask &&& (getCtx s c).posns ≠ umask →
        exec (.stepVote c) s = .next (finishStarting c d stBadTarget 0x1D s)) ∧
      (h.step = n → h.ctx = c → umask &&& (getCtx s c).posns = umask → h.voteKey = none →
        (∀ e ∈ (getCtx s c).started, e.step ≠ some n) →
        (vote.1 = .abort → exec (.stepVote c) s = .next (injectAbort i vote.2 kept)) ∧
        (vote.1 ≠ .abort → (mirror = false ∨ mirrorable s c at_ = false) → follower s = false →
          r ∈ childRanks (rankOf s c).toNat (rankTotal s c) → childVote s cast r = none →
          exec (.stepVote c) s = .next (memWrite at_ (stepRecord cast) (modHeld i (fun _ => cast) kept))) ∧
        (vote.1 ≠ .abort → mirror = true → mirrorable s c at_ = true →
          exec (.stepVote c) s = .next (modHeld i (fun k => { k with recordSent := true })
            (sendMirror c (2 ^ 20 * StepCopy.record.code) 0 at_ (stepRecord voted)
              (memWrite at_ (stepRecord voted) (modHeld i (fun _ => voted) kept))))))) ∧
    (placeOf Held.recordSent s.step.held = some i → recordAcked s = castNow i s) ∧
    (entryOfPid s msg.pid = none → exec (.voteReceive child msg) s = .next (dropTc0 s)) ∧
    (∀ k, entryOfPid s msg.pid = some k →
      (staleVote s msg = true → exec (.voteReceive child msg) s = .next s) ∧
      (staleVote s msg = false → heldPlace s msg.step = none → exec (.voteReceive child msg) s =
        .next (modStep (fun e => { e with
          votes := e.votes ++ [{ child := child, rollcall := false, since := s.mgmt.ptb, msg := msg }] }) s)))

/-- A RESOLVE is forwarded once, and resolves the cast step it names by its outcome; an ABORT is forwarded when its key is
higher, and aborts the step it names when it is open, the root with a RESOLVE over the partition; what is for no partition here
is in transit; no RESOLVE within 100 µs of an ABORT aborts the cast step, the lease injects VOTE_TIMEOUT (log entry 45), and
STEP_CTRL charges HOST (R239, R296, R297, R306, R307). A step that resolves ABORT enters ABORTING with its cause: fetching stops,
the abort epoch and the counter rise by one, the round of its next attempt starts, and no memory changes; an FCHECK that runs to
its end counts before; cause MIRROR_LOST apart (R145, R287, R295, R315, R316, R461). Choices of the model that it rests on: log
entries 9, 10, 81 and 133. -/
def Obligations.StepsResolve : Prop :=
  (∀ (s : State) (port : Fin 24) (msg : Tc0) (k i : Nat) (h : Held) (ab : BitVec 64),
      let fwd := forwardResolve k port.val msg s
      let flood := floodAbort k (some port.val) msg s
      let mask := (BitVec.ofNat 64 (fld msg.body 63 0)).setWidth 1024
      let one := fun (h : Held) => { h with resSegs := [(0, BitVec.ofNat 64 (fld msg.body 63 0))] }
      (entryOfPid s msg.pid = none →
        exec (.resolve port msg) s = .next (transitTc0 port.val msg s) ∧
        exec (.abortReceive port msg) s = .next (transitTc0 port.val msg s)) ∧
      (entryOfPid s msg.pid = some k → heldPlace s msg.step = some i → heldStep s msg.step = some h →
        (h.st = .cast → h.attempt = msg.attempt → follower s = false → h.abortAt = none → h.resSegs = [] →
          (msgOutcome msg = 0 → msgSeg msg = 0 → msgSegs msg = 1 →
            exec (.resolve port msg) s = .next (resolveCommit i mask (modHeld i one fwd))) ∧
          (msgOutcome msg = 1 → msgSeg msg = 0 → msgSegs msg = 1 →
            exec (.resolve port msg) s = .next (resolveSkip i (modHeld i one fwd))) ∧
          (msgOutcome msg = 2 → exec (.resolve port msg) s = .next (resolveAbort i msg.cause fwd))) ∧
        (h.attempt ≠ msg.attempt → exec (.resolve port msg) s = .next fwd)) ∧
      (entryOfPid s msg.pid = some k → keyHigher msg.step msg.attempt (getPart s k).abortKey = false →
        exec (.abortReceive port msg) s = .next s) ∧
      (entryOfPid s msg.pid = some k → keyHigher msg.step msg.attempt (getPart s k).abortKey = true →
        (getPart s k).ranked = true → (getCtx s (getPart s k).ctx).holdsStep = true →
        heldPlace s msg.step = some i → heldStep s msg.step = some h → s.step.held[i]? = some h → h.st = .opened →
        (h.attempt = msg.attempt → isRoot s h.ctx = false →
          exec (.abortReceive port msg) s = .next (resolveAbort i msg.cause flood)) ∧
        (h.attempt = msg.attempt → isRoot s h.ctx = true → exec (.abortReceive port msg) s = .next (rootAbort i msg.cause flood)) ∧
        (msg.attempt < h.attempt → exec (.abortReceive port msg) s = .next flood)) ∧
      (placeOf (fun h => decide (h.st = .cast) && h.abortAt.isSome && !(lostEntry s h.ctx)) s.step.held = some i → s.step.held[i]? = some h →
        h.abortAt = some ab → exec .castResolveTimeout s = .next (resolveAbort i h.cause (advanceTo (ab + usec 100) s))) ∧
      (placeOf (fun h => decide (h.st = .cast) && !(lostEntry s h.ctx)) s.step.held = some i → s.step.held[i]? = some h →
        exec .voteLeaseExpiry s = .next (injectAbort i causeVoteTimeout (advanceTo (h.castAt + msec (voteLease s)) s))) ∧
      ((stepHolder s).isSome = true → exec .stepCtrlAbort s = .next (chargeCause causeHost s)) ∧
      (stepHolder s = none → exec .stepCtrlAbort s = .next s)) ∧
  (∀ (s : State) (i : Nat) (h : Held) (cause : BitVec 8),
      let sameButChecks := fun (a b : Held) => { b with checks := a.checks, vnon := a.vnon } = a
      s.step.held[i]? = some h → (h.st = .opened ∨ h.st = .cast) → cause ≠ causeMirrorLost →
      let t := resolveAbort i cause s
      (∃ g, t.step.held[i]? = some (g.toAborting cause) ∧ sameButChecks h g) ∧ t.step.held.length = s.step.held.length ∧
      (∀ j k, j < i → s.step.held[j]? = some k → ∃ g, t.step.held[j]? = some g ∧ sameButChecks k g) ∧
      t.step.round = some (newRound h s.mgmt.ptb) ∧ t.step.aborts = satUp s.step.aborts 1 ∧ t.step.cause = cause ∧
      t.step.number = s.step.number ∧ t.step.next = s.step.next ∧
      (getCtx t h.ctx).ae = (getCtx s h.ctx).ae + 1 ∧ (getCtx t h.ctx).fetchStopped = true ∧
      (getCtx t h.ctx).gen = (getCtx s h.ctx).gen ∧ (getCtx t h.ctx).starting = none ∧ (getCtx t h.ctx).fetched = [] ∧
      t.mem = s.mem ∧ t.prog = s.prog ∧ t.acc = s.acc)

/-- The oldest committing step's owner role writes what its lists say and the step number and cursor, and the partner role does
the same in the mirror, or only the numbers for a SKIP; each waits for the other's earlier steps, and the partner role for a
group that comes again (R294, R301, R311, R312; log entry 46). Choices of the model that it rests on: log entries 33 and 47. -/
def Obligations.CommitRoles : Prop :=
  ∀ (s : State) (i : Nat) (h : Held) (p : PeerStep) (record : BitVec 48),
    let rec1 := memRead s record.toNat 64
    (placeOf (fun h => decide (h.st = .committing) && !h.ownerDone) s.step.held = some i → s.step.held[i]? = some h →
      s.step.peerSteps = [] → h.mirrored = false → s.step.skipQ = [] → s.step.pullFor = false → ∃ t,
      exec (.ownerRoleDone []) s = .next t ∧
      t.step.number = h.step + 1 ∧ t.step.cursor = s.step.cursor + BitVec.ofNat 64 h.inbytes ∧
      t.step.held = (mapAt (fun k => { k with ownerDone := true }) i s.step.held).filter (fun h =>
        !(decide (h.st = .committing) && h.ownerDone && (!h.mirrored || h.mirrorDone))) ∧
      t.step.next = s.step.next ∧ t.mem = (commitLists true [] h.variant h.mask h.lists s).mem ∧
      t.cells = s.cells ∧ t.prog = s.prog) ∧
    (s.step.peerSteps.find? (fun p => p.resolved && !p.partnerDone) = some p →
      isPeerRecord s record.toNat p.step = true → earlierCommit s p.step = false → s.step.peerResend = [] →
      s.step.pullFor = false → ∃ t,
      exec (.partnerRoleDone record none []) s = .next t ∧
      t.step.peerNumber = p.step + 1 ∧
      t.step.peerCursor = s.step.peerCursor + BitVec.ofNat 64 (leAt rec1 0x10 8) ∧
      t.step.number = s.step.number ∧ t.step.held = s.step.held ∧
      t.mem = (if p.skip then s.mem else (commitLists false [] none p.mask (peerLists s rec1) s).mem)) ∧
    ((isPeerRecord s record.toNat p.step = false ∨ s.step.peerResend ≠ []) →
      s.step.peerSteps.find? (fun p => p.resolved && !p.partnerDone) = some p →
      exec (.partnerRoleDone record none []) s = .next s)

/-- The drain of an aborted attempt ends, at outstanding count 0 or after 2 ms, in DRAINED with its roll-call copy, or halts the
steps at their last attempt; a DRAINED is held until every child's is here, when the root floods REPLAY; REPLAY reopens the
aborted steps under their next attempt; and the leases of a round resend, fall back to rank 1, declare the ranks that are silent,
and halt (R315, R317, R335 to R337). A spare whose pulls end writes what was pulled in its areas, takes the mapping entries, the
step number, the cursor, the partner's cursor and SEQ.NEXT, and is PROMOTED and SYNCED (R339). Choices of the model that it rests
on: log entries 48, 65, 80, 82, 83, 85, 86, 135, 139 and 140. -/
def Obligations.RoundsAndPromotion : Prop :=
  (∀ (s : State) (c : Ctx) (r : Round) (i k q : Nat) (h : Held) (msg : Tc0) (port : Fin 24) (roll : Bool),
      let own : Round := { r with ownDrained := true }
      let root : Round := { r with actingRoot := true }
      let v := keepVote msg.origin roll msg s
      let lost := lostRanks s (getPart s k) r
      let at0 := roundTime s r 0 s
      let gone := fun (l : List Nat) => tc0Msg s k 1 r.attempt causeMirrorLost r.step (declBody ((l.take 4).map (fun q => (q, 0))))
      let s1 := if (getCtx s h.ctx).outstanding = 0 then s else advanceTo (r.startedAt + msec 2) s
      s.step.round = some r → stepHolder s = some c → boundEntry s c = some k → (getPart s k).ranked = true →
      follower s = false →
      (abortingPlace s = some i → s.step.held[i]? = some h → r.ownDrained = false → emberRuns s = false →
        (maxAttempts s ≤ h.attempt.toNat + 1 →
          exec .abortDrainDone s = .next (modStep (fun e => { e with round := none }) (haltSpent s1))) ∧
        (lastAttempts s = [] → (getPart s k).rank ≠ 0 →
          q ∈ childRanks (getPart s k).rank.toNat (rankCount (getPart s k)) → holdsDrained s r false q = false →
          exec .abortDrainDone s = .next (sendRollCall c r 0 (modStep (fun e => { e with round := some own }) s1)))) ∧
      (abortingPlace s = some i → s.step.held[i]? = some h →
        exec .roundHaltTimeout s = .next (haltRound h.cause i (roundTime s r 4 s))) ∧
      (entryOfPid s msg.pid = some q →
        (staleDrained s msg = true → exec (.voteDrained roll msg) s = .next s) ∧
        (staleDrained s msg = false → r.ownDrained = false → exec (.voteDrained roll msg) s = .next v) ∧
        (staleDrained s msg = false → r.ownDrained = true → r.sentUp = false → (getPart s k).rank = 0 →
          (∀ p ∈ childRanks 0 (rankCount (getPart s k)), holdsDrained v r false p = true) →
          exec (.voteDrained roll msg) s = .next (replayHere c r (floodResolve c r.step r.attempt 3 0 v)))) ∧
      (entryOfPid s msg.pid = some k → (getPart s k).ctx = c → r.step = msg.step → r.attempt = msg.attempt →
        rankless (forwardResolve k port.val msg s) c = false →
        exec (.resolveReplay port msg) s = .next (replayHere c r (forwardResolve k port.val msg s)) ∧
        (replayHere c r s).step.round = none ∧
        ((∀ x ∈ s.step.held, x.ctx = c → x.st ≠ .halted) → (replayHere c r s).step.held = s.step.held.map (fun h =>
          if h.ctx = c ∧ h.st = .aborting then { h with st := .opened, attempt := h.attempt + 1 } else h)) ∧
        (getCtx (replayHere c r s) c).fetchStopped = false) ∧
      (isRoot s c = false → exec .roundLeaseExpiry s = .next s) ∧
      (isRoot s c = true → lost = [] → exec .roundLeaseExpiry s = .next at0) ∧
      (isRoot s c = true → 4 < lost.length → abortingPlace s = some i → pairLost at0 (getPart s k) r lost = false →
        s.pwr.modes.mirror = true → exec .roundLeaseExpiry s =
        .next (takeDeclaration k i (tc0Msg s k 1 r.attempt causeLoss r.step 0)
          (floodAbort k none (tc0Msg s k 1 r.attempt causeLoss r.step 0) at0))) ∧
      (isRoot s c = true → lost ≠ [] → (pairLost at0 (getPart s k) r lost = true ∨ s.pwr.modes.mirror = false) → abortingPlace s = some i →
        exec .roundLeaseExpiry s = .next (takeDeclaration k i (gone lost) (floodAbort k none (gone lost) at0))) ∧
      (r.ownDrained = true → 1 < (getPart s k).rank.toNat →
        exec .rollCallResend s = .next (sendRollCall c r 1 (roundTime s r 1 s))) ∧
      ((getPart s k).rank = 1 → let t := modStep (fun e => { e with round := some root }) (roundTime s r 2 s)
        exec .rootFallback s = .next (declareLost k root (lostRanks t (getPart t k) root) t))) ∧
  (∀ (s : State) (pulled : List (Nat × Byte)) (maps : List MirMap) (embers : List (BitVec 64)) (n cur next pcur : BitVec 64),
      s.ras.spareState = .pulling → ∃ t, exec (.promotionPullDone pulled maps [] embers n ⟨cur, pcur⟩ next) s = .next t ∧
        t.step.number = n ∧ t.step.cursor = cur ∧ t.step.next = next ∧ t.step.mirror = .synced ∧
        t.step.peerNumber = n ∧ t.step.peerCursor = pcur ∧
        t.step.pulled = embers ∧ t.step.entries = mapsOf true maps ∧ t.step.peerEntries = mapsOf false maps ∧
        t.ras.spareState = .promoted ∧
        (∀ a, (∀ p ∈ pulled, p.1 = a → pulledArea maps a = false) → SMap.get 0 t.mem a = SMap.get 0 s.mem a) ∧
        (∀ a b, pulled = [(a, b)] → pulledArea maps a = true → SMap.get 0 t.mem a = b) ∧ t.cells = s.cells)

/-- MIRROR MAP of a paired context sends MAP to the partner, or is refused with reason 8 where the entry is in use, overlaps or
lies outside the windows; UNMAP clears the entry on both sides, FILL sends the owned areas, holds FILLING and with its last
acknowledgement leaves SYNCED (log entry 49), AUDIT of a range of an entry sends AUDIT_START; each is turned away with
MIRROR_BUSY while the context holds a step or, AUDIT excepted, MIRROR is on (R302, R303, R319). Choices of the model that it
rests on: log entries 43, 50 and 132. -/
def Obligations.MirrorDescriptors : Prop :=
  ∀ (s : State) (c : Ctx) (d : Desc) (e : MirEntry),
    let w := d.words
    let n := dfld w 0x10 11 8
    let own := dfld w 0x18 47 0
    let len := dfld w 0x28 39 0
    let op := dfld w 0x10 3 0
    let noStep := s.step.held.any (fun h => h.ctx == c) = false
    let busy := Host.Outcome.next (finishStarting c d stMirrorBusy (mirrorCode s.step.mirror) s)
    let still : MirrorState := if s.step.mirror = .unpaired then .unpaired else .paired
    let wait : MapWait := { ctx := c, key := d.key, entry := n, pairing := true, since := s.mgmt.ptb
                            e := { own := own, mir := dfld w 0x20 47 0, length := len } }
    let map1 := keepStarting c d (modStep (fun t => { t with mapWait := some wait }) s)
    let first := (own - e.own) / 0x4000000
    let count := ((own - e.own) + len + 0x4000000 - 1) / 0x4000000 - first
    let audit : Audit := { ctx := c, key := d.key, step := auditStep s, entry := n, first := first, groups := count
                           compared := 0, differed := 0, digests := none, theirs := [] }
    startingOf s c 0x09 = some d →
    (s.step.held.any (fun h => h.ctx == c) = true → (op = 1 → exec (.mirrorMap c) s = busy) ∧
      (op = 2 → exec (.mirrorUnmap c) s = busy) ∧ (op = 3 → exec (.mirrorFill c) s = busy) ∧
      (op = 4 → exec (.mirrorAudit c) s = busy)) ∧
    (noStep → s.pwr.modes.mirror = false → op = 1 → liveMap s = none →
      s.step.pairedCtx = some (c, (getCtx s c).gen) →
      (mapConflict map1 c n wait.e = false → exec (.mirrorMap c) s =
        .next (sendFence 4 0 0 (mapRest n own wait.e.mir len)
          (modStep (fun t => { t with mapWait := some { wait with pairing := false } }) map1))) ∧
      (mapConflict map1 c n wait.e = true → exec (.mirrorMap c) s = .next (completeKey c d.key stMirrorRefused 8 10
        (raise 0x0703 (hubUnit 1) { ctx := some c } (modStep (fun t => { t with mapWait := none, reason := 8 }) map1))))) ∧
    (noStep → s.pwr.modes.mirror = false → op = 2 → exec (.mirrorUnmap c) s =
      .next (finishStarting c d stOk 0 (sendFence 7 0 0 (mapRest n 0 0 0)
        (modStep (fun t => { t with mirror := still, entries := SMap.set none t.entries n none }) s)))) ∧
    (noStep → s.pwr.modes.mirror = false → op = 3 → liveFill s = none → exec (.mirrorFill c) s =
      .next (finishFill (sendFill c (keepStarting c d (modStep (fun t => { t with
        fill := some { ctx := c, key := d.key, left := fillPackets s c }
        mirror := if t.mirror = .unpaired then .unpaired else .filling }) s))))) ∧
    (∀ f, liveFill s = some f → f.left = 1 → s.step.mirror = .filling → fillAcked s = completeKey f.ctx f.key stOk 0 10
      (modStep (fun t => { t with fill := none, mirror := .synced }) s)) ∧
    (noStep → op = 4 → s.step.audit = none → SMap.get none s.step.entries n = some e →
      (e.own ≤ own → own + len ≤ e.own + e.length → len ≠ 0 → exec (.mirrorAudit c) s =
        .next (sendFence 10 (auditStep s) 0 (auditRest n first count)
          (keepStarting c d (modStep (fun t => { t with audit := some audit }) s)))) ∧
      (own < e.own ∨ e.own + e.length < own + len →
        exec (.mirrorAudit c) s = .next (finishStarting c d stBadTarget 0x18 s)))

/-- The FENCE messages of pairing: PAIR is answered PAIR_OK, or PAIR_REFUSED with the reason that this side finds; PAIR_OK makes
the owner PAIRED and its MAP goes on, PAIR_REFUSED and a wait of 10 ms refuse the MAP with reasons 4, 7 and 6; and OWNER_DONE and
MIRROR_DONE mark the other side's role done (R302, R311, R312). The FENCE messages of mapping: MAP of an area that the bound
context reaches, on no guest position, that meets no other mirror area is taken and answered MAP_OK, another MAP_REFUSED; MAP_OK
sets the owner's entry and completes its MAP, MAP_REFUSED refuses it with reason 7, and UNMAP clears this side (R302, R303).
Choices of the model that it rests on: log entry 132. -/
def Obligations.PairingAndMapping : Prop :=
  (∀ (s : State) (b : FenceBody) (i own : Nat) (w : MapWait),
      let me := ((stepHolder s).bind (boundEntry s)).map (getPart s)
      let refuse := fun (reason : BitVec 4) (t : State) => Host.Outcome.next (completeKey w.ctx w.key stMirrorRefused reason.toNat 10
        (raise 0x0703 (hubUnit 1) { ctx := some w.ctx } (modStep (fun t => { t with mapWait := none, reason := reason }) t)))
      let same := b.partnum.toNat = partCode s.fuses.part ∧ b.enabled = enabledMask s
      (s.fab.selfIdx = some own →
        (∀ r, pairReason s own own me = some r →
          exec (.pair b) s = .next (sendFence 3 b.step b.attempt (pairRest s r) s)) ∧
        (pairReason s own own me = none → same → s.step.round = none →
          exec (.pair b) s = .next (sendFence 2 b.step b.attempt (pairRest s 0) s)) ∧
        (pairReason s own own me = none → s.step.round = none → b.partnum.toNat ≠ partCode s.fuses.part →
          exec (.pair b) s = .next (sendFence 3 b.step b.attempt (pairRest s 3) s))) ∧
      (s.ras.spareWait = none → liveMap s = some w → w.pairing = true →
        (same → exec (.pairOk b) s = .next (sendMap w (modStep (fun t => { t with
          mirror := .paired, partner := BitVec.ofNat 14 ((ownPartner s).getD 0)
          pairedCtx := some (w.ctx, (getCtx s w.ctx).gen) }) s))) ∧
        (b.enabled = enabledMask s → exec (.pairRefused b) s = refuse 7 s) ∧
        (b.enabled ≠ enabledMask s → exec (.pairRefused b) s = refuse 4 s) ∧
        exec .pairTimeout s = refuse 6 (advanceTo (w.since + msec 10) s)) ∧
      (heldPlace s b.step = some i →
        exec (.mirrorDone b) s = .next (releaseEmber (modHeld i (fun h => { h with mirrorDone := true }) s))) ∧
      (s.step.peerSteps = [] → s.step.number ≤ b.step → ∃ t, exec (.ownerDone b) s = .next t ∧
        t.step.peerSteps = [{ step := b.step, mask := 0, resolved := false, skip := false, partnerDone := false
                              ownerDone := true }] ∧ { t with step := s.step } = s)) ∧
  (∀ (s : State) (b : FenceBody) (c : Ctx) (w : MapWait),
      let rest := mapRest b.entry.toNat b.own.toNat b.mir.toNat b.length.toNat
      let area : MirEntry := { own := b.own.toNat, mir := b.mir.toNat, length := b.length.toNat }
      let inWin := reaches (getCtx s c) b.mir.toNat b.length.toNat = true ∧ guestHolds s b.mir.toNat b.length.toNat = false
      let alone := ∀ kv ∈ s.step.peerEntries, ∀ e, kv.2 = some e → kv.1 ≠ b.entry.toNat →
        areasMeet b.mir.toNat b.length.toNat e.mir e.length = false
      (stepHolder s = some c → inWin → alone → exec (.map b) s = .next (sendFence 5 b.step b.attempt rest
        (modStep (fun t => { t with peerEntries := SMap.set none t.peerEntries b.entry.toNat (some area) }) s))) ∧
      (stepHolder s = some c → ¬inWin → exec (.map b) s = .next (sendFence 6 b.step b.attempt rest s)) ∧
      exec (.unmap b) s = .next (modStep (fun t => { t with
        peerEntries := SMap.set none t.peerEntries b.entry.toNat none }) s) ∧
      (liveMap s = some w → w.pairing = false → w.entry = b.entry.toNat →
        exec (.mapOk b) s = .next (completeKey w.ctx w.key stOk 0 10 (modStep (fun t => { t with
          mapWait := none, mirror := .paired, entries := SMap.set none t.entries w.entry (some w.e) }) s)) ∧
        exec (.mapRefused b) s = .next (completeKey w.ctx w.key stMirrorRefused 7 10
          (raise 0x0703 (hubUnit 1) { ctx := some w.ctx } (modStep (fun t => { t with mapWait := none, reason := 7 }) s)))))

/-- The FENCE messages of an audit: AUDIT_START marks the range for this side's boundary, or answers AUDIT_LATE when that has
passed; AUDIT_LATE starts the audit again at the next step; an AUDIT_DIGEST that agrees counts as compared, and one that differs
raises MIRROR_DIVERGED, counts and sends the group again (R319). Choices of the model that it rests on: log entries 33, 43 and
136. -/
def Obligations.AuditMessages : Prop :=
  ∀ (s : State) (b : FenceBody) (a : Audit) (e : MirEntry) (ds : List (BitVec 64)) (p : Nat),
    let g := b.group.toNat
    let late := decide (b.step < s.step.peerNumber)
    let again := if a.step + 1 < s.step.number then s.step.number else a.step + 1
    let area := groupArea e.own e.length g
    let next1 : Audit := { a with step := again, compared := 0, differed := 0, digests := none, theirs := [] }
    let seen : Audit := { a with theirs := SMap.set none a.theirs g (some b.digest), compared := a.compared + 1 }
    let mark : Audit := { ctx := 0, key := 0, step := b.step, entry := b.entry.toNat, first := g, groups := b.groups.toNat
                          compared := 0, differed := 0, digests := none, theirs := [] }
    let keep := fun (x : Audit) => modStep (fun t => { t with audit := some x }) s
    (late = true → exec (.auditStart b) s =
      .next (sendFence 11 b.step 0 (auditRest b.entry.toNat g b.groups.toNat) s)) ∧
    (late = false → exec (.auditStart b) s = .next (modStep (fun t => { t with peerAudit := some mark }) s)) ∧
    (s.step.audit = some a → a.step = b.step → exec (.auditLate b) s =
      .next (sendFence 10 again 0 (auditRest a.entry a.first a.groups) (keep next1))) ∧
    (s.step.audit = some a → a.step = b.step → a.first ≤ g → g < a.first + a.groups → SMap.get none a.theirs g = none →
      a.digests = some ds → SMap.get none s.step.entries a.entry = some e → a.compared + 1 ≠ a.groups →
      (ds.getD (g - a.first) 0 = b.digest → exec (.auditDigest b) s = .next (keep seen)) ∧
      (ds.getD (g - a.first) 0 ≠ b.digest → mirrorPartner s = some p → ∃ t, exec (.auditDigest b) s =
        .next (sendRange .group a.ctx p area.1 area.2 (e.mir + (area.1 - e.own)) t) ∧
        t = raise 0x0704 (hubUnit 1) { ctx := some a.ctx }
          (modStep (fun t => { t with auditMismatch := satUp t.auditMismatch 1 }) (keep { seen with differed := a.differed + 1 }))))

/-- A package told to follow takes the leader's rank and loads; with the leader's state, number and cursor it follows; a record
waits for its step's cast; a SKIP whose output digests agree counts as matched, and one that differs ejects; without a record in
time the follower is LOST and its RANKED is cleared (R344 to R346). Choices of the model that it rests on: log entries 33 and 44.
-/
def Obligations.ShadowAdmission : Prop :=
  ∀ (s : State) (v : BitVec 32) (c : Ctx) (k i : Nat) (h : Held) (data : List (Nat × Byte)) (n cur step : BitVec 64)
    (out : BitVec 2) (mask : List (BitVec 32)) (ds : List (BitVec 64)),
    let st := s.ras.shadowState
    let role := fld v 15 14
    let r : ShadowRec := { step := step, outcome := out, mask := maskOfWords mask, digests := ds }
    let base := s.ras.shadowEntry
    let left := fun (x : ShadowState) (t : State) => t.ras.shadowState = x ∧ t.ras.shadowQ = [] ∧
      (getPart t base).ranked = false ∧ t.mem = s.mem ∧ t.cells = s.cells ∧ t.step = s.step
    (st = .off → role = 2 → stepHolder s = some c → boundEntry s c = some k → (getPart s k).ranked = false → ∃ t,
      exec (.shadowCfgWrite v) s = .next t ∧
      t.ras.shadowState = .loading ∧ t.ras.shadowMatched = 0 ∧ t.ras.shadowQ = [] ∧ t.ras.shadowEntry = k ∧
      fld t.ras.shadowCfg 15 0 = fld v 15 0 ∧
      getPart t k = { getPart s k with ranked := true, rank := BitVec.ofNat 14 (rankAt (getPart s k) (fld v 13 0)) } ∧
      (∀ m, m ≠ k → getPart t m = getPart s m) ∧ { t with ras := s.ras, fab := s.fab } = s) ∧
    (st = .ejected ∨ st = .lost ∨ st = .admitted → role = 0 → ∃ t, exec (.shadowCfgWrite v) s = .next t ∧
      t.ras.shadowState = .off ∧ { t with ras := s.ras } = s) ∧
    (st = .loading → ∃ t, exec (.shadowStateLoaded data n cur) s = .next t ∧ t.ras.shadowState = .following ∧
      t.step = { s.step with number := n, cursor := cur } ∧
      (∀ a, (∀ p ∈ data, p.1 = a → reaches (getCtx s (getPart s base).ctx) a 1 = false) →
        SMap.get 0 t.mem a = SMap.get 0 s.mem a) ∧
      (∀ a b, data = [(a, b)] → reaches (getCtx s (getPart s base).ctx) a 1 = true → SMap.get 0 t.mem a = b)) ∧
    (st = .following → s.ras.shadowQ = [] → heldPlace s step = none → out ≠ 2 →
      exec (.shadowRecordReceive step out mask ds) s =
        .next { s with ras := { s.ras with shadowQ := [r] } }) ∧
    (st = .following → s.ras.shadowQ = [] → heldPlace s step = some i → heldStep s step = some h → h.st = .cast → out = 1 →
      (h.outCrc.map Prod.snd = ds →
        exec (.shadowRecordReceive step out mask ds) s = .next (stepMatches (resolveSkip i s))) ∧
      (h.outCrc.map Prod.snd ≠ ds →
        exec (.shadowRecordReceive step out mask ds) s = .next (stepDiffers step (resolveSkip i s)))) ∧
    (st = .loading ∨ st = .following → ∃ t, exec .shadowTimeout s = .next t ∧ left .lost t)

/-- SNAP is turned away with SNAP_BUSY, SNAP_LATE or SNAP_REFUSED (log entry 51), or is armed for the boundary of its step; the
copy that is accepted writes content and trailer and completes, and one that ends otherwise completes as R176 says (R172 to
R176). Choices of the model that it rests on: log entry 33. -/
def Obligations.Snapshots : Prop :=
  ∀ (s : State) (c : Ctx) (d : Desc) (sn : Snapshot) (l : List (List Byte)) (ptb : BitVec 64),
    let n := BitVec.ofNat 64 (dfld d.words 0x10 63 0)
    let a := dfld d.words 0x18 47 0
    let count := leAt (memRead s a 64) 0 8 % 8192
    let bs := memRead s a (64 + 32 * (min count 4096))
    let no := fun (st : Nat) => Host.Outcome.next (finishStarting c d st (n.toNat % 2 ^ 32) s)
    let armed : Snapshot :=
      { key := d.key, step := n, hostDest := decide (bitsOf (leAt bs 0 8) 16 16 = 0), destAddr := BitVec.ofNat 64 (leAt bs 8 8)
        peerRank := BitVec.ofNat 14 (leAt bs 0x10 4), trailerOff := BitVec.ofNat 64 (leAt bs 0x18 8)
        entries := snapEntries bs count, taken := none }
    let gone := fun (t : State) => modCtx c (fun x => { x with snapshot := none }) t
    (startingOf s c 0x0B = some d →
      ((getCtx s c).snapshot.isSome = true → exec (.snap c) s = no stSnapBusy) ∧
      ((getCtx s c).snapshot = none → n < s.step.number → exec (.snap c) s = no stSnapLate) ∧
      ((getCtx s c).snapshot = none → ¬n < s.step.number → snapListOk s c a count bs = false →
        exec (.snap c) s = no stSnapRefused) ∧
      ((getCtx s c).snapshot = none → ¬n < s.step.number → snapListOk s c a count bs = true →
        exec (.snap c) s = .next (modCtx c (fun x => { x with snapshot := some armed }) (keepStarting c d s)))) ∧
    ((getCtx s c).snapshot = some sn → sn.taken = some (l, ptb) →
      exec (.snapshotComplete c .accepted) s =
        .next (completeKey c sn.key stOk 0 0 (gone (writeSnapshot c sn l ptb s))) ∧
      exec (.snapshotComplete c .peerRefused) s =
        .next (completeKey c sn.key stSnapRefused (sn.step.toNat % 2 ^ 32) 0 (gone s)) ∧
      exec (.snapshotComplete c .pathLost) s = .next (snapLost c s) ∧
      exec (.snapshotComplete c .readFailed) s = .next (clearCheck (snapLost c s)))

/-- BANK START is refused by its list, busy, late, or arms its slot, whose manifest header is zeroed; the shards and tags are
written and the manifest signed; the manifest's first 8 bytes come last and the bank completes; a cancel, a failed read, a lost
path, a peer's refusal and a signing that fails end it with their reasons (R352 to R362). Choices of the model that it rests on:
log entries 3 and 52. -/
def Obligations.Banking : Prop :=
  ∀ (s : State) (c : Ctx) (d : Desc) (peer : List (Nat × Byte)) (r : BankRun),
    let w := d.words
    let list := dfld w 0x28 47 0
    let p := bankPlan s w
    let kept := keepStarting c d s
    let done := fun (st detail : Nat) => Host.Outcome.next (finishStarting c d st detail s)
    let m := manifestBody s r ++ r.signature
    let loc := slotLoc r.plan r.slot
    let fin := raise 0x0903 (hubUnit 2) { ctx := some r.ctx, arg0 := flag r.slot, arg1 := r.nextStep.toNat }
      (modBank (fun b => { b with run := none, lastAuto := r.auto, lastSlot := r.slot
                                  template := if r.auto then b.template else some (r.ctx, r.plan) })
        (writeLoc r.ctx loc 0 (m.take 8) (writeLoc r.ctx loc 8 (m.drop 8) s)))
    (startingOf s c 0x0A = some d → dfld w 0x10 3 0 = 1 →
      (∀ off, bankListBad s c list = some off → exec (.bankStart c peer) s = done stBankRefused off) ∧
      (bankListBad s c list = none → s.bank.run = some r →
        exec (.bankStart c peer) s = done stBankBusy (r.plan.step.toNat % 2 ^ 32)) ∧
      (bankListBad s c list = none → s.bank.run = none → p.step ≠ BitVec.allOnes 64 →
        (p.step < s.step.number → exec (.bankStart c peer) s = done stBankLate (p.step.toNat % 2 ^ 32)) ∧
        (¬p.step < s.step.number →
          exec (.bankStart c peer) s = .next (armBank c (some d.key) false peer p kept))) ∧
      (bankListBad s c list = none → s.bank.run = none → p.step = BitVec.allOnes 64 → oldestUnresolved s c = none →
        exec (.bankStart c peer) s = .next (armBank c (some d.key) true peer p kept))) ∧
    (startingOf s c 0x0A = some d → dfld w 0x10 3 0 = 2 →
      (s.bank.run = some r → r.ctx = c → exec (.bankCancel c) s = .next (finishStarting c d stOk 0 (bankLost 6 s))) ∧
      (s.bank.run = none → exec (.bankCancel c) s = done stBankRefused 0)) ∧
    (s.bank.run = some r → r.st = .banking →
      exec (.bankSign .accepted) s = .next (modBank (fun b => { b with run := some { r with
        st := .signing, signature := idSign (writeShards r s) (manifestBody (writeShards r s) r) } }) (writeShards r s)) ∧
      exec (.bankSign .readFailed) s = .next (clearCheck (bankLost 1 s)) ∧
      exec (.bankSign .pathLost) s = .next (bankLost 4 s) ∧
      exec (.bankSign .peerRefused) s = .next (bankLost 5 s) ∧
      exec .bankSignTimeout s = .next (bankLost 7 (writeShards r s))) ∧
    (s.bank.run = some r → r.st = .signing → exec .bankSignTimeout s = .next (bankLost 7 s) ∧
      (∀ k, r.key = some k → exec .bankDone s = .next (completeKey r.ctx k stOk 0 0 fin)) ∧
      (r.key = none → exec .bankDone s = .next fin))

/-- RESTORE completes with the first check that fails and changes nothing else; else its first pass has passed and the second
begins; when every shard has been written the same again, the step registers take the manifest's NEXT_STEP and cursor, RESTORED
is raised and it completes; a byte that differs fails it (R364 to R366; log entry 53). Choices of the model that it rests on: log
entry 3. -/
def Obligations.Restores : Prop :=
  ∀ (s : State) (c : Ctx) (d : Desc) (peer : List (Nat × Byte)) (r : RestoreRun),
    let j := restoreJob s peer d.words
    let run : RestoreRun :=
      { ctx := c, key := d.key, nextStep := BitVec.ofNat 64 j.own.nextStep
        cursor := BitVec.ofNat 64 (leAt j.own.bytes 0x10 8), signer := j.own.signer
        shards := j.entries.flatMap (restoreShard s peer j) }
    let again := r.shards.map (fun h => readLoc s peer h.loc 0 h.first.length)
    (startingOf s c 0x0C = some d → s.bank.restoreRun = none →
      (∀ st det, restoreRefusal s c peer j = some (st, det) →
        exec (.restore c peer) s = .next (finishStarting c d st det s)) ∧
      (restoreRefusal s c peer j = none → exec (.restore c peer) s =
        .next (modBank (fun b => { b with restore := .running, restoreRun := some run }) (keepStarting c d s)))) ∧
    (s.bank.restoreRun = some r → r.ctx = c → (r.shards.map RestoreShard.first = again) → ∃ t,
      exec (.restoreComplete c peer) s = .next (completeKey c r.key stOk 0 0
        (raise 0x0905 (hubUnit 2) { ctx := some c, arg0 := leNat (r.signer.take 4), arg1 := r.nextStep.toNat } t)) ∧
      t.bank = { s.bank with restore := .done, restoreRun := none, restoreCtx := none
                             restoreStep := BitVec.ofNat 32 r.nextStep.toNat } ∧
      t.step = { s.step with number := r.nextStep, next := r.nextStep, cursor := r.cursor
                             mirror := mirrorAfterRestore s.step.mirror } ∧
      getCtx t c = { getCtx s c with shrunk := false } ∧ (∀ m, m ≠ c → getCtx t m = getCtx s m) ∧
      t.mem = (forAll (r.shards.zip again) (fun q => writeRestored q.1 q.2) s).mem) ∧
    (s.bank.restoreRun = some r → r.ctx = c → ∀ i, placeOf (fun q => decide (q.1.first ≠ q.2)) (r.shards.zip again) = some i →
      exec (.restoreComplete c peer) s = .next (completeKey c r.key stRestoreDigest i 0 (modBank (fun b => { b with
        restore := .failed, restoreRun := none, restoreCtx := some (c, (getCtx s c).gen) })
        (forAll (r.shards.zip again) (fun q => writeRestored q.1 q.2) s))))

/-! ### Links and the fabric -/

/-- Frames: a bad CRC counts and begins discarding with a NAK; a good DATA frame with the expected number waits to be joined, and
a whole packet that is new is received; a NAK sends again, with the bits they had, the frames after its ACK. The states of
training: RESET's sideband, MBINIT, MBTRAIN, the width decision under a new CTAG, LINKINIT, ACTIVE with the packets sent again,
RETRAIN, by CRC_LIMIT too, and QUARANTINE, and their failures (R204 to R211). What the links send as time goes on. An UP port
with room in its replay buffer sends one flit of the pool and the packet in turn, with the next number, ACK, a good CRC and a
credit charged: a pool that holds a credit, TC0's ahead of every other class. An edge sends the next piece of its packets on the
next active module, with the next number, ACK, CTAG and a good CRC, and IDLE frames alone while its modules differ (R204, R208,
R226 to R228, R234 to R236). Choices of the model that it rests on: log entries 37, 76, 126, 127 and 128. -/
def Obligations.DieEdges : Prop :=
  (∀ (s : State) (e : Fin 14) (module : Fin 16) (fr : Frame) (ack : BitVec 8) (near far mask : BitVec 16) (ctag : BitVec 4),
      let n := e.val
      let m := module.val
      let x := getEdge s n
      let q := edgeModule x m
      let lim := fld s.pkg.edgeCfg 15 0
      let put := fun (f : Edge → Edge) => Host.Outcome.next (modEdge n f s)
      let recent := q.crcTimes.filter (fun t => decide ((s.mgmt.ptb - t).toNat < 1000000)) ++ [s.mgmt.ptb]
      let bad := occur .fec (modEdge n (fun x => discardFrame m
        { (modModule m (fun q => { q with crcTimes := recent }) x) with crc := satUp x.crc 1 }) s)
      let retrained := fun (s : State) => occur .retrain (modEdge n (fun x => { x with
        st := .retrain, holding := true, fromRetrain := true, passing := 0xFFFF, retrains := satUp x.retrains 1
        enteredAt := s.mgmt.ptb }) s)
      let seen := x.passing &&& near &&& far
      let w := widthOf (modulesOf seen).length
      let trained := fun (x : Edge) => { x with st := .mbtrain, passing := seen }
      let chosen := maskOf ((modulesOf seen).take w)
      let up := modEdge n (fun x => resendPackets { x with
        st := .active, holding := false, linkFailed := false, fromRetrain := false, quarantined := false, lastTry := false
        idleOnly := false }) s
      let far' := modEdge n (fun x => { x with farMask := mask, farCtag := ctag }) s
      let quiet := fun (s : State) => raise 0x0405 (edgeUnit n) {} (occur .retrain (modEdge n (fun x => { x with
        st := .quarantine, holding := true, quarantined := true, passing := 0xFFFF, quarantines := satUp x.quarantines 1
        enteredAt := s.mgmt.ptb }) s))
      (x.mask.getLsbD m = false → exec (.edgeFrameReceive e module fr) s = .next s) ∧
      (x.st = .active ∨ x.st = .linkinit → x.mask.getLsbD m = true →
        (frameGood fr = false → lim = 0 ∨ recent.length ≤ lim → exec (.edgeFrameReceive e module fr) s = .next bad) ∧
        (frameGood fr = false → lim ≠ 0 → lim < recent.length → x.st = .active →
          exec (.edgeFrameReceive e module fr) s = .next (retrained bad)) ∧
        (frameGood fr = true → fr.ctag = x.ctag → fr.ftype ≠ .reserved → fr.seq ≠ q.rxNext →
          exec (.edgeFrameReceive e module fr) s = put (discardFrame m)) ∧
        (frameGood fr = true → fr.ctag = x.ctag → fr.ftype = .data → fr.seq = q.rxNext → ∃ t,
          exec (.edgeFrameReceive e module fr) s = .next t ∧ (getEdge t n).sent = x.sent ∧
          (edgeModule (getEdge t n) m).ackFrom = fr.ack + 1 ∧
          (edgeModule (getEdge t n) m).replay = q.replay.filter (fun f => decide (128 ≤ (fr.ack - f.seq).toNat)) ∧
          (edgeModule (getEdge t n) m).rxNext = fr.seq + 1 ∧ (edgeModule (getEdge t n) m).discarding = false ∧
          (moduleTurn x x.joinTurn = some m → (∀ k, (edgeModule x k).arrived = []) → fr.last = true →
            (getEdge t n).received = if fr.packet < x.expected then x.received else x.received ++ [x.joining ++ fr.payload]) ∧
          (∀ k, k ≠ n → getEdge t k = getEdge s k) ∧
          { t with pkg := { t.pkg with edges := s.pkg.edges } } = s)) ∧
      (q.discarding = true → discardFrame m x = x) ∧
      (q.discarding = false → x.idleOnly = false →
        discardFrame m x = sendFrame m .nak noPiece (modModule m (fun q => { q with discarding := true }) x)) ∧
      (x.st = .active → x.mask.getLsbD m = true → frameGood fr = true → fr.ctag ≠ x.ctag → ∃ t,
        exec (.edgeFrameReceive e module fr) s = .next t ∧
        (getEdge t n).st = .quarantine ∧ (getEdge t n).idleOnly = true ∧ (getEdge t n).received = x.received) ∧
      (x.st = .active → ∃ t, exec (.edgeNakReceive e module ack) s = .next t ∧
        (getEdge t n).replays = satUp x.replays 1 ∧ (getEdge t n).st = x.st ∧
        (edgeModule (getEdge t n) m).ackFrom = ack + 1 ∧
        (getEdge t n).sent = x.sent ++ ((q.replay.filter (fun f => decide (128 ≤ (ack - f.seq).toNat))).map (fun f => (m, f)))) ∧
      (x.st ≠ .active → exec (.edgeNakReceive e module ack) s = .next s) ∧
      (x.st = .sbinit → exec (.edgeSidebandUp e) s = put (fun x => { x with st := .mbinit }) ∧
        exec (.edgeSbinitTimeout e) s = .next (failEdge n (advanceTo (x.enteredAt + msec 1) s))) ∧
      (x.st = .mbinit ∨ x.st = .retrain ∨ x.st = .quarantine → exec (.edgeModuleTrainingDone e near far) s = put trained) ∧
      (x.st = .mbtrain → w ≠ 0 → exec (.edgeModuleTrainingDone e near far) s =
        .next (modEdge n (fun x => { x with
          st := .linkinit, passing := seen, width := w, mask := chosen, ctag := x.ctag + 1, idleOnly := false
          sideband := x.sideband ++ [(chosen, x.ctag + 1)], farMask := chosen, farCtag := x.ctag + 1 })
          (if w < x.width then occur .drop s else s))) ∧
      (x.st = .mbtrain → w = 0 → exec (.edgeModuleTrainingDone e near far) s =
        .next (failEdge n (modEdge n trained s))) ∧
      (x.st = .linkinit → s.pwr.stage ≠ 4 → exec (.edgeLinkinitDone e) s =
        .next (if x.fromRetrain && decide (x.width < 16) then raise 0x0404 (edgeUnit n) {} up else up)) ∧
      ((resendPackets x).pieces = x.packets.flatMap (fun p => piecesOf p.1 p.2)) ∧
      (x.st = .linkinit → x.linkFailed = false → exec (.linkinitModuleFail e module) s = put (fun x => { x with
        passing := x.passing &&& ~~~((1 : BitVec 16) <<< m), linkFailed := true, st := .mbinit })) ∧
      (x.st = .active → exec (.edgeRetrainTrigger e) s = .next (retrained s)) ∧
      (x.st = .active → exec (.edgeQuarantine e) s = .next (quiet s) ∧
        (mask ≠ x.mask ∨ ctag ≠ x.ctag → exec (.edgeSidebandPoll e mask ctag) s = .next (quiet far'))) ∧
      (mask = x.mask → ctag = x.ctag → exec (.edgeSidebandPoll e mask ctag) s = .next far') ∧
      (x.quarantined = true → x.st ≠ .active → exec (.quarantineTimeout e) s =
        .next (partitionReset (edgeVictim n) capQuarantine (advanceTo (x.enteredAt + msec 1) s)))) ∧
  (∀ (s : State) (port : Fin 24) (x : Edge) (m pool : Nat) (pc : Piece) (rest : List Piece) (o : OutPacket) (q1 q2 : FabPort),
      let p := port.val
      let q := getPort s p
      let t := portTick p s
      let y := edgeTick x
      (q.st ≠ .up ∨ 1024 ≤ q.replay.length → t = s) ∧
      (nextPool (shareOf s p) q = none → owesFlit q = false → t = s) ∧
      (nextPool (shareOf s p) q = some (pool, q1) →
        pool < 8 ∧ poolWaits q pool = true ∧ 0 < SMap.get 0 q.credits pool ∧
        (poolReady q 0 = true ∨ poolReady q 4 = true → pool = 0 ∨ pool = 4)) ∧
      (q.st = .up → q.replay.length < 1024 → nextPool (shareOf s p) q = some (pool, q1) → nextPacket pool q1 = some (o, q2) →
        ∃ f, (getPort t p).sent = q.sent ++ [f] ∧ f.kind = .data ∧ f.seq = q.txNext ∧ f.ack = q.rxNext - 1 ∧
        f.tc.val = pool % 4 ∧ f.pool = decide (4 ≤ pool) ∧ f.sop = o.left.isEmpty ∧ flitGood f = true ∧
        (∀ a l, o.left = a :: l → f.data = a) ∧
        (getPort t p).txNext = q.txNext + 1 ∧ SMap.get 0 (getPort t p).credits pool = SMap.get 0 q.credits pool - 1 ∧
        (getPort t p).st = .up ∧ t.mem = s.mem ∧ t.cells = s.cells) ∧
      (x.idleOnly = false → x.pieces = pc :: rest → moduleTurn x x.sendTurn = some m →
        ∃ f, y.sent = x.sent ++ [(m, f)] ∧ f.ftype = .data ∧ f.payload = pc.bytes ∧ f.seq = (edgeModule x m).txNext ∧
        f.ack = (edgeModule x m).rxNext - 1 ∧ f.ctag = x.ctag ∧ frameGood f = true ∧
        y.pieces = rest ∧ y.sendTurn = m + 1 ∧ x.mask.getLsbD m = true) ∧
      (x.idleOnly = true → moduleTurn x x.sendTurn = some m →
        ∃ f, y.sent = x.sent ++ [(m, f)] ∧ f.ftype = .idle ∧ f.payload = [] ∧ y.pieces = x.pieces))

/-- The guest firewall of a ZSN-8G passes an access that its lowest rule that applies permits: an inbound one moves its unit to
or from the guest's memory, an outbound one goes on its way, stamped with the rule's context and the generation the hub holds,
and is discarded and counted where that is past; with EN 0, without such a rule, toward a cell scratchpad, or where the rule does
not permit it, the access is denied and counted, and the first denial captured; no other part has a firewall (R198, R216 to
R221). Choices of the model that it rests on: log entries 117 and 120. -/
def Obligations.GuestFirewall : Prop :=
  ∀ (s : State) (g : Fin 2) (u : Option (List Byte)) (addr : BitVec 48) (mid : BitVec 8) (c : Ctx) (y : GuestAccess),
    let write := u.isSome
    let data := u.getD []
    let w := getGfw s g.val
    let unit := addr.toNat / 64 * 64
    let own := guestOf s addr.toNat = some g.val
    (s.fuses.part ≠ .zsn8g → ∀ inb, exec (.guestFirewallCheck g inb u addr mid c) s = .next s) ∧
    (s.fuses.part = .zsn8g → w.en = true → own → dpaStop s unit = none →
      ∀ r, gfwMatch w true unit mid.toNat c = some r → bit r.attr (if write then 3 else 2) = true →
      exec (.guestFirewallCheck g true u addr mid c) s = .next (if write then memWrite unit data s else
        modGfw g.val (fun w => { w with answers := w.answers ++ [(addr, some (memRead s unit 64))] }) s)) ∧
    (s.fuses.part = .zsn8g → own → dpaStop s unit = none →
      exec (.guestFirewallCheck g false u addr mid c) s = .next (if write then memWrite unit data s else
        modGfw g.val (fun w => { w with answers := w.answers ++ [(addr, some (memRead s unit 64))] }) s)) ∧
    (s.fuses.part = .zsn8g → w.en = true → (getPos s (6 + g.val)).st ≠ .inReset → ¬ own →
      ∀ r, gfwMatch w false unit 0 0 = some r →
      bit r.attr (if write then 3 else 2) = true → let k := BitVec.ofNat 12 (fld r.attr 31 20)
      reaches (getCtx s k) unit 64 = true → exec (.guestFirewallCheck g false u addr mid c) s =
        .next (modCtx k (fun x => { x with outstanding := x.outstanding + 1 }) (modGfw g.val (fun w => { w with
          passed := w.passed ++ [{ addr := addr, write := write, ctx := k, gen := (getCtx s k).gen, data := data }] }) s))) ∧
    (inScratchpads unit = true → gfwMatch w false unit mid.toNat c = none) ∧
    (y.gen ≠ (getCtx s y.ctx).gen →
      (guestArrive g.val y s).hif.dropped = satUp s.hif.dropped 1 ∧ (guestArrive g.val y s).mem = s.mem) ∧
    (s.fuses.part = .zsn8g → (w.en = false ∨ gfwMatch w true unit mid.toNat c = none) → ∃ t,
      exec (.guestFirewallCheck g true u addr mid c) s = .next t ∧
      (getGfw t g.val).viol = satUp w.viol 1 ∧ (getGfw t g.val).passed = w.passed ∧
      (getGfw t g.val).answers = (if write then w.answers else w.answers ++ [(addr, none)]) ∧
      (getGfw t g.val).vaddr = (if bit w.vaddr 63 then w.vaddr else gfwVaddr true write addr.toNat mid.toNat) ∧
      (∀ k, k ≠ g.val → getGfw t k = getGfw s k) ∧ t.mem = s.mem ∧ t.hif = s.hif ∧ t.cells = s.cells) ∧
    (s.fuses.part = .zsn8g → (getPos s (6 + g.val)).st = .inReset → ¬ own → write = true →
      exec (.guestFirewallCheck g false u addr mid c) s = .next s)

/-- A port takes flits while it is UP: a bad one counts and begins discarding, one out of order too, and a good DATA flit waits
in its pool; lanes degrade, by FEC_LIMIT too, and train; IDENT that matches the table brings a port UP and another HOLDs it;
partition bitmaps, time exchanges and transit errors have their effects (R226 to R231, R235, R241, R243, R245 to R247; log
entries 37 and 39). Choices of the model that it rests on: log entries 38, 76, 77 and 128. -/
def Obligations.YalxoLinks : Prop :=
  ∀ (s : State) (port : Fin 24) (fl : Flit) (lane : Fin 8) (corrected : Nat) (ack : BitVec 12) (near far : BitVec 8)
    (pids : List (BitVec 12)) (m : Master) (x : Selectors) (serial digest : BitVec 64) (farPort : BitVec 5) (i k : Nat)
    (st : TimeStamps) (pid : BitVec 12),
    let p := port.val
    let q := getPort s p
    let lim := fld q.cfg 15 0
    let counted := forAll (List.range corrected) (fun _ => occur .fec) (modPort p (fun q => { q with feccw := satUp q.feccw corrected }) s)
    let recent := (SMap.get [] q.fecTimes lane.val).filter (fun t => decide ((s.mgmt.ptb - t).toNat < 1000000)) ++ [s.mgmt.ptb]
    let spoiled := occur .fec (modPort p (fun q => discardFlit { q with crc := satUp q.crc 1 }) counted)
    let w := laneWidth (lanesOf (near &&& far)).length
    let lanes : BitVec 8 := ((lanesOf (near &&& far)).take w).foldl (fun m k => m ||| (1 <<< k)) 0
    let up := resumePort p near (modPort p (fun q => { q with width := w, lanes := lanes }) s)
    let t := tableBytes s
    let known := modPort p (fun q => { q with
      nbr := BitVec.ofNat 14 ((indexOfSerial t serial.toNat).getD 0), nbrPort := farPort }) s
    let off := timeOffset st
    let first := !s.fab.ptbSet && decide (s.pwr.stage.toNat < 7)
    (q.st ≠ .up → exec (.flitReceive port ⟨fl, none, corrected⟩) s = .next s ∧ exec (.flitNakReceive port ack) s = .next s ∧
      exec (.laneDegrade port) s = .next s ∧ exec (.pidBitmap port pids) s = .next s) ∧
    (q.st = .up →
      (flitGood fl = false → exec (.flitReceive port ⟨fl, none, corrected⟩) s = .next spoiled) ∧
      (lim = 0 ∨ recent.length ≤ lim → exec (.flitReceive port ⟨fl, some lane, corrected⟩) s =
        .next (modPort p (fun q => { q with fecTimes := SMap.set [] q.fecTimes lane.val recent }) spoiled)) ∧
      (lim ≠ 0 → lim < recent.length → ∃ t, exec (.flitReceive port ⟨fl, some lane, corrected⟩) s = .next t ∧
        (getPort t p).st = .retrain ∧ (getPort t p).degrades = satUp q.degrades 1) ∧
      (q.discarding = true → discardFlit q = q) ∧
      (q.discarding = false → discardFlit q = sendFlit .nak 0 false [] { q with discarding := true }) ∧
      (flitGood fl = true → fl.seq ≠ q.rxNext →
        exec (.flitReceive port ⟨fl, none, corrected⟩) s = .next (modPort p discardFlit counted)) ∧
      (flitGood fl = true → fl.seq = q.rxNext → fl.kind = .data → ∃ t,
        exec (.flitReceive port ⟨fl, none, corrected⟩) s = .next t ∧ (getPort t p).rxNext = fl.seq + 1 ∧
        (getPort t p).discarding = false ∧ (getPort t p).ackFrom = fl.ack + 1 ∧
        (getPort t p).replay = q.replay.filter (fun f => decide (2048 ≤ (fl.ack - f.seq).toNat)) ∧
        SMap.get [] (getPort t p).held (if fl.pool then fl.tc.val + 4 else fl.tc.val) =
          SMap.get [] q.held (if fl.pool then fl.tc.val + 4 else fl.tc.val) ++ [fl.data] ∧
        (∀ j, j ≠ p → getPort t j = getPort s j)) ∧
      (lim = 0 → exec (.flitNakReceive port ack) s = .next (modPort p (nakPort ack) s)) ∧
      ((nakPort ack q).sent = q.sent ++ q.replay.filter (fun f => decide (2048 ≤ (ack - f.seq).toNat))) ∧
      (pairsOf s p = [] → exec (.laneDegrade port) s =
        .next (modPort p (fun q => { q with st := .retrain, degrades := satUp q.degrades 1, fecTimes := [] }) s)) ∧
      exec (.pidBitmap port pids) s = .next (modPort p (fun q => { q with pids := pids }) s) ∧
      (selectors s m = some x → fld x.fabPort 4 0 = p →
        exec (.fabPortRetrain m) s = .next (occur .retrain (modPort p (fun q => { q with st := .retrain }) s)))) ∧
    (q.st = .training → w ≠ 0 →
      exec (.laneTrainingDone port near far) s = .next (modPort p (fun q => { q with width := w, lanes := lanes }) s)) ∧
    (q.st = .retrain → w ≠ 0 → (getPort up p).st = .up ∧
      exec (.laneTrainingDone port near far) s = .next (if w < 8 then raise 0x0506 (portUnit p) {} (occur .drop up) else up)) ∧
    (q.st = .retrain → w = 0 → exec (.laneTrainingDone port near far) s = .next (discoveryDone (portDown p s))) ∧
    (q.st = .training → s.fab.selfIdx = some i →
      (indexOfSerial t serial.toNat = some (portField t i p 13 0) → farPort.toNat = portField t i p 18 14 →
        (digest.toNat = wTableDigest s → exec (.linkctlIdent port serial farPort digest) s =
          .next (discoveryDone (takeOver p (sendBitmaps [p] (modPort p (fun q => { q with st := .up }) known))))) ∧
        (digest.toNat ≠ wTableDigest s →
          exec (.linkctlIdent port serial farPort digest) s = .next (holdPort p 0x0504 known))) ∧
      (indexOfSerial t serial.toNat ≠ some (portField t i p 13 0) ∨ farPort.toNat ≠ portField t i p 18 14 →
        exec (.linkctlIdent port serial farPort digest) s = .next (holdPort p 0x0503 known))) ∧
    (q.st = .notCabled → exec (.linkctlIdent port serial farPort digest) s = .next (holdPort p 0x0503 known)) ∧
    (q.st = .training → exec (.identTimeout port) s = .next (discoveryDone (raise 0x0505 (portUnit p) {}
      (modPort p (fun q => { q with st := .down }) s)))) ∧
    (s.fab.selfIdx = some i → ptbRoot s = false →
      (first = false → exec (.timeExchange (some st)) s = .next (modFab (fun f => { f with
        ptbDelay := timeDelay st, ptbMissed := 0, ptbSet := true, ptbOffset := BitVec.ofInt 16 (clampInt 32767 off)
        ptbRate := BitVec.ofInt 16 (clampInt 10000 (100 * off)), ptbState := if -4 ≤ off ∧ off ≤ 4 then 2 else 1 })
        (sendLink s.fab.ptbParent (.time st.t1) s))) ∧
      (first = true → ∃ t, exec (.timeExchange (some st)) s = .next t ∧ t.mgmt.ptb = s.mgmt.ptb + BitVec.ofInt 64 off ∧
        t.fab.ptbSet = true ∧ t.fab.ptbRate = 0 ∧ t.fab.ptbState = 1) ∧
      (s.fab.ptbMissed + 1 < 10 →
        exec (.timeExchange none) s = .next (modFab (fun f => { f with ptbMissed := f.ptbMissed + 1 }) s))) ∧
    (validEntries s = [k] → (boxAxis (getPart s k).box (portAxis p)).2.2 = true →
      exec (.transitErrReceive port pid) s = .next (raise 0x0507 (hubUnit 3)
        { ctx := some (getPart s k).ctx, pid := some (getPart s k).pid } (afterTransitMsg s))) ∧
    (validEntries s = [] → exec (.transitErrReceive port pid) s =
      .next (transitPacket p (transitErrPacket pid s) (afterTransitMsg s)))

/-- A packet at an UP port leaves its pool; a reserved one is dropped, a repeated LSEQ is discarded; with a VALID partition, for
this package and a RANKED entry, its stream data land in the bound context's reach and are acknowledged; a PID that is not VALID
goes on in transit, or for the own coordinate is dropped and counted. Setting VALID checks, takes the rank map and sends the
bitmaps, or leaves its result; clearing sends them; a write of RMAP reloads a VALID entry's map (R230, R232, R242 to R245; log
entry 66). Choices of the model that it rests on: log entries 72, 74, 79, 104 and 129. -/
def Obligations.RoutersAndPartitions : Prop :=
  ∀ (s : State) (port : Fin 24) (p : Packet) (m : Master) (v : BitVec 64) (k i : Nat),
    let n := port.val
    let free := fun (pool : Nat) => modPort n (releaseHeld pool p) s
    let seen := fun (t : State) => modFab (fun f => { f with
      delivered := SMap.upd [] f.delivered (deliveredKey n p) (fun l => (l ++ [p.lseq]).drop (l.length + 1 - 1024)) }) t
    let map := readMap s (getPart s k).rmap.toNat
    let a := fld p.target 47 0
    ((getPort s n).st = .up →
      (∀ j, entryOfPid s p.pid = some j → p.reserved = true →
        exec (.packetReceive port p) s = .next (dropPacket (free p.tc.val))) ∧
      (∀ j, entryOfPid s p.pid = some j → p.reserved = false → p.pkind.toNat ≤ 4 → isRepeat s n p = true →
        exec (.packetReceive port p) s = .next (free p.tc.val)) ∧
      (∀ j, entryOfPid s p.pid = some j → p.reserved = false → p.pkind = 0 → isRepeat s n p = false →
        s.fab.selfIdx = some i → coordIdx (tableBytes s) p.dst = some i → (getPart s j).ranked = true →
        shadowPeer s = none → inDrain s (getPart s j).ctx = false → exec (.packetReceive port p) s =
          .next (ackPacket n (getPart s j) p (landCopy (getPart s j).ctx p (seen (free p.tc.val))))) ∧
      (entryOfPid s p.pid = none → p.reserved = false → p.pkind.toNat ≤ 3 → isRepeat s n p = false →
        exec (.packetReceive port p) s = .next (
          if forSelf s p then dropPacket (seen (free (p.tc.val + 4)))
          else transitPacket n p (seen (free (p.tc.val + 4)))))) ∧
    (p.tc ≠ 2 → ∀ c,
      (reaches (getCtx s c) a p.data.length = true → inScratchpads a = false → guestOf s a = none →
        landCopy c p s = memWrite a p.data s) ∧
      (reaches (getCtx s c) a p.data.length = false ∨ inScratchpads a = true → landCopy c p s = s)) ∧
    (selPart s m = some k →
      ((getPart s k).valid = true → exec (.partitionValidSet m) s = .next s) ∧
      ((getPart s k).valid = false → validResult s k = 0 → ∃ t, exec (.partitionValidSet m) s = .next t ∧
        getPart t k = { getPart s k with valid := true, result := 0, gradeC := gradeOf (tableBytes s) map, map := map
                                         abortKey := none, resolved := [] } ∧
        (∀ j, j ≠ k → getPart t j = getPart s j) ∧
        t.fab.bitmaps = s.fab.bitmaps ++ (upPorts s).map (fun p => (p, validPids t)) ∧
        t.fab.linkctl = s.fab.linkctl ++ (upPorts s).map (fun p => (p, .bitmap (validPids t))) ∧ { t with fab := s.fab } = s) ∧
      ((getPart s k).valid = false → validResult s k ≠ 0 → exec (.partitionValidSet m) s =
        .next (modPart k (fun e => { e with result := BitVec.ofNat 3 (validResult s k) }) s)) ∧
      ((getPart s k).valid = true → exec (.partitionValidClear m) s =
        .next (sendBitmaps (upPorts s) (modPart k (fun e => { e with valid := false }) s))) ∧
      ((getPart s k).valid = false → exec (.rankMapReload m v) s =
        .next (modPart k (fun e => { e with rmap := BitVec.ofNat 48 (fld v 47 0) }) s)) ∧
      ((getPart s k).valid = true → exec (.rankMapReload m v) s = .next (modPart k (fun e => { e with
        rmap := BitVec.ofNat 48 (fld v 47 0), map := readMap s (fld v 47 0) }) s)))

/-! ### Management -/

/-- A SEND by a bound master copies WORDS words of its staging buffer into the channel's buffer, sets FULL, clears ACKED, records
it as SENDER and notifies the other bound master, whose domain is not down; over a FULL channel it also sets COLLISION. An ACK
acts only while FULL is 1 and only from the bound master that is not SENDER: it copies its WORDS words, records CODE, WORDS and
ACKER, clears FULL, sets ACKED and notifies the SENDER, which stays; any other changes nothing (R381, R382). -/
def Obligations.MailboxSendAndAck : Prop :=
  ∀ (s : State) (ch : Fin 64) (mid : BitVec 8) (v : BitVec 32),
    let n := ch.val
    let c := getMbx s n
    let w := fld v 4 0
    let r := fld v 20 16
    let sent : Chan := { c with
      buf := copyWords w (staging c mid) c.buf, collision := c.collision || c.full, full := true, acked := false
      words := BitVec.ofNat 5 w, sender := mid, since := if c.full then c.since else s.mgmt.ptb }
    let put := fun (x : Chan) => modMbx n (fun _ => x) s
    let told := notify n (otherMid c mid) (put sent)
    let answer : Chan := { c with
      full := false, acked := true, code := BitVec.ofNat 16 (fld v 15 0), ackWords := BitVec.ofNat 5 r
      words := BitVec.ofNat 5 r, acker := mid, buf := copyWords r (staging c mid) c.buf }
    (mbxBound s n mid = true → 1 ≤ w → w ≤ 16 → midDown told (otherMid c mid) = false →
      exec (.mailboxSend ch mid v) s = .next told) ∧
    (mbxBound s n mid = true → c.full = true → c.sender ≠ mid → r ≤ 16 →
      exec (.mailboxAck ch mid v) s = .next (notify n c.sender (put answer))) ∧
    (mbxBound s n mid = true → (c.full = false ∨ c.sender = mid) → exec (.mailboxAck ch mid v) s = .next s) ∧
    (mbxBound s n mid = false → exec (.mailboxAck ch mid v) s = .next s)

/-- STATUS bits of a channel clear by 1; a SEND or a STATUS write of a master that is not bound changes nothing; a SEND to a
master whose domain is down is answered DOMAIN_RESET; FULL for 1 ms ends in the reply TIMEOUT; and a rebind under presence takes
the binding and discards what was held (R380, R384, R386, R387). Choices of the model that it rests on: log entry 58. -/
def Obligations.MailboxRest : Prop :=
  ∀ (s : State) (ch : Fin 64) (mid : BitVec 8) (v : BitVec 32),
    let n := ch.val
    let c := getMbx s n
    let told := notify n (otherMid c mid) (modMbx n (fun _ => { c with
      buf := copyWords (fld v 4 0) (staging c mid) c.buf, collision := c.collision || c.full, full := true, acked := false
      words := BitVec.ofNat 5 (fld v 4 0), sender := mid, since := if c.full then c.since else s.mgmt.ptb }) s)
    let rebound := raise 0x0A08 (hubUnit 6) {} (modMgmt (fun m => { m with
      bindFlash := SMap.set 0 m.bindFlash (fld v 5 0) (rebindWord (setFld v 31 31 1) &&& bindMask) })
      (modMbx (fld v 5 0) (fun c => { c with
        bind := rebindWord (setFld v 31 31 1) &&& bindMask, full := false, collision := false, acked := false, words := 0
        buf := [] }) (modMgmt (fun m => { m with
          rebind := setFld (setFld (setFld v 31 31 1) 31 31 0) 7 6 0 }) s)))
    (mbxBound s n mid = false → exec (.mailboxSend ch mid v) s = .next s ∧
      exec (.mailboxStatusClear ch mid v) s = .next s) ∧
    (mbxBound s n mid = true → 1 ≤ fld v 4 0 → fld v 4 0 ≤ 16 → midDown told (otherMid c mid) = true →
      exec (.mailboxSend ch mid v) s = .next (blockReply n mbxDomainReset told)) ∧
    (mbxBound s n mid = true → exec (.mailboxStatusClear ch mid v) s = .next (modMbx n (fun _ => { c with
      collision := c.collision && !(bit v 1), acked := c.acked && !(bit v 2) }) s)) ∧
    (c.full = true → exec (.mailboxTimeout ch) s = .next (raise 0x0A09 (hubUnit 6) {}
      (blockReply n mbxTimeoutCode (advanceTo (c.since + msec 1) s)))) ∧
    (s.mgmt.presence = false → exec (.mbxRebindGo v) s = .next (raise 0x0A02 (hubUnit 6) {} s)) ∧
    (s.mgmt.presence = true → exec (.mbxRebindGo v) s = .next rebound)

/-- The oldest record that waits is written at HEAD of the part's ring while EN is 1 and there is room, HEAD moves on and an
interrupt follows; without room it is counted as lost, and with EN 0 kept; a TAIL in range is taken; setting EN writes what was
kept; PTB is sampled every 1,024 ns, the heartbeat counts while firmware runs and CLK_MGMT's PLL is locked, and a lock whose
lease ends is released with a reset of its core (R389, R391 to R393, R396, R408). Choices of the model that it rests on: log
entry 116. -/
def Obligations.EventRings : Prop :=
  ∀ (s : State) (e : Event) (rest : List Event) (v : BitVec 32) (lock : Fin 131) (core : Fin 4),
    let m := s.mgmt
    let size := 2 ^ evtLog2 s
    let at_ := m.evtBase.toNat + 32 * m.evtHead.toNat
    let next1 := (m.evtHead.toNat + 1) % size
    let t := fld v 15 0
    (m.queue = [] → exec .eventRecordWrite s = .next s) ∧
    (m.queue = e :: rest → e.ctx = none →
      (bit m.evtCtrl 8 = true → next1 ≠ m.evtTail.toNat → ∃ t, exec .eventRecordWrite s = .next t ∧
        hostRead t at_ 32 = eventBytes e m.evtPhase ∧
        (∀ a, a < at_ ∨ at_ + 32 ≤ a → hostRead t a 1 = hostRead s a 1) ∧
        t.mgmt = { m with queue := rest, evtHead := BitVec.ofNat 16 next1
                          evtPhase := if next1 = 0 then !m.evtPhase else m.evtPhase } ∧
        t.hif.msix = s.hif.msix ++
          [{ func := 0, port := if bit m.evtCtrl 9 then 1 else 0, vec := BitVec.ofNat 6 (fld m.evtCtrl 21 16) }] ∧
        { t with mgmt := m, hif := s.hif, host := s.host } = s) ∧
      (bit m.evtCtrl 8 = true → next1 = m.evtTail.toNat → exec .eventRecordWrite s =
        .next (modMgmt (fun m => { m with queue := rest, evtLost := satUp m.evtLost 1 }) s)) ∧
      (bit m.evtCtrl 8 = false → m.kept.length < 4096 → exec .eventRecordWrite s =
        .next (modMgmt (fun m => { m with queue := rest, kept := m.kept ++ [e] }) s))) ∧
    (bit v 8 = false → exec (.evtRingEnable v) s = .next (modMgmt (fun m => { m with evtCtrl := v &&& evtCtrlMask }) s)) ∧
    (bit v 8 = true → m.kept = [] →
      exec (.evtRingEnable v) s = .next (modMgmt (fun m => { m with evtCtrl := v &&& evtCtrlMask }) s)) ∧
    (headOk (evtLog2 s) m.evtTail.toNat m.evtHead.toNat t = true →
      exec (.evtRingTailWrite v) s = .next (modMgmt (fun m => { m with evtTail := BitVec.ofNat 16 t }) s)) ∧
    (headOk (evtLog2 s) m.evtTail.toNat m.evtHead.toNat t = false →
      exec (.evtRingTailWrite v) s = .next (raise 0x0602 (hubUnit 0) { arg0 := 0x018 + 65536 * t } s)) ∧
    exec .ptbSample s =
      .next (modMgmt (fun g => { g with ptbSample := m.ptbSample + 1024 }) (advanceTo (m.ptbSample + 1024) s)) ∧
    (m.fw = .running → bit s.pwr.pll 26 = true →
      exec .heartbeat s = .next (modMgmt (fun m => { m with heartbeat := m.heartbeat + 1 }) s)) ∧
    (bit s.pwr.pll 26 = false → exec .heartbeat s = .next s) ∧
    (SMap.get none m.locks lock.val = some core.val → exec (.fwLockExpired lock core) s =
      .next (raise 0x0A0A (hubUnit (8 + core.val)) {} (modMgmt (fun m => { m with
        locks := SMap.set none m.locks lock.val none
        long := m.long.filter (fun l => decide (l.core ≠ core.val) || decide (l.cmd = 0x0021))
        coreResets := m.coreResets ++ [core.val] }) s)))

/-- A register write that is misaligned, of another size, or to a hub in chip reset or without power is ignored; of the others,
STEP_CFG is staged, MEM_CFG is taken until its LOCK, a selector is the master's own, the firewall's is taken only on a part that
has one, and a mailbox window's SEND word posts; a debug window takes a word while debug is unlocked, and raises PRESENCE_DENIED
(its source: log entry 61) otherwise (R16, R178, R199, R221, R321, R380, R434 to R436, R438, R440, R447). Choices of the model
that it rests on: log entry 64. -/
def Obligations.RegisterWrites : Prop :=
  ∀ (s : State) (m : Master) (off : BitVec 27) (size : AccessSize) (v : BitVec 64) (ch : Fin 64) (code : BitVec 8) (word : BitVec 9),
    let low := keep 64 0xFFFFFFFF v
    (exec (.registerWrite m off .other v) s = .next s) ∧
    (off.toNat % 4 ≠ 0 → exec (.registerWrite m off .w32 v) s = .next s) ∧
    (off.toNat % 8 ≠ 0 → exec (.registerWrite m off .w64 v) s = .next s) ∧
    (hubDown s = true → exec (.registerWrite m off size v) s = .next s ∧ readRegister s m off.toNat false = .error) ∧
    (hubDown s = false →
      exec (.registerWrite .pf0h0 0x01C00000 .w32 v) s = .next (modStep (fun e => { e with cfgW := keep 32 0xFFFFF low }) s) ∧
      (s.memRegs.lock = true → exec (.registerWrite .pf0h0 0x01000000 .w32 v) s = .next s) ∧
      (s.memRegs.lock = false → exec (.registerWrite .pf0h0 0x01000000 .w32 v) s = .next { s with memRegs := { s.memRegs with
        localRows := keep 18 0x3FFFF low, lock := bit low 31 } }) ∧
      exec (.registerWrite .pf0h0 0x01600010 .w32 v) s =
        .next { s with sel := SMap.upd Selectors.init s.sel 0 (fun x => { x with fabPort := keep 32 0x1F low }) } ∧
      (hasGfw s = false → exec (.registerWrite .pf0h0 0x01400008 .w32 v) s = .next s) ∧
      exec (.registerWrite .pf0h0 (BitVec.ofNat 27 (0x4000040 + 1024 * ch.val)) .w32 v) s =
        .next (sendPost ch.val 0x00 (low.setWidth 32) s)) ∧
    ((selIndex m).isSome = true → privateCodes.contains code.toNat = true →
      (s.mgmt.debug = true → exec (.debugWindowWrite m code word v) s = .next { s with test := { s.test with
        window := SMap.set 0 s.test.window (code.toNat * 512 + word.toNat) v } }) ∧
      (s.mgmt.debug = false → exec (.debugWindowWrite m code word v) s = .next (raise 0x0A02 (hubUnit 8) {} s)))

/-- Firmware answers the command that waits for it: PING, INFO, ATTEST, ID_CHAIN and READ_CAPTURE with what they report, in reply
words or at the host's address; SCRUB from others than PF0 and the tray is not permitted; the presence-gated ones are refused
without presence and act under it; long ones take their lock and end with their code; a repair beyond the bypasses of a cell
loses its position; where no command waits, nothing changes (R64, R375 to R379, R384, R388 to R390, R432; log entries 3 and 60).
Choices of the model that it rests on: log entries 89, 90, 91 and 138. -/
def Obligations.FirmwareCommands : Prop :=
  ∀ (s : State) (ch target : Fin 64) (t : ScrubTarget) (r : Repair) (ok : Bool) (v : BitVec 32) (m : FwMsg) (l : LongCommand)
    (ticket : BitVec 8) (i q : Nat),
    let n := ch.val
    let say := fun (code : Nat) (t : State) => Host.Outcome.next (fwReply n m code [] t)
    let all := [.ping ch, .info ch, .attest ch, .idChain ch, .readCapture ch, .scrub ch t, .installTableWrite ch,
      .fuseRepair ch r ok, .rotateId ch, .debugUnlock ch, .mbxRebind ch target v, .sealClear ch]
    let p := (msgWord m 4).toNat
    let long := fun (lock : Nat) (l : LongCommand) =>
      modMgmt (fun g => { g with locks := SMap.set none g.locks lock (some m.core), long := g.long ++ [l] }) s
    let table : LongCommand := { core := m.core, ticket := m.ticket, cmd := 0x0030, table := sentTable s m, repair := none, ok := true }
    let fuse : LongCommand := { core := m.core, ticket := m.ticket, cmd := 0x0031, table := [], repair := some r, ok := ok }
    let rest := modMgmt (fun g => { g with long := g.long.eraseIdx i }) s
    (fwMsg s n = none → ∀ c ∈ all, exec c s = .next s) ∧
    (fwMsg s n = some m →
      (m.cmd = 0x0001 → exec (.ping ch) s = say fwOk s) ∧
      (m.cmd = 0x0002 → exec (.info ch) s = .next (fwReply n m fwOk (infoWords s) s)) ∧
      (m.cmd = 0x0010 → exec (.attest ch) s = .next (fwData n m (report s (nonce m)) s)) ∧
      (m.cmd = 0x0011 → exec (.idChain ch) s =
        .next (fwData n m (Config.certificate s.fuses.serial ++ s.mgmt.links.flatten) s)) ∧
      (m.cmd = 0x0020 → p ≤ 7 → fitsCompute s.fuses.part p = true →
        (posnDown s p = true → exec (.readCapture ch) s = say mbxDomainReset s) ∧
        (posnDown s p = false → exec (.readCapture ch) s = .next (fwData n m (captureRecord s p) s))) ∧
      (m.cmd = 0x0021 → m.sender ≠ 0 → m.sender ≠ 0x50 → exec (.scrub ch t) s = say fwNotPermitted s) ∧
      (m.cmd = 0x0021 → (m.sender = 0 ∨ m.sender = 0x50) → scrubOk s t = false →
        exec (.scrub ch t) s = say fwBadArgument s) ∧
      (m.cmd = 0x0021 → (m.sender = 0 ∨ m.sender = 0x50) → scrubOk s t = true → t.hi.toNat ≤ t.lo.toNat →
        exec (.scrub ch t) s = say fwAccepted { s with
          hif := { s.hif with scrubs := s.hif.scrubs ++
            [{ ctx := none, ticket := m.ticket, windows := [], posns := t.posns }] }
          mgmt := { s.mgmt with long := s.mgmt.long ++
            [{ core := m.core, ticket := m.ticket, cmd := 0x0021, table := [], repair := none, ok := true }] } }) ∧
      (s.mgmt.presence = false → (m.cmd = 0x0030 → exec (.installTableWrite ch) s = say fwNoPresence s) ∧
        (m.cmd = 0x0031 → exec (.fuseRepair ch r ok) s = say fwNoPresence s) ∧
        (m.cmd = 0x0032 → exec (.rotateId ch) s = say fwNoPresence s) ∧
        (m.cmd = 0x0033 → exec (.debugUnlock ch) s = say fwNoPresence s) ∧
        (m.cmd = 0x0034 → exec (.mbxRebind ch target v) s = say fwNoPresence s) ∧
        (m.cmd = 0x0035 → exec (.sealClear ch) s = say fwNoPresence s)) ∧
      (s.mgmt.presence = true →
        (m.cmd = 0x0030 → tableOk s.fuses.serial (sentTable s m) = false →
          exec (.installTableWrite ch) s = say fwCheckFailed s) ∧
        (m.cmd = 0x0030 → tableOk s.fuses.serial (sentTable s m) = true →
          (lockHeld s 0 = true → exec (.installTableWrite ch) s = say fwBusy s) ∧
          (lockHeld s 0 = false → exec (.installTableWrite ch) s = say fwAccepted (long 0 table))) ∧
        (m.cmd = 0x0031 → repairNames s r = true → SMap.get 0 s.fuses.wordsUsed (repairHome r) < repairWords (repairHome r) →
          repairFits s r = true → lockHeld s 1 = false → exec (.fuseRepair ch r ok) s = say fwAccepted (long 1 fuse)) ∧
        (m.cmd = 0x0031 → repairNames s r = true → beyondBypasses s r = true → repairFits s r = false → repairPosn r = some q →
          (getPos s q).st = .enabled → exec (.fuseRepair ch r ok) s = .next (losePosn q (fwReply n m fwNotPermitted [] s))) ∧
        (m.cmd = 0x0032 → s.fuses.idGen = 15 → exec (.rotateId ch) s = say fwNotPermitted s) ∧
        (m.cmd = 0x0032 → s.fuses.idGen ≠ 15 → exec (.rotateId ch) s = say fwOk (raise 0x0A06 (hubUnit (8 + m.core)) {}
          { s with mgmt := { s.mgmt with links := s.mgmt.links ++ [linkRecord s] }
                   fuses := { s.fuses with idGen := s.fuses.idGen + 1 } })) ∧
        (m.cmd = 0x0033 → exec (.debugUnlock ch) s =
          say fwOk (raise 0x0A07 (hubUnit (8 + m.core)) {} (modMgmt (fun g => { g with debug := true }) s))) ∧
        (m.cmd = 0x0034 → exec (.mbxRebind ch target v) s = say fwOk (rebind target.val v s)) ∧
        (m.cmd = 0x0035 → exec (.sealClear ch) s = say fwOk (modMgmt (fun g => { g with sealOpened := false }) s)))) ∧
    (placeOf (fun (l : LongCommand) => l.ticket == ticket && decide (l.cmd ≠ 0x0021)) s.mgmt.long = some i →
      s.mgmt.long[i]? = some l → l.cmd = 0x0030 → l.repair = none →
      (s.mgmt.presence = false →
        exec (.firmwareCommandEnd ticket) s = .next (logEnd l.ticket fwNoPresence (dropLock 0 rest))) ∧
      (s.mgmt.presence = true → exec (.firmwareCommandEnd ticket) s = .next (logEnd l.ticket fwOk
        (raise 0x0A04 (hubUnit (8 + l.core)) { arg0 := l.ticket.toNat }
          (modMgmt (fun m => { m with tableFlash := some l.table }) (dropLock 0 rest))))))

/-- Presence holds while PRESENCE_N is low and the seal loop is closed; opening the loop ends it, counts and raises SEAL_OPENED;
a toggle that returns closes the loop (R378, R412). Choices of the model that it rests on: log entry 92. -/
def Obligations.PhysicalPresence : Prop :=
  ∀ (s : State) (back : Bool),
    let flipped := modMgmt (fun m => { m with sealLevel := !m.sealLevel }) s
    let opened := fun (s : State) => raise 0x0A03 (hubUnit 8) {} (modMgmt (fun m => { m with
      sealClosed := false, sealOpened := true, presence := false, tamper := satUp m.tamper 1 }) s)
    exec .presenceAssert s = .next (modMgmt (fun m => { m with presenceLow := true, presence := m.sealClosed }) s) ∧
    exec .presenceEnd s = .next (modMgmt (fun m => { m with presenceLow := false, presence := false }) s) ∧
    (s.mgmt.sealClosed = false → exec .sealOpened s = .next s) ∧
    (s.mgmt.sealClosed = true → exec .sealOpened s = .next (alertSets s (opened s))) ∧
    (back = true → exec (.sealToggle back) s =
      .next (modMgmt (fun m => { m with sealClosed := true, presence := m.presenceLow }) flipped)) ∧
    (back = false → s.mgmt.sealClosed = true →
      exec (.sealToggle back) s = .next (alertSets flipped (opened flipped)))

/-- Power-up in its stages: a good image makes firmware run and stage 3 end, a bad one enters RECOVERY with its code; the
inventory sets the positions, the effective level and the errata; HBM training ends stage 5 with the power-up scrub waiting;
discovery loads a good table and sends the identity on every cabled port, or holds every port; a host port that trains ends stage
8 once (R212, R213, R240, R241, R372, R373, R390, R409, R411). Choices of the model that it rests on: log entries 3, 6, 94, 95,
96, 98 and 100. -/
def Obligations.PowerUpStages : Prop :=
  ∀ (s : State) (failed : List (Posn × Fin 64)) (t : List Byte) (port : Fin 2) (w : BitVec 5) (r : BitVec 7),
    let h := flashRead s 0 256
    (s.mgmt.fw = .boot → s.pwr.stage = 2 → s.pwr.pwrGood = true → s.pwr.pkgReset = false →
      (bootFail s ≠ 0 → ∃ t, exec .managementBoot s = .next t ∧ t.mgmt.fw = .recovery ∧
        t.mgmt.fail = BitVec.ofNat 4 (bootFail s) ∧ t.pwr.stage = 2 ∧ t.mem = s.mem ∧ t.hif = s.hif ∧ t.step = s.step) ∧
      (bootFail s = 0 → ∃ t, exec .managementBoot s = .next t ∧ t.mgmt.fw = .running ∧ t.mgmt.fail = 0 ∧
        t.mgmt.fwVersion = BitVec.ofNat 32 (leAt h 0x0C 4) ∧ t.mgmt.mbxLock = true ∧ t.pwr.stage = 3 ∧ t.mem = s.mem ∧
        t.hif = s.hif ∧ t.step = s.step)) ∧
    (s.mgmt.fw ≠ .boot → exec .managementBoot s = .next s) ∧
    (s.pwr.stage = 3 → s.mgmt.fw = .running → ∃ t, exec .dieInventory s = .next t ∧
      (∀ n, n < 8 → (getPos t n).st = inventoryState s n) ∧ t.pkg.effective = BitVec.ofNat 8 (effectiveLevel s) ∧
      t.mem = s.mem ∧ t.hif = s.hif ∧ t.cells = s.cells) ∧
    (s.pwr.stage = 5 → ∃ t, exec (.hbmTraining failed) s = .next t ∧ t.pwr.stage = 6) ∧
    (s.pwr.stage = 5 → ∃ t, exec (.hbmTraining []) s = .next t ∧ t.pwr.stage = 6 ∧
      t.hif.scrubs = s.hif.scrubs ++ [{ ctx := none, ticket := 0, windows := hbmWindows t, posns := 0 }] ∧
      t.hif.ctxs = s.hif.ctxs ∧ t.cells = s.cells ∧ t.step = s.step) ∧
    (s.pwr.stage = 6 → s.mgmt.tableFlash = none → ∃ t, exec .fabricDiscovery s = .next t ∧
      (∀ p, p < 24 → (getPort t p).st = .held) ∧ t.fab.table = s.fab.table ∧ t.pwr.stage = 7 ∧ t.mem = s.mem) ∧
    (s.pwr.stage = 6 → s.mgmt.tableFlash = some t → tableOk s.fuses.serial t = true → ∃ u, exec .fabricDiscovery s = .next u ∧
      u.fab.table = some t ∧
      u.fab.linkctl = s.fab.linkctl ++ ((List.range 24).filter (cabled u)).map (fun p =>
        (p, .ident s.fuses.serial p (BitVec.ofNat 64 (wTableDigest u)))) ∧ u.fab.selfIdx = indexOfSerial t s.fuses.serial.toNat ∧
      (∀ p, p < 24 → (getPort u p).st = if cabled u p then .training else .notCabled) ∧ u.mem = s.mem) ∧
    (s.pwr.stage.toNat < 7 → exec (.hostLinkTraining port w r) s =
      .next (modHif (fun h => { h with perst := SMap.set true h.perst port.val false }) s)) ∧
    (s.pwr.stage = 7 → ∃ t, exec (.hostLinkTraining port w r) s = .next t ∧
      (t.pwr.stage = if SMap.get true s.hif.perst (1 - port.val) = true ∨ SMap.get false s.hif.linkUp (1 - port.val) = true
        then 8 else 7) ∧
      SMap.get false t.hif.linkUp port.val = true ∧ SMap.get true t.hif.perst port.val = false ∧
      t.mgmt.queue.length = s.mgmt.queue.length + 1 ∧ t.hif.ctxs = s.hif.ctxs ∧ t.mem = s.mem)

/-! ### Resets, pins and test -/

/-- RAS_RESET with GO by firmware or PF0: a level 1 request captures and resets the engine it names, or waits for its capture, a
level 2 one the position, and a level 3 one asks the tray; a target in reset already is left alone; the watchdog acts while its
limit is not 0; a lease that ends lets the reset go on; a position that is done is ENABLED or GUEST again, and one that is late
is OUT_OF_SERVICE; an engine that is done returns, and one that is late takes its position (R324 to R328, R330). A partition
reset that takes place leaves every cell of its position and its stream contexts at reset and its staging SRAM 0, the position
IN_RESET, with the factory's fuses as they are (R327). Choices of the model that it rests on: log entries 34, 35, 36 and 93. -/
def Obligations.Resets : Prop :=
  (∀ (s : State) (m : Master) (v : BitVec 32) (cap : Bool) (cause : Nat) (posn : Posn) (engine : BitVec 6) (state : Bool)
      (r : PendingReset) (rest : List PendingReset),
      let set := setRasReset v s
      let n := fld v 6 4
      let e := fld v 13 8
      let part : PendingReset := { level := 3, posn := n, engine := 0, cause := cause }
      let eng : PendingReset := { level := 2, posn := n, engine := e, cause := cause }
      let dog : PendingReset :=
        { level := 2, posn := posn.val, engine := engine.toNat, cause := if state then capStateError else capWatchdog }
      let go := fun (r : PendingReset) (t : State) =>
        if cap then doReset r (writeCapture r true t) else { t with ras := { t.ras with pending := t.ras.pending ++ [r] } }
      let later := { s with ras := { s.ras with pending := rest } }
      (rasMaster m = none → exec (.rasResetEngine m v cap) s = .next s ∧ exec (.rasResetPartition m v cap) s = .next s ∧
        exec (.rasResetChipRequest m v) s = .next s) ∧
      (rasMaster m = some cause → bit v 31 = true →
        (fld v 1 0 = 1 → e < 32 ∨ e = 0x21 ∨ 0x38 ≤ e →
          (resetIgnored set eng = false → exec (.rasResetEngine m v cap) s = .next (go eng set)) ∧
          (resetIgnored set eng = true → exec (.rasResetEngine m v cap) s = .next set)) ∧
        (fld v 1 0 = 2 →
          (resetIgnored set part = false → exec (.rasResetPartition m v cap) s = .next (go part set)) ∧
          (resetIgnored set part = true → exec (.rasResetPartition m v cap) s = .next set)) ∧
        (fld v 1 0 = 3 → exec (.rasResetChipRequest m v) s =
          .next (alertSets set { set with ras := { set.ras with chipReq := true } }))) ∧
      (state = false → fld s.ras.wdog 15 0 = 0 → exec (.engineWatchdog posn engine state cap) s = .next s) ∧
      ((state = true ∨ fld s.ras.wdog 15 0 ≠ 0) → engine.toNat < 32 → resetIgnored s dog = false →
        exec (.engineWatchdog posn engine state cap) s = .next (go dog s)) ∧
      (s.ras.pending = r :: rest → exec .captureLeaseExpiry s = .next (doReset r (writeCapture r false later))) ∧
      (s.ras.pending = [] → exec .captureLeaseExpiry s = .next s) ∧
      ((getPos s posn.val).st = .inReset →
        exec (.partitionResetTimeout posn) s = .next (modPos posn.val (fun p => { p with st := .outOfService }) s) ∧
        ∃ t, exec (.partitionResetDone posn) s = .next t ∧
          (getPos t posn.val).st = (if fitsGuest s.fuses.part posn.val then .guest else .enabled) ∧
          (∀ k, k ≠ posn.val → getPos t k = getPos s k) ∧ t.mem = s.mem ∧ t.hif = s.hif ∧ t.step = s.step) ∧
      ((getPos s posn.val).st ≠ .inReset →
        exec (.partitionResetTimeout posn) s = .next s ∧ exec (.partitionResetDone posn) s = .next s) ∧
      (engine.toNat < 0x38 →
        exec (.engineResetDone posn engine) s = .next (modPos posn.val (fun p => { p with
          engReset := p.engReset.filter (fun k => decide (k ≠ engine.toNat)) }) s) ∧
        ((getPos s posn.val).engReset.contains engine.toNat = true →
          exec (.engineResetTimeout posn engine) s = .next (partitionReset posn.val capWatchdog s))) ∧
      (0x38 ≤ engine.toNat →
        exec (.engineResetDone posn engine) s = .next { s with ras := { s.ras with
          hubReset := s.ras.hubReset.filter (fun k => decide (k ≠ engine.toNat)) } } ∧
        (s.ras.hubReset.contains engine.toNat = true → exec (.engineResetTimeout posn engine) s = .next (requestChip s)))) ∧
  (∀ (s : State) (n : Nat), n < 8 →
      let t := resetPosition n s
      (getPos t n).st = .inReset ∧ (∀ k, cellPosn k = n → getCell t k = Cell.init) ∧
      (∀ k, k / 131072 = n → getStream t k = StreamCtx.init) ∧
      (∀ a, stageBase n ≤ a → a < stageBase n + 0x8000000 → SMap.get 0 t.mem a = 0) ∧
      factoryFuses t.fuses = factoryFuses s.fuses)

/-- PKG_RESET_N captures and resets the chip: the part is as at reset but for its memories, whose staging SRAMs are cleared, and
what lies outside it; its release and the rise of PWR_GOOD start the power-up; a fall of PWR_GOOD loses the memories; THERMTRIP_N
latches; each of the three gives up the ranks the package holds; a PLL that loses lock resets its position or asks for a chip
reset; DAMPED moves FRAC by one; telemetry is kept (R328, R330, R333, R401 to R403, R408, R409, R413, R414). Choices of the model
that it rests on: log entries 1, 6, 93 and 97. -/
def Obligations.PinsAndPower : Prop :=
  ∀ (s : State) (cap : Bool) (straps : BitVec 2) (n : Posn) (avg k : Nat) (td th : BitVec 8) (w : BitVec 16),
    let frac := fun (f : BitVec 7) => modPwr (fun p => { p with frac := f }) s
    let unlocked := fun (p : Pll) => modPwr (fun q => { q with pll := q.pll &&& ~~~(BitVec.ofNat 32 (2 ^ pllBit p)) }) s
    let telem := BitVec.ofNat 64 (packF [(0, td.toNat), (8, n.val), (16, th.toNat), (32, w.toNat)])
    (s.pwr.pkgReset = true → exec (.pkgResetAssert cap) s = .next s) ∧
    (s.pwr.pkgReset = false → ∃ t, exec (.pkgResetAssert cap) s = .next t ∧ t.pwr.pkgReset = true ∧ t.pwr.stage = 2 ∧
      t.mgmt.fw = .boot ∧ t.cells = [] ∧ t.streams = [] ∧ t.hif.ctxs = [] ∧ t.step.held = [] ∧ t.prog = [] ∧
      t.pending = s.pending ∧ factoryFuses t.fuses = factoryFuses s.fuses ∧
      (loseRanks s = s → t.pwr.flash = s.pwr.flash ∧
        ∀ a, a < 0x020000000000 → SMap.get 0 t.mem a = SMap.get 0 s.mem a)) ∧
    ((∀ kv ∈ s.fab.parts, (kv.2.valid && kv.2.ranked) = false) → loseRanks s = s) ∧
    ((getPart s k).valid = true → (getPart s k).ranked = true →
      (getPart (loseRankIn k s) k).ranked = false ∧ (loseRankIn k s).ras.spareState = .rankLost ∧
      (loseRankIn k s).ras.spareRank = (getPart s k).rank ∧ (loseRankIn k s).mem = s.mem) ∧
    (s.pwr.pkgReset = true → boardLoaded s = false → exec .pkgResetDeassert s =
      .next (modPwr (fun p => { p with pkgReset := false, upAt := s.mgmt.ptb }) s)) ∧
    (s.pwr.pkgReset = false → exec .pkgResetDeassert s = .next s) ∧
    (s.pwr.pwrGood = false → exec (.pwrGoodRise straps) s = .next (modPwr (fun p => { p with
      pwrGood := true, straps := straps, i3cAddr := BitVec.ofNat 7 (0x30 + straps.toNat), upAt := s.mgmt.ptb }) s)) ∧
    (s.pwr.pwrGood = true → ∃ t, exec .pwrGoodFall s = .next t ∧ t.pwr.pwrGood = false ∧ t.pwr.thermtrip = false ∧
      t.mem = [] ∧ t.cells = [] ∧ t.hif.ctxs = [] ∧ t.step.held = [] ∧ t.test.ir = 0x02 ∧ t.fuses.serial = s.fuses.serial ∧
      (loseRanks s = s → t.pwr.flash = s.pwr.flash)) ∧
    (s.pwr.thermtrip = true ∨ s.pwr.pkgReset = true → exec .thermtrip s =
      .next (modPwr (fun p => { p with thermtrip := true, arithStopped := true }) s)) ∧
    (s.pwr.arithStopped = true → ∀ c e er gap n op i, (i, op) ∈ opRows c e er gap ++ vopRows c e er ∨
        i ∈ ([.mmComplete c n, .drainComplete c, .vopComplete c, .sinComplete c, .soutComplete c, .sorgSignalArrive c,
          .drainBankFullStart c, .knPartialLeft ⟨c, e⟩, .bodyStart c e, .epochStall c, .kindleStart c, .kindleGapExpiry c,
          .kindleRampStep c] : List Instr) → exec i s = .next s) ∧
    (s.pwr.thermtrip = false → s.pwr.pkgReset = false → exec .thermtrip s =
      .next (modPwr (fun p => { p with thermtrip := true, arithStopped := true }) (loseRanks s))) ∧
    (exec (.pllLockLoss (.noc n)) s = .next (partitionReset n.val capFirmware (unlocked (.noc n))) ∧
      exec (.pllLockLoss (.arith n)) s = .next (partitionReset n.val capFirmware (unlocked (.arith n))) ∧
      exec (.pllLockLoss (.hbm n)) s = .next (partitionReset n.val capFirmware (unlocked (.hbm n))) ∧
      (∀ p, p ∈ [.hubNoc, .d2d, .serdes, .pcie] → exec (.pllLockLoss p) s = .next (requestChip (unlocked p))) ∧
      exec (.pllLockLoss .mgmt) s = .next (unlocked .mgmt)) ∧
    (s.pwr.modes.draught ≠ .damped → exec (.dampControl avg) s = .next s) ∧
    (s.pwr.modes.draught = .damped → dampW s < avg → 16 < s.pwr.frac.toNat →
      exec (.dampControl avg) s = .next (frac (s.pwr.frac - 1))) ∧
    (s.pwr.modes.draught = .damped → dampW s < avg → s.pwr.frac.toNat ≤ 16 → exec (.dampControl avg) s = .next s) ∧
    (s.pwr.modes.draught = .damped → ¬dampW s < avg → 100 * avg < 97 * dampW s → s.pwr.frac.toNat < 64 →
      exec (.dampControl avg) s = .next (frac (s.pwr.frac + 1))) ∧
    (w.toNat ≤ fld s.pwr.cap 31 16 → td.toNat < s.pwr.warn.toNat → th.toNat < s.pwr.warn.toNat →
      exec (.telemetryUpdate td n th w) s =
        .next (alertSets s (modPwr (fun p => { p with telem := telem }) s)))

/-- The tray's private write sets the offset and lands its words: a flash GO starts its operation, an alert bit clears by 1, the
page buffer takes a word; the dynamic address is kept; a started operation reads, programs or erases the flash where it is
allowed and the lock is free, and leaves ERR where it is not; BUSY clears after it (R414 to R417). Choices of the model that it
rests on: log entries 6, 62 and 99. -/
def Obligations.TrayAndFlash : Prop :=
  ∀ (s : State) (v : BitVec 32) (addr : BitVec 7) (a k : Nat),
    let op := BitVec.ofNat 2 (fld v 1 0)
    let page := BitVec.ofNat 24 (fld v 31 8)
    let at_ := fun (off : BitVec 24) (f : Pwr → Pwr) => modPwr f (modPwr (fun p => { p with i3cOffset := off }) s)
    let acted := fun (f : Pwr → Pwr) => modPwr (fun p => { p with flashRun := none }) (modPwr f s)
    let sector := a / 65536 * 65536
    (s.pwr.flashBusy = false → bit v 2 = true → op ≠ 0 → exec (.i3cPrivateWrite 0x10040 [v]) s =
      .next (at_ 0x10040 (fun p => { p with
        flashOp := op, flashAddr := page, flashBusy := true, flashErr := false, flashRun := some (op, page) }))) ∧
    exec (.i3cPrivateWrite 0x10008 [v]) s = .next (at_ 0x10008 (fun p => { p with
      alertTherm := p.alertTherm && !(bit v 2), alertLimit := p.alertLimit && !(bit v 3)
      alertMask := BitVec.ofNat 5 (fld v 12 8) })) ∧
    (k < 64 → exec (.i3cPrivateWrite (BitVec.ofNat 24 (0x10100 + 4 * k)) [v]) s =
      .next (at_ (BitVec.ofNat 24 (0x10100 + 4 * k)) (fun p => { p with fbuf := SMap.set 0 p.fbuf k v }))) ∧
    exec (.i3cDynamicAddress addr) s = .next (modPwr (fun p => { p with i3cDyn := some addr }) s) ∧
    (flashReady s 1 = some a → trayArea a = true → exec .flashRead s = .next (acted (fun p => { p with
      fbuf := SMap.run 0 0 ((cut 4 (flashRead s a 256)).map (fun w => BitVec.ofNat 32 (leNat w))) }))) ∧
    (flashReady s 2 = some a →
      (trayArea a = false → exec .flashProgram s = .next (acted (fun p => { p with flashErr := true }))) ∧
      (trayArea a = true → (∀ b ∈ flashRead s a 256, b = erasedByte) → exec .flashProgram s =
        .next (acted (fun p => { p with flash := SMap.writeRun erasedByte p.flash a (fbufBytes s) })))) ∧
    (flashReady s 3 = some a →
      (trayArea a = false → exec .flashErase s = .next (acted (fun p => { p with flashErr := true }))) ∧
      (trayArea a = true → ∃ t, exec .flashErase s = .next t ∧
        (∀ b, SMap.get erasedByte t.pwr.flash b =
          if sector ≤ b ∧ b < sector + 65536 then erasedByte else SMap.get erasedByte s.pwr.flash b) ∧
        t.pwr.flashRun = none ∧ { t with pwr := s.pwr } = s)) ∧
    (s.pwr.flashBusy = true → s.pwr.flashRun = none →
      exec .flashOpDone s = .next (modPwr (fun p => { p with flashBusy := false }) s)) ∧
    (s.pwr.flashRun ≠ none → exec .flashOpDone s = .next s)

/-- A TAP instruction that may act loads its code and selects its register: the board-test ones while PKG_RESET_N is asserted,
the private ones before FACTORY_CLOSED or while debug is unlocked, the others always; one that may not act loads BYPASS and shows
it in the next Capture-IR (R427, R428, R430). -/
def Obligations.TapInstructions : Prop :=
  ∀ (s : State),
    let load := fun (ir : BitVec 8) (bits : Nat) (b f : Bool) => Host.Outcome.next { s with
      test := { s.test with ir := ir, refused := false, drBits := bits, boundary := b, floated := f } }
    let no := Host.Outcome.next { s with
      test := { s.test with ir := 0xFF, refused := true, drBits := 1, boundary := false, floated := false } }
    let priv := s.fuses.factoryClosed = false ∨ s.mgmt.debug = true
    exec .idcode s = load 0x02 32 false false ∧ exec .bypass s = load 0xFF 1 false false ∧
    exec .samplePreload s = load 0x01 0 false false ∧
    (s.pwr.pkgReset = true → exec .extest s = load 0x00 0 true false ∧ exec .clamp s = load 0x03 1 true false ∧
      exec .highz s = load 0x04 1 false true ∧ exec .extestPulse s = load 0x05 0 true false ∧
      exec .extestTrain s = load 0x06 0 true false) ∧
    (s.pwr.pkgReset = false → ∀ i ∈ [Instr.extest, .clamp, .highz, .extestPulse, .extestTrain], exec i s = no) ∧
    (priv → exec .posnSel s = load 0x10 8 false false ∧ exec .wirAccess s = load 0x11 0 false false ∧
      exec .dwrAccess s = load 0x12 0 false false ∧ exec .mbist s = load 0x20 0 false false ∧
      exec .laneTest s = load 0x21 0 false false ∧ exec .fuseAccess s = load 0x30 0 false false) ∧
    (¬priv → ∀ i ∈ [Instr.posnSel, .wirAccess, .dwrAccess, .mbist, .laneTest, .fuseAccess], exec i s = no) ∧
    captureIr { s with test := { s.test with refused := true } } = 0x05 ∧
    captureIr { s with test := { s.test with refused := false } } = 0x01
end

