-- ==== Sys2Proof/Laws/Memory.lean ====
section
/-! SUPPORT. Reading and writing sparse tables: a read after a write, the other places, and the canonical form, which every
operation keeps. -/

namespace Sys2Proof

variable {α : Type} (d : α)

/-! ### A read after a write -/

theorem SMap.get_append (m n : SMap α) (j : Nat) (h : ∀ kv ∈ m, kv.1 ≠ j) : SMap.get d (m ++ n) j = SMap.get d n j := by
  induction m with
  | nil => rfl
  | cons kv t ih =>
    rw [List.cons_append, SMap.get, if_neg (h kv (List.mem_cons_self ..))]
    exact ih fun x hx => h x (List.mem_cons_of_mem _ hx)

theorem SMap.get_absent (m : SMap α) (j : Nat) (h : ∀ kv ∈ m, kv.1 ≠ j) : SMap.get d m j = d := by
  have e := SMap.get_append d m [] j h
  rwa [List.append_nil] at e

theorem SMap.get_append_absent (m n : SMap α) (j : Nat) (h : ∀ kv ∈ n, kv.1 ≠ j) : SMap.get d (m ++ n) j = SMap.get d m j := by
  induction m with
  | nil => exact SMap.get_absent d n j h
  | cons kv t ih => rw [List.cons_append, SMap.get, SMap.get, ih]

theorem SMap.get_filter (m : SMap α) (p : Nat × α → Bool) (j : Nat) (h : ∀ v, p (j, v) = true) :
    SMap.get d (m.filter p) j = SMap.get d m j := by
  induction m with
  | nil => rfl
  | cons kv t ih =>
    obtain ⟨k, v⟩ := kv
    rw [List.filter_cons]
    split
    · rw [SMap.get, SMap.get, ih]
    · rename_i hp
      rw [ih, SMap.get, if_neg]
      rintro rfl
      exact hp (h v)

theorem SMap.get_filter_out (m : SMap α) (p : Nat × α → Bool) (j : Nat) (h : ∀ v, p (j, v) = false) :
    SMap.get d (m.filter p) j = d :=
  SMap.get_absent d _ j fun kv hk e => by
    have := (List.mem_filter.mp hk).2
    obtain ⟨k, v⟩ := kv
    subst e
    rw [h v] at this
    cases this

variable [DecidableEq α]

/-- An index reads what was set there. -/
@[simp] theorem SMap.get_set (m : SMap α) (i : Nat) (v : α) : SMap.get d (SMap.set d m i v) i = v := by
  unfold SMap.set
  rw [List.append_assoc, SMap.get_append d _ _ i (fun kv h => by have := (List.mem_filter.mp h).2; simp at this; omega)]
  split
  · rename_i e
    rw [List.nil_append, e]
    exact SMap.get_filter_out d m _ i (by simp)
  · simp [SMap.get]

/-- Another index reads as before. -/
theorem SMap.get_set_ne (m : SMap α) (i j : Nat) (v : α) (h : j ≠ i) : SMap.get d (SMap.set d m i v) j = SMap.get d m j := by
  unfold SMap.set
  have hm : ∀ kv ∈ (if v = d then [] else [(i, v)] : SMap α), kv.1 ≠ j := by
    intro kv hk
    split at hk
    · cases hk
    · rw [List.mem_singleton.mp hk]
      exact fun e => h e.symm
  rcases Nat.lt_or_gt_of_ne h with hl | hg
  · rw [List.append_assoc, SMap.get_append_absent d, SMap.get_filter d m _ j (by simp [hl])]
    intro kv hk
    rcases List.mem_append.mp hk with hk | hk
    · exact hm kv hk
    · have := (List.mem_filter.mp hk).2
      simp at this
      omega
  · rw [SMap.get_append d, SMap.get_filter d m _ j (by simp [hg])]
    intro kv hk
    rcases List.mem_append.mp hk with hk | hk
    · have := (List.mem_filter.mp hk).2
      simp at this
      omega
    · exact hm kv hk

/-- Setting an index twice leaves the second value. -/
theorem SMap.set_set (m : SMap α) (i : Nat) (v w : α) : SMap.set d (SMap.set d m i v) i w = SMap.set d m i w := by
  have lo : ∀ v, (SMap.set d m i v).filter (fun c => decide (c.1 < i)) = m.filter (fun c => decide (c.1 < i)) := by
    intro v
    unfold SMap.set
    rw [List.filter_append, List.filter_append, List.filter_filter, List.filter_filter]
    have h1 : (m.filter fun a => decide (a.1 < i) && decide (i < a.1)) = [] :=
      List.filter_eq_nil_iff.mpr fun a _ => by simp; omega
    have h2 : (if v = d then [] else [(i, v)] : SMap α).filter (fun c => decide (c.1 < i)) = [] := by
      split <;> simp
    simp [h1, h2]
  have hi : ∀ v, (SMap.set d m i v).filter (fun c => decide (i < c.1)) = m.filter (fun c => decide (i < c.1)) := by
    intro v
    unfold SMap.set
    rw [List.filter_append, List.filter_append, List.filter_filter, List.filter_filter]
    have h1 : (m.filter fun a => decide (i < a.1) && decide (a.1 < i)) = [] :=
      List.filter_eq_nil_iff.mpr fun a _ => by simp; omega
    have h2 : (if v = d then [] else [(i, v)] : SMap α).filter (fun c => decide (i < c.1)) = [] := by
      split <;> simp
    simp [h1, h2]
  show (SMap.set d m i v).filter (fun c => decide (c.1 < i)) ++ (if w = d then [] else [(i, w)])
    ++ (SMap.set d m i v).filter (fun c => decide (i < c.1)) = _
  rw [lo v, hi v]
  rfl

/-- An index reads what it was changed to. -/
@[simp] theorem SMap.get_upd (m : SMap α) (i : Nat) (f : α → α) : SMap.get d (SMap.upd d m i f) i = f (SMap.get d m i) :=
  SMap.get_set d m i _

/-- Another index than the one changed reads as before. -/
theorem SMap.get_upd_ne (m : SMap α) (i j : Nat) (f : α → α) (h : j ≠ i) :
    SMap.get d (SMap.upd d m i f) j = SMap.get d m j :=
  SMap.get_set_ne d m i j _ h

theorem SMap.mem_run (vs : List α) (i : Nat) (kv : Nat × α) (h : kv ∈ SMap.run d i vs) :
    i ≤ kv.1 ∧ kv.1 < i + vs.length := by
  induction vs generalizing i with
  | nil => cases h
  | cons v t ih =>
    have hl : (v :: t).length = t.length + 1 := rfl
    unfold SMap.run at h
    split at h
    · have := ih (i + 1) h
      omega
    · rcases List.mem_cons.mp h with rfl | h
      · exact ⟨Nat.le_refl _, by omega⟩
      · have := ih (i + 1) h
        omega

theorem SMap.get_run (vs : List α) (i k : Nat) : SMap.get d (SMap.run d i vs) (i + k) = vs.getD k d := by
  induction vs generalizing i k with
  | nil => simp [SMap.run, SMap.get]
  | cons v t ih =>
    unfold SMap.run
    cases k with
    | zero =>
      split
      · rw [SMap.get_absent d _ _ fun kv h => by have := SMap.mem_run d t (i + 1) kv h; omega]
        simp_all
      · simp [SMap.get]
    | succ k =>
      have e : i + (k + 1) = i + 1 + k := by omega
      rw [e, List.getD_cons_succ]
      split
      · exact ih (i + 1) k
      · rw [SMap.get, if_neg (by omega)]
        exact ih (i + 1) k

/-- An index outside a run that was written reads as before. -/
theorem SMap.get_writeRun_out (m : SMap α) (i j : Nat) (vs : List α) (h : j < i ∨ i + vs.length ≤ j) :
    SMap.get d (SMap.writeRun d m i vs) j = SMap.get d m j := by
  unfold SMap.writeRun
  rcases h with h | h
  · rw [List.append_assoc, SMap.get_append_absent d, SMap.get_filter d m _ j (by simp [h])]
    intro kv hk
    rcases List.mem_append.mp hk with hk | hk
    · have := SMap.mem_run d vs i kv hk
      omega
    · have := (List.mem_filter.mp hk).2
      simp at this
      omega
  · rw [SMap.get_append d, SMap.get_filter d m _ j (by simp [h])]
    intro kv hk
    rcases List.mem_append.mp hk with hk | hk
    · have := (List.mem_filter.mp hk).2
      simp at this
      omega
    · have := SMap.mem_run d vs i kv hk
      omega

/-- An index of a run that was written reads the value written there. -/
theorem SMap.get_writeRun_in (m : SMap α) (i k : Nat) (vs : List α) (h : k < vs.length) :
    SMap.get d (SMap.writeRun d m i vs) (i + k) = vs.getD k d := by
  unfold SMap.writeRun
  rw [List.append_assoc, SMap.get_append d, SMap.get_append_absent d]
  · exact SMap.get_run d vs i k
  · intro kv hk
    have := (List.mem_filter.mp hk).2
    simp at this
    omega
  · intro kv hk
    have := (List.mem_filter.mp hk).2
    simp at this
    omega

omit [DecidableEq α] in
/-- Reading a run reads its indices one by one. -/
theorem SMap.readRun_get (m : SMap α) (i n : Nat) :
    SMap.readRun d m i n = (List.range n).map (fun k => SMap.get d m (i + k)) := by
  unfold SMap.readRun
  apply List.map_congr_left
  intro k hk
  have := List.mem_range.mp hk
  exact SMap.get_filter d m _ (i + k) (by simp; omega)

/-- A run that was written reads back. -/
theorem SMap.readRun_writeRun (m : SMap α) (i : Nat) (vs : List α) :
    SMap.readRun d (SMap.writeRun d m i vs) i vs.length = vs := by
  rw [SMap.readRun_get]
  apply List.ext_getElem
  · simp
  · intro k h1 h2
    simp only [List.getElem_map, List.getElem_range]
    rw [SMap.get_writeRun_in d m i k vs h2, List.getD_eq_getElem vs d h2]

/-- A run apart from one that was written reads as before. -/
theorem SMap.readRun_writeRun_apart (m : SMap α) (i j n : Nat) (vs : List α) (h : j + n ≤ i ∨ i + vs.length ≤ j) :
    SMap.readRun d (SMap.writeRun d m i vs) j n = SMap.readRun d m j n := by
  rw [SMap.readRun_get, SMap.readRun_get]
  apply List.map_congr_left
  intro k hk
  have := List.mem_range.mp hk
  exact SMap.get_writeRun_out d m i (j + k) vs (by omega)

/-! ### The canonical form -/

theorem SMap.wfFrom_mono (m : SMap α) (lo hi : Nat) (h : lo ≤ hi) (w : SMap.wfFrom d hi m = true) : SMap.wfFrom d lo m = true := by
  cases m with
  | nil => rfl
  | cons kv t =>
    simp only [SMap.wfFrom, Bool.and_eq_true, decide_eq_true_eq] at w ⊢
    exact ⟨⟨by omega, w.1.2⟩, w.2⟩

theorem SMap.wfFrom_raise (m : SMap α) (lo hi : Nat) (w : SMap.wfFrom d lo m = true) (h : ∀ kv ∈ m, hi ≤ kv.1) :
    SMap.wfFrom d hi m = true := by
  cases m with
  | nil => rfl
  | cons kv t =>
    simp only [SMap.wfFrom, Bool.and_eq_true, decide_eq_true_eq] at w ⊢
    exact ⟨⟨h kv (List.mem_cons_self ..), w.1.2⟩, w.2⟩

/-- A table without some of its entries is in canonical form too. -/
theorem SMap.wf_filter (m : SMap α) (p : Nat × α → Bool) (lo : Nat) (w : SMap.wfFrom d lo m = true) :
    SMap.wfFrom d lo (m.filter p) = true := by
  induction m generalizing lo with
  | nil => rfl
  | cons kv t ih =>
    simp only [SMap.wfFrom, Bool.and_eq_true, decide_eq_true_eq] at w
    rw [List.filter_cons]
    split
    · simp only [SMap.wfFrom, Bool.and_eq_true, decide_eq_true_eq]
      exact ⟨w.1, ih _ w.2⟩
    · exact SMap.wfFrom_mono d _ lo (kv.1 + 1) (by omega) (ih _ w.2)

theorem SMap.wf_run (vs : List α) (i : Nat) : SMap.wfFrom d i (SMap.run d i vs) = true := by
  induction vs generalizing i with
  | nil => rfl
  | cons v t ih =>
    unfold SMap.run
    split
    · exact SMap.wfFrom_mono d _ i (i + 1) (by omega) (ih (i + 1))
    · simp only [SMap.wfFrom, Bool.and_eq_true, decide_eq_true_eq]
      exact ⟨⟨Nat.le_refl _, by assumption⟩, ih (i + 1)⟩

theorem SMap.wf_append (m n : SMap α) (lo b : Nat) (hm : SMap.wfFrom d lo m = true) (hb : ∀ kv ∈ m, kv.1 < b)
    (hn : SMap.wfFrom d b n = true) (hl : lo ≤ b) : SMap.wfFrom d lo (m ++ n) = true := by
  induction m generalizing lo with
  | nil => exact SMap.wfFrom_mono d n lo b hl hn
  | cons kv t ih =>
    simp only [List.cons_append, SMap.wfFrom, Bool.and_eq_true, decide_eq_true_eq] at hm ⊢
    exact ⟨hm.1, ih (kv.1 + 1) hm.2 (fun x hx => hb x (List.mem_cons_of_mem _ hx)) (hb kv (List.mem_cons_self ..))⟩

theorem SMap.wf_between (m x : SMap α) (p q : Nat × α → Bool) (i b : Nat) (hp : ∀ kv, p kv = true → kv.1 < i)
    (hq : ∀ kv, q kv = true → b ≤ kv.1) (hx : SMap.wfFrom d i x = true) (hb : ∀ kv ∈ x, kv.1 < b) (hib : i ≤ b)
    (w : SMap.wf d m = true) : SMap.wf d (m.filter p ++ x ++ m.filter q) = true := by
  have wq := SMap.wf_filter d m q 0 w
  refine SMap.wf_append d _ _ 0 b ?_ ?_ (SMap.wfFrom_raise d _ 0 b wq fun kv h => hq kv (List.mem_filter.mp h).2) (Nat.zero_le _)
  · exact SMap.wf_append d _ _ 0 i (SMap.wf_filter d m p 0 w) (fun kv h => hp kv (List.mem_filter.mp h).2) hx (Nat.zero_le _)
  · intro kv h
    rcases List.mem_append.mp h with h | h
    · exact Nat.lt_of_lt_of_le (hp kv (List.mem_filter.mp h).2) hib
    · exact hb kv h

/-- Setting an index keeps the canonical form. -/
theorem SMap.wf_set (m : SMap α) (i : Nat) (v : α) (w : SMap.wf d m = true) : SMap.wf d (SMap.set d m i v) = true := by
  unfold SMap.set
  refine SMap.wf_between d m _ _ _ i (i + 1) (by simp) (by simp) ?_ ?_ (by omega) w
  · split
    · rfl
    · simpa [SMap.wfFrom]
  · intro kv h
    split at h
    · cases h
    · rw [List.mem_singleton.mp h]
      exact Nat.lt_succ_self i

/-- Writing a run of values keeps the canonical form. -/
theorem SMap.wf_writeRun (m : SMap α) (i : Nat) (vs : List α) (w : SMap.wf d m = true) :
    SMap.wf d (SMap.writeRun d m i vs) = true := by
  unfold SMap.writeRun
  exact SMap.wf_between d m _ _ _ i (i + vs.length) (by simp) (by simp) (SMap.wf_run d vs i)
    (fun kv h => (SMap.mem_run d vs i kv h).2) (by omega) w

end Sys2Proof
end

