-- ==== Sys2Proof/Laws/State.lean ====
section
/-! SUPPORT. The fields of the state after each of the shared updates, one lemma per field per update, and what a read of one
table gives after a change of the same or another. -/

set_option linter.all false

namespace Sys2Proof.Machine

/-! ### modCell -/

@[simp] theorem modCell_pending (n : Nat) (f : Cell → Cell) (s : State) : (modCell n f s).pending = s.pending := rfl
@[simp] theorem modCell_fuses (n : Nat) (f : Cell → Cell) (s : State) : (modCell n f s).fuses = s.fuses := rfl
@[simp] theorem modCell_cells (n : Nat) (f : Cell → Cell) (s : State) : (modCell n f s).cells = SMap.upd Cell.init s.cells n f := rfl
@[simp] theorem modCell_prog (n : Nat) (f : Cell → Cell) (s : State) : (modCell n f s).prog = s.prog := rfl
@[simp] theorem modCell_progSrc (n : Nat) (f : Cell → Cell) (s : State) : (modCell n f s).progSrc = s.progSrc := rfl
@[simp] theorem modCell_progReload (n : Nat) (f : Cell → Cell) (s : State) : (modCell n f s).progReload = s.progReload := rfl
@[simp] theorem modCell_acc (n : Nat) (f : Cell → Cell) (s : State) : (modCell n f s).acc = s.acc := rfl
@[simp] theorem modCell_sorg (n : Nat) (f : Cell → Cell) (s : State) : (modCell n f s).sorg = s.sorg := rfl
@[simp] theorem modCell_posns (n : Nat) (f : Cell → Cell) (s : State) : (modCell n f s).posns = s.posns := rfl
@[simp] theorem modCell_streams (n : Nat) (f : Cell → Cell) (s : State) : (modCell n f s).streams = s.streams := rfl
@[simp] theorem modCell_mem (n : Nat) (f : Cell → Cell) (s : State) : (modCell n f s).mem = s.mem := rfl
@[simp] theorem modCell_host (n : Nat) (f : Cell → Cell) (s : State) : (modCell n f s).host = s.host := rfl
@[simp] theorem modCell_failed (n : Nat) (f : Cell → Cell) (s : State) : (modCell n f s).failed = s.failed := rfl
@[simp] theorem modCell_memRegs (n : Nat) (f : Cell → Cell) (s : State) : (modCell n f s).memRegs = s.memRegs := rfl
@[simp] theorem modCell_hif (n : Nat) (f : Cell → Cell) (s : State) : (modCell n f s).hif = s.hif := rfl
@[simp] theorem modCell_pkg (n : Nat) (f : Cell → Cell) (s : State) : (modCell n f s).pkg = s.pkg := rfl
@[simp] theorem modCell_fab (n : Nat) (f : Cell → Cell) (s : State) : (modCell n f s).fab = s.fab := rfl
@[simp] theorem modCell_step (n : Nat) (f : Cell → Cell) (s : State) : (modCell n f s).step = s.step := rfl
@[simp] theorem modCell_ras (n : Nat) (f : Cell → Cell) (s : State) : (modCell n f s).ras = s.ras := rfl
@[simp] theorem modCell_bank (n : Nat) (f : Cell → Cell) (s : State) : (modCell n f s).bank = s.bank := rfl
@[simp] theorem modCell_mgmt (n : Nat) (f : Cell → Cell) (s : State) : (modCell n f s).mgmt = s.mgmt := rfl
@[simp] theorem modCell_pwr (n : Nat) (f : Cell → Cell) (s : State) : (modCell n f s).pwr = s.pwr := rfl
@[simp] theorem modCell_test (n : Nat) (f : Cell → Cell) (s : State) : (modCell n f s).test = s.test := rfl
@[simp] theorem modCell_sel (n : Nat) (f : Cell → Cell) (s : State) : (modCell n f s).sel = s.sel := rfl
@[simp] theorem modCell_free (n : Nat) (f : Cell → Cell) (s : State) : (modCell n f s).free = s.free := rfl

/-! ### modPos -/

@[simp] theorem modPos_pending (n : Nat) (f : Pos → Pos) (s : State) : (modPos n f s).pending = s.pending := rfl
@[simp] theorem modPos_fuses (n : Nat) (f : Pos → Pos) (s : State) : (modPos n f s).fuses = s.fuses := rfl
@[simp] theorem modPos_cells (n : Nat) (f : Pos → Pos) (s : State) : (modPos n f s).cells = s.cells := rfl
@[simp] theorem modPos_prog (n : Nat) (f : Pos → Pos) (s : State) : (modPos n f s).prog = s.prog := rfl
@[simp] theorem modPos_progSrc (n : Nat) (f : Pos → Pos) (s : State) : (modPos n f s).progSrc = s.progSrc := rfl
@[simp] theorem modPos_progReload (n : Nat) (f : Pos → Pos) (s : State) : (modPos n f s).progReload = s.progReload := rfl
@[simp] theorem modPos_acc (n : Nat) (f : Pos → Pos) (s : State) : (modPos n f s).acc = s.acc := rfl
@[simp] theorem modPos_sorg (n : Nat) (f : Pos → Pos) (s : State) : (modPos n f s).sorg = s.sorg := rfl
@[simp] theorem modPos_posns (n : Nat) (f : Pos → Pos) (s : State) : (modPos n f s).posns = SMap.upd Pos.init s.posns n f := rfl
@[simp] theorem modPos_streams (n : Nat) (f : Pos → Pos) (s : State) : (modPos n f s).streams = s.streams := rfl
@[simp] theorem modPos_mem (n : Nat) (f : Pos → Pos) (s : State) : (modPos n f s).mem = s.mem := rfl
@[simp] theorem modPos_host (n : Nat) (f : Pos → Pos) (s : State) : (modPos n f s).host = s.host := rfl
@[simp] theorem modPos_failed (n : Nat) (f : Pos → Pos) (s : State) : (modPos n f s).failed = s.failed := rfl
@[simp] theorem modPos_memRegs (n : Nat) (f : Pos → Pos) (s : State) : (modPos n f s).memRegs = s.memRegs := rfl
@[simp] theorem modPos_hif (n : Nat) (f : Pos → Pos) (s : State) : (modPos n f s).hif = s.hif := rfl
@[simp] theorem modPos_pkg (n : Nat) (f : Pos → Pos) (s : State) : (modPos n f s).pkg = s.pkg := rfl
@[simp] theorem modPos_fab (n : Nat) (f : Pos → Pos) (s : State) : (modPos n f s).fab = s.fab := rfl
@[simp] theorem modPos_step (n : Nat) (f : Pos → Pos) (s : State) : (modPos n f s).step = s.step := rfl
@[simp] theorem modPos_ras (n : Nat) (f : Pos → Pos) (s : State) : (modPos n f s).ras = s.ras := rfl
@[simp] theorem modPos_bank (n : Nat) (f : Pos → Pos) (s : State) : (modPos n f s).bank = s.bank := rfl
@[simp] theorem modPos_mgmt (n : Nat) (f : Pos → Pos) (s : State) : (modPos n f s).mgmt = s.mgmt := rfl
@[simp] theorem modPos_pwr (n : Nat) (f : Pos → Pos) (s : State) : (modPos n f s).pwr = s.pwr := rfl
@[simp] theorem modPos_test (n : Nat) (f : Pos → Pos) (s : State) : (modPos n f s).test = s.test := rfl
@[simp] theorem modPos_sel (n : Nat) (f : Pos → Pos) (s : State) : (modPos n f s).sel = s.sel := rfl
@[simp] theorem modPos_free (n : Nat) (f : Pos → Pos) (s : State) : (modPos n f s).free = s.free := rfl

/-! ### modHif -/

@[simp] theorem modHif_pending (f : Hif → Hif) (s : State) : (modHif f s).pending = s.pending := rfl
@[simp] theorem modHif_fuses (f : Hif → Hif) (s : State) : (modHif f s).fuses = s.fuses := rfl
@[simp] theorem modHif_cells (f : Hif → Hif) (s : State) : (modHif f s).cells = s.cells := rfl
@[simp] theorem modHif_prog (f : Hif → Hif) (s : State) : (modHif f s).prog = s.prog := rfl
@[simp] theorem modHif_progSrc (f : Hif → Hif) (s : State) : (modHif f s).progSrc = s.progSrc := rfl
@[simp] theorem modHif_progReload (f : Hif → Hif) (s : State) : (modHif f s).progReload = s.progReload := rfl
@[simp] theorem modHif_acc (f : Hif → Hif) (s : State) : (modHif f s).acc = s.acc := rfl
@[simp] theorem modHif_sorg (f : Hif → Hif) (s : State) : (modHif f s).sorg = s.sorg := rfl
@[simp] theorem modHif_posns (f : Hif → Hif) (s : State) : (modHif f s).posns = s.posns := rfl
@[simp] theorem modHif_streams (f : Hif → Hif) (s : State) : (modHif f s).streams = s.streams := rfl
@[simp] theorem modHif_mem (f : Hif → Hif) (s : State) : (modHif f s).mem = s.mem := rfl
@[simp] theorem modHif_host (f : Hif → Hif) (s : State) : (modHif f s).host = s.host := rfl
@[simp] theorem modHif_failed (f : Hif → Hif) (s : State) : (modHif f s).failed = s.failed := rfl
@[simp] theorem modHif_memRegs (f : Hif → Hif) (s : State) : (modHif f s).memRegs = s.memRegs := rfl
@[simp] theorem modHif_hif (f : Hif → Hif) (s : State) : (modHif f s).hif = f s.hif := rfl
@[simp] theorem modHif_pkg (f : Hif → Hif) (s : State) : (modHif f s).pkg = s.pkg := rfl
@[simp] theorem modHif_fab (f : Hif → Hif) (s : State) : (modHif f s).fab = s.fab := rfl
@[simp] theorem modHif_step (f : Hif → Hif) (s : State) : (modHif f s).step = s.step := rfl
@[simp] theorem modHif_ras (f : Hif → Hif) (s : State) : (modHif f s).ras = s.ras := rfl
@[simp] theorem modHif_bank (f : Hif → Hif) (s : State) : (modHif f s).bank = s.bank := rfl
@[simp] theorem modHif_mgmt (f : Hif → Hif) (s : State) : (modHif f s).mgmt = s.mgmt := rfl
@[simp] theorem modHif_pwr (f : Hif → Hif) (s : State) : (modHif f s).pwr = s.pwr := rfl
@[simp] theorem modHif_test (f : Hif → Hif) (s : State) : (modHif f s).test = s.test := rfl
@[simp] theorem modHif_sel (f : Hif → Hif) (s : State) : (modHif f s).sel = s.sel := rfl
@[simp] theorem modHif_free (f : Hif → Hif) (s : State) : (modHif f s).free = s.free := rfl

/-! ### modCtx -/

@[simp] theorem modCtx_pending (c : Ctx) (f : Context → Context) (s : State) : (modCtx c f s).pending = s.pending := rfl
@[simp] theorem modCtx_fuses (c : Ctx) (f : Context → Context) (s : State) : (modCtx c f s).fuses = s.fuses := rfl
@[simp] theorem modCtx_cells (c : Ctx) (f : Context → Context) (s : State) : (modCtx c f s).cells = s.cells := rfl
@[simp] theorem modCtx_prog (c : Ctx) (f : Context → Context) (s : State) : (modCtx c f s).prog = s.prog := rfl
@[simp] theorem modCtx_progSrc (c : Ctx) (f : Context → Context) (s : State) : (modCtx c f s).progSrc = s.progSrc := rfl
@[simp] theorem modCtx_progReload (c : Ctx) (f : Context → Context) (s : State) : (modCtx c f s).progReload = s.progReload := rfl
@[simp] theorem modCtx_acc (c : Ctx) (f : Context → Context) (s : State) : (modCtx c f s).acc = s.acc := rfl
@[simp] theorem modCtx_sorg (c : Ctx) (f : Context → Context) (s : State) : (modCtx c f s).sorg = s.sorg := rfl
@[simp] theorem modCtx_posns (c : Ctx) (f : Context → Context) (s : State) : (modCtx c f s).posns = s.posns := rfl
@[simp] theorem modCtx_streams (c : Ctx) (f : Context → Context) (s : State) : (modCtx c f s).streams = s.streams := rfl
@[simp] theorem modCtx_mem (c : Ctx) (f : Context → Context) (s : State) : (modCtx c f s).mem = s.mem := rfl
@[simp] theorem modCtx_host (c : Ctx) (f : Context → Context) (s : State) : (modCtx c f s).host = s.host := rfl
@[simp] theorem modCtx_failed (c : Ctx) (f : Context → Context) (s : State) : (modCtx c f s).failed = s.failed := rfl
@[simp] theorem modCtx_memRegs (c : Ctx) (f : Context → Context) (s : State) : (modCtx c f s).memRegs = s.memRegs := rfl
@[simp] theorem modCtx_hif (c : Ctx) (f : Context → Context) (s : State) : (modCtx c f s).hif = { s.hif with ctxs := SMap.upd Context.init s.hif.ctxs c.toNat f } := rfl
@[simp] theorem modCtx_pkg (c : Ctx) (f : Context → Context) (s : State) : (modCtx c f s).pkg = s.pkg := rfl
@[simp] theorem modCtx_fab (c : Ctx) (f : Context → Context) (s : State) : (modCtx c f s).fab = s.fab := rfl
@[simp] theorem modCtx_step (c : Ctx) (f : Context → Context) (s : State) : (modCtx c f s).step = s.step := rfl
@[simp] theorem modCtx_ras (c : Ctx) (f : Context → Context) (s : State) : (modCtx c f s).ras = s.ras := rfl
@[simp] theorem modCtx_bank (c : Ctx) (f : Context → Context) (s : State) : (modCtx c f s).bank = s.bank := rfl
@[simp] theorem modCtx_mgmt (c : Ctx) (f : Context → Context) (s : State) : (modCtx c f s).mgmt = s.mgmt := rfl
@[simp] theorem modCtx_pwr (c : Ctx) (f : Context → Context) (s : State) : (modCtx c f s).pwr = s.pwr := rfl
@[simp] theorem modCtx_test (c : Ctx) (f : Context → Context) (s : State) : (modCtx c f s).test = s.test := rfl
@[simp] theorem modCtx_sel (c : Ctx) (f : Context → Context) (s : State) : (modCtx c f s).sel = s.sel := rfl
@[simp] theorem modCtx_free (c : Ctx) (f : Context → Context) (s : State) : (modCtx c f s).free = s.free := rfl

/-! ### modStream -/

@[simp] theorem modStream_pending (k : Nat) (f : StreamCtx → StreamCtx) (s : State) : (modStream k f s).pending = s.pending := rfl
@[simp] theorem modStream_fuses (k : Nat) (f : StreamCtx → StreamCtx) (s : State) : (modStream k f s).fuses = s.fuses := rfl
@[simp] theorem modStream_cells (k : Nat) (f : StreamCtx → StreamCtx) (s : State) : (modStream k f s).cells = s.cells := rfl
@[simp] theorem modStream_prog (k : Nat) (f : StreamCtx → StreamCtx) (s : State) : (modStream k f s).prog = s.prog := rfl
@[simp] theorem modStream_progSrc (k : Nat) (f : StreamCtx → StreamCtx) (s : State) : (modStream k f s).progSrc = s.progSrc := rfl
@[simp] theorem modStream_progReload (k : Nat) (f : StreamCtx → StreamCtx) (s : State) : (modStream k f s).progReload = s.progReload := rfl
@[simp] theorem modStream_acc (k : Nat) (f : StreamCtx → StreamCtx) (s : State) : (modStream k f s).acc = s.acc := rfl
@[simp] theorem modStream_sorg (k : Nat) (f : StreamCtx → StreamCtx) (s : State) : (modStream k f s).sorg = s.sorg := rfl
@[simp] theorem modStream_posns (k : Nat) (f : StreamCtx → StreamCtx) (s : State) : (modStream k f s).posns = s.posns := rfl
@[simp] theorem modStream_streams (k : Nat) (f : StreamCtx → StreamCtx) (s : State) : (modStream k f s).streams = SMap.upd StreamCtx.init s.streams k f := rfl
@[simp] theorem modStream_mem (k : Nat) (f : StreamCtx → StreamCtx) (s : State) : (modStream k f s).mem = s.mem := rfl
@[simp] theorem modStream_host (k : Nat) (f : StreamCtx → StreamCtx) (s : State) : (modStream k f s).host = s.host := rfl
@[simp] theorem modStream_failed (k : Nat) (f : StreamCtx → StreamCtx) (s : State) : (modStream k f s).failed = s.failed := rfl
@[simp] theorem modStream_memRegs (k : Nat) (f : StreamCtx → StreamCtx) (s : State) : (modStream k f s).memRegs = s.memRegs := rfl
@[simp] theorem modStream_hif (k : Nat) (f : StreamCtx → StreamCtx) (s : State) : (modStream k f s).hif = s.hif := rfl
@[simp] theorem modStream_pkg (k : Nat) (f : StreamCtx → StreamCtx) (s : State) : (modStream k f s).pkg = s.pkg := rfl
@[simp] theorem modStream_fab (k : Nat) (f : StreamCtx → StreamCtx) (s : State) : (modStream k f s).fab = s.fab := rfl
@[simp] theorem modStream_step (k : Nat) (f : StreamCtx → StreamCtx) (s : State) : (modStream k f s).step = s.step := rfl
@[simp] theorem modStream_ras (k : Nat) (f : StreamCtx → StreamCtx) (s : State) : (modStream k f s).ras = s.ras := rfl
@[simp] theorem modStream_bank (k : Nat) (f : StreamCtx → StreamCtx) (s : State) : (modStream k f s).bank = s.bank := rfl
@[simp] theorem modStream_mgmt (k : Nat) (f : StreamCtx → StreamCtx) (s : State) : (modStream k f s).mgmt = s.mgmt := rfl
@[simp] theorem modStream_pwr (k : Nat) (f : StreamCtx → StreamCtx) (s : State) : (modStream k f s).pwr = s.pwr := rfl
@[simp] theorem modStream_test (k : Nat) (f : StreamCtx → StreamCtx) (s : State) : (modStream k f s).test = s.test := rfl
@[simp] theorem modStream_sel (k : Nat) (f : StreamCtx → StreamCtx) (s : State) : (modStream k f s).sel = s.sel := rfl
@[simp] theorem modStream_free (k : Nat) (f : StreamCtx → StreamCtx) (s : State) : (modStream k f s).free = s.free := rfl

/-! ### modStep -/

@[simp] theorem modStep_pending (f : StepEng → StepEng) (s : State) : (modStep f s).pending = s.pending := rfl
@[simp] theorem modStep_fuses (f : StepEng → StepEng) (s : State) : (modStep f s).fuses = s.fuses := rfl
@[simp] theorem modStep_cells (f : StepEng → StepEng) (s : State) : (modStep f s).cells = s.cells := rfl
@[simp] theorem modStep_prog (f : StepEng → StepEng) (s : State) : (modStep f s).prog = s.prog := rfl
@[simp] theorem modStep_progSrc (f : StepEng → StepEng) (s : State) : (modStep f s).progSrc = s.progSrc := rfl
@[simp] theorem modStep_progReload (f : StepEng → StepEng) (s : State) : (modStep f s).progReload = s.progReload := rfl
@[simp] theorem modStep_acc (f : StepEng → StepEng) (s : State) : (modStep f s).acc = s.acc := rfl
@[simp] theorem modStep_sorg (f : StepEng → StepEng) (s : State) : (modStep f s).sorg = s.sorg := rfl
@[simp] theorem modStep_posns (f : StepEng → StepEng) (s : State) : (modStep f s).posns = s.posns := rfl
@[simp] theorem modStep_streams (f : StepEng → StepEng) (s : State) : (modStep f s).streams = s.streams := rfl
@[simp] theorem modStep_mem (f : StepEng → StepEng) (s : State) : (modStep f s).mem = s.mem := rfl
@[simp] theorem modStep_host (f : StepEng → StepEng) (s : State) : (modStep f s).host = s.host := rfl
@[simp] theorem modStep_failed (f : StepEng → StepEng) (s : State) : (modStep f s).failed = s.failed := rfl
@[simp] theorem modStep_memRegs (f : StepEng → StepEng) (s : State) : (modStep f s).memRegs = s.memRegs := rfl
@[simp] theorem modStep_hif (f : StepEng → StepEng) (s : State) : (modStep f s).hif = s.hif := rfl
@[simp] theorem modStep_pkg (f : StepEng → StepEng) (s : State) : (modStep f s).pkg = s.pkg := rfl
@[simp] theorem modStep_fab (f : StepEng → StepEng) (s : State) : (modStep f s).fab = s.fab := rfl
@[simp] theorem modStep_step (f : StepEng → StepEng) (s : State) : (modStep f s).step = f s.step := rfl
@[simp] theorem modStep_ras (f : StepEng → StepEng) (s : State) : (modStep f s).ras = s.ras := rfl
@[simp] theorem modStep_bank (f : StepEng → StepEng) (s : State) : (modStep f s).bank = s.bank := rfl
@[simp] theorem modStep_mgmt (f : StepEng → StepEng) (s : State) : (modStep f s).mgmt = s.mgmt := rfl
@[simp] theorem modStep_pwr (f : StepEng → StepEng) (s : State) : (modStep f s).pwr = s.pwr := rfl
@[simp] theorem modStep_test (f : StepEng → StepEng) (s : State) : (modStep f s).test = s.test := rfl
@[simp] theorem modStep_sel (f : StepEng → StepEng) (s : State) : (modStep f s).sel = s.sel := rfl
@[simp] theorem modStep_free (f : StepEng → StepEng) (s : State) : (modStep f s).free = s.free := rfl

/-! ### modHeld -/

@[simp] theorem modHeld_pending (i : Nat) (f : Held → Held) (s : State) : (modHeld i f s).pending = s.pending := rfl
@[simp] theorem modHeld_fuses (i : Nat) (f : Held → Held) (s : State) : (modHeld i f s).fuses = s.fuses := rfl
@[simp] theorem modHeld_cells (i : Nat) (f : Held → Held) (s : State) : (modHeld i f s).cells = s.cells := rfl
@[simp] theorem modHeld_prog (i : Nat) (f : Held → Held) (s : State) : (modHeld i f s).prog = s.prog := rfl
@[simp] theorem modHeld_progSrc (i : Nat) (f : Held → Held) (s : State) : (modHeld i f s).progSrc = s.progSrc := rfl
@[simp] theorem modHeld_progReload (i : Nat) (f : Held → Held) (s : State) : (modHeld i f s).progReload = s.progReload := rfl
@[simp] theorem modHeld_acc (i : Nat) (f : Held → Held) (s : State) : (modHeld i f s).acc = s.acc := rfl
@[simp] theorem modHeld_sorg (i : Nat) (f : Held → Held) (s : State) : (modHeld i f s).sorg = s.sorg := rfl
@[simp] theorem modHeld_posns (i : Nat) (f : Held → Held) (s : State) : (modHeld i f s).posns = s.posns := rfl
@[simp] theorem modHeld_streams (i : Nat) (f : Held → Held) (s : State) : (modHeld i f s).streams = s.streams := rfl
@[simp] theorem modHeld_mem (i : Nat) (f : Held → Held) (s : State) : (modHeld i f s).mem = s.mem := rfl
@[simp] theorem modHeld_host (i : Nat) (f : Held → Held) (s : State) : (modHeld i f s).host = s.host := rfl
@[simp] theorem modHeld_failed (i : Nat) (f : Held → Held) (s : State) : (modHeld i f s).failed = s.failed := rfl
@[simp] theorem modHeld_memRegs (i : Nat) (f : Held → Held) (s : State) : (modHeld i f s).memRegs = s.memRegs := rfl
@[simp] theorem modHeld_hif (i : Nat) (f : Held → Held) (s : State) : (modHeld i f s).hif = s.hif := rfl
@[simp] theorem modHeld_pkg (i : Nat) (f : Held → Held) (s : State) : (modHeld i f s).pkg = s.pkg := rfl
@[simp] theorem modHeld_fab (i : Nat) (f : Held → Held) (s : State) : (modHeld i f s).fab = s.fab := rfl
@[simp] theorem modHeld_step (i : Nat) (f : Held → Held) (s : State) : (modHeld i f s).step = { s.step with held := mapAt f i s.step.held } := rfl
@[simp] theorem modHeld_ras (i : Nat) (f : Held → Held) (s : State) : (modHeld i f s).ras = s.ras := rfl
@[simp] theorem modHeld_bank (i : Nat) (f : Held → Held) (s : State) : (modHeld i f s).bank = s.bank := rfl
@[simp] theorem modHeld_mgmt (i : Nat) (f : Held → Held) (s : State) : (modHeld i f s).mgmt = s.mgmt := rfl
@[simp] theorem modHeld_pwr (i : Nat) (f : Held → Held) (s : State) : (modHeld i f s).pwr = s.pwr := rfl
@[simp] theorem modHeld_test (i : Nat) (f : Held → Held) (s : State) : (modHeld i f s).test = s.test := rfl
@[simp] theorem modHeld_sel (i : Nat) (f : Held → Held) (s : State) : (modHeld i f s).sel = s.sel := rfl
@[simp] theorem modHeld_free (i : Nat) (f : Held → Held) (s : State) : (modHeld i f s).free = s.free := rfl

/-! ### modFab -/

@[simp] theorem modFab_pending (f : Fab → Fab) (s : State) : (modFab f s).pending = s.pending := rfl
@[simp] theorem modFab_fuses (f : Fab → Fab) (s : State) : (modFab f s).fuses = s.fuses := rfl
@[simp] theorem modFab_cells (f : Fab → Fab) (s : State) : (modFab f s).cells = s.cells := rfl
@[simp] theorem modFab_prog (f : Fab → Fab) (s : State) : (modFab f s).prog = s.prog := rfl
@[simp] theorem modFab_progSrc (f : Fab → Fab) (s : State) : (modFab f s).progSrc = s.progSrc := rfl
@[simp] theorem modFab_progReload (f : Fab → Fab) (s : State) : (modFab f s).progReload = s.progReload := rfl
@[simp] theorem modFab_acc (f : Fab → Fab) (s : State) : (modFab f s).acc = s.acc := rfl
@[simp] theorem modFab_sorg (f : Fab → Fab) (s : State) : (modFab f s).sorg = s.sorg := rfl
@[simp] theorem modFab_posns (f : Fab → Fab) (s : State) : (modFab f s).posns = s.posns := rfl
@[simp] theorem modFab_streams (f : Fab → Fab) (s : State) : (modFab f s).streams = s.streams := rfl
@[simp] theorem modFab_mem (f : Fab → Fab) (s : State) : (modFab f s).mem = s.mem := rfl
@[simp] theorem modFab_host (f : Fab → Fab) (s : State) : (modFab f s).host = s.host := rfl
@[simp] theorem modFab_failed (f : Fab → Fab) (s : State) : (modFab f s).failed = s.failed := rfl
@[simp] theorem modFab_memRegs (f : Fab → Fab) (s : State) : (modFab f s).memRegs = s.memRegs := rfl
@[simp] theorem modFab_hif (f : Fab → Fab) (s : State) : (modFab f s).hif = s.hif := rfl
@[simp] theorem modFab_pkg (f : Fab → Fab) (s : State) : (modFab f s).pkg = s.pkg := rfl
@[simp] theorem modFab_fab (f : Fab → Fab) (s : State) : (modFab f s).fab = f s.fab := rfl
@[simp] theorem modFab_step (f : Fab → Fab) (s : State) : (modFab f s).step = s.step := rfl
@[simp] theorem modFab_ras (f : Fab → Fab) (s : State) : (modFab f s).ras = s.ras := rfl
@[simp] theorem modFab_bank (f : Fab → Fab) (s : State) : (modFab f s).bank = s.bank := rfl
@[simp] theorem modFab_mgmt (f : Fab → Fab) (s : State) : (modFab f s).mgmt = s.mgmt := rfl
@[simp] theorem modFab_pwr (f : Fab → Fab) (s : State) : (modFab f s).pwr = s.pwr := rfl
@[simp] theorem modFab_test (f : Fab → Fab) (s : State) : (modFab f s).test = s.test := rfl
@[simp] theorem modFab_sel (f : Fab → Fab) (s : State) : (modFab f s).sel = s.sel := rfl
@[simp] theorem modFab_free (f : Fab → Fab) (s : State) : (modFab f s).free = s.free := rfl

/-! ### modPort -/

@[simp] theorem modPort_pending (p : Nat) (f : FabPort → FabPort) (s : State) : (modPort p f s).pending = s.pending := rfl
@[simp] theorem modPort_fuses (p : Nat) (f : FabPort → FabPort) (s : State) : (modPort p f s).fuses = s.fuses := rfl
@[simp] theorem modPort_cells (p : Nat) (f : FabPort → FabPort) (s : State) : (modPort p f s).cells = s.cells := rfl
@[simp] theorem modPort_prog (p : Nat) (f : FabPort → FabPort) (s : State) : (modPort p f s).prog = s.prog := rfl
@[simp] theorem modPort_progSrc (p : Nat) (f : FabPort → FabPort) (s : State) : (modPort p f s).progSrc = s.progSrc := rfl
@[simp] theorem modPort_progReload (p : Nat) (f : FabPort → FabPort) (s : State) : (modPort p f s).progReload = s.progReload := rfl
@[simp] theorem modPort_acc (p : Nat) (f : FabPort → FabPort) (s : State) : (modPort p f s).acc = s.acc := rfl
@[simp] theorem modPort_sorg (p : Nat) (f : FabPort → FabPort) (s : State) : (modPort p f s).sorg = s.sorg := rfl
@[simp] theorem modPort_posns (p : Nat) (f : FabPort → FabPort) (s : State) : (modPort p f s).posns = s.posns := rfl
@[simp] theorem modPort_streams (p : Nat) (f : FabPort → FabPort) (s : State) : (modPort p f s).streams = s.streams := rfl
@[simp] theorem modPort_mem (p : Nat) (f : FabPort → FabPort) (s : State) : (modPort p f s).mem = s.mem := rfl
@[simp] theorem modPort_host (p : Nat) (f : FabPort → FabPort) (s : State) : (modPort p f s).host = s.host := rfl
@[simp] theorem modPort_failed (p : Nat) (f : FabPort → FabPort) (s : State) : (modPort p f s).failed = s.failed := rfl
@[simp] theorem modPort_memRegs (p : Nat) (f : FabPort → FabPort) (s : State) : (modPort p f s).memRegs = s.memRegs := rfl
@[simp] theorem modPort_hif (p : Nat) (f : FabPort → FabPort) (s : State) : (modPort p f s).hif = s.hif := rfl
@[simp] theorem modPort_pkg (p : Nat) (f : FabPort → FabPort) (s : State) : (modPort p f s).pkg = s.pkg := rfl
@[simp] theorem modPort_fab (p : Nat) (f : FabPort → FabPort) (s : State) : (modPort p f s).fab = { s.fab with ports := SMap.upd FabPort.init s.fab.ports p f } := rfl
@[simp] theorem modPort_step (p : Nat) (f : FabPort → FabPort) (s : State) : (modPort p f s).step = s.step := rfl
@[simp] theorem modPort_ras (p : Nat) (f : FabPort → FabPort) (s : State) : (modPort p f s).ras = s.ras := rfl
@[simp] theorem modPort_bank (p : Nat) (f : FabPort → FabPort) (s : State) : (modPort p f s).bank = s.bank := rfl
@[simp] theorem modPort_mgmt (p : Nat) (f : FabPort → FabPort) (s : State) : (modPort p f s).mgmt = s.mgmt := rfl
@[simp] theorem modPort_pwr (p : Nat) (f : FabPort → FabPort) (s : State) : (modPort p f s).pwr = s.pwr := rfl
@[simp] theorem modPort_test (p : Nat) (f : FabPort → FabPort) (s : State) : (modPort p f s).test = s.test := rfl
@[simp] theorem modPort_sel (p : Nat) (f : FabPort → FabPort) (s : State) : (modPort p f s).sel = s.sel := rfl
@[simp] theorem modPort_free (p : Nat) (f : FabPort → FabPort) (s : State) : (modPort p f s).free = s.free := rfl

/-! ### modPart -/

@[simp] theorem modPart_pending (i : Nat) (f : Part → Part) (s : State) : (modPart i f s).pending = s.pending := rfl
@[simp] theorem modPart_fuses (i : Nat) (f : Part → Part) (s : State) : (modPart i f s).fuses = s.fuses := rfl
@[simp] theorem modPart_cells (i : Nat) (f : Part → Part) (s : State) : (modPart i f s).cells = s.cells := rfl
@[simp] theorem modPart_prog (i : Nat) (f : Part → Part) (s : State) : (modPart i f s).prog = s.prog := rfl
@[simp] theorem modPart_progSrc (i : Nat) (f : Part → Part) (s : State) : (modPart i f s).progSrc = s.progSrc := rfl
@[simp] theorem modPart_progReload (i : Nat) (f : Part → Part) (s : State) : (modPart i f s).progReload = s.progReload := rfl
@[simp] theorem modPart_acc (i : Nat) (f : Part → Part) (s : State) : (modPart i f s).acc = s.acc := rfl
@[simp] theorem modPart_sorg (i : Nat) (f : Part → Part) (s : State) : (modPart i f s).sorg = s.sorg := rfl
@[simp] theorem modPart_posns (i : Nat) (f : Part → Part) (s : State) : (modPart i f s).posns = s.posns := rfl
@[simp] theorem modPart_streams (i : Nat) (f : Part → Part) (s : State) : (modPart i f s).streams = s.streams := rfl
@[simp] theorem modPart_mem (i : Nat) (f : Part → Part) (s : State) : (modPart i f s).mem = s.mem := rfl
@[simp] theorem modPart_host (i : Nat) (f : Part → Part) (s : State) : (modPart i f s).host = s.host := rfl
@[simp] theorem modPart_failed (i : Nat) (f : Part → Part) (s : State) : (modPart i f s).failed = s.failed := rfl
@[simp] theorem modPart_memRegs (i : Nat) (f : Part → Part) (s : State) : (modPart i f s).memRegs = s.memRegs := rfl
@[simp] theorem modPart_hif (i : Nat) (f : Part → Part) (s : State) : (modPart i f s).hif = s.hif := rfl
@[simp] theorem modPart_pkg (i : Nat) (f : Part → Part) (s : State) : (modPart i f s).pkg = s.pkg := rfl
@[simp] theorem modPart_fab (i : Nat) (f : Part → Part) (s : State) : (modPart i f s).fab = { s.fab with parts := SMap.upd Part.init s.fab.parts i f } := rfl
@[simp] theorem modPart_step (i : Nat) (f : Part → Part) (s : State) : (modPart i f s).step = s.step := rfl
@[simp] theorem modPart_ras (i : Nat) (f : Part → Part) (s : State) : (modPart i f s).ras = s.ras := rfl
@[simp] theorem modPart_bank (i : Nat) (f : Part → Part) (s : State) : (modPart i f s).bank = s.bank := rfl
@[simp] theorem modPart_mgmt (i : Nat) (f : Part → Part) (s : State) : (modPart i f s).mgmt = s.mgmt := rfl
@[simp] theorem modPart_pwr (i : Nat) (f : Part → Part) (s : State) : (modPart i f s).pwr = s.pwr := rfl
@[simp] theorem modPart_test (i : Nat) (f : Part → Part) (s : State) : (modPart i f s).test = s.test := rfl
@[simp] theorem modPart_sel (i : Nat) (f : Part → Part) (s : State) : (modPart i f s).sel = s.sel := rfl
@[simp] theorem modPart_free (i : Nat) (f : Part → Part) (s : State) : (modPart i f s).free = s.free := rfl

/-! ### modMgmt -/

@[simp] theorem modMgmt_pending (f : Mgmt → Mgmt) (s : State) : (modMgmt f s).pending = s.pending := rfl
@[simp] theorem modMgmt_fuses (f : Mgmt → Mgmt) (s : State) : (modMgmt f s).fuses = s.fuses := rfl
@[simp] theorem modMgmt_cells (f : Mgmt → Mgmt) (s : State) : (modMgmt f s).cells = s.cells := rfl
@[simp] theorem modMgmt_prog (f : Mgmt → Mgmt) (s : State) : (modMgmt f s).prog = s.prog := rfl
@[simp] theorem modMgmt_progSrc (f : Mgmt → Mgmt) (s : State) : (modMgmt f s).progSrc = s.progSrc := rfl
@[simp] theorem modMgmt_progReload (f : Mgmt → Mgmt) (s : State) : (modMgmt f s).progReload = s.progReload := rfl
@[simp] theorem modMgmt_acc (f : Mgmt → Mgmt) (s : State) : (modMgmt f s).acc = s.acc := rfl
@[simp] theorem modMgmt_sorg (f : Mgmt → Mgmt) (s : State) : (modMgmt f s).sorg = s.sorg := rfl
@[simp] theorem modMgmt_posns (f : Mgmt → Mgmt) (s : State) : (modMgmt f s).posns = s.posns := rfl
@[simp] theorem modMgmt_streams (f : Mgmt → Mgmt) (s : State) : (modMgmt f s).streams = s.streams := rfl
@[simp] theorem modMgmt_mem (f : Mgmt → Mgmt) (s : State) : (modMgmt f s).mem = s.mem := rfl
@[simp] theorem modMgmt_host (f : Mgmt → Mgmt) (s : State) : (modMgmt f s).host = s.host := rfl
@[simp] theorem modMgmt_failed (f : Mgmt → Mgmt) (s : State) : (modMgmt f s).failed = s.failed := rfl
@[simp] theorem modMgmt_memRegs (f : Mgmt → Mgmt) (s : State) : (modMgmt f s).memRegs = s.memRegs := rfl
@[simp] theorem modMgmt_hif (f : Mgmt → Mgmt) (s : State) : (modMgmt f s).hif = s.hif := rfl
@[simp] theorem modMgmt_pkg (f : Mgmt → Mgmt) (s : State) : (modMgmt f s).pkg = s.pkg := rfl
@[simp] theorem modMgmt_fab (f : Mgmt → Mgmt) (s : State) : (modMgmt f s).fab = s.fab := rfl
@[simp] theorem modMgmt_step (f : Mgmt → Mgmt) (s : State) : (modMgmt f s).step = s.step := rfl
@[simp] theorem modMgmt_ras (f : Mgmt → Mgmt) (s : State) : (modMgmt f s).ras = s.ras := rfl
@[simp] theorem modMgmt_bank (f : Mgmt → Mgmt) (s : State) : (modMgmt f s).bank = s.bank := rfl
@[simp] theorem modMgmt_mgmt (f : Mgmt → Mgmt) (s : State) : (modMgmt f s).mgmt = f s.mgmt := rfl
@[simp] theorem modMgmt_pwr (f : Mgmt → Mgmt) (s : State) : (modMgmt f s).pwr = s.pwr := rfl
@[simp] theorem modMgmt_test (f : Mgmt → Mgmt) (s : State) : (modMgmt f s).test = s.test := rfl
@[simp] theorem modMgmt_sel (f : Mgmt → Mgmt) (s : State) : (modMgmt f s).sel = s.sel := rfl
@[simp] theorem modMgmt_free (f : Mgmt → Mgmt) (s : State) : (modMgmt f s).free = s.free := rfl

/-! ### modMbx -/

@[simp] theorem modMbx_pending (ch : Nat) (f : Chan → Chan) (s : State) : (modMbx ch f s).pending = s.pending := rfl
@[simp] theorem modMbx_fuses (ch : Nat) (f : Chan → Chan) (s : State) : (modMbx ch f s).fuses = s.fuses := rfl
@[simp] theorem modMbx_cells (ch : Nat) (f : Chan → Chan) (s : State) : (modMbx ch f s).cells = s.cells := rfl
@[simp] theorem modMbx_prog (ch : Nat) (f : Chan → Chan) (s : State) : (modMbx ch f s).prog = s.prog := rfl
@[simp] theorem modMbx_progSrc (ch : Nat) (f : Chan → Chan) (s : State) : (modMbx ch f s).progSrc = s.progSrc := rfl
@[simp] theorem modMbx_progReload (ch : Nat) (f : Chan → Chan) (s : State) : (modMbx ch f s).progReload = s.progReload := rfl
@[simp] theorem modMbx_acc (ch : Nat) (f : Chan → Chan) (s : State) : (modMbx ch f s).acc = s.acc := rfl
@[simp] theorem modMbx_sorg (ch : Nat) (f : Chan → Chan) (s : State) : (modMbx ch f s).sorg = s.sorg := rfl
@[simp] theorem modMbx_posns (ch : Nat) (f : Chan → Chan) (s : State) : (modMbx ch f s).posns = s.posns := rfl
@[simp] theorem modMbx_streams (ch : Nat) (f : Chan → Chan) (s : State) : (modMbx ch f s).streams = s.streams := rfl
@[simp] theorem modMbx_mem (ch : Nat) (f : Chan → Chan) (s : State) : (modMbx ch f s).mem = s.mem := rfl
@[simp] theorem modMbx_host (ch : Nat) (f : Chan → Chan) (s : State) : (modMbx ch f s).host = s.host := rfl
@[simp] theorem modMbx_failed (ch : Nat) (f : Chan → Chan) (s : State) : (modMbx ch f s).failed = s.failed := rfl
@[simp] theorem modMbx_memRegs (ch : Nat) (f : Chan → Chan) (s : State) : (modMbx ch f s).memRegs = s.memRegs := rfl
@[simp] theorem modMbx_hif (ch : Nat) (f : Chan → Chan) (s : State) : (modMbx ch f s).hif = s.hif := rfl
@[simp] theorem modMbx_pkg (ch : Nat) (f : Chan → Chan) (s : State) : (modMbx ch f s).pkg = s.pkg := rfl
@[simp] theorem modMbx_fab (ch : Nat) (f : Chan → Chan) (s : State) : (modMbx ch f s).fab = s.fab := rfl
@[simp] theorem modMbx_step (ch : Nat) (f : Chan → Chan) (s : State) : (modMbx ch f s).step = s.step := rfl
@[simp] theorem modMbx_ras (ch : Nat) (f : Chan → Chan) (s : State) : (modMbx ch f s).ras = s.ras := rfl
@[simp] theorem modMbx_bank (ch : Nat) (f : Chan → Chan) (s : State) : (modMbx ch f s).bank = s.bank := rfl
@[simp] theorem modMbx_mgmt (ch : Nat) (f : Chan → Chan) (s : State) : (modMbx ch f s).mgmt = { s.mgmt with chans := SMap.upd Chan.init s.mgmt.chans ch f } := rfl
@[simp] theorem modMbx_pwr (ch : Nat) (f : Chan → Chan) (s : State) : (modMbx ch f s).pwr = s.pwr := rfl
@[simp] theorem modMbx_test (ch : Nat) (f : Chan → Chan) (s : State) : (modMbx ch f s).test = s.test := rfl
@[simp] theorem modMbx_sel (ch : Nat) (f : Chan → Chan) (s : State) : (modMbx ch f s).sel = s.sel := rfl
@[simp] theorem modMbx_free (ch : Nat) (f : Chan → Chan) (s : State) : (modMbx ch f s).free = s.free := rfl

/-! ### memWrite -/

@[simp] theorem memWrite_pending (a : Nat) (bs : List Byte) (s : State) : (memWrite a bs s).pending = s.pending := rfl
@[simp] theorem memWrite_fuses (a : Nat) (bs : List Byte) (s : State) : (memWrite a bs s).fuses = s.fuses := rfl
@[simp] theorem memWrite_cells (a : Nat) (bs : List Byte) (s : State) : (memWrite a bs s).cells = s.cells := rfl
@[simp] theorem memWrite_prog (a : Nat) (bs : List Byte) (s : State) : (memWrite a bs s).prog = s.prog := rfl
@[simp] theorem memWrite_progSrc (a : Nat) (bs : List Byte) (s : State) : (memWrite a bs s).progSrc = s.progSrc := rfl
@[simp] theorem memWrite_progReload (a : Nat) (bs : List Byte) (s : State) : (memWrite a bs s).progReload = s.progReload := rfl
@[simp] theorem memWrite_acc (a : Nat) (bs : List Byte) (s : State) : (memWrite a bs s).acc = s.acc := rfl
@[simp] theorem memWrite_sorg (a : Nat) (bs : List Byte) (s : State) : (memWrite a bs s).sorg = s.sorg := rfl
@[simp] theorem memWrite_posns (a : Nat) (bs : List Byte) (s : State) : (memWrite a bs s).posns = s.posns := rfl
@[simp] theorem memWrite_streams (a : Nat) (bs : List Byte) (s : State) : (memWrite a bs s).streams = s.streams := rfl
@[simp] theorem memWrite_mem (a : Nat) (bs : List Byte) (s : State) : (memWrite a bs s).mem = SMap.writeRun 0 s.mem a bs := rfl
@[simp] theorem memWrite_host (a : Nat) (bs : List Byte) (s : State) : (memWrite a bs s).host = s.host := rfl
@[simp] theorem memWrite_failed (a : Nat) (bs : List Byte) (s : State) : (memWrite a bs s).failed =
    s.failed.filter (fun b => !(decide (a < 64 * b + 64) && decide (64 * b < a + bs.length))) := rfl
@[simp] theorem memWrite_memRegs (a : Nat) (bs : List Byte) (s : State) : (memWrite a bs s).memRegs = s.memRegs := rfl
@[simp] theorem memWrite_hif (a : Nat) (bs : List Byte) (s : State) : (memWrite a bs s).hif = s.hif := rfl
@[simp] theorem memWrite_pkg (a : Nat) (bs : List Byte) (s : State) : (memWrite a bs s).pkg = s.pkg := rfl
@[simp] theorem memWrite_fab (a : Nat) (bs : List Byte) (s : State) : (memWrite a bs s).fab = s.fab := rfl
@[simp] theorem memWrite_step (a : Nat) (bs : List Byte) (s : State) : (memWrite a bs s).step = s.step := rfl
@[simp] theorem memWrite_ras (a : Nat) (bs : List Byte) (s : State) : (memWrite a bs s).ras = s.ras := rfl
@[simp] theorem memWrite_bank (a : Nat) (bs : List Byte) (s : State) : (memWrite a bs s).bank = s.bank := rfl
@[simp] theorem memWrite_mgmt (a : Nat) (bs : List Byte) (s : State) : (memWrite a bs s).mgmt = s.mgmt := rfl
@[simp] theorem memWrite_pwr (a : Nat) (bs : List Byte) (s : State) : (memWrite a bs s).pwr = s.pwr := rfl
@[simp] theorem memWrite_test (a : Nat) (bs : List Byte) (s : State) : (memWrite a bs s).test = s.test := rfl
@[simp] theorem memWrite_sel (a : Nat) (bs : List Byte) (s : State) : (memWrite a bs s).sel = s.sel := rfl
@[simp] theorem memWrite_free (a : Nat) (bs : List Byte) (s : State) : (memWrite a bs s).free = s.free := rfl

/-! ### hostWrite -/

@[simp] theorem hostWrite_pending (a : Nat) (bs : List Byte) (s : State) : (hostWrite a bs s).pending = s.pending := rfl
@[simp] theorem hostWrite_fuses (a : Nat) (bs : List Byte) (s : State) : (hostWrite a bs s).fuses = s.fuses := rfl
@[simp] theorem hostWrite_cells (a : Nat) (bs : List Byte) (s : State) : (hostWrite a bs s).cells = s.cells := rfl
@[simp] theorem hostWrite_prog (a : Nat) (bs : List Byte) (s : State) : (hostWrite a bs s).prog = s.prog := rfl
@[simp] theorem hostWrite_progSrc (a : Nat) (bs : List Byte) (s : State) : (hostWrite a bs s).progSrc = s.progSrc := rfl
@[simp] theorem hostWrite_progReload (a : Nat) (bs : List Byte) (s : State) : (hostWrite a bs s).progReload = s.progReload := rfl
@[simp] theorem hostWrite_acc (a : Nat) (bs : List Byte) (s : State) : (hostWrite a bs s).acc = s.acc := rfl
@[simp] theorem hostWrite_sorg (a : Nat) (bs : List Byte) (s : State) : (hostWrite a bs s).sorg = s.sorg := rfl
@[simp] theorem hostWrite_posns (a : Nat) (bs : List Byte) (s : State) : (hostWrite a bs s).posns = s.posns := rfl
@[simp] theorem hostWrite_streams (a : Nat) (bs : List Byte) (s : State) : (hostWrite a bs s).streams = s.streams := rfl
@[simp] theorem hostWrite_mem (a : Nat) (bs : List Byte) (s : State) : (hostWrite a bs s).mem = s.mem := rfl
@[simp] theorem hostWrite_host (a : Nat) (bs : List Byte) (s : State) : (hostWrite a bs s).host = SMap.writeRun 0 s.host a bs := rfl
@[simp] theorem hostWrite_failed (a : Nat) (bs : List Byte) (s : State) : (hostWrite a bs s).failed = s.failed := rfl
@[simp] theorem hostWrite_memRegs (a : Nat) (bs : List Byte) (s : State) : (hostWrite a bs s).memRegs = s.memRegs := rfl
@[simp] theorem hostWrite_hif (a : Nat) (bs : List Byte) (s : State) : (hostWrite a bs s).hif = s.hif := rfl
@[simp] theorem hostWrite_pkg (a : Nat) (bs : List Byte) (s : State) : (hostWrite a bs s).pkg = s.pkg := rfl
@[simp] theorem hostWrite_fab (a : Nat) (bs : List Byte) (s : State) : (hostWrite a bs s).fab = s.fab := rfl
@[simp] theorem hostWrite_step (a : Nat) (bs : List Byte) (s : State) : (hostWrite a bs s).step = s.step := rfl
@[simp] theorem hostWrite_ras (a : Nat) (bs : List Byte) (s : State) : (hostWrite a bs s).ras = s.ras := rfl
@[simp] theorem hostWrite_bank (a : Nat) (bs : List Byte) (s : State) : (hostWrite a bs s).bank = s.bank := rfl
@[simp] theorem hostWrite_mgmt (a : Nat) (bs : List Byte) (s : State) : (hostWrite a bs s).mgmt = s.mgmt := rfl
@[simp] theorem hostWrite_pwr (a : Nat) (bs : List Byte) (s : State) : (hostWrite a bs s).pwr = s.pwr := rfl
@[simp] theorem hostWrite_test (a : Nat) (bs : List Byte) (s : State) : (hostWrite a bs s).test = s.test := rfl
@[simp] theorem hostWrite_sel (a : Nat) (bs : List Byte) (s : State) : (hostWrite a bs s).sel = s.sel := rfl
@[simp] theorem hostWrite_free (a : Nat) (bs : List Byte) (s : State) : (hostWrite a bs s).free = s.free := rfl

/-! ### modEdge -/

@[simp] theorem modEdge_pending (e : Nat) (f : Edge → Edge) (s : State) : (modEdge e f s).pending = s.pending := rfl
@[simp] theorem modEdge_fuses (e : Nat) (f : Edge → Edge) (s : State) : (modEdge e f s).fuses = s.fuses := rfl
@[simp] theorem modEdge_cells (e : Nat) (f : Edge → Edge) (s : State) : (modEdge e f s).cells = s.cells := rfl
@[simp] theorem modEdge_prog (e : Nat) (f : Edge → Edge) (s : State) : (modEdge e f s).prog = s.prog := rfl
@[simp] theorem modEdge_progSrc (e : Nat) (f : Edge → Edge) (s : State) : (modEdge e f s).progSrc = s.progSrc := rfl
@[simp] theorem modEdge_progReload (e : Nat) (f : Edge → Edge) (s : State) : (modEdge e f s).progReload = s.progReload := rfl
@[simp] theorem modEdge_acc (e : Nat) (f : Edge → Edge) (s : State) : (modEdge e f s).acc = s.acc := rfl
@[simp] theorem modEdge_sorg (e : Nat) (f : Edge → Edge) (s : State) : (modEdge e f s).sorg = s.sorg := rfl
@[simp] theorem modEdge_posns (e : Nat) (f : Edge → Edge) (s : State) : (modEdge e f s).posns = s.posns := rfl
@[simp] theorem modEdge_streams (e : Nat) (f : Edge → Edge) (s : State) : (modEdge e f s).streams = s.streams := rfl
@[simp] theorem modEdge_mem (e : Nat) (f : Edge → Edge) (s : State) : (modEdge e f s).mem = s.mem := rfl
@[simp] theorem modEdge_host (e : Nat) (f : Edge → Edge) (s : State) : (modEdge e f s).host = s.host := rfl
@[simp] theorem modEdge_failed (e : Nat) (f : Edge → Edge) (s : State) : (modEdge e f s).failed = s.failed := rfl
@[simp] theorem modEdge_memRegs (e : Nat) (f : Edge → Edge) (s : State) : (modEdge e f s).memRegs = s.memRegs := rfl
@[simp] theorem modEdge_hif (e : Nat) (f : Edge → Edge) (s : State) : (modEdge e f s).hif = s.hif := rfl
@[simp] theorem modEdge_pkg (e : Nat) (f : Edge → Edge) (s : State) : (modEdge e f s).pkg = { s.pkg with edges := SMap.upd Edge.init s.pkg.edges e f } := rfl
@[simp] theorem modEdge_fab (e : Nat) (f : Edge → Edge) (s : State) : (modEdge e f s).fab = s.fab := rfl
@[simp] theorem modEdge_step (e : Nat) (f : Edge → Edge) (s : State) : (modEdge e f s).step = s.step := rfl
@[simp] theorem modEdge_ras (e : Nat) (f : Edge → Edge) (s : State) : (modEdge e f s).ras = s.ras := rfl
@[simp] theorem modEdge_bank (e : Nat) (f : Edge → Edge) (s : State) : (modEdge e f s).bank = s.bank := rfl
@[simp] theorem modEdge_mgmt (e : Nat) (f : Edge → Edge) (s : State) : (modEdge e f s).mgmt = s.mgmt := rfl
@[simp] theorem modEdge_pwr (e : Nat) (f : Edge → Edge) (s : State) : (modEdge e f s).pwr = s.pwr := rfl
@[simp] theorem modEdge_test (e : Nat) (f : Edge → Edge) (s : State) : (modEdge e f s).test = s.test := rfl
@[simp] theorem modEdge_sel (e : Nat) (f : Edge → Edge) (s : State) : (modEdge e f s).sel = s.sel := rfl
@[simp] theorem modEdge_free (e : Nat) (f : Edge → Edge) (s : State) : (modEdge e f s).free = s.free := rfl

/-! ### modGfw -/

@[simp] theorem modGfw_pending (g : Nat) (f : Gfw → Gfw) (s : State) : (modGfw g f s).pending = s.pending := rfl
@[simp] theorem modGfw_fuses (g : Nat) (f : Gfw → Gfw) (s : State) : (modGfw g f s).fuses = s.fuses := rfl
@[simp] theorem modGfw_cells (g : Nat) (f : Gfw → Gfw) (s : State) : (modGfw g f s).cells = s.cells := rfl
@[simp] theorem modGfw_prog (g : Nat) (f : Gfw → Gfw) (s : State) : (modGfw g f s).prog = s.prog := rfl
@[simp] theorem modGfw_progSrc (g : Nat) (f : Gfw → Gfw) (s : State) : (modGfw g f s).progSrc = s.progSrc := rfl
@[simp] theorem modGfw_progReload (g : Nat) (f : Gfw → Gfw) (s : State) : (modGfw g f s).progReload = s.progReload := rfl
@[simp] theorem modGfw_acc (g : Nat) (f : Gfw → Gfw) (s : State) : (modGfw g f s).acc = s.acc := rfl
@[simp] theorem modGfw_sorg (g : Nat) (f : Gfw → Gfw) (s : State) : (modGfw g f s).sorg = s.sorg := rfl
@[simp] theorem modGfw_posns (g : Nat) (f : Gfw → Gfw) (s : State) : (modGfw g f s).posns = s.posns := rfl
@[simp] theorem modGfw_streams (g : Nat) (f : Gfw → Gfw) (s : State) : (modGfw g f s).streams = s.streams := rfl
@[simp] theorem modGfw_mem (g : Nat) (f : Gfw → Gfw) (s : State) : (modGfw g f s).mem = s.mem := rfl
@[simp] theorem modGfw_host (g : Nat) (f : Gfw → Gfw) (s : State) : (modGfw g f s).host = s.host := rfl
@[simp] theorem modGfw_failed (g : Nat) (f : Gfw → Gfw) (s : State) : (modGfw g f s).failed = s.failed := rfl
@[simp] theorem modGfw_memRegs (g : Nat) (f : Gfw → Gfw) (s : State) : (modGfw g f s).memRegs = s.memRegs := rfl
@[simp] theorem modGfw_hif (g : Nat) (f : Gfw → Gfw) (s : State) : (modGfw g f s).hif = s.hif := rfl
@[simp] theorem modGfw_pkg (g : Nat) (f : Gfw → Gfw) (s : State) : (modGfw g f s).pkg = { s.pkg with gfw := SMap.upd Gfw.init s.pkg.gfw g f } := rfl
@[simp] theorem modGfw_fab (g : Nat) (f : Gfw → Gfw) (s : State) : (modGfw g f s).fab = s.fab := rfl
@[simp] theorem modGfw_step (g : Nat) (f : Gfw → Gfw) (s : State) : (modGfw g f s).step = s.step := rfl
@[simp] theorem modGfw_ras (g : Nat) (f : Gfw → Gfw) (s : State) : (modGfw g f s).ras = s.ras := rfl
@[simp] theorem modGfw_bank (g : Nat) (f : Gfw → Gfw) (s : State) : (modGfw g f s).bank = s.bank := rfl
@[simp] theorem modGfw_mgmt (g : Nat) (f : Gfw → Gfw) (s : State) : (modGfw g f s).mgmt = s.mgmt := rfl
@[simp] theorem modGfw_pwr (g : Nat) (f : Gfw → Gfw) (s : State) : (modGfw g f s).pwr = s.pwr := rfl
@[simp] theorem modGfw_test (g : Nat) (f : Gfw → Gfw) (s : State) : (modGfw g f s).test = s.test := rfl
@[simp] theorem modGfw_sel (g : Nat) (f : Gfw → Gfw) (s : State) : (modGfw g f s).sel = s.sel := rfl
@[simp] theorem modGfw_free (g : Nat) (f : Gfw → Gfw) (s : State) : (modGfw g f s).free = s.free := rfl

/-! ### modBank -/

@[simp] theorem modBank_pending (f : BankEng → BankEng) (s : State) : (modBank f s).pending = s.pending := rfl
@[simp] theorem modBank_fuses (f : BankEng → BankEng) (s : State) : (modBank f s).fuses = s.fuses := rfl
@[simp] theorem modBank_cells (f : BankEng → BankEng) (s : State) : (modBank f s).cells = s.cells := rfl
@[simp] theorem modBank_prog (f : BankEng → BankEng) (s : State) : (modBank f s).prog = s.prog := rfl
@[simp] theorem modBank_progSrc (f : BankEng → BankEng) (s : State) : (modBank f s).progSrc = s.progSrc := rfl
@[simp] theorem modBank_progReload (f : BankEng → BankEng) (s : State) : (modBank f s).progReload = s.progReload := rfl
@[simp] theorem modBank_acc (f : BankEng → BankEng) (s : State) : (modBank f s).acc = s.acc := rfl
@[simp] theorem modBank_sorg (f : BankEng → BankEng) (s : State) : (modBank f s).sorg = s.sorg := rfl
@[simp] theorem modBank_posns (f : BankEng → BankEng) (s : State) : (modBank f s).posns = s.posns := rfl
@[simp] theorem modBank_streams (f : BankEng → BankEng) (s : State) : (modBank f s).streams = s.streams := rfl
@[simp] theorem modBank_mem (f : BankEng → BankEng) (s : State) : (modBank f s).mem = s.mem := rfl
@[simp] theorem modBank_host (f : BankEng → BankEng) (s : State) : (modBank f s).host = s.host := rfl
@[simp] theorem modBank_failed (f : BankEng → BankEng) (s : State) : (modBank f s).failed = s.failed := rfl
@[simp] theorem modBank_memRegs (f : BankEng → BankEng) (s : State) : (modBank f s).memRegs = s.memRegs := rfl
@[simp] theorem modBank_hif (f : BankEng → BankEng) (s : State) : (modBank f s).hif = s.hif := rfl
@[simp] theorem modBank_pkg (f : BankEng → BankEng) (s : State) : (modBank f s).pkg = s.pkg := rfl
@[simp] theorem modBank_fab (f : BankEng → BankEng) (s : State) : (modBank f s).fab = s.fab := rfl
@[simp] theorem modBank_step (f : BankEng → BankEng) (s : State) : (modBank f s).step = s.step := rfl
@[simp] theorem modBank_ras (f : BankEng → BankEng) (s : State) : (modBank f s).ras = s.ras := rfl
@[simp] theorem modBank_bank (f : BankEng → BankEng) (s : State) : (modBank f s).bank = f s.bank := rfl
@[simp] theorem modBank_mgmt (f : BankEng → BankEng) (s : State) : (modBank f s).mgmt = s.mgmt := rfl
@[simp] theorem modBank_pwr (f : BankEng → BankEng) (s : State) : (modBank f s).pwr = s.pwr := rfl
@[simp] theorem modBank_test (f : BankEng → BankEng) (s : State) : (modBank f s).test = s.test := rfl
@[simp] theorem modBank_sel (f : BankEng → BankEng) (s : State) : (modBank f s).sel = s.sel := rfl
@[simp] theorem modBank_free (f : BankEng → BankEng) (s : State) : (modBank f s).free = s.free := rfl

/-! ### modRas -/

@[simp] theorem modRas_pending (f : Ras → Ras) (s : State) : (modRas f s).pending = s.pending := rfl
@[simp] theorem modRas_fuses (f : Ras → Ras) (s : State) : (modRas f s).fuses = s.fuses := rfl
@[simp] theorem modRas_cells (f : Ras → Ras) (s : State) : (modRas f s).cells = s.cells := rfl
@[simp] theorem modRas_prog (f : Ras → Ras) (s : State) : (modRas f s).prog = s.prog := rfl
@[simp] theorem modRas_progSrc (f : Ras → Ras) (s : State) : (modRas f s).progSrc = s.progSrc := rfl
@[simp] theorem modRas_progReload (f : Ras → Ras) (s : State) : (modRas f s).progReload = s.progReload := rfl
@[simp] theorem modRas_acc (f : Ras → Ras) (s : State) : (modRas f s).acc = s.acc := rfl
@[simp] theorem modRas_sorg (f : Ras → Ras) (s : State) : (modRas f s).sorg = s.sorg := rfl
@[simp] theorem modRas_posns (f : Ras → Ras) (s : State) : (modRas f s).posns = s.posns := rfl
@[simp] theorem modRas_streams (f : Ras → Ras) (s : State) : (modRas f s).streams = s.streams := rfl
@[simp] theorem modRas_mem (f : Ras → Ras) (s : State) : (modRas f s).mem = s.mem := rfl
@[simp] theorem modRas_host (f : Ras → Ras) (s : State) : (modRas f s).host = s.host := rfl
@[simp] theorem modRas_failed (f : Ras → Ras) (s : State) : (modRas f s).failed = s.failed := rfl
@[simp] theorem modRas_memRegs (f : Ras → Ras) (s : State) : (modRas f s).memRegs = s.memRegs := rfl
@[simp] theorem modRas_hif (f : Ras → Ras) (s : State) : (modRas f s).hif = s.hif := rfl
@[simp] theorem modRas_pkg (f : Ras → Ras) (s : State) : (modRas f s).pkg = s.pkg := rfl
@[simp] theorem modRas_fab (f : Ras → Ras) (s : State) : (modRas f s).fab = s.fab := rfl
@[simp] theorem modRas_step (f : Ras → Ras) (s : State) : (modRas f s).step = s.step := rfl
@[simp] theorem modRas_ras (f : Ras → Ras) (s : State) : (modRas f s).ras = f s.ras := rfl
@[simp] theorem modRas_bank (f : Ras → Ras) (s : State) : (modRas f s).bank = s.bank := rfl
@[simp] theorem modRas_mgmt (f : Ras → Ras) (s : State) : (modRas f s).mgmt = s.mgmt := rfl
@[simp] theorem modRas_pwr (f : Ras → Ras) (s : State) : (modRas f s).pwr = s.pwr := rfl
@[simp] theorem modRas_test (f : Ras → Ras) (s : State) : (modRas f s).test = s.test := rfl
@[simp] theorem modRas_sel (f : Ras → Ras) (s : State) : (modRas f s).sel = s.sel := rfl
@[simp] theorem modRas_free (f : Ras → Ras) (s : State) : (modRas f s).free = s.free := rfl

/-! ### modPwr -/

@[simp] theorem modPwr_pending (f : Pwr → Pwr) (s : State) : (modPwr f s).pending = s.pending := rfl
@[simp] theorem modPwr_fuses (f : Pwr → Pwr) (s : State) : (modPwr f s).fuses = s.fuses := rfl
@[simp] theorem modPwr_cells (f : Pwr → Pwr) (s : State) : (modPwr f s).cells = s.cells := rfl
@[simp] theorem modPwr_prog (f : Pwr → Pwr) (s : State) : (modPwr f s).prog = s.prog := rfl
@[simp] theorem modPwr_progSrc (f : Pwr → Pwr) (s : State) : (modPwr f s).progSrc = s.progSrc := rfl
@[simp] theorem modPwr_progReload (f : Pwr → Pwr) (s : State) : (modPwr f s).progReload = s.progReload := rfl
@[simp] theorem modPwr_acc (f : Pwr → Pwr) (s : State) : (modPwr f s).acc = s.acc := rfl
@[simp] theorem modPwr_sorg (f : Pwr → Pwr) (s : State) : (modPwr f s).sorg = s.sorg := rfl
@[simp] theorem modPwr_posns (f : Pwr → Pwr) (s : State) : (modPwr f s).posns = s.posns := rfl
@[simp] theorem modPwr_streams (f : Pwr → Pwr) (s : State) : (modPwr f s).streams = s.streams := rfl
@[simp] theorem modPwr_mem (f : Pwr → Pwr) (s : State) : (modPwr f s).mem = s.mem := rfl
@[simp] theorem modPwr_host (f : Pwr → Pwr) (s : State) : (modPwr f s).host = s.host := rfl
@[simp] theorem modPwr_failed (f : Pwr → Pwr) (s : State) : (modPwr f s).failed = s.failed := rfl
@[simp] theorem modPwr_memRegs (f : Pwr → Pwr) (s : State) : (modPwr f s).memRegs = s.memRegs := rfl
@[simp] theorem modPwr_hif (f : Pwr → Pwr) (s : State) : (modPwr f s).hif = s.hif := rfl
@[simp] theorem modPwr_pkg (f : Pwr → Pwr) (s : State) : (modPwr f s).pkg = s.pkg := rfl
@[simp] theorem modPwr_fab (f : Pwr → Pwr) (s : State) : (modPwr f s).fab = s.fab := rfl
@[simp] theorem modPwr_step (f : Pwr → Pwr) (s : State) : (modPwr f s).step = s.step := rfl
@[simp] theorem modPwr_ras (f : Pwr → Pwr) (s : State) : (modPwr f s).ras = s.ras := rfl
@[simp] theorem modPwr_bank (f : Pwr → Pwr) (s : State) : (modPwr f s).bank = s.bank := rfl
@[simp] theorem modPwr_mgmt (f : Pwr → Pwr) (s : State) : (modPwr f s).mgmt = s.mgmt := rfl
@[simp] theorem modPwr_pwr (f : Pwr → Pwr) (s : State) : (modPwr f s).pwr = f s.pwr := rfl
@[simp] theorem modPwr_test (f : Pwr → Pwr) (s : State) : (modPwr f s).test = s.test := rfl
@[simp] theorem modPwr_sel (f : Pwr → Pwr) (s : State) : (modPwr f s).sel = s.sel := rfl
@[simp] theorem modPwr_free (f : Pwr → Pwr) (s : State) : (modPwr f s).free = s.free := rfl

/-! ### modFuses -/

@[simp] theorem modFuses_pending (f : Fuses → Fuses) (s : State) : (modFuses f s).pending = s.pending := rfl
@[simp] theorem modFuses_fuses (f : Fuses → Fuses) (s : State) : (modFuses f s).fuses = f s.fuses := rfl
@[simp] theorem modFuses_cells (f : Fuses → Fuses) (s : State) : (modFuses f s).cells = s.cells := rfl
@[simp] theorem modFuses_prog (f : Fuses → Fuses) (s : State) : (modFuses f s).prog = s.prog := rfl
@[simp] theorem modFuses_progSrc (f : Fuses → Fuses) (s : State) : (modFuses f s).progSrc = s.progSrc := rfl
@[simp] theorem modFuses_progReload (f : Fuses → Fuses) (s : State) : (modFuses f s).progReload = s.progReload := rfl
@[simp] theorem modFuses_acc (f : Fuses → Fuses) (s : State) : (modFuses f s).acc = s.acc := rfl
@[simp] theorem modFuses_sorg (f : Fuses → Fuses) (s : State) : (modFuses f s).sorg = s.sorg := rfl
@[simp] theorem modFuses_posns (f : Fuses → Fuses) (s : State) : (modFuses f s).posns = s.posns := rfl
@[simp] theorem modFuses_streams (f : Fuses → Fuses) (s : State) : (modFuses f s).streams = s.streams := rfl
@[simp] theorem modFuses_mem (f : Fuses → Fuses) (s : State) : (modFuses f s).mem = s.mem := rfl
@[simp] theorem modFuses_host (f : Fuses → Fuses) (s : State) : (modFuses f s).host = s.host := rfl
@[simp] theorem modFuses_failed (f : Fuses → Fuses) (s : State) : (modFuses f s).failed = s.failed := rfl
@[simp] theorem modFuses_memRegs (f : Fuses → Fuses) (s : State) : (modFuses f s).memRegs = s.memRegs := rfl
@[simp] theorem modFuses_hif (f : Fuses → Fuses) (s : State) : (modFuses f s).hif = s.hif := rfl
@[simp] theorem modFuses_pkg (f : Fuses → Fuses) (s : State) : (modFuses f s).pkg = s.pkg := rfl
@[simp] theorem modFuses_fab (f : Fuses → Fuses) (s : State) : (modFuses f s).fab = s.fab := rfl
@[simp] theorem modFuses_step (f : Fuses → Fuses) (s : State) : (modFuses f s).step = s.step := rfl
@[simp] theorem modFuses_ras (f : Fuses → Fuses) (s : State) : (modFuses f s).ras = s.ras := rfl
@[simp] theorem modFuses_bank (f : Fuses → Fuses) (s : State) : (modFuses f s).bank = s.bank := rfl
@[simp] theorem modFuses_mgmt (f : Fuses → Fuses) (s : State) : (modFuses f s).mgmt = s.mgmt := rfl
@[simp] theorem modFuses_pwr (f : Fuses → Fuses) (s : State) : (modFuses f s).pwr = s.pwr := rfl
@[simp] theorem modFuses_test (f : Fuses → Fuses) (s : State) : (modFuses f s).test = s.test := rfl
@[simp] theorem modFuses_sel (f : Fuses → Fuses) (s : State) : (modFuses f s).sel = s.sel := rfl
@[simp] theorem modFuses_free (f : Fuses → Fuses) (s : State) : (modFuses f s).free = s.free := rfl

/-! ### raise -/

@[simp] theorem raise_pending (code : EventCode) (src : BitVec 12) (a : EvArgs) (s : State) : (raise code src a s).pending = s.pending := rfl
@[simp] theorem raise_fuses (code : EventCode) (src : BitVec 12) (a : EvArgs) (s : State) : (raise code src a s).fuses = s.fuses := rfl
@[simp] theorem raise_cells (code : EventCode) (src : BitVec 12) (a : EvArgs) (s : State) : (raise code src a s).cells = s.cells := rfl
@[simp] theorem raise_prog (code : EventCode) (src : BitVec 12) (a : EvArgs) (s : State) : (raise code src a s).prog = s.prog := rfl
@[simp] theorem raise_progSrc (code : EventCode) (src : BitVec 12) (a : EvArgs) (s : State) : (raise code src a s).progSrc = s.progSrc := rfl
@[simp] theorem raise_progReload (code : EventCode) (src : BitVec 12) (a : EvArgs) (s : State) : (raise code src a s).progReload = s.progReload := rfl
@[simp] theorem raise_acc (code : EventCode) (src : BitVec 12) (a : EvArgs) (s : State) : (raise code src a s).acc = s.acc := rfl
@[simp] theorem raise_sorg (code : EventCode) (src : BitVec 12) (a : EvArgs) (s : State) : (raise code src a s).sorg = s.sorg := rfl
@[simp] theorem raise_posns (code : EventCode) (src : BitVec 12) (a : EvArgs) (s : State) : (raise code src a s).posns = s.posns := rfl
@[simp] theorem raise_streams (code : EventCode) (src : BitVec 12) (a : EvArgs) (s : State) : (raise code src a s).streams = s.streams := rfl
@[simp] theorem raise_mem (code : EventCode) (src : BitVec 12) (a : EvArgs) (s : State) : (raise code src a s).mem = s.mem := rfl
@[simp] theorem raise_host (code : EventCode) (src : BitVec 12) (a : EvArgs) (s : State) : (raise code src a s).host = s.host := rfl
@[simp] theorem raise_failed (code : EventCode) (src : BitVec 12) (a : EvArgs) (s : State) : (raise code src a s).failed = s.failed := rfl
@[simp] theorem raise_memRegs (code : EventCode) (src : BitVec 12) (a : EvArgs) (s : State) : (raise code src a s).memRegs = s.memRegs := rfl
@[simp] theorem raise_hif (code : EventCode) (src : BitVec 12) (a : EvArgs) (s : State) : (raise code src a s).hif = s.hif := rfl
@[simp] theorem raise_pkg (code : EventCode) (src : BitVec 12) (a : EvArgs) (s : State) : (raise code src a s).pkg = s.pkg := rfl
@[simp] theorem raise_fab (code : EventCode) (src : BitVec 12) (a : EvArgs) (s : State) : (raise code src a s).fab = s.fab := rfl
@[simp] theorem raise_step (code : EventCode) (src : BitVec 12) (a : EvArgs) (s : State) : (raise code src a s).step = s.step := rfl
@[simp] theorem raise_ras (code : EventCode) (src : BitVec 12) (a : EvArgs) (s : State) : (raise code src a s).ras = s.ras := rfl
@[simp] theorem raise_bank (code : EventCode) (src : BitVec 12) (a : EvArgs) (s : State) : (raise code src a s).bank = s.bank := rfl
@[simp] theorem raise_pwr (code : EventCode) (src : BitVec 12) (a : EvArgs) (s : State) : (raise code src a s).pwr = s.pwr := rfl
@[simp] theorem raise_test (code : EventCode) (src : BitVec 12) (a : EvArgs) (s : State) : (raise code src a s).test = s.test := rfl
@[simp] theorem raise_sel (code : EventCode) (src : BitVec 12) (a : EvArgs) (s : State) : (raise code src a s).sel = s.sel := rfl
@[simp] theorem raise_free (code : EventCode) (src : BitVec 12) (a : EvArgs) (s : State) : (raise code src a s).free = s.free := rfl

/-! ### What a change of one table leaves of another, and of its own other places -/

@[simp] theorem getCell_modPos (m : Nat) (n : Nat) (f : Pos → Pos) (s : State) : getCell (modPos n f s) m = getCell s m := rfl
@[simp] theorem getCell_modHif (m : Nat) (f : Hif → Hif) (s : State) : getCell (modHif f s) m = getCell s m := rfl
@[simp] theorem getCell_modCtx (m : Nat) (c : Ctx) (f : Context → Context) (s : State) : getCell (modCtx c f s) m = getCell s m := rfl
@[simp] theorem getCell_modStream (m : Nat) (k : Nat) (f : StreamCtx → StreamCtx) (s : State) : getCell (modStream k f s) m = getCell s m := rfl
@[simp] theorem getCell_modStep (m : Nat) (f : StepEng → StepEng) (s : State) : getCell (modStep f s) m = getCell s m := rfl
@[simp] theorem getCell_modHeld (m : Nat) (i : Nat) (f : Held → Held) (s : State) : getCell (modHeld i f s) m = getCell s m := rfl
@[simp] theorem getCell_modFab (m : Nat) (f : Fab → Fab) (s : State) : getCell (modFab f s) m = getCell s m := rfl
@[simp] theorem getCell_modPort (m : Nat) (p : Nat) (f : FabPort → FabPort) (s : State) : getCell (modPort p f s) m = getCell s m := rfl
@[simp] theorem getCell_modPart (m : Nat) (i : Nat) (f : Part → Part) (s : State) : getCell (modPart i f s) m = getCell s m := rfl
@[simp] theorem getCell_modMgmt (m : Nat) (f : Mgmt → Mgmt) (s : State) : getCell (modMgmt f s) m = getCell s m := rfl
@[simp] theorem getCell_modMbx (m : Nat) (ch : Nat) (f : Chan → Chan) (s : State) : getCell (modMbx ch f s) m = getCell s m := rfl
@[simp] theorem getCell_memWrite (m : Nat) (a : Nat) (bs : List Byte) (s : State) : getCell (memWrite a bs s) m = getCell s m := rfl
@[simp] theorem getCell_hostWrite (m : Nat) (a : Nat) (bs : List Byte) (s : State) : getCell (hostWrite a bs s) m = getCell s m := rfl
@[simp] theorem getCell_modEdge (m : Nat) (e : Nat) (f : Edge → Edge) (s : State) : getCell (modEdge e f s) m = getCell s m := rfl
@[simp] theorem getCell_modGfw (m : Nat) (g : Nat) (f : Gfw → Gfw) (s : State) : getCell (modGfw g f s) m = getCell s m := rfl
@[simp] theorem getCell_modBank (m : Nat) (f : BankEng → BankEng) (s : State) : getCell (modBank f s) m = getCell s m := rfl
@[simp] theorem getCell_modRas (m : Nat) (f : Ras → Ras) (s : State) : getCell (modRas f s) m = getCell s m := rfl
@[simp] theorem getCell_modPwr (m : Nat) (f : Pwr → Pwr) (s : State) : getCell (modPwr f s) m = getCell s m := rfl
@[simp] theorem getCell_modFuses (m : Nat) (f : Fuses → Fuses) (s : State) : getCell (modFuses f s) m = getCell s m := rfl
@[simp] theorem getCell_raise (m : Nat) (code : EventCode) (src : BitVec 12) (e : EvArgs) (s : State) :
    getCell (raise code src e s) m = getCell s m := rfl
@[simp] theorem getCell_modCell_same (n : Nat) (f : Cell → Cell) (s : State) : getCell (modCell n f s) n = f (getCell s n) :=
  SMap.get_upd _ _ _ _
theorem getCell_modCell_ne (n : Nat) (f : Cell → Cell) (m : Nat) (h : m ≠ n) (s : State) : getCell (modCell n f s) m = getCell s m :=
  SMap.get_upd_ne _ _ _ _ _ h
@[simp] theorem getPos_modCell (m : Nat) (n : Nat) (f : Cell → Cell) (s : State) : getPos (modCell n f s) m = getPos s m := rfl
@[simp] theorem getPos_modHif (m : Nat) (f : Hif → Hif) (s : State) : getPos (modHif f s) m = getPos s m := rfl
@[simp] theorem getPos_modCtx (m : Nat) (c : Ctx) (f : Context → Context) (s : State) : getPos (modCtx c f s) m = getPos s m := rfl
@[simp] theorem getPos_modStream (m : Nat) (k : Nat) (f : StreamCtx → StreamCtx) (s : State) : getPos (modStream k f s) m = getPos s m := rfl
@[simp] theorem getPos_modStep (m : Nat) (f : StepEng → StepEng) (s : State) : getPos (modStep f s) m = getPos s m := rfl
@[simp] theorem getPos_modHeld (m : Nat) (i : Nat) (f : Held → Held) (s : State) : getPos (modHeld i f s) m = getPos s m := rfl
@[simp] theorem getPos_modFab (m : Nat) (f : Fab → Fab) (s : State) : getPos (modFab f s) m = getPos s m := rfl
@[simp] theorem getPos_modPort (m : Nat) (p : Nat) (f : FabPort → FabPort) (s : State) : getPos (modPort p f s) m = getPos s m := rfl
@[simp] theorem getPos_modPart (m : Nat) (i : Nat) (f : Part → Part) (s : State) : getPos (modPart i f s) m = getPos s m := rfl
@[simp] theorem getPos_modMgmt (m : Nat) (f : Mgmt → Mgmt) (s : State) : getPos (modMgmt f s) m = getPos s m := rfl
@[simp] theorem getPos_modMbx (m : Nat) (ch : Nat) (f : Chan → Chan) (s : State) : getPos (modMbx ch f s) m = getPos s m := rfl
@[simp] theorem getPos_memWrite (m : Nat) (a : Nat) (bs : List Byte) (s : State) : getPos (memWrite a bs s) m = getPos s m := rfl
@[simp] theorem getPos_hostWrite (m : Nat) (a : Nat) (bs : List Byte) (s : State) : getPos (hostWrite a bs s) m = getPos s m := rfl
@[simp] theorem getPos_modEdge (m : Nat) (e : Nat) (f : Edge → Edge) (s : State) : getPos (modEdge e f s) m = getPos s m := rfl
@[simp] theorem getPos_modGfw (m : Nat) (g : Nat) (f : Gfw → Gfw) (s : State) : getPos (modGfw g f s) m = getPos s m := rfl
@[simp] theorem getPos_modBank (m : Nat) (f : BankEng → BankEng) (s : State) : getPos (modBank f s) m = getPos s m := rfl
@[simp] theorem getPos_modRas (m : Nat) (f : Ras → Ras) (s : State) : getPos (modRas f s) m = getPos s m := rfl
@[simp] theorem getPos_modPwr (m : Nat) (f : Pwr → Pwr) (s : State) : getPos (modPwr f s) m = getPos s m := rfl
@[simp] theorem getPos_modFuses (m : Nat) (f : Fuses → Fuses) (s : State) : getPos (modFuses f s) m = getPos s m := rfl
@[simp] theorem getPos_raise (m : Nat) (code : EventCode) (src : BitVec 12) (e : EvArgs) (s : State) :
    getPos (raise code src e s) m = getPos s m := rfl
@[simp] theorem getPos_modPos_same (n : Nat) (f : Pos → Pos) (s : State) : getPos (modPos n f s) n = f (getPos s n) :=
  SMap.get_upd _ _ _ _
theorem getPos_modPos_ne (n : Nat) (f : Pos → Pos) (m : Nat) (h : m ≠ n) (s : State) : getPos (modPos n f s) m = getPos s m :=
  SMap.get_upd_ne _ _ _ _ _ h
@[simp] theorem getCtx_modCell (x : Ctx) (n : Nat) (f : Cell → Cell) (s : State) : getCtx (modCell n f s) x = getCtx s x := rfl
@[simp] theorem getCtx_modPos (x : Ctx) (n : Nat) (f : Pos → Pos) (s : State) : getCtx (modPos n f s) x = getCtx s x := rfl
@[simp] theorem getCtx_modStream (x : Ctx) (k : Nat) (f : StreamCtx → StreamCtx) (s : State) : getCtx (modStream k f s) x = getCtx s x := rfl
@[simp] theorem getCtx_modStep (x : Ctx) (f : StepEng → StepEng) (s : State) : getCtx (modStep f s) x = getCtx s x := rfl
@[simp] theorem getCtx_modHeld (x : Ctx) (i : Nat) (f : Held → Held) (s : State) : getCtx (modHeld i f s) x = getCtx s x := rfl
@[simp] theorem getCtx_modFab (x : Ctx) (f : Fab → Fab) (s : State) : getCtx (modFab f s) x = getCtx s x := rfl
@[simp] theorem getCtx_modPort (x : Ctx) (p : Nat) (f : FabPort → FabPort) (s : State) : getCtx (modPort p f s) x = getCtx s x := rfl
@[simp] theorem getCtx_modPart (x : Ctx) (i : Nat) (f : Part → Part) (s : State) : getCtx (modPart i f s) x = getCtx s x := rfl
@[simp] theorem getCtx_modMgmt (x : Ctx) (f : Mgmt → Mgmt) (s : State) : getCtx (modMgmt f s) x = getCtx s x := rfl
@[simp] theorem getCtx_modMbx (x : Ctx) (ch : Nat) (f : Chan → Chan) (s : State) : getCtx (modMbx ch f s) x = getCtx s x := rfl
@[simp] theorem getCtx_memWrite (x : Ctx) (a : Nat) (bs : List Byte) (s : State) : getCtx (memWrite a bs s) x = getCtx s x := rfl
@[simp] theorem getCtx_hostWrite (x : Ctx) (a : Nat) (bs : List Byte) (s : State) : getCtx (hostWrite a bs s) x = getCtx s x := rfl
@[simp] theorem getCtx_modEdge (x : Ctx) (e : Nat) (f : Edge → Edge) (s : State) : getCtx (modEdge e f s) x = getCtx s x := rfl
@[simp] theorem getCtx_modGfw (x : Ctx) (g : Nat) (f : Gfw → Gfw) (s : State) : getCtx (modGfw g f s) x = getCtx s x := rfl
@[simp] theorem getCtx_modBank (x : Ctx) (f : BankEng → BankEng) (s : State) : getCtx (modBank f s) x = getCtx s x := rfl
@[simp] theorem getCtx_modRas (x : Ctx) (f : Ras → Ras) (s : State) : getCtx (modRas f s) x = getCtx s x := rfl
@[simp] theorem getCtx_modPwr (x : Ctx) (f : Pwr → Pwr) (s : State) : getCtx (modPwr f s) x = getCtx s x := rfl
@[simp] theorem getCtx_modFuses (x : Ctx) (f : Fuses → Fuses) (s : State) : getCtx (modFuses f s) x = getCtx s x := rfl
@[simp] theorem getCtx_raise (x : Ctx) (code : EventCode) (src : BitVec 12) (e : EvArgs) (s : State) :
    getCtx (raise code src e s) x = getCtx s x := rfl
@[simp] theorem getCtx_modCtx_same (c : Ctx) (f : Context → Context) (s : State) : getCtx (modCtx c f s) c = f (getCtx s c) :=
  SMap.get_upd _ _ _ _
theorem getCtx_modCtx_ne (c : Ctx) (f : Context → Context) (x : Ctx) (h : x ≠ c) (s : State) : getCtx (modCtx c f s) x = getCtx s x :=
  SMap.get_upd_ne _ _ _ _ _ (fun e => h (BitVec.eq_of_toNat_eq e))
@[simp] theorem getStream_modCell (m : Nat) (n : Nat) (f : Cell → Cell) (s : State) : getStream (modCell n f s) m = getStream s m := rfl
@[simp] theorem getStream_modPos (m : Nat) (n : Nat) (f : Pos → Pos) (s : State) : getStream (modPos n f s) m = getStream s m := rfl
@[simp] theorem getStream_modHif (m : Nat) (f : Hif → Hif) (s : State) : getStream (modHif f s) m = getStream s m := rfl
@[simp] theorem getStream_modCtx (m : Nat) (c : Ctx) (f : Context → Context) (s : State) : getStream (modCtx c f s) m = getStream s m := rfl
@[simp] theorem getStream_modStep (m : Nat) (f : StepEng → StepEng) (s : State) : getStream (modStep f s) m = getStream s m := rfl
@[simp] theorem getStream_modHeld (m : Nat) (i : Nat) (f : Held → Held) (s : State) : getStream (modHeld i f s) m = getStream s m := rfl
@[simp] theorem getStream_modFab (m : Nat) (f : Fab → Fab) (s : State) : getStream (modFab f s) m = getStream s m := rfl
@[simp] theorem getStream_modPort (m : Nat) (p : Nat) (f : FabPort → FabPort) (s : State) : getStream (modPort p f s) m = getStream s m := rfl
@[simp] theorem getStream_modPart (m : Nat) (i : Nat) (f : Part → Part) (s : State) : getStream (modPart i f s) m = getStream s m := rfl
@[simp] theorem getStream_modMgmt (m : Nat) (f : Mgmt → Mgmt) (s : State) : getStream (modMgmt f s) m = getStream s m := rfl
@[simp] theorem getStream_modMbx (m : Nat) (ch : Nat) (f : Chan → Chan) (s : State) : getStream (modMbx ch f s) m = getStream s m := rfl
@[simp] theorem getStream_memWrite (m : Nat) (a : Nat) (bs : List Byte) (s : State) : getStream (memWrite a bs s) m = getStream s m := rfl
@[simp] theorem getStream_hostWrite (m : Nat) (a : Nat) (bs : List Byte) (s : State) : getStream (hostWrite a bs s) m = getStream s m := rfl
@[simp] theorem getStream_modEdge (m : Nat) (e : Nat) (f : Edge → Edge) (s : State) : getStream (modEdge e f s) m = getStream s m := rfl
@[simp] theorem getStream_modGfw (m : Nat) (g : Nat) (f : Gfw → Gfw) (s : State) : getStream (modGfw g f s) m = getStream s m := rfl
@[simp] theorem getStream_modBank (m : Nat) (f : BankEng → BankEng) (s : State) : getStream (modBank f s) m = getStream s m := rfl
@[simp] theorem getStream_modRas (m : Nat) (f : Ras → Ras) (s : State) : getStream (modRas f s) m = getStream s m := rfl
@[simp] theorem getStream_modPwr (m : Nat) (f : Pwr → Pwr) (s : State) : getStream (modPwr f s) m = getStream s m := rfl
@[simp] theorem getStream_modFuses (m : Nat) (f : Fuses → Fuses) (s : State) : getStream (modFuses f s) m = getStream s m := rfl
@[simp] theorem getStream_raise (m : Nat) (code : EventCode) (src : BitVec 12) (e : EvArgs) (s : State) :
    getStream (raise code src e s) m = getStream s m := rfl
@[simp] theorem getStream_modStream_same (k : Nat) (f : StreamCtx → StreamCtx) (s : State) : getStream (modStream k f s) k = f (getStream s k) :=
  SMap.get_upd _ _ _ _
theorem getStream_modStream_ne (k : Nat) (f : StreamCtx → StreamCtx) (m : Nat) (h : m ≠ k) (s : State) : getStream (modStream k f s) m = getStream s m :=
  SMap.get_upd_ne _ _ _ _ _ h
@[simp] theorem getPort_modCell (m : Nat) (n : Nat) (f : Cell → Cell) (s : State) : getPort (modCell n f s) m = getPort s m := rfl
@[simp] theorem getPort_modPos (m : Nat) (n : Nat) (f : Pos → Pos) (s : State) : getPort (modPos n f s) m = getPort s m := rfl
@[simp] theorem getPort_modHif (m : Nat) (f : Hif → Hif) (s : State) : getPort (modHif f s) m = getPort s m := rfl
@[simp] theorem getPort_modCtx (m : Nat) (c : Ctx) (f : Context → Context) (s : State) : getPort (modCtx c f s) m = getPort s m := rfl
@[simp] theorem getPort_modStream (m : Nat) (k : Nat) (f : StreamCtx → StreamCtx) (s : State) : getPort (modStream k f s) m = getPort s m := rfl
@[simp] theorem getPort_modStep (m : Nat) (f : StepEng → StepEng) (s : State) : getPort (modStep f s) m = getPort s m := rfl
@[simp] theorem getPort_modHeld (m : Nat) (i : Nat) (f : Held → Held) (s : State) : getPort (modHeld i f s) m = getPort s m := rfl
@[simp] theorem getPort_modPart (m : Nat) (i : Nat) (f : Part → Part) (s : State) : getPort (modPart i f s) m = getPort s m := rfl
@[simp] theorem getPort_modMgmt (m : Nat) (f : Mgmt → Mgmt) (s : State) : getPort (modMgmt f s) m = getPort s m := rfl
@[simp] theorem getPort_modMbx (m : Nat) (ch : Nat) (f : Chan → Chan) (s : State) : getPort (modMbx ch f s) m = getPort s m := rfl
@[simp] theorem getPort_memWrite (m : Nat) (a : Nat) (bs : List Byte) (s : State) : getPort (memWrite a bs s) m = getPort s m := rfl
@[simp] theorem getPort_hostWrite (m : Nat) (a : Nat) (bs : List Byte) (s : State) : getPort (hostWrite a bs s) m = getPort s m := rfl
@[simp] theorem getPort_modEdge (m : Nat) (e : Nat) (f : Edge → Edge) (s : State) : getPort (modEdge e f s) m = getPort s m := rfl
@[simp] theorem getPort_modGfw (m : Nat) (g : Nat) (f : Gfw → Gfw) (s : State) : getPort (modGfw g f s) m = getPort s m := rfl
@[simp] theorem getPort_modBank (m : Nat) (f : BankEng → BankEng) (s : State) : getPort (modBank f s) m = getPort s m := rfl
@[simp] theorem getPort_modRas (m : Nat) (f : Ras → Ras) (s : State) : getPort (modRas f s) m = getPort s m := rfl
@[simp] theorem getPort_modPwr (m : Nat) (f : Pwr → Pwr) (s : State) : getPort (modPwr f s) m = getPort s m := rfl
@[simp] theorem getPort_modFuses (m : Nat) (f : Fuses → Fuses) (s : State) : getPort (modFuses f s) m = getPort s m := rfl
@[simp] theorem getPort_raise (m : Nat) (code : EventCode) (src : BitVec 12) (e : EvArgs) (s : State) :
    getPort (raise code src e s) m = getPort s m := rfl
@[simp] theorem getPort_modPort_same (p : Nat) (f : FabPort → FabPort) (s : State) : getPort (modPort p f s) p = f (getPort s p) :=
  SMap.get_upd _ _ _ _
theorem getPort_modPort_ne (p : Nat) (f : FabPort → FabPort) (m : Nat) (h : m ≠ p) (s : State) : getPort (modPort p f s) m = getPort s m :=
  SMap.get_upd_ne _ _ _ _ _ h
@[simp] theorem getPart_modCell (m : Nat) (n : Nat) (f : Cell → Cell) (s : State) : getPart (modCell n f s) m = getPart s m := rfl
@[simp] theorem getPart_modPos (m : Nat) (n : Nat) (f : Pos → Pos) (s : State) : getPart (modPos n f s) m = getPart s m := rfl
@[simp] theorem getPart_modHif (m : Nat) (f : Hif → Hif) (s : State) : getPart (modHif f s) m = getPart s m := rfl
@[simp] theorem getPart_modCtx (m : Nat) (c : Ctx) (f : Context → Context) (s : State) : getPart (modCtx c f s) m = getPart s m := rfl
@[simp] theorem getPart_modStream (m : Nat) (k : Nat) (f : StreamCtx → StreamCtx) (s : State) : getPart (modStream k f s) m = getPart s m := rfl
@[simp] theorem getPart_modStep (m : Nat) (f : StepEng → StepEng) (s : State) : getPart (modStep f s) m = getPart s m := rfl
@[simp] theorem getPart_modHeld (m : Nat) (i : Nat) (f : Held → Held) (s : State) : getPart (modHeld i f s) m = getPart s m := rfl
@[simp] theorem getPart_modPort (m : Nat) (p : Nat) (f : FabPort → FabPort) (s : State) : getPart (modPort p f s) m = getPart s m := rfl
@[simp] theorem getPart_modMgmt (m : Nat) (f : Mgmt → Mgmt) (s : State) : getPart (modMgmt f s) m = getPart s m := rfl
@[simp] theorem getPart_modMbx (m : Nat) (ch : Nat) (f : Chan → Chan) (s : State) : getPart (modMbx ch f s) m = getPart s m := rfl
@[simp] theorem getPart_memWrite (m : Nat) (a : Nat) (bs : List Byte) (s : State) : getPart (memWrite a bs s) m = getPart s m := rfl
@[simp] theorem getPart_hostWrite (m : Nat) (a : Nat) (bs : List Byte) (s : State) : getPart (hostWrite a bs s) m = getPart s m := rfl
@[simp] theorem getPart_modEdge (m : Nat) (e : Nat) (f : Edge → Edge) (s : State) : getPart (modEdge e f s) m = getPart s m := rfl
@[simp] theorem getPart_modGfw (m : Nat) (g : Nat) (f : Gfw → Gfw) (s : State) : getPart (modGfw g f s) m = getPart s m := rfl
@[simp] theorem getPart_modBank (m : Nat) (f : BankEng → BankEng) (s : State) : getPart (modBank f s) m = getPart s m := rfl
@[simp] theorem getPart_modRas (m : Nat) (f : Ras → Ras) (s : State) : getPart (modRas f s) m = getPart s m := rfl
@[simp] theorem getPart_modPwr (m : Nat) (f : Pwr → Pwr) (s : State) : getPart (modPwr f s) m = getPart s m := rfl
@[simp] theorem getPart_modFuses (m : Nat) (f : Fuses → Fuses) (s : State) : getPart (modFuses f s) m = getPart s m := rfl
@[simp] theorem getPart_raise (m : Nat) (code : EventCode) (src : BitVec 12) (e : EvArgs) (s : State) :
    getPart (raise code src e s) m = getPart s m := rfl
@[simp] theorem getPart_modPart_same (i : Nat) (f : Part → Part) (s : State) : getPart (modPart i f s) i = f (getPart s i) :=
  SMap.get_upd _ _ _ _
theorem getPart_modPart_ne (i : Nat) (f : Part → Part) (m : Nat) (h : m ≠ i) (s : State) : getPart (modPart i f s) m = getPart s m :=
  SMap.get_upd_ne _ _ _ _ _ h
@[simp] theorem getSync_modCell (m : Nat) (n : Nat) (f : Cell → Cell) (s : State) : getSync (modCell n f s) m = getSync s m := rfl
@[simp] theorem getSync_modPos (m : Nat) (n : Nat) (f : Pos → Pos) (s : State) : getSync (modPos n f s) m = getSync s m := rfl
@[simp] theorem getSync_modCtx (m : Nat) (c : Ctx) (f : Context → Context) (s : State) : getSync (modCtx c f s) m = getSync s m := rfl
@[simp] theorem getSync_modStream (m : Nat) (k : Nat) (f : StreamCtx → StreamCtx) (s : State) : getSync (modStream k f s) m = getSync s m := rfl
@[simp] theorem getSync_modStep (m : Nat) (f : StepEng → StepEng) (s : State) : getSync (modStep f s) m = getSync s m := rfl
@[simp] theorem getSync_modHeld (m : Nat) (i : Nat) (f : Held → Held) (s : State) : getSync (modHeld i f s) m = getSync s m := rfl
@[simp] theorem getSync_modFab (m : Nat) (f : Fab → Fab) (s : State) : getSync (modFab f s) m = getSync s m := rfl
@[simp] theorem getSync_modPort (m : Nat) (p : Nat) (f : FabPort → FabPort) (s : State) : getSync (modPort p f s) m = getSync s m := rfl
@[simp] theorem getSync_modPart (m : Nat) (i : Nat) (f : Part → Part) (s : State) : getSync (modPart i f s) m = getSync s m := rfl
@[simp] theorem getSync_modMgmt (m : Nat) (f : Mgmt → Mgmt) (s : State) : getSync (modMgmt f s) m = getSync s m := rfl
@[simp] theorem getSync_modMbx (m : Nat) (ch : Nat) (f : Chan → Chan) (s : State) : getSync (modMbx ch f s) m = getSync s m := rfl
@[simp] theorem getSync_memWrite (m : Nat) (a : Nat) (bs : List Byte) (s : State) : getSync (memWrite a bs s) m = getSync s m := rfl
@[simp] theorem getSync_hostWrite (m : Nat) (a : Nat) (bs : List Byte) (s : State) : getSync (hostWrite a bs s) m = getSync s m := rfl
@[simp] theorem getSync_modEdge (m : Nat) (e : Nat) (f : Edge → Edge) (s : State) : getSync (modEdge e f s) m = getSync s m := rfl
@[simp] theorem getSync_modGfw (m : Nat) (g : Nat) (f : Gfw → Gfw) (s : State) : getSync (modGfw g f s) m = getSync s m := rfl
@[simp] theorem getSync_modBank (m : Nat) (f : BankEng → BankEng) (s : State) : getSync (modBank f s) m = getSync s m := rfl
@[simp] theorem getSync_modRas (m : Nat) (f : Ras → Ras) (s : State) : getSync (modRas f s) m = getSync s m := rfl
@[simp] theorem getSync_modPwr (m : Nat) (f : Pwr → Pwr) (s : State) : getSync (modPwr f s) m = getSync s m := rfl
@[simp] theorem getSync_modFuses (m : Nat) (f : Fuses → Fuses) (s : State) : getSync (modFuses f s) m = getSync s m := rfl
@[simp] theorem getSync_raise (m : Nat) (code : EventCode) (src : BitVec 12) (e : EvArgs) (s : State) :
    getSync (raise code src e s) m = getSync s m := rfl

/-! ### Memory -/

/-- A byte outside the bytes written reads as before. -/
theorem memRead_memWrite_apart (a b n : Nat) (bs : List Byte) (s : State) (h : b + n ≤ a ∨ a + bs.length ≤ b) :
    memRead (memWrite a bs s) b n = memRead s b n :=
  SMap.readRun_writeRun_apart 0 s.mem a b n bs h

/-- What was written reads back. -/
theorem memRead_memWrite (a : Nat) (bs : List Byte) (s : State) : memRead (memWrite a bs s) a bs.length = bs :=
  SMap.readRun_writeRun 0 s.mem a bs

theorem hostRead_hostWrite_apart (a b n : Nat) (bs : List Byte) (s : State) (h : b + n ≤ a ∨ a + bs.length ≤ b) :
    hostRead (hostWrite a bs s) b n = hostRead s b n :=
  SMap.readRun_writeRun_apart 0 s.host a b n bs h

theorem hostRead_hostWrite (a : Nat) (bs : List Byte) (s : State) : hostRead (hostWrite a bs s) a bs.length = bs :=
  SMap.readRun_writeRun 0 s.host a bs

end Sys2Proof.Machine
end

