-- ==== Sys2Proof/Laws/Cells.lean ====
section
/-! SUPPORT. What the sequencer and its units leave, in the terms of the statements: an instruction that issues, the completion
signal, a VOP that starts, and the bytes that a write of units leaves alone. -/

set_option linter.all false

namespace Sys2Proof.Laws

open Sys2Proof Sys2Proof.Machine

/-- The state with one cell put in place. -/
def putCell (s : State) (n : Nat) (k : Cell) : State := { s with cells := SMap.set Cell.init s.cells n k }

theorem modCell_eq_putCell (n : Nat) (f : Cell → Cell) (s : State) : modCell n f s = putCell s n (f (getCell s n)) := rfl
theorem putCell_putCell (s : State) (n : Nat) (a b : Cell) : putCell (putCell s n a) n b = putCell s n b := by
  simp [putCell, SMap.set_set]
@[simp] theorem getCell_putCell (s : State) (n : Nat) (a : Cell) : getCell (putCell s n a) n = a := by simp [putCell, getCell]
theorem modCell_putCell (n : Nat) (f : Cell → Cell) (s : State) (k : Cell) :
    modCell n f (putCell s n k) = putCell s n (f k) := by rw [modCell_eq_putCell, getCell_putCell, putCell_putCell]

/-- An instruction that issues and may act runs its action on the state whose WEN semaphore has gone down. -/
theorem seqRow_runs (c : CellId) (r : Run) (w : BitVec 64) (s : State) (e : ReadErr) (h : issues s c r w)
    (he : e.uncorrected = false) (mine ready act) (hm : mine w = true) (hr : ready s w = true) :
    seqRow (cellNum c) e mine ready act s =
      act r w (fetched s c e) (takeWait (cellNum c) w (fetched s c e)) := by
  obtain ⟨h1, h2, h3, h4, h5⟩ := h
  simp [seqRow, h1, h2, h3, h4, h5, hm, hr, he, fetched]

/-- A word that cannot be corrected stops the sequencer with PROG_ECC. -/
theorem seqRow_programEcc (c : CellId) (r : Run) (s : State) (e : ReadErr) (h : (getCell s (cellNum c)).run = some r)
    (he : e.uncorrected = true) (hc : s.pwr.arithStopped = false) (mine ready act)
    (hm : mine (runWord s (cellNum c) r) = true) :
    seqRow (cellNum c) e mine ready act s = seqFault (cellNum c) 0xA (runSlot r) s := by
  simp [seqRow, h, hm, he, hc]

/-- No sequencer instruction acts while CLK_ARITH is stopped. -/
theorem seqRow_stopped (n : Nat) (e : ReadErr) (mine ready act) (s : State) (h : s.pwr.arithStopped = true) :
    seqRow n e mine ready act s = s := by
  unfold seqRow; split <;> simp [h]

/-- Counting what a fetch corrected leaves every condition of an instruction's issue as it was. -/
theorem issues_fetched (s : State) (c : CellId) (e : ReadErr) (r : Run) (w : BitVec 64) :
    issues (fetched s c e) c r w ↔ issues s c r w := Iff.rfl

/-- A change of a cell that leaves the semaphores alone, after its WEN wait. -/
theorem modCell_takeWait (s : State) (c w) (f : Cell → Cell) (hf : ∀ k m, f { k with sems := m } = { f k with sems := m }) :
    modCell (cellNum c) f (takeWait (cellNum c) w s) =
   putCell s (cellNum c) { f (getCell s (cellNum c)) with sems := semsTaken s c w } := by
  unfold takeWait semsTaken
  split
  · rename_i hb
    show modCell (cellNum c) f (putCell s (cellNum c) { getCell s (cellNum c) with sems := SMap.upd 0 (getCell s (cellNum c)).sems (fld w 56 54) (fun v => v - 1) }) = _
    rw [modCell_putCell, hf]
  · show putCell s (cellNum c) (f (getCell s (cellNum c))) = _
    rw [← hf]

/-- A cell put in place of one of the same configuration leaves the gang as it was. -/
theorem gangOf_putCell (s n k) (h : k.cfg = (getCell s n).cfg) : gangOf (putCell s n k) n = gangOf s n := by simp [gangOf, h]
theorem gangCells_putCell (s n k) (h : k.cfg = (getCell s n).cfg) : gangCells (putCell s n k) n =
    gangCells s n := by simp [gangCells, gangCell, gangOf_putCell s n k h]
theorem gangOrigin_putCell (s n k) (h : k.cfg = (getCell s n).cfg) : gangOrigin (putCell s n k) n =
    gangOrigin s n := by simp [gangOrigin, gangCell, gangOf_putCell s n k h]

/-- The completion signal of an instruction on a cell that has been put in place. -/
theorem signalDone_putCell (s : State) (c w) (r : Option Run) (m) (hs : signalFits s c w m) :
   signalDone (cellNum c) w (putCell s (cellNum c) { getCell s (cellNum c) with run := r, sems := m }) = seqDone s c w r m := by
  unfold signalDone
  rw [gangCells_putCell s _ { getCell s (cellNum c) with run := r, sems := m } rfl, gangOrigin_putCell s _ { getCell s (cellNum c) with run := r, sems := m } rfl]
  unfold seqDone semsSignalled
  cases h53 : bit w 53
  · simp [putCell, signalsOrigin, h53]
  · by_cases h : bit w 52 = true ∧ 1 < (gangCells s (cellNum c)).length
    · simp [putCell, signalsOrigin, h53, h]
    · have ho : signalsOrigin s c w = false := by
        simp only [signalsOrigin, h53, Bool.true_and, Bool.and_eq_false_iff, decide_eq_false_iff_not]
        by_cases h' : bit w 52 = true
        · right; exact fun e => h ⟨h', e⟩
        · left; simpa using h'
      have hne := hs h53 ho
      have : (bit w 52 && decide (1 < (gangCells s (cellNum c)).length)) = false := by simpa [signalsOrigin, h53] using ho
      simp only [this, ho]
      unfold signalSem
      rw [getCell_putCell, if_neg hne]
      simp only [modCell_putCell, bumpSem, SMap.upd, if_neg hne]
      rfl

/-- The pc of a body that stays inside it. -/
theorem advancePc_putCell (s : State) (c r pc) (m) (hl : pc < r.len) :
   advancePc (cellNum c) pc (putCell s (cellNum c) { getCell s (cellNum c) with run := some r, sems := m }) =
   putCell s (cellNum c) { getCell s (cellNum c) with run := some { r with pc := pc}, sems := m } := by
  simp [advancePc, modCell_putCell, Nat.not_le.mpr hl]

/-- What a sequencer instruction that ends at issue leaves. -/
theorem seqSimple_runs (s : State) (c r w) (e : ReadErr) (f : Run → BitVec 64 → Run) (op) (hop : wOp w = op)
    (h : issues s c r w) (he : e.uncorrected = false) (hl : r.pc + 1 < (f r w).len)
    (hs : signalFits s c w (semsTaken s c w)) :
    seqSimple (cellNum c) op e f s =
      seqDone (fetched s c e) c w (some { f r w with pc := r.pc + 1 }) (semsTaken s c w) := by
  unfold seqSimple
  rw [seqRow_runs c r w s e h he _ _ _ (by simp [isOp, hop]) rfl]
  have hs' : signalFits (fetched s c e) c w (semsTaken (fetched s c e) c w) := hs
  dsimp only
  rw [modCell_takeWait (fetched s c e) c w _ (by intros; rfl), advancePc_putCell _ _ _ _ _ hl,
    signalDone_putCell _ _ _ _ _ hs']
  rfl


/-- An instruction of a unit that has room joins its queue, and the unit starts what it can. -/
theorem unitRow_issues (s c r w) (e : ReadErr) (h : issues s c r w) (he : e.uncorrected = false) (hl : r.pc + 1 < r.len)
   (mine room bad put start) (hm : mine w = true) (hr : room (getCell s (cellNum c)) = true)
   (hb : bad (fetched s c e) w = none) (hf : ∀ k m, put r w { k with sems := m } = { put r w k with sems := m })
   (hf2 : ∀ k m, put r w { k with run := m } = { put r w k with run := m }) (hrun : (put r w (getCell s (cellNum c))).run =
     (getCell s (cellNum c)).run) :
   unitRow (cellNum c) e mine room bad put start s = start (issued (fetched s c e) c r w (put r w)) := by
  unfold unitRow
  rw [seqRow_runs c r w s e h he _ _ _ hm hr]
  have h : issues (fetched s c e) c r w := h
  have hrun : (put r w (getCell (fetched s c e) (cellNum c))).run = (getCell (fetched s c e) (cellNum c)).run := hrun
  generalize fetched s c e = s at *
  simp only [hb]
  rw [modCell_takeWait s c w _ hf]
  have : advancePc (cellNum c) (r.pc+1) (putCell s (cellNum c) { put r w (getCell s (cellNum c)) with sems := semsTaken s c w }) = issued s c r w (put r w) := by
    unfold advancePc
    rw [getCell_putCell]
    dsimp only
    rw [hrun, h.1]
    dsimp only
    rw [if_neg (by omega), modCell_putCell]
    unfold issued
    dsimp only
    have := hf2 {getCell s (cellNum c) with sems := semsTaken s c w} (some { r with pc := r.pc + 1 })
    have h3 := hf (getCell s (cellNum c)) (semsTaken s c w)
    rw [h3] at this
    rw [putCell]
    simp only at this
    rw [← this]
  rw [this]

/-- A VOP joins the queue of unit D. -/
theorem vopRow_issues (s c r w v) (e err : ReadErr) (h : vopIssues s c r w v) (he : e.uncorrected = false) :
    vopRow ⟨c, e, err⟩ v s =
      startD (cellNum c)
        (issued (fetched s c e) c r w (fun k => { k with unitD := k.unitD ++ [newOp r w [] err 0] })) := by
  obtain ⟨h1, h2, h3, h4, h5, h6⟩ := h
  unfold vopRow
  exact unitRow_issues s c r w e h1 he h2 _ _ _ _ _ (by simp [isVop, h3, h4]) (by simp [h6]) (by simp [h5]) (by intros; rfl) (by intros; rfl) rfl

theorem issued_eq_putCell (s c r w f) : issued s c r w f =
    putCell s (cellNum c) (f { getCell s (cellNum c) with run := some { r with pc := r.pc + 1 }, sems := semsTaken s c w }) := rfl

/-- A VOP that an idle D unit takes runs at once. -/
theorem vopRow_starts (s c r w v) (e err : ReadErr) (h : vopIssues s c r w v) (he : e.uncorrected = false) :
    let o := startedOp r w err (checkCount s (cellNum c) (newOp r w [] err 0))
    vopRow ⟨c, e, err⟩ v s =
      storageError (cellNum c) err
        (runVop (cellNum c) o (issued (fetched s c e) c r w (fun k => { k with unitD := [o] }))) := by
  rw [vopRow_issues s c r w v e err h he]
  have h' : vopIssues (fetched s c e) c r w v := h
  show _ = storageError (cellNum c) err (runVop (cellNum c)
    (startedOp r w err (checkCount (fetched s c e) (cellNum c) (newOp r w [] err 0)))
    (issued (fetched s c e) c r w (fun k => { k with
      unitD := [startedOp r w err (checkCount (fetched s c e) (cellNum c) (newOp r w [] err 0))] })))
  clear h
  generalize fetched s c e = s at *
  obtain ⟨h1, h2, h3, h4, h5, h6⟩ := h'
  unfold startD
  rw [issued_eq_putCell, getCell_putCell]
  simp only [h6, List.nil_append]
  have e1 : wOp (newOp r w [] err 0).word = 0x19 := h3
  have e0 : (newOp r w [] err 0).started = false := rfl
  simp only [e0, e1, modCell_putCell]
  simp
  rfl

theorem cellPosn_cellNum (c : CellId) : cellPosn (cellNum c) =
    c.posn.val := by unfold cellPosn cellNum; have := c.x.isLt; have := c.y.isLt; omega

/-- What the statistics see of an instruction, on the state that it leaves. -/
theorem observeSlot_issued (s c r w d bytes f seen) (t0 : State) (ht : t0 =
    { issued s c r w (fun k => { k with unitD := d }) with mem := bytes }) :
  (if bit w 21 = true then observeSlot (cellNum c) (fld w 20 9) f seen t0 else t0) =
   { issued s c r w (fun k => { k with unitD := d, partials := partialsSeen s c w f seen }) with mem := bytes } := by
  have hp : t0.pwr = s.pwr := by rw [ht]; rfl
  have hq : ∀ n, getPos t0 n = getPos s n := fun _ => by rw [ht]; rfl
  have e : t0 = putCell { s with mem := bytes } (cellNum c) { getCell s (cellNum c) with run := some { r with pc := r.pc + 1 }, sems := semsTaken s c w, unitD := d } := by rw [ht]; rfl
  unfold observeSlot partialsSeen
  simp only [hp, hq, cellPosn_cellNum]
  cases bit w 21
  · simp only [Bool.false_and, Bool.false_eq_true, if_false]; rw [ht]; rfl
  · cases s.pwr.modes.stats
    · simp only [Bool.true_and, Bool.false_eq_true, if_false]; rw [ht]; rfl
    · simp only [if_true, Bool.and_self]
      rw [e, modCell_putCell]
      rfl

/-- Only FCHECK counts non-finite elements. -/
theorem checkCount_of_no_fcheck (s c r w v err) (h : wVopc w = v) (hv : v ≠ 0x30) :
    checkCount s (cellNum c) (newOp r w [] err 0) = 0 := by
  have : wVopc (newOp r w [] err 0).word = v := h
  unfold checkCount
  simp [this, hv]

/-- The rows that a VOP writes, as the statements put it. -/
theorem writeRows_started (s c r w err rows) :
    storageError (cellNum c) err (writeRows (cellNum c) (startedOp r w err 0) rows
      (issued s c r w (fun k => { k with unitD := [startedOp r w err 0] }))) =
   vopStarted s c r w err (encodeArea (fmtAt w 26 23) (bit w 22) rows []).bytes (fmtAt w 26 23) (encodeArea (fmtAt w 26 23) (bit w 22) rows []).seen := by
  have := observeSlot_issued s c r w [startedOp r w err 0] (spWrite s.mem (spBase (cellNum c)) (areg r (fld w 40 37)).toNat (encodeArea (fmtAt w 26 23) (bit w 22) rows []).bytes) (fmtAt w 26 23) (encodeArea (fmtAt w 26 23) (bit w 22) rows []).seen _ rfl
  unfold vopStarted
  rw [← this]
  rfl

theorem areaF32_length (m b o f n) : (areaF32 m b o f n).length = n := by simp [areaF32]

/-- A write of units changes no byte outside them. -/
theorem get_spWriteUnits_out (base : Nat) (us : List (List Byte)) : ∀ (off : Nat) (mem : Mem) (a :
    Nat), (∀ u ∈ us, u.length ≤ 64) →
   (∀ j, j < us.length → a < base + unitOff (off + 64 * j) ∨ base + unitOff (off + 64 * j) + 64 ≤ a) →
   SMap.get 0 (spWriteUnits base off us mem) a = SMap.get 0 mem a := by
  induction us with
  | nil => intros; rfl
  | cons u t ih =>
    intro off mem a hl h
    unfold spWriteUnits
    rw [ih _ _ _ (fun x hx => hl x (List.mem_cons_of_mem _ hx))]
    · have h0 := h 0 (by simp)
      have hu := hl u (by simp)
      exact SMap.get_writeRun_out _ _ _ _ _ (by simp only [Nat.mul_zero, Nat.add_zero] at h0; omega)
    · intro j hj
      have := h (j + 1) (by simpa using hj)
      rwa [show off + 64 * (j + 1) = off + 64 + 64 * j by omega] at this

/-- The pieces of a list: none is longer than asked, and each begins inside the list. -/
theorem pieces_bounds {α : Type} (n : Nat) (hn : 0 < n) : ∀ (fuel : Nat) (l :
    List α), (∀ u ∈ pieces n fuel l, u.length ≤ n) ∧ ∀ j, j < (pieces n fuel l).length → n * j < l.length := by
  intro fuel
  induction fuel with
  | zero => intro l; simp [pieces]
  | succ k ih =>
    intro l
    unfold pieces
    split
    · simp
    · rename_i hne
      obtain ⟨i1, i2⟩ := ih (l.drop n)
      refine ⟨?_, ?_⟩
      · intro u hu
        rcases List.mem_cons.mp hu with rfl | hu
        · exact List.length_take_le _ _
        · exact i1 u hu
      · intro j hj
        cases j with
        | zero => simp only [Nat.mul_zero]; cases l <;> simp at hne ⊢
        | succ j =>
          have := i2 j (by simpa using hj)
          rw [List.length_drop] at this
          rw [Nat.mul_add]; omega


/-! ### Completions -/

/-- A change of the host interface and host memory only. -/
def hostOnly (s t : State) : Prop := ∃ h m, t = { s with hif := h, host := m }

theorem hostOnly_refl (s : State) : hostOnly s s := ⟨_, _, rfl⟩

theorem hostOnly_trans {s t u : State} (h1 : hostOnly s t) (h2 : hostOnly t u) : hostOnly s u := by
  obtain ⟨_, _, rfl⟩ := h1; obtain ⟨_, _, rfl⟩ := h2; exact ⟨_, _, rfl⟩

/-- The end of a descriptor changes the host interface and host memory only. -/
theorem finishDesc_hostOnly (c d st de q s) : hostOnly s (finishDesc c d st de q s) := by
  unfold finishDesc signalDesc recordDesc writeCompletion sendMsix syncRequest
  dsimp only
  split_ifs <;> exact ⟨_, _, rfl⟩

/-- The same, for a descriptor found by its number. -/
theorem completeKey_hostOnly (c k st de q s) : hostOnly s (completeKey c k st de q s) := by
  unfold completeKey
  split
  · exact hostOnly_refl s
  · exact hostOnly_trans ⟨_, _, rfl⟩ (finishDesc_hostOnly _ _ _ _ _ _)

/-! ### Streams -/

/-- A stream whose ranges lie in the windows, on a position that answers, is bound. -/
theorem bindStream_binds (s : State) (c : Ctx) (d : Desc) (r : StreamReq)
    (ha : streamInWindows (getCtx s c) r.src r.dst r.length (64 * r.runU) (64 * r.stepU) = true)
    (hb : posnAnswers s r.posn = true) :
    bindStream c d r s = { s with
      streams := SMap.set StreamCtx.init s.streams (streamKey r.posn r.sctx) (boundStream s c d r) } := by
  simp [bindStream, ha, hb, modStream]; rfl

/-- A stream outside the windows is refused with STREAM_WINDOW. -/
theorem bindStream_window (s : State) (c : Ctx) (d : Desc) (r : StreamReq)
    (ha : streamInWindows (getCtx s c) r.src r.dst r.length (64 * r.runU) (64 * r.stepU) = false) :
    bindStream c d r s = refuseStream c d r.ember stStreamWindow 0 s := by
  simp [bindStream, ha]

/-- A stream on a position that does not answer is refused with DOMAIN_RESET. -/
theorem bindStream_domain (s : State) (c : Ctx) (d : Desc) (r : StreamReq)
    (ha : streamInWindows (getCtx s c) r.src r.dst r.length (64 * r.runU) (64 * r.stepU) = true)
    (hb : posnAnswers s r.posn = false) :
    bindStream c d r s = refuseStream c d r.ember stDomainReset 0 s := by
  simp [bindStream, ha, hb]

end Sys2Proof.Laws
end

