-- ==== Sys2Proof/Laws/Kept.lean ====
section
/-! SUPPORT. `Kept`, and its lemma for a bare change of the state: the queue, the identity and the memories as they were. One
lemma for every operation of the machine stands in the files Kept*.lean. -/

namespace Sys2Proof.Machine

theorem Kept.rfl {s : State} : Kept s s := ⟨Eq.refl _, le_refl _, id⟩

theorem Kept.self (s : State) : Kept s s := Kept.rfl

theorem Kept.trans {a b c : State} (h : Kept a b) (k : Kept b c) : Kept a c :=
  ⟨k.1.trans h.1, le_trans h.2.1 k.2.1, fun w => k.2.2 (h.2.2 w)⟩

/-- A memory is in canonical form when another is. -/
def MemKept (m n : Mem) : Prop := SMap.wf 0 m = true → SMap.wf 0 n = true

theorem MemKept.self (m : Mem) : MemKept m m := id

theorem memKept_nil (m : Mem) : MemKept m [] := fun _ => Eq.refl _

theorem memKept_writeRun {m n : Mem} (a : Nat) (bs : List Byte) (h : MemKept m n) :
    MemKept m (SMap.writeRun 0 n a bs) := fun w => SMap.wf_writeRun 0 n a bs (h w)

theorem memKept_filter {m n : Mem} (p : Nat × Byte → Bool) (h : MemKept m n) : MemKept m (n.filter p) :=
  fun w => SMap.wf_filter 0 n p 0 (h w)

theorem memKept_spWriteUnits {m n : Mem} (base off : Nat) (us : List (List Byte)) (h : MemKept m n) :
    MemKept m (spWriteUnits base off us n) := by
  induction us generalizing off n with
  | nil => exact h
  | cons u t ih => exact ih _ (memKept_writeRun _ u h)

theorem memKept_spWrite {m n : Mem} (base off : Nat) (bs : List Byte) (h : MemKept m n) :
    MemKept m (spWrite n base off bs) := memKept_spWriteUnits base off _ h

theorem memKept_ite {m a b : Mem} {p : Prop} [Decidable p] (ha : MemKept m a) (hb : MemKept m b) :
    MemKept m (if p then a else b) := by
  split
  · exact ha
  · exact hb

/-- Everything but the queue and the fuses may change, a memory to one in canonical form when the one before is. -/
theorem kept_mk {s0 s : State}
    (cells : SMap Cell) (prog : SMap (BitVec 64)) (progSrc : SMap Nat) (progReload : List (Nat × Nat × Nat))
    (acc : SMap (BitVec 32)) (sorg : List (Nat × Nat)) (posns : SMap Pos) (streams : SMap StreamCtx) (memRegs : MemRegs)
    (hif : Hif) (pkg : Pkg) (fab : Fab) (step : StepEng) (ras : Ras) (bank : BankEng) (mgmt : Mgmt) (pwr : Pwr)
    (test : TestBlk) (sel : SMap Selectors) (free : Nat) (mem host : Mem) (failed : List Nat)
    (h0 : Kept s0 s) (hm : MemKept s.mem mem) (hh : MemKept s.host host) :
    Kept s0 {
      pending := s.pending, fuses := s.fuses, cells := cells, prog := prog, progSrc := progSrc, progReload := progReload,
      acc := acc, sorg := sorg, posns := posns, streams := streams, mem := mem, failed := failed, host := host, memRegs := memRegs,
      hif := hif, pkg := pkg, fab := fab, step := step, ras := ras, bank := bank, mgmt := mgmt, pwr := pwr, test := test,
      sel := sel, free := free } :=
  h0.trans ⟨Eq.refl _, le_refl _, fun w => by
    simp only [State.canonical, Memory.wf, Bool.and_eq_true] at w ⊢
    exact ⟨hm w.1, hh w.2⟩⟩

/-- The repairs in the fuses may change as well. -/
theorem kept_mk_repairs {s0 s : State}
    (cells : SMap Cell) (prog : SMap (BitVec 64)) (progSrc : SMap Nat) (progReload : List (Nat × Nat × Nat))
    (acc : SMap (BitVec 32)) (sorg : List (Nat × Nat)) (posns : SMap Pos) (streams : SMap StreamCtx) (memRegs : MemRegs)
    (hif : Hif) (pkg : Pkg) (fab : Fab) (step : StepEng) (ras : Ras) (bank : BankEng) (mgmt : Mgmt) (pwr : Pwr)
    (test : TestBlk) (sel : SMap Selectors) (free : Nat) (mem host : Mem) (failed : List Nat)
    (macMap macMapFused : SMap (BitVec 32)) (wordsUsed : SMap Nat) (laneRepairs : List Repair)
    (h0 : Kept s0 s) (hm : MemKept s.mem mem) (hh : MemKept s.host host) :
    Kept s0 {
      pending := s.pending, fuses :=
        { part := s.fuses.part, gradeE := s.fuses.gradeE, hubStep := s.fuses.hubStep, hubLevel := s.fuses.hubLevel,
          hubMin := s.fuses.hubMin, posn := s.fuses.posn, serial := s.fuses.serial, fwKey := s.fuses.fwKey,
          idSeed := s.fuses.idSeed, idGen := s.fuses.idGen, factoryClosed := s.fuses.factoryClosed, macMap := macMap,
          macMapFused := macMapFused, wordsUsed := wordsUsed, laneRepairs := laneRepairs },
      cells := cells, prog := prog, progSrc := progSrc, progReload := progReload,
      acc := acc, sorg := sorg, posns := posns, streams := streams, mem := mem, failed := failed, host := host, memRegs := memRegs,
      hif := hif, pkg := pkg, fab := fab, step := step, ras := ras, bank := bank, mgmt := mgmt, pwr := pwr, test := test,
      sel := sel, free := free } :=
  h0.trans ⟨Eq.refl _, le_refl _, fun w => by
    simp only [State.canonical, Memory.wf, Bool.and_eq_true] at w ⊢
    exact ⟨hm w.1, hh w.2⟩⟩

/-- The identity generation may rise by one where it is not at its end. -/
theorem kept_idGen {s0 s : State} (h0 : Kept s0 s) (h : s.fuses.idGen ≠ 15) :
    Kept s0 { s with fuses := { s.fuses with idGen := s.fuses.idGen + 1 } } :=
  h0.trans ⟨Eq.refl _, by
    have n : s.fuses.idGen.toNat ≠ 15 := fun e => h (BitVec.eq_of_toNat_eq e)
    have l := s.fuses.idGen.isLt
    have e : (s.fuses.idGen + 1).toNat = s.fuses.idGen.toNat + 1 := by
      rw [BitVec.toNat_add]
      exact Nat.mod_eq_of_lt (by change s.fuses.idGen.toNat + 1 < 16; omega)
    exact e ▸ Nat.le_succ _, id⟩

/-- Either way keeps as much. -/
theorem kept_ite {s0 a b : State} {p : Prop} [Decidable p] (ha : Kept s0 a) (hb : Kept s0 b) :
    Kept s0 (if p then a else b) := by
  split
  · exact ha
  · exact hb

theorem kept_ite_snd {α : Type} {s0 : State} {a b : α × State} {p : Prop} [Decidable p] (ha : Kept s0 a.2)
    (hb : Kept s0 b.2) : Kept s0 (if p then a else b).2 := by
  split
  · exact ha
  · exact hb

/-- The outcome of a command keeps what `Kept` says, when it answers a next state. -/
def OutKept (s0 : State) (o : Out) : Prop := ∀ t, o = .next t → Kept s0 t

theorem outKept_next {s0 t : State} (h0 : Kept s0 t) : OutKept s0 (.next t) := by
  intro u h
  cases h
  exact h0

theorem outKept_ite {s0 : State} {a b : Out} {p : Prop} [Decidable p] (ha : OutKept s0 a) (hb : OutKept s0 b) :
    OutKept s0 (if p then a else b) := by
  split
  · exact ha
  · exact hb

/-- A state that there may be keeps what `Kept` says. -/
def OptKept (s0 : State) (o : Option State) : Prop := ∀ t, o = some t → Kept s0 t

theorem optKept_none {s0 : State} : OptKept s0 none := by
  intro u h
  cases h

theorem optKept_some {s0 t : State} (h0 : Kept s0 t) : OptKept s0 (some t) := by
  intro u h
  cases h
  exact h0

theorem optKept_ite {s0 : State} {a b : Option State} {p : Prop} [Decidable p] (ha : OptKept s0 a)
    (hb : OptKept s0 b) : OptKept s0 (if p then a else b) := by
  split
  · exact ha
  · exact hb

theorem optKept_map {α : Type} {s0 : State} {f : α → State} {o : Option α} (h : ∀ a, Kept s0 (f a)) :
    OptKept s0 (o.map f) := by
  intro u e
  obtain ⟨a, _, rfl⟩ := Option.map_eq_some_iff.mp e
  exact h a

theorem optKept_or {s0 : State} {a b : Option State} (ha : OptKept s0 a) (hb : OptKept s0 b) : OptKept s0 (a.or b) := by
  cases a with
  | none => exact hb
  | some u => exact ha

theorem optKept_bind {α : Type} {s0 : State} {f : α → Option State} {o : Option α} (h : ∀ a, OptKept s0 (f a)) :
    OptKept s0 (o.bind f) := by
  cases o with
  | none => exact optKept_none
  | some a => exact h a

/-- The state there is, or another that keeps as much. -/
theorem optKept_getD {s0 t : State} {o : Option State} (h : OptKept s0 o) (h0 : Kept s0 t) : Kept s0 (o.getD t) := by
  cases o with
  | none => exact h0
  | some u => exact h u (Eq.refl _)

end Sys2Proof.Machine
end

