-- ==== Sys2Proof/Laws/KeptOps.lean ====
section
/-! SUPPORT. What every operation keeps (`Kept`): the shared operations, completions, cells, routes and aborts. -/

set_option linter.all false

namespace Sys2Proof.Machine

theorem idleTick_kept (s : State) {s0 : State} (h0 : Kept s0 s) :
    Kept s0 (idleTick s) := by
  unfold idleTick
  simp (maxDischargeDepth := 80) only [Kept.self, kept_mk, MemKept.self, kept_ite, kept_ite_snd, implies_true, *]

theorem advanceTo_kept (t : BitVec 64) (s : State) {s0 : State} (h0 : Kept s0 s) :
    Kept s0 (advanceTo t s) := by
  unfold advanceTo
  simp (maxDischargeDepth := 80) only [Kept.self, kept_mk, MemKept.self, kept_ite, kept_ite_snd, implies_true, *]

theorem freeVal_kept (s : State) {s0 : State} (h0 : Kept s0 s) :
    Kept s0 (freeVal s).2 := by
  unfold freeVal
  simp (maxDischargeDepth := 80) only [Kept.self, kept_mk, MemKept.self, implies_true, *]

theorem modCell_kept (n : Nat) (f : Cell → Cell) (s : State) {s0 : State} (h0 : Kept s0 s) :
    Kept s0 (modCell n f s) := by
  unfold modCell
  simp (maxDischargeDepth := 80) only [Kept.self, kept_mk, MemKept.self, implies_true, *]

theorem modPos_kept (n : Nat) (f : Pos → Pos) (s : State) {s0 : State} (h0 : Kept s0 s) :
    Kept s0 (modPos n f s) := by
  unfold modPos
  simp (maxDischargeDepth := 80) only [Kept.self, kept_mk, MemKept.self, implies_true, *]

theorem modHif_kept (f : Hif → Hif) (s : State) {s0 : State} (h0 : Kept s0 s) :
    Kept s0 (modHif f s) := by
  unfold modHif
  simp (maxDischargeDepth := 80) only [Kept.self, kept_mk, MemKept.self, kept_ite, kept_ite_snd, implies_true, *]

theorem modCtx_kept (c : Ctx) (f : Context → Context) (s : State) {s0 : State} (h0 : Kept s0 s) :
    Kept s0 (modCtx c f s) := by
  unfold modCtx
  simp (maxDischargeDepth := 80) only [Kept.self, kept_mk, MemKept.self, kept_ite, kept_ite_snd, implies_true, *]

theorem modStream_kept (k : Nat) (f : StreamCtx → StreamCtx) (s : State) {s0 : State} (h0 : Kept s0 s) :
    Kept s0 (modStream k f s) := by
  unfold modStream
  simp (maxDischargeDepth := 80) only [Kept.self, kept_mk, MemKept.self, implies_true, *]

theorem modStep_kept (f : StepEng → StepEng) (s : State) {s0 : State} (h0 : Kept s0 s) :
    Kept s0 (modStep f s) := by
  unfold modStep
  simp (maxDischargeDepth := 80) only [Kept.self, kept_mk, MemKept.self, implies_true, *]

theorem modFab_kept (f : Fab → Fab) (s : State) {s0 : State} (h0 : Kept s0 s) :
    Kept s0 (modFab f s) := by
  unfold modFab
  simp (maxDischargeDepth := 80) only [Kept.self, kept_mk, MemKept.self, implies_true, *]

theorem modPort_kept (p : Nat) (f : FabPort → FabPort) (s : State) {s0 : State} (h0 : Kept s0 s) :
    Kept s0 (modPort p f s) := by
  unfold modPort
  simp (maxDischargeDepth := 80) only [Kept.self, kept_mk, MemKept.self, implies_true, *]

theorem modPart_kept (i : Nat) (f : Part → Part) (s : State) {s0 : State} (h0 : Kept s0 s) :
    Kept s0 (modPart i f s) := by
  unfold modPart
  simp (maxDischargeDepth := 80) only [Kept.self, kept_mk, MemKept.self, implies_true, *]

theorem modMgmt_kept (f : Mgmt → Mgmt) (s : State) {s0 : State} (h0 : Kept s0 s) :
    Kept s0 (modMgmt f s) := by
  unfold modMgmt
  simp (maxDischargeDepth := 80) only [Kept.self, kept_mk, MemKept.self, implies_true, *]

theorem occur_kept (src : WatchSource) (s : State) {s0 : State} (h0 : Kept s0 s) :
    Kept s0 (occur src s) := by
  unfold occur
  simp (maxDischargeDepth := 80) only [Kept.self, kept_mk, MemKept.self, implies_true, *]

theorem forAll_kept {α : Type} (l : List α) (f : α → State → State) (s : State) {s0 : State} (h0 : Kept s0 s)
    (hf : ∀ a t, Kept t (f a t)) : Kept s0 (forAll l f s) := by
  induction l generalizing s with
  | nil => exact h0
  | cons a l ih => exact ih (f a s) (h0.trans (hf a s))

theorem memWrite_kept (a : Nat) (bs : List Byte) (s : State) {s0 : State} (h0 : Kept s0 s) :
    Kept s0 (memWrite a bs s) := by
  unfold memWrite
  simp (maxDischargeDepth := 80) only [Kept.self, kept_mk, MemKept.self, memKept_nil, memKept_ite, memKept_writeRun,
      memKept_filter, implies_true, *]

theorem hostWrite_kept (a : Nat) (bs : List Byte) (s : State) {s0 : State} (h0 : Kept s0 s) :
    Kept s0 (hostWrite a bs s) := by
  unfold hostWrite
  simp (maxDischargeDepth := 80) only [Kept.self, kept_mk, MemKept.self, memKept_writeRun, implies_true, *]

theorem raise_kept (code : EventCode) (src : BitVec 12) (a : EvArgs) (s : State) {s0 : State} (h0 : Kept s0 s) :
    Kept s0 (raise code src a s) := by
  unfold raise
  simp (maxDischargeDepth := 80) only [Kept.self, kept_mk, MemKept.self, implies_true, *]

theorem modEdge_kept (e : Nat) (f : Edge → Edge) (s : State) {s0 : State} (h0 : Kept s0 s) :
    Kept s0 (modEdge e f s) := by
  unfold modEdge
  simp (maxDischargeDepth := 80) only [Kept.self, kept_mk, MemKept.self, implies_true, *]

theorem edgeQueue_kept (e : Nat) (bs : List Byte) (s : State) {s0 : State} (h0 : Kept s0 s) :
    Kept s0 (edgeQueue e bs s) := by
  unfold edgeQueue
  simp (maxDischargeDepth := 80) only [modEdge_kept, Kept.self, kept_mk, MemKept.self, kept_ite, kept_ite_snd,
      implies_true, *]

theorem headWriteBack_kept (c : Ctx) (s : State) {s0 : State} (h0 : Kept s0 s) :
    Kept s0 (headWriteBack c s) := by
  unfold headWriteBack
  simp (maxDischargeDepth := 80) only [modCtx_kept, hostWrite_kept, Kept.self, kept_mk, MemKept.self, implies_true, *]

theorem syncRequest_kept (o requester : Nat) (op : SyncOp) (s : State) {s0 : State} (h0 : Kept s0 s) :
    Kept s0 (syncRequest o requester op s) := by
  unfold syncRequest
  simp (maxDischargeDepth := 80) only [modHif_kept, Kept.self, kept_mk, MemKept.self, kept_ite, kept_ite_snd,
      implies_true, *]

theorem signalDesc_kept (c : Ctx) (w : BitVec 512) (ok : Bool) (requester : Nat) (s : State) {s0 : State} (h0 : Kept s0
    s) :
    Kept s0 (signalDesc c w ok requester s) := by
  unfold signalDesc
  simp (maxDischargeDepth := 80) only [syncRequest_kept, Kept.self, kept_mk, MemKept.self, kept_ite, kept_ite_snd,
      implies_true, *]

theorem sendMsix_kept (x : Context) (vec : BitVec 6) (s : State) {s0 : State} (h0 : Kept s0 s) :
    Kept s0 (sendMsix x vec s) := by
  unfold sendMsix
  simp (maxDischargeDepth := 80) only [modHif_kept, Kept.self, kept_mk, MemKept.self, kept_ite, kept_ite_snd,
      implies_true, *]

theorem writeCompletion_kept (c : Ctx) (bytes : Bool → List Byte) (s : State) {s0 : State} (h0 : Kept s0 s) :
    Kept s0 (writeCompletion c bytes s) := by
  unfold writeCompletion
  simp (maxDischargeDepth := 80) only [modCtx_kept, hostWrite_kept, Kept.self, kept_mk, MemKept.self, kept_ite,
      kept_ite_snd, implies_true, *]

theorem recordDesc_kept (c : Ctx) (d : Desc) (status detail : Nat) (s : State) {s0 : State} (h0 : Kept s0 s) :
    Kept s0 (recordDesc c d status detail s) := by
  unfold recordDesc
  repeat' (first | (simp (maxDischargeDepth := 80) only [sendMsix_kept, writeCompletion_kept, Kept.self, kept_mk,
                        MemKept.self, kept_ite, kept_ite_snd, implies_true, *]; done) | split | dsimp only)

theorem finishDesc_kept (c : Ctx) (d : Desc) (status detail requester : Nat) (s : State) {s0 : State} (h0 : Kept s0 s) :
    Kept s0 (finishDesc c d status detail requester s) := by
  unfold finishDesc
  simp (maxDischargeDepth := 80) only [signalDesc_kept, recordDesc_kept, Kept.self, kept_mk, MemKept.self,
      implies_true, *]

theorem completeKey_kept (c : Ctx) (key status detail requester : Nat) (s : State) {s0 : State} (h0 : Kept s0 s) :
    Kept s0 (completeKey c key status detail requester s) := by
  unfold completeKey
  repeat' (first | (simp (maxDischargeDepth := 80) only [modCtx_kept, finishDesc_kept, Kept.self, kept_mk,
                        MemKept.self, implies_true, *]; done) | split | dsimp only)

theorem finishStarting_kept (c : Ctx) (d : Desc) (status detail : Nat) (s : State) {s0 : State} (h0 : Kept s0 s) :
    Kept s0 (finishStarting c d status detail s) := by
  unfold finishStarting
  simp (maxDischargeDepth := 80) only [modCtx_kept, finishDesc_kept, Kept.self, kept_mk, MemKept.self, implies_true,
      *]

theorem keepStarting_kept (c : Ctx) (d : Desc) (s : State) {s0 : State} (h0 : Kept s0 s) :
    Kept s0 (keepStarting c d s) := by
  unfold keepStarting
  simp (maxDischargeDepth := 80) only [modCtx_kept, Kept.self, kept_mk, MemKept.self, implies_true, *]

theorem abortDescs_kept (c : Ctx) (openKey : Nat) (step : BitVec 64) (s : State) {s0 : State} (h0 : Kept s0 s) :
    Kept s0 (abortDescs c openKey step s) := by
  unfold abortDescs
  repeat' (first | (simp (maxDischargeDepth := 80) only [modCtx_kept, forAll_kept, finishDesc_kept, Kept.self,
                        kept_mk, MemKept.self, implies_true, *]; done) | split | dsimp only)

theorem restoreSync_kept (c : Ctx) (rec : SMap SyncObj) (s : State) {s0 : State} (h0 : Kept s0 s) :
    Kept s0 (restoreSync c rec s) := by
  unfold restoreSync
  simp (maxDischargeDepth := 80) only [modHif_kept, Kept.self, kept_mk, MemKept.self, kept_ite, kept_ite_snd,
      implies_true, *]

theorem mapCells_kept (p : Nat → Bool) (f : Cell → Cell) (s : State) {s0 : State} (h0 : Kept s0 s) :
    Kept s0 (mapCells p f s) := by
  unfold mapCells
  simp (maxDischargeDepth := 80) only [modCell_kept, forAll_kept, Kept.self, kept_mk, MemKept.self, implies_true, *]

theorem countKindle_kept (n cycles level : Nat) (s : State) {s0 : State} (h0 : Kept s0 s) :
    Kept s0 (countKindle n cycles level s) := by
  unfold countKindle
  simp (maxDischargeDepth := 80) only [modPos_kept, Kept.self, kept_mk, MemKept.self, implies_true, *]

theorem countPart_kept (n limit level : Nat) (s : State) {s0 : State} (h0 : Kept s0 s) :
    Kept s0 (countPart n limit level s) := by
  unfold countPart
  simp (maxDischargeDepth := 80) only [freeVal_kept, countKindle_kept, Kept.self, kept_mk, MemKept.self, implies_true,
      *]

theorem countCooling_kept (n : Nat) (s : State) {s0 : State} (h0 : Kept s0 s) :
    Kept s0 (countCooling n s) := by
  unfold countCooling
  repeat' (first | (simp (maxDischargeDepth := 80) only [countPart_kept, Kept.self, kept_mk, MemKept.self,
                        implies_true, *]; done) | split | dsimp only)

theorem restCells_kept (p : Nat → Bool) (f : Cell → Cell) (s : State) {s0 : State} (h0 : Kept s0 s) :
    Kept s0 (restCells p f s) := by
  unfold restCells
  simp (maxDischargeDepth := 80) only [forAll_kept, mapCells_kept, countCooling_kept, Kept.self, kept_mk,
      MemKept.self, implies_true, *]

theorem emitOn_kept (port input : Nat) (p : Packet) (s : State) {s0 : State} (h0 : Kept s0 s) :
    Kept s0 (emitOn port input p s) := by
  unfold emitOn
  simp (maxDischargeDepth := 80) only [modFab_kept, modPort_kept, Kept.self, kept_mk, MemKept.self, implies_true, *]

theorem sendOn_kept (port : Nat) (p : Packet) (s : State) {s0 : State} (h0 : Kept s0 s) :
    Kept s0 (sendOn port p s) := by
  unfold sendOn
  simp (maxDischargeDepth := 80) only [emitOn_kept, Kept.self, kept_mk, MemKept.self, kept_ite, kept_ite_snd,
      implies_true, *]

theorem sendPacket_kept (e : Part) (k dst : Nat) (p : Packet) (s : State) {s0 : State} (h0 : Kept s0 s) :
    Kept s0 (sendPacket e k dst p s) := by
  unfold sendPacket
  repeat' (first | (simp (maxDischargeDepth := 80) only [modFab_kept, sendOn_kept, Kept.self, kept_mk,
                        MemKept.self, implies_true, *]; done) | split | dsimp only)

theorem sendTc0On_kept (msg : Tc0) (port : Nat) (s : State) {s0 : State} (h0 : Kept s0 s) :
    Kept s0 (sendTc0On msg port s) := by
  unfold sendTc0On
  repeat' (first | (simp (maxDischargeDepth := 80) only [modFab_kept, sendOn_kept, Kept.self, kept_mk,
                        MemKept.self, kept_ite, kept_ite_snd, implies_true, *]; done) | split | dsimp only)

theorem sendTc0_kept (ports : List Nat) (msg : Tc0) (s : State) {s0 : State} (h0 : Kept s0 s) :
    Kept s0 (sendTc0 ports msg s) := by
  unfold sendTc0
  simp (maxDischargeDepth := 80) only [forAll_kept, sendTc0On_kept, Kept.self, kept_mk, MemKept.self, implies_true, *]

theorem sendTc0To_kept (e : Part) (dst : Nat) (msg : Tc0) (s : State) {s0 : State} (h0 : Kept s0 s) :
    Kept s0 (sendTc0To e dst msg s) := by
  unfold sendTc0To
  simp (maxDischargeDepth := 80) only [modFab_kept, sendPacket_kept, Kept.self, kept_mk, MemKept.self, kept_ite,
      kept_ite_snd, implies_true, *]

theorem sendTc0Rank_kept (e : Part) (rank : Nat) (msg : Tc0) (s : State) {s0 : State} (h0 : Kept s0 s) :
    Kept s0 (sendTc0Rank e rank msg s) := by
  unfold sendTc0Rank
  simp (maxDischargeDepth := 80) only [sendTc0To_kept, Kept.self, kept_mk, MemKept.self, implies_true, *]

theorem beginPacket_kept (port : Nat) (o : OutPacket) (s : State) {s0 : State} (h0 : Kept s0 s) :
    Kept s0 (beginPacket port o s).2 := by
  unfold beginPacket
  simp (maxDischargeDepth := 80) only [modFab_kept, Kept.self, kept_mk, MemKept.self, kept_ite, kept_ite_snd,
      implies_true, *]

theorem portTick_kept (port : Nat) (s : State) {s0 : State} (h0 : Kept s0 s) :
    Kept s0 (portTick port s) := by
  unfold portTick
  repeat' (first | (simp (maxDischargeDepth := 80) only [modPort_kept, beginPacket_kept, Kept.self, kept_mk,
                        MemKept.self, kept_ite, kept_ite_snd, implies_true, *]; done) | split | dsimp only)

theorem sendLink_kept (port : Nat) (msg : LinkMsg) (s : State) {s0 : State} (h0 : Kept s0 s) :
    Kept s0 (sendLink port msg s) := by
  unfold sendLink
  simp (maxDischargeDepth := 80) only [modFab_kept, modPort_kept, Kept.self, kept_mk, MemKept.self, implies_true, *]

theorem freeBytes_kept (n : Nat) (s : State) {s0 : State} (h0 : Kept s0 s) : Kept s0 (freeBytes n s).2 := by
  induction n generalizing s with
  | zero => exact h0
  | succ n ih => exact ih _ (freeVal_kept s h0)

theorem sendFollower_kept (c : Ctx) (bs : List Byte) (s : State) {s0 : State} (h0 : Kept s0 s) :
    Kept s0 (sendFollower c bs s) := by
  unfold sendFollower
  repeat' (first | (simp (maxDischargeDepth := 80) only [freeVal_kept, sendPacket_kept, Kept.self, kept_mk,
                        MemKept.self, implies_true, *]; done) | split | dsimp only)

theorem sendRecord_kept (c : Ctx) (s : State) {s0 : State} (h0 : Kept s0 s) :
    Kept s0 (sendRecord c s) := by
  unfold sendRecord
  simp (maxDischargeDepth := 80) only [freeBytes_kept, sendFollower_kept, Kept.self, kept_mk, MemKept.self, kept_ite,
      kept_ite_snd, implies_true, *]

theorem modHeld_kept (i : Nat) (f : Held → Held) (s : State) {s0 : State} (h0 : Kept s0 s) :
    Kept s0 (modHeld i f s) := by
  unfold modHeld
  simp (maxDischargeDepth := 80) only [modStep_kept, Kept.self, kept_mk, MemKept.self, implies_true, *]

theorem floodAbort_kept (k : Nat) (arrival : Option Nat) (msg : Tc0) (s : State) {s0 : State} (h0 : Kept s0 s) :
    Kept s0 (floodAbort k arrival msg s) := by
  unfold floodAbort
  simp (maxDischargeDepth := 80) only [modPart_kept, sendTc0_kept, Kept.self, kept_mk, MemKept.self, kept_ite,
      kept_ite_snd, implies_true, *]

theorem dropStreams_kept (c : Ctx) (p : StreamCtx → Bool) (s : State) {s0 : State} (h0 : Kept s0 s) :
    Kept s0 (dropStreams c p s).2 := by
  unfold dropStreams
  simp (maxDischargeDepth := 80) only [modCtx_kept, Kept.self, kept_mk, MemKept.self, implies_true, *]

theorem closeReductions_kept (c : Ctx) (s : State) {s0 : State} (h0 : Kept s0 s) :
    Kept s0 (closeReductions c s) := by
  unfold closeReductions
  simp (maxDischargeDepth := 80) only [modFab_kept, Kept.self, kept_mk, MemKept.self, implies_true, *]

theorem fcheckDone_kept (n : Nat) (o : UnitOp) (s : State) {s0 : State} (h0 : Kept s0 s) :
    Kept s0 (fcheckDone n o s) := by
  unfold fcheckDone
  repeat' (first | (simp (maxDischargeDepth := 80) only [modHeld_kept, Kept.self, kept_mk, MemKept.self,
                        kept_ite, kept_ite_snd, implies_true, *]; done) | split | dsimp only)

theorem settleSignal_kept (n : Nat) (o : UnitOp) (s : State) {s0 : State} (h0 : Kept s0 s) :
    Kept s0 (settleSignal n o s) := by
  unfold settleSignal
  simp (maxDischargeDepth := 80) only [modCell_kept, Kept.self, kept_mk, MemKept.self, kept_ite, kept_ite_snd,
      implies_true, *]

theorem settleWork_kept (n : Nat) (s : State) {s0 : State} (h0 : Kept s0 s) :
    Kept s0 (settleWork n s) := by
  unfold settleWork
  simp (maxDischargeDepth := 80) only [modPos_kept, forAll_kept, fcheckDone_kept, settleSignal_kept, Kept.self,
      kept_mk, MemKept.self, implies_true, *]

theorem stopCells_kept (p : Nat → Bool) (s : State) {s0 : State} (h0 : Kept s0 s) :
    Kept s0 (stopCells p s) := by
  unfold stopCells
  simp (maxDischargeDepth := 80) only [forAll_kept, mapCells_kept, settleWork_kept, Kept.self, kept_mk, MemKept.self,
      implies_true, *]

theorem dropPartials_kept (s : State) {s0 : State} (h0 : Kept s0 s) :
    Kept s0 (dropPartials s) := by
  unfold dropPartials
  simp (maxDischargeDepth := 80) only [modPos_kept, forAll_kept, mapCells_kept, Kept.self, kept_mk, MemKept.self,
      implies_true, *]

theorem abortCells_kept (c : Ctx) (s : State) {s0 : State} (h0 : Kept s0 s) :
    Kept s0 (abortCells c s) := by
  unfold abortCells
  simp (maxDischargeDepth := 80) only [modStep_kept, restCells_kept, stopCells_kept, dropPartials_kept, Kept.self,
      kept_mk, MemKept.self, implies_true, *]

theorem recordWait_kept (h : Held) (s : State) {s0 : State} (h0 : Kept s0 s) :
    Kept s0 (recordWait h s) := by
  unfold recordWait
  simp (maxDischargeDepth := 80) only [modStep_kept, Kept.self, kept_mk, MemKept.self, kept_ite, kept_ite_snd,
      implies_true, *]

theorem haltAt_kept (i : Nat) (status : Nat) (detail : Held → Nat) (s : State) {s0 : State} (h0 : Kept s0 s) :
    Kept s0 (haltAt i status detail s) := by
  unfold haltAt
  repeat' (first | (simp (maxDischargeDepth := 80) only [finishDesc_kept, modHeld_kept, Kept.self, kept_mk,
                        MemKept.self, implies_true, *]; done) | split | dsimp only)

theorem haltLost_kept (i : Nat) (s : State) {s0 : State} (h0 : Kept s0 s) :
    Kept s0 (haltLost i s) := by
  unfold haltLost
  simp (maxDischargeDepth := 80) only [modStep_kept, haltAt_kept, Kept.self, kept_mk, MemKept.self, implies_true, *]

theorem startRound_kept (h : Held) (s : State) {s0 : State} (h0 : Kept s0 s) :
    Kept s0 (startRound h s) := by
  unfold startRound
  simp (maxDischargeDepth := 80) only [modStep_kept, Kept.self, kept_mk, MemKept.self, implies_true, *]

theorem resolveAbort_kept (i : Nat) (cause : BitVec 8) (s : State) {s0 : State} (h0 : Kept s0 s) :
    Kept s0 (resolveAbort i cause s) := by
  unfold resolveAbort
  repeat' (first | (simp (maxDischargeDepth := 80) only [modCtx_kept, modStep_kept, forAll_kept, raise_kept,
                        abortDescs_kept, restoreSync_kept, sendRecord_kept, dropStreams_kept, closeReductions_kept,
                        abortCells_kept, recordWait_kept, haltLost_kept, startRound_kept, Kept.self, kept_mk,
                        MemKept.self, kept_ite, kept_ite_snd, implies_true, *]; done) | split | dsimp only)

theorem resolveLater_kept (i : Nat) (cause : BitVec 8) (s : State) {s0 : State} (h0 : Kept s0 s) :
    Kept s0 (resolveLater i cause s) := by
  unfold resolveLater
  repeat' (first | (simp (maxDischargeDepth := 80) only [resolveAbort_kept, Kept.self, kept_mk, MemKept.self,
                        implies_true, *]; done) | split | dsimp only)

theorem floodOwn_kept (k : Nat) (msg : Tc0) (s : State) {s0 : State} (h0 : Kept s0 s) :
    Kept s0 (floodOwn k msg s) := by
  unfold floodOwn
  simp (maxDischargeDepth := 80) only [modPart_kept, sendTc0_kept, Kept.self, kept_mk, MemKept.self, implies_true, *]

theorem rootAbort_kept (i : Nat) (cause : BitVec 8) (s : State) {s0 : State} (h0 : Kept s0 s) :
    Kept s0 (rootAbort i cause s) := by
  unfold rootAbort
  repeat' (first | (simp (maxDischargeDepth := 80) only [resolveAbort_kept, floodOwn_kept, Kept.self, kept_mk,
                        MemKept.self, implies_true, *]; done) | split | dsimp only)

theorem abortNamed_kept (i : Nat) (cause : BitVec 8) (s : State) {s0 : State} (h0 : Kept s0 s) :
    Kept s0 (abortNamed i cause s) := by
  unfold abortNamed
  repeat' (first | (simp (maxDischargeDepth := 80) only [modHeld_kept, resolveAbort_kept, resolveLater_kept,
                        rootAbort_kept, Kept.self, kept_mk, MemKept.self, kept_ite, kept_ite_snd, implies_true, *];
                        done) | split | dsimp only)

theorem injectAbort_kept (i : Nat) (cause : BitVec 8) (s : State) {s0 : State} (h0 : Kept s0 s) :
    Kept s0 (injectAbort i cause s) := by
  unfold injectAbort
  repeat' (first | (simp (maxDischargeDepth := 80) only [modStep_kept, floodAbort_kept, abortNamed_kept,
                        Kept.self, kept_mk, MemKept.self, implies_true, *]; done) | split | dsimp only)

theorem chargeCause_kept (cause : BitVec 8) (s : State) {s0 : State} (h0 : Kept s0 s) :
    Kept s0 (chargeCause cause s) := by
  unfold chargeCause
  repeat' (first | (simp (maxDischargeDepth := 80) only [modStep_kept, injectAbort_kept, Kept.self, kept_mk,
                        MemKept.self, implies_true, *]; done) | split | dsimp only)

theorem clearCheck_kept (s : State) {s0 : State} (h0 : Kept s0 s) :
    Kept s0 (clearCheck s) := by
  unfold clearCheck
  repeat' (first | (simp (maxDischargeDepth := 80) only [modHeld_kept, chargeCause_kept, Kept.self, kept_mk,
                        MemKept.self, implies_true, *]; done) | split | dsimp only)

end Sys2Proof.Machine
end

