-- ==== Sys2Proof/Laws/KeptCells.lean ====
section
/-! SUPPORT. What every operation keeps (`Kept`): the tile sequencer, the vector operations and the events of a cell. -/

set_option linter.all false

namespace Sys2Proof.Machine

theorem countCorrectedCell_kept (n k : Nat) (s : State) {s0 : State} (h0 : Kept s0 s) :
    Kept s0 (countCorrectedCell n k s) := by
  unfold countCorrectedCell
  simp (maxDischargeDepth := 80) only [modPos_kept, Kept.self, kept_mk, MemKept.self, implies_true, *]

theorem storageError_kept (n : Nat) (e : ReadErr) (s : State) {s0 : State} (h0 : Kept s0 s) :
    Kept s0 (storageError n e s) := by
  unfold storageError
  simp (maxDischargeDepth := 80) only [clearCheck_kept, countCorrectedCell_kept, Kept.self, kept_mk, MemKept.self,
      kept_ite, kept_ite_snd, implies_true, *]

theorem seqFault_kept (n code slot : Nat) (s : State) {s0 : State} (h0 : Kept s0 s) :
    Kept s0 (seqFault n code slot s) := by
  unfold seqFault
  repeat' (first | (simp (maxDischargeDepth := 80) only [modCell_kept, modPos_kept, raise_kept, completeKey_kept,
                        chargeCause_kept, clearCheck_kept, Kept.self, kept_mk, MemKept.self, kept_ite, kept_ite_snd,
                        implies_true, *]; done) | split | dsimp only)

theorem signalSem_kept (n k : Nat) (s : State) {s0 : State} (h0 : Kept s0 s) :
    Kept s0 (signalSem n k s) := by
  unfold signalSem
  simp (maxDischargeDepth := 80) only [modCell_kept, seqFault_kept, Kept.self, kept_mk, MemKept.self, kept_ite,
      kept_ite_snd, implies_true, *]

theorem signalDone_kept (n : Nat) (w : BitVec 64) (s : State) {s0 : State} (h0 : Kept s0 s) :
    Kept s0 (signalDone n w s) := by
  unfold signalDone
  simp (maxDischargeDepth := 80) only [signalSem_kept, Kept.self, kept_mk, MemKept.self, kept_ite, kept_ite_snd,
      implies_true, *]

theorem accWrite_kept (n : Nat) (b : Bool) (rows : List (List (BitVec 32))) (s : State) {s0 : State} (h0 : Kept s0 s) :
    Kept s0 (accWrite n b rows s) := by
  unfold accWrite
  simp (maxDischargeDepth := 80) only [Kept.self, kept_mk, MemKept.self, memKept_writeRun, implies_true, *]

theorem passMN_kept (i : PassInfo) (o : UnitOp) (n : Nat) (s : State) {s0 : State} (h0 : Kept s0 s) :
    Kept s0 (passMN i o n s) := by
  unfold passMN
  simp (maxDischargeDepth := 80) only [forAll_kept, accWrite_kept, Kept.self, kept_mk, MemKept.self, implies_true, *]

theorem passKN_kept (i : PassInfo) (o : UnitOp) (n : Nat) (s : State) {s0 : State} (h0 : Kept s0 s) :
    Kept s0 (passKN i o n s) := by
  unfold passKN
  simp (maxDischargeDepth := 80) only [forAll_kept, accWrite_kept, Kept.self, kept_mk, MemKept.self, implies_true, *]

theorem passSeg_kept (i : PassInfo) (o : UnitOp) (n : Nat) (s : State) {s0 : State} (h0 : Kept s0 s) :
    Kept s0 (passSeg i o n s) := by
  unfold passSeg
  simp (maxDischargeDepth := 80) only [forAll_kept, accWrite_kept, Kept.self, kept_mk, MemKept.self, implies_true, *]

theorem startPass_kept (n : Nat) (i : PassInfo) (o : UnitOp) (s : State) {s0 : State} (h0 : Kept s0 s) :
    Kept s0 (startPass n i o s) := by
  unfold startPass
  simp (maxDischargeDepth := 80) only [modCell_kept, forAll_kept, storageError_kept, passMN_kept, passKN_kept,
      passSeg_kept, Kept.self, kept_mk, MemKept.self, kept_ite, kept_ite_snd, implies_true, *]

theorem endKindling_kept (n gap : Nat) (s : State) {s0 : State} (h0 : Kept s0 s) :
    Kept s0 (endKindling n gap s) := by
  unfold endKindling
  simp (maxDischargeDepth := 80) only [modCell_kept, countKindle_kept, Kept.self, kept_mk, MemKept.self, kept_ite,
      kept_ite_snd, implies_true, *]

theorem countTurn_kept (n gap : Nat) (s : State) {s0 : State} (h0 : Kept s0 s) :
    Kept s0 (countTurn n gap s) := by
  unfold countTurn
  simp (maxDischargeDepth := 80) only [countKindle_kept, Kept.self, kept_mk, MemKept.self, kept_ite, kept_ite_snd,
      implies_true, *]

theorem tryStartM_kept (n place : Nat) (s : State) {s0 : State} (h0 : Kept s0 s) :
    Kept s0 (tryStartM n place s) := by
  unfold tryStartM
  repeat' (first | (simp (maxDischargeDepth := 80) only [modCell_kept, seqFault_kept, startPass_kept,
                        endKindling_kept, countTurn_kept, Kept.self, kept_mk, MemKept.self, kept_ite, kept_ite_snd,
                        implies_true, *]; done) | split | dsimp only)

theorem startM_kept (n : Nat) (s : State) {s0 : State} (h0 : Kept s0 s) :
    Kept s0 (startM n s) := by
  unfold startM
  simp (maxDischargeDepth := 80) only [tryStartM_kept, Kept.self, kept_mk, MemKept.self, implies_true, *]

theorem observeSlot_kept (n slot : Nat) (f : Fmt) (seen : List Seen) (s : State) {s0 : State} (h0 : Kept s0 s) :
    Kept s0 (observeSlot n slot f seen s) := by
  unfold observeSlot
  simp (maxDischargeDepth := 80) only [modCell_kept, Kept.self, kept_mk, MemKept.self, kept_ite, kept_ite_snd,
      implies_true, *]

theorem runDrain_kept (n : Nat) (o : UnitOp) (s : State) {s0 : State} (h0 : Kept s0 s) :
    Kept s0 (runDrain n o s) := by
  unfold runDrain
  simp (maxDischargeDepth := 80) only [storageError_kept, observeSlot_kept, Kept.self, kept_mk, MemKept.self,
      memKept_nil, memKept_ite, memKept_spWrite, kept_ite, kept_ite_snd, implies_true, *]

theorem writeRows_kept (n : Nat) (o : UnitOp) (rows : List (List (BitVec 32))) (s : State) {s0 : State} (h0 : Kept s0 s)
    :
    Kept s0 (writeRows n o rows s) := by
  unfold writeRows
  simp (maxDischargeDepth := 80) only [observeSlot_kept, Kept.self, kept_mk, MemKept.self, memKept_nil, memKept_ite,
      memKept_spWrite, kept_ite, kept_ite_snd, implies_true, *]

theorem runTopK_kept (n : Nat) (o : UnitOp) (k : Nat) (rows : List (List (BitVec 32))) (s : State) {s0 : State} (h0 :
    Kept s0 s) :
    Kept s0 (runTopK n o k rows s) := by
  unfold runTopK
  simp (maxDischargeDepth := 80) only [observeSlot_kept, Kept.self, kept_mk, MemKept.self, memKept_nil, memKept_ite,
      memKept_spWrite, kept_ite, kept_ite_snd, implies_true, *]

theorem runStclose_kept (n : Nat) (o : UnitOp) (s : State) {s0 : State} (h0 : Kept s0 s) :
    Kept s0 (runStclose n o s) := by
  unfold runStclose
  simp (maxDischargeDepth := 80) only [modCell_kept, modPos_kept, Kept.self, kept_mk, MemKept.self, implies_true, *]

theorem runVop_kept (n : Nat) (o : UnitOp) (s : State) {s0 : State} (h0 : Kept s0 s) :
    Kept s0 (runVop n o s) := by
  unfold runVop
  repeat' (first | (simp (maxDischargeDepth := 80) only [observeSlot_kept, writeRows_kept, runTopK_kept,
                        runStclose_kept, Kept.self, kept_mk, MemKept.self, memKept_nil, memKept_ite, memKept_spWrite,
                        kept_ite, kept_ite_snd, implies_true, *]; done) | split | dsimp only)

theorem startD_kept (n : Nat) (s : State) {s0 : State} (h0 : Kept s0 s) :
    Kept s0 (startD n s) := by
  unfold startD
  repeat' (first | (simp (maxDischargeDepth := 80) only [modCell_kept, storageError_kept, runDrain_kept,
                        runVop_kept, Kept.self, kept_mk, MemKept.self, kept_ite, kept_ite_snd, implies_true, *]; done) | split | dsimp only)

theorem startI_kept (n : Nat) (s : State) {s0 : State} (h0 : Kept s0 s) :
    Kept s0 (startI n s) := by
  unfold startI
  repeat' (first | (simp (maxDischargeDepth := 80) only [modCell_kept, Kept.self, kept_mk, MemKept.self,
                        memKept_nil, memKept_ite, memKept_spWrite, memKept_spWriteUnits, implies_true, *]; done) | split | dsimp only)

theorem startO_kept (n : Nat) (s : State) {s0 : State} (h0 : Kept s0 s) :
    Kept s0 (startO n s) := by
  unfold startO
  repeat' (first | (simp (maxDischargeDepth := 80) only [modCell_kept, modPos_kept, storageError_kept, Kept.self,
                        kept_mk, MemKept.self, kept_ite, kept_ite_snd, implies_true, *]; done) | split | dsimp only)

theorem advancePc_kept (n pc : Nat) (s : State) {s0 : State} (h0 : Kept s0 s) :
    Kept s0 (advancePc n pc s) := by
  unfold advancePc
  repeat' (first | (simp (maxDischargeDepth := 80) only [modCell_kept, seqFault_kept, Kept.self, kept_mk,
                        MemKept.self, kept_ite, kept_ite_snd, implies_true, *]; done) | split | dsimp only)

theorem takeWait_kept (n : Nat) (w : BitVec 64) (s : State) {s0 : State} (h0 : Kept s0 s) :
    Kept s0 (takeWait n w s) := by
  unfold takeWait
  simp (maxDischargeDepth := 80) only [modCell_kept, Kept.self, kept_mk, MemKept.self, kept_ite, kept_ite_snd,
      implies_true, *]

theorem seqRow_kept (n : Nat) (fetch : ReadErr) (mine : BitVec 64 → Bool) (ready : State → BitVec 64 → Bool)
    (act : Run → BitVec 64 → State → State → State) (s : State) {s0 : State} (h0 : Kept s0 s)
    (hf : ∀ r w u t, Kept s0 u → Kept s0 t → Kept s0 (act r w u t)) :
    Kept s0 (seqRow n fetch mine ready act s) := by
  unfold seqRow
  have h1 := countCorrectedCell_kept n fetch.corrected s h0
  have h2 := fun w => takeWait_kept n w _ h1
  repeat' (first | (simp (maxDischargeDepth := 80) only [seqFault_kept, Kept.self, implies_true, *]; done) | split | dsimp only)

theorem seqSimple_kept (n op : Nat) (fetch : ReadErr) (f : Run → BitVec 64 → Run) (s : State) {s0 : State}
    (h0 : Kept s0 s) : Kept s0 (seqSimple n op fetch f s) := by
  unfold seqSimple
  refine seqRow_kept _ _ _ _ _ _ h0 fun r w u t _ ht => ?_
  simp (maxDischargeDepth := 80) only [modCell_kept, advancePc_kept, signalDone_kept, Kept.self, implies_true, *]

theorem unitRow_kept (n : Nat) (fetch : ReadErr) (mine : BitVec 64 → Bool) (room : Cell → Bool)
    (bad : State → BitVec 64 → Option Nat) (put : Run → BitVec 64 → Cell → Cell) (start : State → State) (s : State)
    {s0 : State} (h0 : Kept s0 s) (hf : ∀ t, Kept t (start t)) :
    Kept s0 (unitRow n fetch mine room bad put start s) := by
  unfold unitRow
  refine seqRow_kept _ _ _ _ _ _ h0 fun r w u t hu ht => ?_
  split
  · exact seqFault_kept _ _ _ _ hu
  · exact Kept.trans (advancePc_kept _ _ _ (modCell_kept _ _ _ ht)) (hf _)

theorem execNop_kept (i : Issue) (s : State) {s0 : State} (h0 : Kept s0 s) :
    OutKept s0 (execNop i s) := by
  unfold execNop
  simp (maxDischargeDepth := 80) only [seqSimple_kept, Kept.self, kept_mk, MemKept.self, outKept_next, implies_true,
      *]

theorem execProg_kept (i : Issue) (s : State) {s0 : State} (h0 : Kept s0 s) :
    OutKept s0 (execProg i s) := by
  unfold execProg
  simp (maxDischargeDepth := 80) only [seqSimple_kept, Kept.self, kept_mk, MemKept.self, kept_ite, kept_ite_snd,
      outKept_next, outKept_ite, implies_true, *]

theorem tileCellDone_kept (r : Run) (n : Nat) (s : State) {s0 : State} (h0 : Kept s0 s) :
    Kept s0 (tileCellDone r n s) := by
  unfold tileCellDone
  repeat' (first | (simp (maxDischargeDepth := 80) only [modCtx_kept, completeKey_kept, Kept.self, kept_mk,
                        MemKept.self, kept_ite, kept_ite_snd, implies_true, *]; done) | split | dsimp only)

theorem execEndBody_kept (i : Issue) (s : State) {s0 : State} (h0 : Kept s0 s) :
    OutKept s0 (execEndBody i s) := by
  unfold execEndBody
  refine outKept_next (seqRow_kept _ _ _ _ _ _ h0 fun r w u t hu ht => ?_)
  repeat' (first | (simp (maxDischargeDepth := 80) only [modCell_kept, signalDone_kept, tileCellDone_kept,
                        Kept.self, kept_mk, MemKept.self, outKept_next, implies_true, *]; done) | split | dsimp only)

theorem execSeta_kept (i : Issue) (s : State) {s0 : State} (h0 : Kept s0 s) :
    OutKept s0 (execSeta i s) := by
  unfold execSeta
  simp (maxDischargeDepth := 80) only [seqSimple_kept, Kept.self, kept_mk, MemKept.self, outKept_next, implies_true,
      *]

theorem execAdda_kept (i : Issue) (s : State) {s0 : State} (h0 : Kept s0 s) :
    OutKept s0 (execAdda i s) := by
  unfold execAdda
  simp (maxDischargeDepth := 80) only [seqSimple_kept, Kept.self, kept_mk, MemKept.self, outKept_next, implies_true,
      *]

theorem execLoop_kept (i : Issue) (s : State) {s0 : State} (h0 : Kept s0 s) :
    OutKept s0 (execLoop i s) := by
  unfold execLoop
  refine outKept_next (seqRow_kept _ _ _ _ _ _ h0 fun r w u t hu ht => ?_)
  repeat' (first | (simp (maxDischargeDepth := 80) only [modCell_kept, seqFault_kept, signalDone_kept,
                        advancePc_kept, Kept.self, kept_mk, MemKept.self, kept_ite, kept_ite_snd, outKept_next,
                        outKept_ite, implies_true, *]; done) | split | dsimp only)

theorem execEndl_kept (i : Issue) (s : State) {s0 : State} (h0 : Kept s0 s) :
    OutKept s0 (execEndl i s) := by
  unfold execEndl
  refine outKept_next (seqRow_kept _ _ _ _ _ _ h0 fun r w u t hu ht => ?_)
  repeat' (first | (simp (maxDischargeDepth := 80) only [modCell_kept, seqFault_kept, signalDone_kept,
                        advancePc_kept, Kept.self, kept_mk, MemKept.self, kept_ite, kept_ite_snd, outKept_next,
                        outKept_ite, implies_true, *]; done) | split | dsimp only)

theorem execWaits_kept (i : Issue) (s : State) {s0 : State} (h0 : Kept s0 s) :
    OutKept s0 (execWaits i s) := by
  unfold execWaits
  refine outKept_next (seqRow_kept _ _ _ _ _ _ h0 fun r w u t hu ht => ?_)
  repeat' (first | (simp (maxDischargeDepth := 80) only [modCell_kept, seqFault_kept, signalDone_kept,
                        advancePc_kept, Kept.self, kept_mk, MemKept.self, kept_ite, kept_ite_snd, outKept_next,
                        outKept_ite, implies_true, *]; done) | split | dsimp only)

theorem execMm_kept (i : Issue) (err : ReadErr) (gap : Nat) (s : State) {s0 : State} (h0 : Kept s0 s) :
    OutKept s0 (execMm i err gap s) := by
  unfold execMm
  simp (maxDischargeDepth := 80) only [startM_kept, unitRow_kept, Kept.self, kept_mk, MemKept.self, outKept_next,
      implies_true, *]

theorem execDrain_kept (i : Issue) (err : ReadErr) (s : State) {s0 : State} (h0 : Kept s0 s) :
    OutKept s0 (execDrain i err s) := by
  unfold execDrain
  simp (maxDischargeDepth := 80) only [startD_kept, unitRow_kept, Kept.self, kept_mk, MemKept.self, outKept_next,
      implies_true, *]

theorem execSin_kept (i : Issue) (s : State) {s0 : State} (h0 : Kept s0 s) :
    OutKept s0 (execSin i s) := by
  unfold execSin
  simp (maxDischargeDepth := 80) only [startI_kept, unitRow_kept, Kept.self, kept_mk, MemKept.self, outKept_next,
      implies_true, *]

theorem execSout_kept (i : Issue) (err : ReadErr) (s : State) {s0 : State} (h0 : Kept s0 s) :
    OutKept s0 (execSout i err s) := by
  unfold execSout
  simp (maxDischargeDepth := 80) only [startO_kept, unitRow_kept, Kept.self, kept_mk, MemKept.self, outKept_next,
      implies_true, *]

theorem vopRow_kept (i : VopIssue) (v : Nat) (s : State) {s0 : State} (h0 : Kept s0 s) :
    Kept s0 (vopRow i v s) := by
  unfold vopRow
  simp (maxDischargeDepth := 80) only [startD_kept, unitRow_kept, Kept.self, kept_mk, MemKept.self, kept_ite,
      kept_ite_snd, implies_true, *]

theorem execReservedOpcode_kept (i : Issue) (s : State) {s0 : State} (h0 : Kept s0 s) :
    OutKept s0 (execReservedOpcode i s) := by
  unfold execReservedOpcode
  refine outKept_next (seqRow_kept _ _ _ _ _ _ h0 fun r w u t hu ht => ?_)
  repeat' (first | (simp (maxDischargeDepth := 80) only [seqFault_kept, Kept.self, kept_mk, MemKept.self,
                        outKept_next, implies_true, *]; done) | split | dsimp only)

theorem fillBank_kept (b : Bool) (n : Nat) (s : State) {s0 : State} (h0 : Kept s0 s) :
    Kept s0 (fillBank b n s) := by
  unfold fillBank
  simp (maxDischargeDepth := 80) only [modCell_kept, Kept.self, kept_mk, MemKept.self, kept_ite, kept_ite_snd,
      implies_true, *]

theorem fillBanks_kept (n : Nat) (b : Bool) (s : State) {s0 : State} (h0 : Kept s0 s) :
    Kept s0 (fillBanks n b s) := by
  unfold fillBanks
  simp (maxDischargeDepth := 80) only [forAll_kept, fillBank_kept, Kept.self, kept_mk, MemKept.self, implies_true, *]

theorem execMmComplete_kept (c : CellId) (stalls : Nat) (s : State) {s0 : State} (h0 : Kept s0 s) :
    OutKept s0 (execMmComplete c stalls s) := by
  unfold execMmComplete
  repeat' (first | (simp (maxDischargeDepth := 80) only [modCell_kept, modPos_kept, signalDone_kept, startM_kept,
                        fillBanks_kept, Kept.self, kept_mk, MemKept.self, kept_ite, kept_ite_snd, outKept_next,
                        outKept_ite, implies_true, *]; done) | split | dsimp only)

theorem execDrainComplete_kept (c : CellId) (s : State) {s0 : State} (h0 : Kept s0 s) :
    OutKept s0 (execDrainComplete c s) := by
  unfold execDrainComplete
  repeat' (first | (simp (maxDischargeDepth := 80) only [modCell_kept, signalDone_kept, startM_kept, startD_kept,
                        Kept.self, kept_mk, MemKept.self, kept_ite, kept_ite_snd, outKept_next, outKept_ite,
                        implies_true, *]; done) | split | dsimp only)

theorem execVopComplete_kept (c : CellId) (s : State) {s0 : State} (h0 : Kept s0 s) :
    OutKept s0 (execVopComplete c s) := by
  unfold execVopComplete
  repeat' (first | (simp (maxDischargeDepth := 80) only [modCell_kept, fcheckDone_kept, signalDone_kept,
                        startD_kept, Kept.self, kept_mk, MemKept.self, kept_ite, kept_ite_snd, outKept_next,
                        outKept_ite, implies_true, *]; done) | split | dsimp only)

theorem execSinComplete_kept (c : CellId) (s : State) {s0 : State} (h0 : Kept s0 s) :
    OutKept s0 (execSinComplete c s) := by
  unfold execSinComplete
  repeat' (first | (simp (maxDischargeDepth := 80) only [modCell_kept, signalDone_kept, startI_kept, Kept.self,
                        kept_mk, MemKept.self, kept_ite, kept_ite_snd, outKept_next, outKept_ite, implies_true, *];
                        done) | split | dsimp only)

theorem execSoutComplete_kept (c : CellId) (s : State) {s0 : State} (h0 : Kept s0 s) :
    OutKept s0 (execSoutComplete c s) := by
  unfold execSoutComplete
  repeat' (first | (simp (maxDischargeDepth := 80) only [modCell_kept, signalDone_kept, startO_kept, Kept.self,
                        kept_mk, MemKept.self, kept_ite, kept_ite_snd, outKept_next, outKept_ite, implies_true, *];
                        done) | split | dsimp only)

theorem execSorgSignalArrive_kept (c : CellId) (s : State) {s0 : State} (h0 : Kept s0 s) :
    OutKept s0 (execSorgSignalArrive c s) := by
  unfold execSorgSignalArrive
  repeat' (first | (simp (maxDischargeDepth := 80) only [signalSem_kept, Kept.self, kept_mk, MemKept.self,
                        kept_ite, kept_ite_snd, outKept_next, outKept_ite, implies_true, *]; done) | split | dsimp only)

theorem execDrainBankFullStart_kept (c : CellId) (s : State) {s0 : State} (h0 : Kept s0 s) :
    OutKept s0 (execDrainBankFullStart c s) := by
  unfold execDrainBankFullStart
  simp (maxDischargeDepth := 80) only [startD_kept, fillBank_kept, Kept.self, kept_mk, MemKept.self, kept_ite,
      kept_ite_snd, outKept_next, outKept_ite, implies_true, *]

theorem execKnPartialLeft_kept (r : CellRead) (s : State) {s0 : State} (h0 : Kept s0 s) :
    OutKept s0 (execKnPartialLeft r s) := by
  unfold execKnPartialLeft
  repeat' (first | (simp (maxDischargeDepth := 80) only [modCell_kept, storageError_kept, seqFault_kept,
                        Kept.self, kept_mk, MemKept.self, kept_ite, kept_ite_snd, outKept_next, outKept_ite,
                        implies_true, *]; done) | split | dsimp only)

theorem dropTile_kept (t : TileWait) (n status : Nat) (s : State) {s0 : State} (h0 : Kept s0 s) :
    Kept s0 (dropTile t n status s) := by
  unfold dropTile
  simp (maxDischargeDepth := 80) only [completeKey_kept, mapCells_kept, Kept.self, kept_mk, MemKept.self,
      implies_true, *]

theorem startBody_kept (n : Nat) (t : TileWait) (err : ReadErr) (s : State) {s0 : State} (h0 : Kept s0 s) :
    Kept s0 (startBody n t err s) := by
  unfold startBody
  repeat' (first | (simp (maxDischargeDepth := 80) only [modCell_kept, countCorrectedCell_kept, seqFault_kept,
                        Kept.self, kept_mk, MemKept.self, kept_ite, kept_ite_snd, implies_true, *]; done) | split | dsimp only)

theorem execBodyStart_kept (c : CellId) (err : ReadErr) (s : State) {s0 : State} (h0 : Kept s0 s) :
    OutKept s0 (execBodyStart c err s) := by
  unfold execBodyStart
  repeat' (first | (simp (maxDischargeDepth := 80) only [raise_kept, dropTile_kept, startBody_kept, Kept.self,
                        kept_mk, MemKept.self, kept_ite, kept_ite_snd, outKept_next, outKept_ite, implies_true, *];
                        done) | split | dsimp only)

theorem execEpochStall_kept (c : CellId) (s : State) {s0 : State} (h0 : Kept s0 s) :
    OutKept s0 (execEpochStall c s) := by
  unfold execEpochStall
  repeat' (first | (simp (maxDischargeDepth := 80) only [advanceTo_kept, raise_kept, dropTile_kept, Kept.self,
                        kept_mk, MemKept.self, kept_ite, kept_ite_snd, outKept_next, outKept_ite, implies_true, *];
                        done) | split | dsimp only)

theorem portArrive_kept (n : Nat) (sctx : BitVec 17) (unit : List Byte) (s : State) {s0 : State} (h0 : Kept s0 s) :
    OptKept s0 (portArrive n sctx unit s) := by
  unfold portArrive
  simp (maxDischargeDepth := 80) only [modCell_kept, startI_kept, Kept.self, kept_mk, MemKept.self, optKept_none,
      optKept_some, optKept_ite, optKept_map, optKept_or, optKept_bind, implies_true, *]

theorem execStreamUnitArrive_kept (c : CellId) (sctx : BitVec 17) (unit : List Byte) (s : State) {s0 : State} (h0 : Kept
    s0 s) :
    OutKept s0 (execStreamUnitArrive c sctx unit s) := by
  unfold execStreamUnitArrive
  simp (maxDischargeDepth := 80) only [portArrive_kept, Kept.self, kept_mk, MemKept.self, kept_ite, kept_ite_snd,
      outKept_next, outKept_ite, optKept_getD, implies_true, *]

theorem execKindleStart_kept (c : CellId) (s : State) {s0 : State} (h0 : Kept s0 s) :
    OutKept s0 (execKindleStart c s) := by
  unfold execKindleStart
  simp (maxDischargeDepth := 80) only [modCell_kept, Kept.self, kept_mk, MemKept.self, kept_ite, kept_ite_snd,
      outKept_next, outKept_ite, implies_true, *]

theorem execKindleGapExpiry_kept (c : CellId) (s : State) {s0 : State} (h0 : Kept s0 s) :
    OutKept s0 (execKindleGapExpiry c s) := by
  unfold execKindleGapExpiry
  simp (maxDischargeDepth := 80) only [modCell_kept, countKindle_kept, Kept.self, kept_mk, MemKept.self, kept_ite,
      kept_ite_snd, outKept_next, outKept_ite, implies_true, *]

theorem execKindleRampStep_kept (c : CellId) (s : State) {s0 : State} (h0 : Kept s0 s) :
    OutKept s0 (execKindleRampStep c s) := by
  unfold execKindleRampStep
  repeat' (first | (simp (maxDischargeDepth := 80) only [modCell_kept, countKindle_kept, startM_kept, Kept.self,
                        kept_mk, MemKept.self, kept_ite, kept_ite_snd, outKept_next, outKept_ite, implies_true, *];
                        done) | split | dsimp only)

theorem execCvt_kept (i : VopIssue) (s : State) {s0 : State} (h0 : Kept s0 s) :
    OutKept s0 (execCvt i s) := by
  unfold execCvt
  simp (maxDischargeDepth := 80) only [vopRow_kept, Kept.self, kept_mk, MemKept.self, outKept_next, implies_true, *]

theorem execAdd_kept (i : VopIssue) (s : State) {s0 : State} (h0 : Kept s0 s) :
    OutKept s0 (execAdd i s) := by
  unfold execAdd
  simp (maxDischargeDepth := 80) only [vopRow_kept, Kept.self, kept_mk, MemKept.self, outKept_next, implies_true, *]

theorem execSub_kept (i : VopIssue) (s : State) {s0 : State} (h0 : Kept s0 s) :
    OutKept s0 (execSub i s) := by
  unfold execSub
  simp (maxDischargeDepth := 80) only [vopRow_kept, Kept.self, kept_mk, MemKept.self, outKept_next, implies_true, *]

theorem execMul_kept (i : VopIssue) (s : State) {s0 : State} (h0 : Kept s0 s) :
    OutKept s0 (execMul i s) := by
  unfold execMul
  simp (maxDischargeDepth := 80) only [vopRow_kept, Kept.self, kept_mk, MemKept.self, outKept_next, implies_true, *]

theorem execDiv_kept (i : VopIssue) (s : State) {s0 : State} (h0 : Kept s0 s) :
    OutKept s0 (execDiv i s) := by
  unfold execDiv
  simp (maxDischargeDepth := 80) only [vopRow_kept, Kept.self, kept_mk, MemKept.self, outKept_next, implies_true, *]

theorem execMax_kept (i : VopIssue) (s : State) {s0 : State} (h0 : Kept s0 s) :
    OutKept s0 (execMax i s) := by
  unfold execMax
  simp (maxDischargeDepth := 80) only [vopRow_kept, Kept.self, kept_mk, MemKept.self, outKept_next, implies_true, *]

theorem execMin_kept (i : VopIssue) (s : State) {s0 : State} (h0 : Kept s0 s) :
    OutKept s0 (execMin i s) := by
  unfold execMin
  simp (maxDischargeDepth := 80) only [vopRow_kept, Kept.self, kept_mk, MemKept.self, outKept_next, implies_true, *]

theorem execAbs_kept (i : VopIssue) (s : State) {s0 : State} (h0 : Kept s0 s) :
    OutKept s0 (execAbs i s) := by
  unfold execAbs
  simp (maxDischargeDepth := 80) only [vopRow_kept, Kept.self, kept_mk, MemKept.self, outKept_next, implies_true, *]

theorem execNeg_kept (i : VopIssue) (s : State) {s0 : State} (h0 : Kept s0 s) :
    OutKept s0 (execNeg i s) := by
  unfold execNeg
  simp (maxDischargeDepth := 80) only [vopRow_kept, Kept.self, kept_mk, MemKept.self, outKept_next, implies_true, *]

theorem execSqrt_kept (i : VopIssue) (s : State) {s0 : State} (h0 : Kept s0 s) :
    OutKept s0 (execSqrt i s) := by
  unfold execSqrt
  simp (maxDischargeDepth := 80) only [vopRow_kept, Kept.self, kept_mk, MemKept.self, outKept_next, implies_true, *]

theorem execRsqrt_kept (i : VopIssue) (s : State) {s0 : State} (h0 : Kept s0 s) :
    OutKept s0 (execRsqrt i s) := by
  unfold execRsqrt
  simp (maxDischargeDepth := 80) only [vopRow_kept, Kept.self, kept_mk, MemKept.self, outKept_next, implies_true, *]

theorem execRecip_kept (i : VopIssue) (s : State) {s0 : State} (h0 : Kept s0 s) :
    OutKept s0 (execRecip i s) := by
  unfold execRecip
  simp (maxDischargeDepth := 80) only [vopRow_kept, Kept.self, kept_mk, MemKept.self, outKept_next, implies_true, *]

theorem execExp_kept (i : VopIssue) (s : State) {s0 : State} (h0 : Kept s0 s) :
    OutKept s0 (execExp i s) := by
  unfold execExp
  simp (maxDischargeDepth := 80) only [vopRow_kept, Kept.self, kept_mk, MemKept.self, outKept_next, implies_true, *]

theorem execLog_kept (i : VopIssue) (s : State) {s0 : State} (h0 : Kept s0 s) :
    OutKept s0 (execLog i s) := by
  unfold execLog
  simp (maxDischargeDepth := 80) only [vopRow_kept, Kept.self, kept_mk, MemKept.self, outKept_next, implies_true, *]

theorem execCmplt_kept (i : VopIssue) (s : State) {s0 : State} (h0 : Kept s0 s) :
    OutKept s0 (execCmplt i s) := by
  unfold execCmplt
  simp (maxDischargeDepth := 80) only [vopRow_kept, Kept.self, kept_mk, MemKept.self, outKept_next, implies_true, *]

theorem execCmple_kept (i : VopIssue) (s : State) {s0 : State} (h0 : Kept s0 s) :
    OutKept s0 (execCmple i s) := by
  unfold execCmple
  simp (maxDischargeDepth := 80) only [vopRow_kept, Kept.self, kept_mk, MemKept.self, outKept_next, implies_true, *]

theorem execCmpeq_kept (i : VopIssue) (s : State) {s0 : State} (h0 : Kept s0 s) :
    OutKept s0 (execCmpeq i s) := by
  unfold execCmpeq
  simp (maxDischargeDepth := 80) only [vopRow_kept, Kept.self, kept_mk, MemKept.self, outKept_next, implies_true, *]

theorem execMulrow_kept (i : VopIssue) (s : State) {s0 : State} (h0 : Kept s0 s) :
    OutKept s0 (execMulrow i s) := by
  unfold execMulrow
  simp (maxDischargeDepth := 80) only [vopRow_kept, Kept.self, kept_mk, MemKept.self, outKept_next, implies_true, *]

theorem execAddrow_kept (i : VopIssue) (s : State) {s0 : State} (h0 : Kept s0 s) :
    OutKept s0 (execAddrow i s) := by
  unfold execAddrow
  simp (maxDischargeDepth := 80) only [vopRow_kept, Kept.self, kept_mk, MemKept.self, outKept_next, implies_true, *]

theorem execPack4_kept (i : VopIssue) (s : State) {s0 : State} (h0 : Kept s0 s) :
    OutKept s0 (execPack4 i s) := by
  unfold execPack4
  simp (maxDischargeDepth := 80) only [vopRow_kept, Kept.self, kept_mk, MemKept.self, outKept_next, implies_true, *]

theorem execRsumd_kept (i : VopIssue) (s : State) {s0 : State} (h0 : Kept s0 s) :
    OutKept s0 (execRsumd i s) := by
  unfold execRsumd
  simp (maxDischargeDepth := 80) only [vopRow_kept, Kept.self, kept_mk, MemKept.self, outKept_next, implies_true, *]

theorem execRsuma_kept (i : VopIssue) (s : State) {s0 : State} (h0 : Kept s0 s) :
    OutKept s0 (execRsuma i s) := by
  unfold execRsuma
  simp (maxDischargeDepth := 80) only [vopRow_kept, Kept.self, kept_mk, MemKept.self, outKept_next, implies_true, *]

theorem execRssqd_kept (i : VopIssue) (s : State) {s0 : State} (h0 : Kept s0 s) :
    OutKept s0 (execRssqd i s) := by
  unfold execRssqd
  simp (maxDischargeDepth := 80) only [vopRow_kept, Kept.self, kept_mk, MemKept.self, outKept_next, implies_true, *]

theorem execRssqa_kept (i : VopIssue) (s : State) {s0 : State} (h0 : Kept s0 s) :
    OutKept s0 (execRssqa i s) := by
  unfold execRssqa
  simp (maxDischargeDepth := 80) only [vopRow_kept, Kept.self, kept_mk, MemKept.self, outKept_next, implies_true, *]

theorem execRmvd_kept (i : VopIssue) (s : State) {s0 : State} (h0 : Kept s0 s) :
    OutKept s0 (execRmvd i s) := by
  unfold execRmvd
  simp (maxDischargeDepth := 80) only [vopRow_kept, Kept.self, kept_mk, MemKept.self, outKept_next, implies_true, *]

theorem execRmva_kept (i : VopIssue) (s : State) {s0 : State} (h0 : Kept s0 s) :
    OutKept s0 (execRmva i s) := by
  unfold execRmva
  simp (maxDischargeDepth := 80) only [vopRow_kept, Kept.self, kept_mk, MemKept.self, outKept_next, implies_true, *]

theorem execRamaxd_kept (i : VopIssue) (s : State) {s0 : State} (h0 : Kept s0 s) :
    OutKept s0 (execRamaxd i s) := by
  unfold execRamaxd
  simp (maxDischargeDepth := 80) only [vopRow_kept, Kept.self, kept_mk, MemKept.self, outKept_next, implies_true, *]

theorem execRamaxa_kept (i : VopIssue) (s : State) {s0 : State} (h0 : Kept s0 s) :
    OutKept s0 (execRamaxa i s) := by
  unfold execRamaxa
  simp (maxDischargeDepth := 80) only [vopRow_kept, Kept.self, kept_mk, MemKept.self, outKept_next, implies_true, *]

theorem execTopk1_kept (i : VopIssue) (s : State) {s0 : State} (h0 : Kept s0 s) :
    OutKept s0 (execTopk1 i s) := by
  unfold execTopk1
  simp (maxDischargeDepth := 80) only [vopRow_kept, Kept.self, kept_mk, MemKept.self, outKept_next, implies_true, *]

theorem execTopk2_kept (i : VopIssue) (s : State) {s0 : State} (h0 : Kept s0 s) :
    OutKept s0 (execTopk2 i s) := by
  unfold execTopk2
  simp (maxDischargeDepth := 80) only [vopRow_kept, Kept.self, kept_mk, MemKept.self, outKept_next, implies_true, *]

theorem execTopk3_kept (i : VopIssue) (s : State) {s0 : State} (h0 : Kept s0 s) :
    OutKept s0 (execTopk3 i s) := by
  unfold execTopk3
  simp (maxDischargeDepth := 80) only [vopRow_kept, Kept.self, kept_mk, MemKept.self, outKept_next, implies_true, *]

theorem execTopk4_kept (i : VopIssue) (s : State) {s0 : State} (h0 : Kept s0 s) :
    OutKept s0 (execTopk4 i s) := by
  unfold execTopk4
  simp (maxDischargeDepth := 80) only [vopRow_kept, Kept.self, kept_mk, MemKept.self, outKept_next, implies_true, *]

theorem execTopk5_kept (i : VopIssue) (s : State) {s0 : State} (h0 : Kept s0 s) :
    OutKept s0 (execTopk5 i s) := by
  unfold execTopk5
  simp (maxDischargeDepth := 80) only [vopRow_kept, Kept.self, kept_mk, MemKept.self, outKept_next, implies_true, *]

theorem execTopk6_kept (i : VopIssue) (s : State) {s0 : State} (h0 : Kept s0 s) :
    OutKept s0 (execTopk6 i s) := by
  unfold execTopk6
  simp (maxDischargeDepth := 80) only [vopRow_kept, Kept.self, kept_mk, MemKept.self, outKept_next, implies_true, *]

theorem execTopk7_kept (i : VopIssue) (s : State) {s0 : State} (h0 : Kept s0 s) :
    OutKept s0 (execTopk7 i s) := by
  unfold execTopk7
  simp (maxDischargeDepth := 80) only [vopRow_kept, Kept.self, kept_mk, MemKept.self, outKept_next, implies_true, *]

theorem execTopk8_kept (i : VopIssue) (s : State) {s0 : State} (h0 : Kept s0 s) :
    OutKept s0 (execTopk8 i s) := by
  unfold execTopk8
  simp (maxDischargeDepth := 80) only [vopRow_kept, Kept.self, kept_mk, MemKept.self, outKept_next, implies_true, *]

theorem execFcheck_kept (i : VopIssue) (s : State) {s0 : State} (h0 : Kept s0 s) :
    OutKept s0 (execFcheck i s) := by
  unfold execFcheck
  simp (maxDischargeDepth := 80) only [vopRow_kept, Kept.self, kept_mk, MemKept.self, outKept_next, implies_true, *]

theorem execStclose_kept (i : VopIssue) (s : State) {s0 : State} (h0 : Kept s0 s) :
    OutKept s0 (execStclose i s) := by
  unfold execStclose
  simp (maxDischargeDepth := 80) only [vopRow_kept, Kept.self, kept_mk, MemKept.self, outKept_next, implies_true, *]

end Sys2Proof.Machine
end

