-- ==== Sys2Proof/Laws/KeptHost.lean ====
section
/-! SUPPORT. What every operation keeps (`Kept`): doorbells, descriptors, fences, configuration and partitions. -/

set_option linter.all false

namespace Sys2Proof.Machine

theorem doorbellBad_kept (c : Ctx) (off v : Nat) (s : State) {s0 : State} (h0 : Kept s0 s) :
    Kept s0 (doorbellBad c off v s) := by
  unfold doorbellBad
  simp (maxDischargeDepth := 80) only [raise_kept, Kept.self, kept_mk, MemKept.self, implies_true, *]

theorem execDoorbellTail_kept (f : Fin 64) (page : BitVec 12) (v : BitVec 32) (s : State) {s0 : State} (h0 : Kept s0 s) :
    OutKept s0 (execDoorbellTail f page v s) := by
  unfold execDoorbellTail
  repeat' (first | (simp (maxDischargeDepth := 80) only [modCtx_kept, doorbellBad_kept, Kept.self, kept_mk,
                        MemKept.self, kept_ite, kept_ite_snd, outKept_next, outKept_ite, implies_true, *]; done) | split | dsimp only)

theorem execDoorbellChead_kept (f : Fin 64) (page : BitVec 12) (v : BitVec 32) (s : State) {s0 : State} (h0 : Kept s0 s)
    :
    OutKept s0 (execDoorbellChead f page v s) := by
  unfold execDoorbellChead
  repeat' (first | (simp (maxDischargeDepth := 80) only [modCtx_kept, doorbellBad_kept, Kept.self, kept_mk,
                        MemKept.self, kept_ite, kept_ite_snd, outKept_next, outKept_ite, implies_true, *]; done) | split | dsimp only)

theorem execDoorbellEhead_kept (f : Fin 64) (page : BitVec 12) (v : BitVec 32) (s : State) {s0 : State} (h0 : Kept s0 s)
    :
    OutKept s0 (execDoorbellEhead f page v s) := by
  unfold execDoorbellEhead
  repeat' (first | (simp (maxDischargeDepth := 80) only [modCtx_kept, doorbellBad_kept, Kept.self, kept_mk,
                        MemKept.self, kept_ite, kept_ite_snd, outKept_next, outKept_ite, implies_true, *]; done) | split | dsimp only)

theorem execDescriptorFetch_kept (s : State) {s0 : State} (h0 : Kept s0 s) :
    OutKept s0 (execDescriptorFetch s) := by
  unfold execDescriptorFetch
  repeat' (first | (simp (maxDischargeDepth := 80) only [modHif_kept, modCtx_kept, headWriteBack_kept, Kept.self,
                        kept_mk, MemKept.self, kept_ite, kept_ite_snd, outKept_next, outKept_ite, implies_true, *];
                        done) | split | dsimp only)

theorem startFront_kept (c : Ctx) (d : Desc) (s : State) {s0 : State} (h0 : Kept s0 s) :
    Kept s0 (startFront c d s) := by
  unfold startFront
  repeat' (first | (simp (maxDischargeDepth := 80) only [modCtx_kept, finishStarting_kept, Kept.self, kept_mk,
                        MemKept.self, kept_ite, kept_ite_snd, implies_true, *]; done) | split | dsimp only)

theorem failFront_kept (c : Ctx) (d : Desc) (status detail : Nat) (s : State) {s0 : State} (h0 : Kept s0 s) :
    Kept s0 (failFront c d status detail s) := by
  unfold failFront
  simp (maxDischargeDepth := 80) only [modCtx_kept, finishDesc_kept, Kept.self, kept_mk, MemKept.self, kept_ite,
      kept_ite_snd, implies_true, *]

theorem execDescriptorStart_kept (ctx : Ctx) (s : State) {s0 : State} (h0 : Kept s0 s) :
    OutKept s0 (execDescriptorStart ctx s) := by
  unfold execDescriptorStart
  repeat' (first | (simp (maxDischargeDepth := 80) only [modCtx_kept, startFront_kept, failFront_kept, Kept.self,
                        kept_mk, MemKept.self, kept_ite, kept_ite_snd, outKept_next, outKept_ite, implies_true, *];
                        done) | split | dsimp only)

theorem waiterSees_kept (o : Nat) (c : Ctx) (s : State) {s0 : State} (h0 : Kept s0 s) :
    Kept s0 (waiterSees o c s) := by
  unfold waiterSees
  repeat' (first | (simp (maxDischargeDepth := 80) only [modCtx_kept, failFront_kept, Kept.self, kept_mk,
                        MemKept.self, kept_ite, kept_ite_snd, implies_true, *]; done) | split | dsimp only)

theorem execSyncObjectUpdate_kept (obj : BitVec 16) (s : State) {s0 : State} (h0 : Kept s0 s) :
    OutKept s0 (execSyncObjectUpdate obj s) := by
  unfold execSyncObjectUpdate
  repeat' (first | (simp (maxDischargeDepth := 80) only [modHif_kept, forAll_kept, waiterSees_kept, Kept.self,
                        kept_mk, MemKept.self, kept_ite, kept_ite_snd, outKept_next, outKept_ite, implies_true, *];
                        done) | split | dsimp only)

theorem execSyncTimeout_kept (ctx : Ctx) (s : State) {s0 : State} (h0 : Kept s0 s) :
    OutKept s0 (execSyncTimeout ctx s) := by
  unfold execSyncTimeout
  repeat' (first | (simp (maxDischargeDepth := 80) only [advanceTo_kept, failFront_kept, Kept.self, kept_mk,
                        MemKept.self, kept_ite, kept_ite_snd, outKept_next, outKept_ite, implies_true, *]; done) | split | dsimp only)

theorem syncRow_kept (ctx : Ctx) (op : Nat) (upd : BitVec 32 → SyncOp) (s : State) {s0 : State} (h0 : Kept s0 s) :
    Kept s0 (syncRow ctx op upd s) := by
  unfold syncRow
  repeat' (first | (simp (maxDischargeDepth := 80) only [syncRequest_kept, finishStarting_kept, Kept.self,
                        kept_mk, MemKept.self, kept_ite, kept_ite_snd, implies_true, *]; done) | split | dsimp only)

theorem execSyncSetValue_kept (ctx : Ctx) (s : State) {s0 : State} (h0 : Kept s0 s) :
    OutKept s0 (execSyncSetValue ctx s) := by
  unfold execSyncSetValue
  simp (maxDischargeDepth := 80) only [syncRow_kept, Kept.self, kept_mk, MemKept.self, outKept_next, implies_true, *]

theorem execSyncAdd_kept (ctx : Ctx) (s : State) {s0 : State} (h0 : Kept s0 s) :
    OutKept s0 (execSyncAdd ctx s) := by
  unfold execSyncAdd
  simp (maxDischargeDepth := 80) only [syncRow_kept, Kept.self, kept_mk, MemKept.self, outKept_next, implies_true, *]

theorem execSyncClearErr_kept (ctx : Ctx) (s : State) {s0 : State} (h0 : Kept s0 s) :
    OutKept s0 (execSyncClearErr ctx s) := by
  unfold execSyncClearErr
  simp (maxDischargeDepth := 80) only [syncRow_kept, Kept.self, kept_mk, MemKept.self, outKept_next, implies_true, *]

theorem execSyncRemoteAdd_kept (ctx : Ctx) (s : State) {s0 : State} (h0 : Kept s0 s) :
    OutKept s0 (execSyncRemoteAdd ctx s) := by
  unfold execSyncRemoteAdd
  repeat' (first | (simp (maxDischargeDepth := 80) only [finishStarting_kept, sendTc0Rank_kept, Kept.self,
                        kept_mk, MemKept.self, kept_ite, kept_ite_snd, outKept_next, outKept_ite, implies_true, *];
                        done) | split | dsimp only)

theorem syncArrives_kept (pid : BitVec 12) (obj : BitVec 16) (value : BitVec 32) (s : State) {s0 : State} (h0 : Kept s0
    s) :
    Kept s0 (syncArrives pid obj value s) := by
  unfold syncArrives
  repeat' (first | (simp (maxDischargeDepth := 80) only [modFab_kept, raise_kept, syncRequest_kept, Kept.self,
                        kept_mk, MemKept.self, kept_ite, kept_ite_snd, implies_true, *]; done) | split | dsimp only)

theorem execSyncMessageReceive_kept (pid : BitVec 12) (obj : BitVec 16) (value : BitVec 32) (s : State) {s0 : State} (h0
    : Kept s0 s) :
    OutKept s0 (execSyncMessageReceive pid obj value s) := by
  unfold execSyncMessageReceive
  simp (maxDischargeDepth := 80) only [syncArrives_kept, Kept.self, kept_mk, MemKept.self, outKept_next, implies_true,
      *]

theorem execNopDescriptor_kept (ctx : Ctx) (s : State) {s0 : State} (h0 : Kept s0 s) :
    OutKept s0 (execNopDescriptor ctx s) := by
  unfold execNopDescriptor
  repeat' (first | (simp (maxDischargeDepth := 80) only [finishStarting_kept, Kept.self, kept_mk, MemKept.self,
                        outKept_next, implies_true, *]; done) | split | dsimp only)

theorem execFence_kept (ctx : Ctx) (s : State) {s0 : State} (h0 : Kept s0 s) :
    OutKept s0 (execFence ctx s) := by
  unfold execFence
  repeat' (first | (simp (maxDischargeDepth := 80) only [finishStarting_kept, Kept.self, kept_mk, MemKept.self,
                        kept_ite, kept_ite_snd, outKept_next, outKept_ite, implies_true, *]; done) | split | dsimp only)

theorem applyStaged_kept (s : State) {s0 : State} (h0 : Kept s0 s) :
    Kept s0 (applyStaged s) := by
  unfold applyStaged
  simp (maxDischargeDepth := 80) only [Kept.self, kept_mk, MemKept.self, implies_true, *]

theorem setModes_kept (m : Modes) (s : State) {s0 : State} (h0 : Kept s0 s) :
    Kept s0 (setModes m s) := by
  unfold setModes
  simp (maxDischargeDepth := 80) only [Kept.self, kept_mk, MemKept.self, kept_ite, kept_ite_snd, implies_true, *]

theorem applyModes_kept (c : Ctx) (s : State) {s0 : State} (h0 : Kept s0 s) :
    Kept s0 (applyModes c s).2 := by
  unfold applyModes
  simp (maxDischargeDepth := 80) only [setModes_kept, Kept.self, kept_mk, MemKept.self, kept_ite, kept_ite_snd,
      implies_true, *]

theorem fencePosn_kept (n : Nat) (s : State) {s0 : State} (h0 : Kept s0 s) :
    Kept s0 (fencePosn n s).2 := by
  unfold fencePosn
  repeat' (first | (simp (maxDischargeDepth := 80) only [modPos_kept, restCells_kept, Kept.self, kept_mk,
                        MemKept.self, implies_true, *]; done) | split | dsimp only)

theorem fencePosns_kept (l : List Nat) (s : State) {s0 : State} (h0 : Kept s0 s) : Kept s0 (fencePosns l s).2 := by
  induction l generalizing s with
  | nil => exact h0
  | cons n t ih => exact ih _ (fencePosn_kept n s h0)

theorem stepFence_kept (c : Ctx) (s : State) {s0 : State} (h0 : Kept s0 s) :
    Kept s0 (stepFence c s).2 := by
  unfold stepFence
  repeat' (first | (simp (maxDischargeDepth := 80) only [applyStaged_kept, applyModes_kept, fencePosns_kept,
                        Kept.self, kept_mk, MemKept.self, implies_true, *]; done) | split | dsimp only)

theorem execStepFence_kept (ctx : Ctx) (s : State) {s0 : State} (h0 : Kept s0 s) :
    OutKept s0 (execStepFence ctx s) := by
  unfold execStepFence
  repeat' (first | (simp (maxDischargeDepth := 80) only [finishStarting_kept, stepFence_kept, Kept.self, kept_mk,
                        MemKept.self, kept_ite, kept_ite_snd, outKept_next, outKept_ite, implies_true, *]; done) | split | dsimp only)

theorem execTile_kept (ctx : Ctx) (s : State) {s0 : State} (h0 : Kept s0 s) :
    OutKept s0 (execTile ctx s) := by
  unfold execTile
  repeat' (first | (simp (maxDischargeDepth := 80) only [modCell_kept, forAll_kept, keepStarting_kept, Kept.self,
                        kept_mk, MemKept.self, outKept_next, implies_true, *]; done) | split | dsimp only)

theorem execProgramBody_kept (ctx : Ctx) (s : State) {s0 : State} (h0 : Kept s0 s) :
    OutKept s0 (execProgramBody ctx s) := by
  unfold execProgramBody
  repeat' (first | (simp (maxDischargeDepth := 80) only [forAll_kept, finishStarting_kept, Kept.self, kept_mk,
                        MemKept.self, memKept_writeRun, kept_ite, kept_ite_snd, outKept_next, outKept_ite,
                        implies_true, *]; done) | split | dsimp only)

theorem openShadow_kept (e : BitVec 16) (n : Nat) (s : State) {s0 : State} (h0 : Kept s0 s) :
    Kept s0 (openShadow e n s) := by
  unfold openShadow
  repeat' (first | (simp (maxDischargeDepth := 80) only [modPos_kept, mapCells_kept, Kept.self, kept_mk,
                        MemKept.self, implies_true, *]; done) | split | dsimp only)

theorem openShadows_kept (e : BitVec 16) (posns : List Nat) (s t : State) {s0 : State} (h0 : Kept s0 s)
    (h : openShadows e posns s = .inr t) : Kept s0 t := by
  unfold openShadows at h
  split at h
  · cases h
  · cases h
    exact forAll_kept _ _ _ h0 fun n t => openShadow_kept e n t (Kept.self t)

theorem execCellConfig_kept (ctx : Ctx) (s : State) {s0 : State} (h0 : Kept s0 s) :
    OutKept s0 (execCellConfig ctx s) := by
  unfold execCellConfig
  repeat' (first | (simp (maxDischargeDepth := 80) only [finishStarting_kept, forAll_kept, modCell_kept, Kept.self,
                        kept_mk, MemKept.self, kept_ite, outKept_next, outKept_ite, implies_true,
                        *]; done) | split | dsimp only)
  have e := openShadows_kept _ _ _ _ h0 ‹_›
  simp (maxDischargeDepth := 80) only [finishStarting_kept, forAll_kept, modCell_kept, Kept.self, kept_mk, MemKept.self,
      kept_ite, outKept_next, outKept_ite, implies_true, e]

theorem execModes_kept (ctx : Ctx) (s : State) {s0 : State} (h0 : Kept s0 s) :
    OutKept s0 (execModes ctx s) := by
  unfold execModes
  repeat' (first | (simp (maxDischargeDepth := 80) only [finishStarting_kept, Kept.self, kept_mk, MemKept.self,
                        outKept_next, implies_true, *]; done) | split | dsimp only)
  have e := openShadows_kept _ _ _ _ h0 ‹_›
  simp (maxDischargeDepth := 80) only [finishStarting_kept, Kept.self, kept_mk, MemKept.self, outKept_next, implies_true, e]

theorem execDiscard_kept (ctx : Ctx) (s : State) {s0 : State} (h0 : Kept s0 s) :
    OutKept s0 (execDiscard ctx s) := by
  unfold execDiscard
  repeat' (first | (simp (maxDischargeDepth := 80) only [modPos_kept, forAll_kept, finishStarting_kept,
                        Kept.self, kept_mk, MemKept.self, outKept_next, implies_true, *]; done) | split | dsimp only)

theorem execVariant_kept (ctx : Ctx) (s : State) {s0 : State} (h0 : Kept s0 s) :
    OutKept s0 (execVariant ctx s) := by
  unfold execVariant
  repeat' (first | (simp (maxDischargeDepth := 80) only [finishStarting_kept, modHeld_kept, injectAbort_kept,
                        Kept.self, kept_mk, MemKept.self, kept_ite, kept_ite_snd, outKept_next, outKept_ite,
                        implies_true, *]; done) | split | dsimp only)

theorem sendBitmaps_kept (ports : List Nat) (s : State) {s0 : State} (h0 : Kept s0 s) :
    Kept s0 (sendBitmaps ports s) := by
  unfold sendBitmaps
  simp (maxDischargeDepth := 80) only [modFab_kept, forAll_kept, sendLink_kept, Kept.self, kept_mk, MemKept.self,
      implies_true, *]

theorem setValid_kept (k : Nat) (s : State) {s0 : State} (h0 : Kept s0 s) :
    Kept s0 (setValid k s) := by
  unfold setValid
  simp (maxDischargeDepth := 80) only [modPart_kept, sendBitmaps_kept, Kept.self, kept_mk, MemKept.self, kept_ite,
      kept_ite_snd, implies_true, *]

theorem clearValid_kept (k : Nat) (s : State) {s0 : State} (h0 : Kept s0 s) :
    Kept s0 (clearValid k s) := by
  unfold clearValid
  simp (maxDischargeDepth := 80) only [modPart_kept, sendBitmaps_kept, Kept.self, kept_mk, MemKept.self, kept_ite,
      kept_ite_snd, implies_true, *]

theorem writeRmap_kept (k : Nat) (v : BitVec 64) (s : State) {s0 : State} (h0 : Kept s0 s) :
    Kept s0 (writeRmap k v s) := by
  unfold writeRmap
  simp (maxDischargeDepth := 80) only [modPart_kept, Kept.self, kept_mk, MemKept.self, kept_ite, kept_ite_snd,
      implies_true, *]

theorem loseRankIn_kept (k : Nat) (s : State) {s0 : State} (h0 : Kept s0 s) :
    Kept s0 (loseRankIn k s) := by
  unfold loseRankIn
  simp (maxDischargeDepth := 80) only [modPart_kept, raise_kept, Kept.self, kept_mk, MemKept.self, kept_ite,
      kept_ite_snd, implies_true, *]

theorem loseRanks_kept (s : State) {s0 : State} (h0 : Kept s0 s) :
    Kept s0 (loseRanks s) := by
  unfold loseRanks
  simp (maxDischargeDepth := 80) only [forAll_kept, chargeCause_kept, loseRankIn_kept, Kept.self, kept_mk,
      MemKept.self, kept_ite, kept_ite_snd, implies_true, *]

theorem execPartitionValidSet_kept (m : Master) (s : State) {s0 : State} (h0 : Kept s0 s) :
    OutKept s0 (execPartitionValidSet m s) := by
  unfold execPartitionValidSet
  repeat' (first | (simp (maxDischargeDepth := 80) only [setValid_kept, Kept.self, kept_mk, MemKept.self,
                        kept_ite, kept_ite_snd, outKept_next, outKept_ite, implies_true, *]; done) | split | dsimp only)

theorem execPartitionValidClear_kept (m : Master) (s : State) {s0 : State} (h0 : Kept s0 s) :
    OutKept s0 (execPartitionValidClear m s) := by
  unfold execPartitionValidClear
  repeat' (first | (simp (maxDischargeDepth := 80) only [clearValid_kept, Kept.self, kept_mk, MemKept.self,
                        outKept_next, implies_true, *]; done) | split | dsimp only)

theorem execRankMapReload_kept (m : Master) (v : BitVec 64) (s : State) {s0 : State} (h0 : Kept s0 s) :
    OutKept s0 (execRankMapReload m v s) := by
  unfold execRankMapReload
  repeat' (first | (simp (maxDischargeDepth := 80) only [writeRmap_kept, Kept.self, kept_mk, MemKept.self,
                        outKept_next, implies_true, *]; done) | split | dsimp only)

end Sys2Proof.Machine
end

