-- ==== Sys2Proof/Laws/KeptStreams.lean ====
section
/-! SUPPORT. What every operation keeps (`Kept`): HBM, the guest firewall, streams and reductions. -/

set_option linter.all false

namespace Sys2Proof.Machine

theorem modChan_kept (n q : Nat) (f : PChan → PChan) (s : State) {s0 : State} (h0 : Kept s0 s) :
    Kept s0 (modChan n q f s) := by
  unfold modChan
  simp (maxDischargeDepth := 80) only [modPos_kept, Kept.self, kept_mk, MemKept.self, implies_true, *]

theorem retrainChannel_kept (n ch : Nat) (s : State) {s0 : State} (h0 : Kept s0 s) :
    Kept s0 (retrainChannel n ch s) := by
  unfold retrainChannel
  simp (maxDischargeDepth := 80) only [modPos_kept, occur_kept, forAll_kept, raise_kept, modChan_kept, Kept.self,
      kept_mk, MemKept.self, kept_ite, kept_ite_snd, implies_true, *]

theorem writeBack_kept (n q : Nat) (s : State) {s0 : State} (h0 : Kept s0 s) :
    Kept s0 (writeBack n q s) := by
  unfold writeBack
  repeat' (first | (simp (maxDischargeDepth := 80) only [modPos_kept, Kept.self, kept_mk, MemKept.self,
                        memKept_nil, memKept_ite, memKept_writeRun, kept_ite, kept_ite_snd, implies_true, *]; done) | split | dsimp only)

theorem execChannelRetrain_kept (posn : Posn) (ch : Fin 32) (s : State) {s0 : State} (h0 : Kept s0 s) :
    OutKept s0 (execChannelRetrain posn ch s) := by
  unfold execChannelRetrain
  simp (maxDischargeDepth := 80) only [retrainChannel_kept, Kept.self, kept_mk, MemKept.self, outKept_next,
      implies_true, *]

theorem countChannel_kept (n ch : Nat) (s : State) {s0 : State} (h0 : Kept s0 s) :
    Kept s0 (countChannel n ch s) := by
  unfold countChannel
  simp (maxDischargeDepth := 80) only [modPos_kept, retrainChannel_kept, Kept.self, kept_mk, MemKept.self, kept_ite,
      kept_ite_snd, implies_true, *]

theorem countCorrected_kept (n q : Nat) (l : Option Nat) (s : State) {s0 : State} (h0 : Kept s0 s) :
    Kept s0 (countCorrected n q l s) := by
  unfold countCorrected
  repeat' (first | (simp (maxDischargeDepth := 80) only [modPos_kept, occur_kept, modChan_kept,
                        countChannel_kept, Kept.self, kept_mk, MemKept.self, implies_true, *]; done) | split | dsimp only)

theorem countOnDie_kept (n q : Nat) (s : State) {s0 : State} (h0 : Kept s0 s) :
    Kept s0 (countOnDie n q s) := by
  unfold countOnDie
  simp (maxDischargeDepth := 80) only [modChan_kept, Kept.self, kept_mk, MemKept.self, implies_true, *]

theorem countFailed_kept (n q l : Nat) (s : State) {s0 : State} (h0 : Kept s0 s) :
    Kept s0 (countFailed n q l s) := by
  unfold countFailed
  simp (maxDischargeDepth := 80) only [modChan_kept, Kept.self, kept_mk, MemKept.self, implies_true, *]

theorem recordFailed_kept (n q l arg1 : Nat) (s : State) {s0 : State} (h0 : Kept s0 s) :
    Kept s0 (recordFailed n q l arg1 s) := by
  unfold recordFailed
  simp (maxDischargeDepth := 80) only [modPos_kept, raise_kept, countFailed_kept, Kept.self, kept_mk, MemKept.self,
      kept_ite, kept_ite_snd, implies_true, *]

theorem markFailed_kept (a : Nat) (s : State) {s0 : State} (h0 : Kept s0 s) :
    Kept s0 (markFailed a s) := by
  unfold markFailed
  simp (maxDischargeDepth := 80) only [Kept.self, kept_mk, MemKept.self, kept_ite, kept_ite_snd, implies_true, *]

theorem failedBurst_kept (n l a : Nat) (s : State) {s0 : State} (h0 : Kept s0 s) :
    Kept s0 (failedBurst n l a s) := by
  unfold failedBurst
  simp (maxDischargeDepth := 80) only [clearCheck_kept, recordFailed_kept, markFailed_kept, Kept.self, kept_mk,
      MemKept.self, implies_true, *]

theorem readBurst_kept (n l a : Nat) (e : BurstErr) (s : State) {s0 : State} (h0 : Kept s0 s) :
    Kept s0 (readBurst n l a e s).2 := by
  unfold readBurst
  repeat' (first | (simp (maxDischargeDepth := 80) only [countCorrected_kept, countOnDie_kept, failedBurst_kept,
                        Kept.self, kept_mk, MemKept.self, kept_ite, kept_ite_snd, implies_true, *]; done) | split | dsimp only)

theorem readBursts_kept (n l a : Nat) (es : List BurstErr) (s : State) {s0 : State} (h0 : Kept s0 s) :
    Kept s0 (readBursts n l a es s).2 := by
  induction es generalizing s with
  | nil => exact h0
  | cons e t ih => exact ih _ (readBurst_kept n l _ e s h0)

theorem shrinkContexts_kept (n : Nat) (s : State) {s0 : State} (h0 : Kept s0 s) :
    Kept s0 (shrinkContexts n s) := by
  unfold shrinkContexts
  simp (maxDischargeDepth := 80) only [modHif_kept, Kept.self, kept_mk, MemKept.self, kept_ite, kept_ite_snd,
      implies_true, *]

theorem shrink_kept (n first : Nat) (s : State) {s0 : State} (h0 : Kept s0 s) :
    Kept s0 (shrink n first s) := by
  unfold shrink
  simp (maxDischargeDepth := 80) only [raise_kept, chargeCause_kept, shrinkContexts_kept, Kept.self, kept_mk,
      MemKept.self, implies_true, *]

theorem declareMirrorLost_kept (s : State) {s0 : State} (h0 : Kept s0 s) :
    Kept s0 (declareMirrorLost s) := by
  unfold declareMirrorLost
  simp (maxDischargeDepth := 80) only [modStep_kept, raise_kept, chargeCause_kept, Kept.self, kept_mk, MemKept.self,
      implies_true, *]

theorem restoreStripe_kept (n l : Nat) (pulled : Option (List (Nat × Byte))) (s : State) {s0 : State} (h0 : Kept s0 s) :
    Kept s0 (restoreStripe n l pulled s) := by
  unfold restoreStripe
  repeat' (first | (simp (maxDischargeDepth := 80) only [memWrite_kept, declareMirrorLost_kept, Kept.self,
                        kept_mk, MemKept.self, kept_ite, kept_ite_snd, implies_true, *]; done) | split | dsimp only)

theorem saveRemap_kept (n : Nat) (s : State) {s0 : State} (h0 : Kept s0 s) :
    Kept s0 (saveRemap n s) := by
  unfold saveRemap
  simp (maxDischargeDepth := 80) only [modMgmt_kept, Kept.self, kept_mk, MemKept.self, implies_true, *]

theorem patrolFailed_kept (n q slot i : Nat) (s : State) {s0 : State} (h0 : Kept s0 s) :
    Kept s0 (patrolFailed n q slot i s) := by
  unfold patrolFailed
  repeat' (first | (simp (maxDischargeDepth := 80) only [clearCheck_kept, recordFailed_kept, markFailed_kept,
                        Kept.self, kept_mk, MemKept.self, kept_ite, kept_ite_snd, implies_true, *]; done) | split | dsimp only)

theorem patrolBurst_kept (n q slot : Nat) (e : BurstErr) (s : State) {s0 : State} (h0 : Kept s0 s) :
    Kept s0 (patrolBurst n q slot e s) := by
  unfold patrolBurst
  repeat' (first | (simp (maxDischargeDepth := 80) only [countCorrected_kept, countOnDie_kept, patrolFailed_kept,
                        Kept.self, kept_mk, MemKept.self, kept_ite, kept_ite_snd, implies_true, *]; done) | split | dsimp only)

theorem execPatrolRead_kept (posn : Posn) (pc : Fin 64) (slot : BitVec 18) (errs : List BurstErr) (s : State) {s0 :
    State} (h0 : Kept s0 s) :
    OutKept s0 (execPatrolRead posn pc slot errs s) := by
  unfold execPatrolRead
  repeat' (first | (simp (maxDischargeDepth := 80) only [modPos_kept, forAll_kept, patrolBurst_kept, Kept.self,
                        kept_mk, MemKept.self, outKept_next, implies_true, *]; done) | split | dsimp only)

theorem modGfw_kept (g : Nat) (f : Gfw → Gfw) (s : State) {s0 : State} (h0 : Kept s0 s) :
    Kept s0 (modGfw g f s) := by
  unfold modGfw
  simp (maxDischargeDepth := 80) only [Kept.self, kept_mk, MemKept.self, implies_true, *]

theorem gfwDeny_kept (g : Nat) (inbound write : Bool) (addr mid : Nat) (s : State) {s0 : State} (h0 : Kept s0 s) :
    Kept s0 (gfwDeny g inbound write addr mid s) := by
  unfold gfwDeny
  repeat' (first | (simp (maxDischargeDepth := 80) only [raise_kept, modGfw_kept, Kept.self, kept_mk,
                        MemKept.self, kept_ite, kept_ite_snd, implies_true, *]; done) | split | dsimp only)

theorem gfwCheck_kept (g : Nat) (inbound write : Bool) (addr mid : Nat) (ctx : Ctx) (s : State) {s0 : State} (h0 : Kept
    s0 s) :
    Kept s0 (gfwCheck g inbound write addr mid ctx s).2 := by
  unfold gfwCheck
  repeat' (first | (simp (maxDischargeDepth := 80) only [gfwDeny_kept, Kept.self, kept_mk, MemKept.self,
                        kept_ite, kept_ite_snd, implies_true, *]; done) | split | dsimp only)

theorem gfwRange_kept (g : Nat) (write : Bool) (mid : Nat) (ctx : Ctx) (l : List Nat) (s : State) {s0 : State}
    (h0 : Kept s0 s) : Kept s0 (gfwRange g write mid ctx l s).2 := by
  induction l generalizing s with
  | nil => exact h0
  | cons a t ih => exact ih _ (gfwCheck_kept g true write a mid ctx s h0)

theorem guardedWrite_kept (mid : Nat) (ctx : Ctx) (a : Nat) (bs : List Byte) (s : State) {s0 : State} (h0 : Kept s0 s) :
    Kept s0 (guardedWrite mid ctx a bs s) := by
  unfold guardedWrite
  repeat' (first | (simp (maxDischargeDepth := 80) only [forAll_kept, memWrite_kept, gfwRange_kept, Kept.self,
                        kept_mk, MemKept.self, kept_ite, kept_ite_snd, implies_true, *]; done) | split | dsimp only)

theorem guardedRead_kept (mid : Nat) (ctx : Ctx) (a len : Nat) (s : State) {s0 : State} (h0 : Kept s0 s) :
    Kept s0 (guardedRead mid ctx a len s).2 := by
  unfold guardedRead
  repeat' (first | (simp (maxDischargeDepth := 80) only [gfwRange_kept, Kept.self, kept_mk, MemKept.self,
                        implies_true, *]; done) | split | dsimp only)

theorem gfwAnswer_kept (g : Nat) (addr : BitVec 48) (a : Option (List Byte)) (s : State) {s0 : State} (h0 : Kept s0 s) :
    Kept s0 (gfwAnswer g addr a s) := by
  unfold gfwAnswer
  simp (maxDischargeDepth := 80) only [modGfw_kept, Kept.self, kept_mk, MemKept.self, implies_true, *]

theorem unitMove_kept (g : Nat) (write : Bool) (addr : BitVec 48) (data : List Byte) (s : State) {s0 : State} (h0 : Kept
    s0 s) :
    Kept s0 (unitMove g write addr data s) := by
  unfold unitMove
  simp (maxDischargeDepth := 80) only [memWrite_kept, gfwAnswer_kept, Kept.self, kept_mk, MemKept.self, kept_ite,
      kept_ite_snd, implies_true, *]

theorem countDropped_kept (c : Ctx) (n : Nat) (s : State) {s0 : State} (h0 : Kept s0 s) :
    Kept s0 (countDropped c n s) := by
  unfold countDropped
  simp (maxDischargeDepth := 80) only [modHif_kept, Kept.self, kept_mk, MemKept.self, kept_ite, kept_ite_snd,
      implies_true, *]

theorem outDown_kept (c : Ctx) (gen : BitVec 8) (s : State) {s0 : State} (h0 : Kept s0 s) :
    Kept s0 (outDown c gen s) := by
  unfold outDown
  repeat' (first | (simp (maxDischargeDepth := 80) only [modCtx_kept, Kept.self, kept_mk, MemKept.self, kept_ite,
                        kept_ite_snd, implies_true, *]; done) | split | dsimp only)

theorem gfwPass_kept (g : Nat) (write : Bool) (addr : BitVec 48) (c : Ctx) (data : List Byte) (s : State) {s0 : State}
    (h0 : Kept s0 s) :
    Kept s0 (gfwPass g write addr c data s) := by
  unfold gfwPass
  simp (maxDischargeDepth := 80) only [modCtx_kept, modGfw_kept, Kept.self, kept_mk, MemKept.self, implies_true, *]

theorem guestArrive_kept (g : Nat) (x : GuestAccess) (s : State) {s0 : State} (h0 : Kept s0 s) :
    Kept s0 (guestArrive g x s) := by
  unfold guestArrive
  repeat' (first | (simp (maxDischargeDepth := 80) only [gfwCheck_kept, gfwAnswer_kept, unitMove_kept,
                        countDropped_kept, outDown_kept, Kept.self, kept_mk, MemKept.self, kept_ite, kept_ite_snd,
                        implies_true, *]; done) | split | dsimp only)

theorem deliverGuest_kept (g : Nat) (s : State) {s0 : State} (h0 : Kept s0 s) :
    Kept s0 (deliverGuest g s) := by
  unfold deliverGuest
  simp (maxDischargeDepth := 80) only [forAll_kept, modGfw_kept, guestArrive_kept, Kept.self, kept_mk, MemKept.self,
      kept_ite, kept_ite_snd, implies_true, *]

theorem guestOut_kept (g : Nat) (write : Bool) (addr : BitVec 48) (data : List Byte) (s : State) {s0 : State} (h0 : Kept
    s0 s) :
    Kept s0 (guestOut g write addr data s) := by
  unfold guestOut
  repeat' (first | (simp (maxDischargeDepth := 80) only [gfwCheck_kept, gfwAnswer_kept, unitMove_kept,
                        gfwPass_kept, Kept.self, kept_mk, MemKept.self, kept_ite, kept_ite_snd, implies_true, *];
                        done) | split | dsimp only)

theorem guestIn_kept (g : Nat) (write : Bool) (addr : BitVec 48) (mid : Nat) (ctx : Ctx) (data : List Byte) (s : State)
    {s0 : State} (h0 : Kept s0 s) :
    Kept s0 (guestIn g write addr mid ctx data s) := by
  unfold guestIn
  simp (maxDischargeDepth := 80) only [gfwCheck_kept, gfwAnswer_kept, unitMove_kept, Kept.self, kept_mk, MemKept.self,
      kept_ite, kept_ite_snd, implies_true, *]

theorem execGuestFirewallCheck_kept (g : Fin 2) (inbound : Bool) (unit : Option (List Byte)) (addr : BitVec 48) (mid :
    BitVec 8) (ctx : Ctx) (s : State) {s0 : State} (h0 : Kept s0 s) :
    OutKept s0 (execGuestFirewallCheck g inbound unit addr mid ctx s) := by
  unfold execGuestFirewallCheck
  simp (maxDischargeDepth := 80) only [guestOut_kept, guestIn_kept, Kept.self, kept_mk, MemKept.self, kept_ite,
      kept_ite_snd, outKept_next, outKept_ite, implies_true, *]

theorem emberFailed_kept (step : BitVec 64) (s : State) {s0 : State} (h0 : Kept s0 s) :
    Kept s0 (emberFailed step s) := by
  unfold emberFailed
  repeat' (first | (simp (maxDischargeDepth := 80) only [modHeld_kept, injectAbort_kept, Kept.self, kept_mk,
                        MemKept.self, implies_true, *]; done) | split | dsimp only)

theorem refuseStream_kept (c : Ctx) (d : Desc) (ember : Bool) (status detail : Nat) (s : State) {s0 : State} (h0 : Kept
    s0 s) :
    Kept s0 (refuseStream c d ember status detail s) := by
  unfold refuseStream
  repeat' (first | (simp (maxDischargeDepth := 80) only [completeKey_kept, emberFailed_kept, Kept.self, kept_mk,
                        MemKept.self, implies_true, *]; done) | split | dsimp only)

theorem bindStream_kept (c : Ctx) (d : Desc) (r : StreamReq) (s : State) {s0 : State} (h0 : Kept s0 s) :
    Kept s0 (bindStream c d r s) := by
  unfold bindStream
  simp (maxDischargeDepth := 80) only [modStream_kept, refuseStream_kept, Kept.self, kept_mk, MemKept.self, kept_ite,
      kept_ite_snd, implies_true, *]

theorem tryCopy_kept (ctx : Ctx) (d : Desc) (s : State) {s0 : State} (h0 : Kept s0 s) :
    Kept s0 (tryCopy ctx d s) := by
  unfold tryCopy
  repeat' (first | (simp (maxDischargeDepth := 80) only [refuseStream_kept, bindStream_kept, Kept.self, kept_mk,
                        MemKept.self, kept_ite, kept_ite_snd, implies_true, *]; done) | split | dsimp only)

theorem execCopy_kept (ctx : Ctx) (s : State) {s0 : State} (h0 : Kept s0 s) :
    OutKept s0 (execCopy ctx s) := by
  unfold execCopy
  repeat' (first | (simp (maxDischargeDepth := 80) only [finishStarting_kept, keepStarting_kept,
                        refuseStream_kept, tryCopy_kept, Kept.self, kept_mk, MemKept.self, kept_ite, kept_ite_snd,
                        outKept_next, outKept_ite, implies_true, *]; done) | split | dsimp only)

theorem execStream_kept (ctx : Ctx) (s : State) {s0 : State} (h0 : Kept s0 s) :
    OutKept s0 (execStream ctx s) := by
  unfold execStream
  repeat' (first | (simp (maxDischargeDepth := 80) only [finishStarting_kept, keepStarting_kept,
                        refuseStream_kept, bindStream_kept, Kept.self, kept_mk, MemKept.self, kept_ite, kept_ite_snd,
                        outKept_next, outKept_ite, implies_true, *]; done) | split | dsimp only)

theorem endStream_kept (k status detail : Nat) (s : State) {s0 : State} (h0 : Kept s0 s) :
    Kept s0 (endStream k status detail s) := by
  unfold endStream
  repeat' (first | (simp (maxDischargeDepth := 80) only [modCtx_kept, completeKey_kept, emberFailed_kept,
                        Kept.self, kept_mk, MemKept.self, kept_ite, kept_ite_snd, implies_true, *]; done) | split | dsimp only)

theorem takeUnits_kept (f k : Nat) (s : State) {s0 : State} (h0 : Kept s0 s) : Kept s0 (takeUnits f k s).2 := by
  induction f generalizing s with
  | zero => exact h0
  | succ f ih =>
    unfold takeUnits
    split
    · exact h0
    · exact ih _ (startO_kept _ _ (modCell_kept _ _ _ h0))

theorem withdrawnTouched_kept (s : State) (t : StreamCtx) (off : Nat) {s0 : State} (h0 : Kept s0 s) :
    Kept s0 (withdrawnTouched s t off) := by
  unfold withdrawnTouched
  repeat' (first | (simp (maxDischargeDepth := 80) only [raise_kept, clearCheck_kept, countFailed_kept,
                        Kept.self, kept_mk, MemKept.self, implies_true, *]; done) | split | dsimp only)

theorem stopStream_kept (k off st : Nat) (s : State) {s0 : State} (h0 : Kept s0 s) :
    Kept s0 (stopStream k off st s) := by
  unfold stopStream
  simp (maxDischargeDepth := 80) only [endStream_kept, withdrawnTouched_kept, Kept.self, kept_mk, MemKept.self,
      kept_ite, kept_ite_snd, implies_true, *]

theorem guestPass_kept (posn : Nat) (t : StreamCtx) (len : Nat) (s : State) {s0 : State} (h0 : Kept s0 s) :
    Kept s0 (guestPass posn t len s).2 := by
  unfold guestPass
  repeat' (first | (simp (maxDischargeDepth := 80) only [guardedRead_kept, Kept.self, kept_mk, MemKept.self,
                        implies_true, *]; done) | split | dsimp only)

theorem takeChunk_kept (k : Nat) (t : StreamCtx) (len : Nat) (s : State) {s0 : State} (h0 : Kept s0 s) :
    Kept s0 (takeChunk k t len s).2 := by
  unfold takeChunk
  repeat' (first | (simp (maxDischargeDepth := 80) only [takeUnits_kept, Kept.self, kept_mk, MemKept.self,
                        kept_ite, kept_ite_snd, implies_true, *]; done) | split | dsimp only)

theorem sendToRank_kept (c : Ctx) (rank : Nat) (k : Nat) (p : Packet) (s : State) {s0 : State} (h0 : Kept s0 s) :
    Kept s0 (sendToRank c rank k p s) := by
  unfold sendToRank
  repeat' (first | (simp (maxDischargeDepth := 80) only [sendPacket_kept, Kept.self, kept_mk, MemKept.self,
                        implies_true, *]; done) | split | dsimp only)

theorem sendMirror_kept (c : Ctx) (k off a : Nat) (bs : List Byte) (s : State) {s0 : State} (h0 : Kept s0 s) :
    Kept s0 (sendMirror c k off a bs s) := by
  unfold sendMirror
  repeat' (first | (simp (maxDischargeDepth := 80) only [sendPacket_kept, Kept.self, kept_mk, MemKept.self,
                        implies_true, *]; done) | split | dsimp only)

theorem mirrorChunk_kept (k off a : Nat) (bs : List Byte) (s : State) {s0 : State} (h0 : Kept s0 s) :
    Kept s0 (mirrorChunk k off a bs s) := by
  unfold mirrorChunk
  simp (maxDischargeDepth := 80) only [modStream_kept, sendMirror_kept, Kept.self, kept_mk, MemKept.self, kept_ite,
      kept_ite_snd, implies_true, *]

theorem sendShadow_kept (c : Ctx) (k off a : Nat) (bs : List Byte) (s : State) {s0 : State} (h0 : Kept s0 s) :
    Kept s0 (sendShadow c k off a bs s) := by
  unfold sendShadow
  repeat' (first | (simp (maxDischargeDepth := 80) only [sendPacket_kept, Kept.self, kept_mk, MemKept.self,
                        implies_true, *]; done) | split | dsimp only)

theorem addOutput_kept (step : Option (BitVec 64)) (key : Nat) (bs : List Byte) (s : State) {s0 : State} (h0 : Kept s0 s)
    :
    Kept s0 (addOutput step key bs s) := by
  unfold addOutput
  repeat' (first | (simp (maxDischargeDepth := 80) only [modHeld_kept, Kept.self, kept_mk, MemKept.self,
                        implies_true, *]; done) | split | dsimp only)

theorem copyEmber_kept (k : Nat) (t : StreamCtx) (off : Nat) (bs : List Byte) (s : State) {s0 : State} (h0 : Kept s0 s) :
    Kept s0 (copyEmber k t off bs s) := by
  unfold copyEmber
  repeat' (first | (simp (maxDischargeDepth := 80) only [mirrorChunk_kept, sendShadow_kept, Kept.self, kept_mk,
                        MemKept.self, implies_true, *]; done) | split | dsimp only)

theorem sendChunk_kept (k : Nat) (t : StreamCtx) (bs : List Byte) (s : State) {s0 : State} (h0 : Kept s0 s) :
    Kept s0 (sendChunk k t bs s) := by
  unfold sendChunk
  repeat' (first | (simp (maxDischargeDepth := 80) only [sendToRank_kept, addOutput_kept, copyEmber_kept,
                        Kept.self, kept_mk, MemKept.self, implies_true, *]; done) | split | dsimp only)

theorem crossEdge_kept (t : StreamCtx) (bs : List Byte) (s : State) {s0 : State} (h0 : Kept s0 s) :
    Kept s0 (crossEdge t bs s) := by
  unfold crossEdge
  repeat' (first | (simp (maxDischargeDepth := 80) only [edgeQueue_kept, Kept.self, kept_mk, MemKept.self,
                        kept_ite, kept_ite_snd, implies_true, *]; done) | split | dsimp only)

theorem moveChunk_kept (k len : Nat) (s : State) {s0 : State} (h0 : Kept s0 s) :
    Kept s0 (moveChunk k len s) := by
  unfold moveChunk
  repeat' (first | (simp (maxDischargeDepth := 80) only [modCtx_kept, modStream_kept, takeChunk_kept,
                        sendChunk_kept, crossEdge_kept, Kept.self, kept_mk, MemKept.self, kept_ite, kept_ite_snd,
                        implies_true, *]; done) | split | dsimp only)

theorem turnStream_kept (posn k : Nat) (credit : Bool) (s : State) {s0 : State} (h0 : Kept s0 s) :
    Kept s0 (turnStream posn k credit s) := by
  unfold turnStream
  repeat' (first | (simp (maxDischargeDepth := 80) only [modStream_kept, endStream_kept, stopStream_kept,
                        guestPass_kept, moveChunk_kept, Kept.self, kept_mk, MemKept.self, kept_ite, kept_ite_snd,
                        implies_true, *]; done) | split | dsimp only)

theorem storeRead_kept (n : Nat) (e : ReadErr) (s : State) {s0 : State} (h0 : Kept s0 s) :
    Kept s0 (storeRead n e s) := by
  unfold storeRead
  simp (maxDischargeDepth := 80) only [modPos_kept, clearCheck_kept, Kept.self, kept_mk, MemKept.self, kept_ite,
      kept_ite_snd, implies_true, *]

theorem execEngineTurn_kept (posn : Posn) (engine : Fin 32) (turn : TurnInput) (s : State) {s0 : State} (h0 : Kept s0 s)
    :
    OutKept s0 (execEngineTurn posn engine turn s) := by
  unfold execEngineTurn
  repeat' (first | (simp (maxDischargeDepth := 80) only [modPos_kept, turnStream_kept, storeRead_kept, Kept.self,
                        kept_mk, MemKept.self, kept_ite, kept_ite_snd, outKept_next, outKept_ite, implies_true, *];
                        done) | split | dsimp only)

theorem landChunk_kept (k : Nat) (t : StreamCtx) (off : Nat) (bs : List Byte) (s : State) {s0 : State} (h0 : Kept s0 s) :
    Kept s0 (landChunk k t off bs s) := by
  unfold landChunk
  repeat' (first | (simp (maxDischargeDepth := 80) only [forAll_kept, hostWrite_kept, portArrive_kept,
                        guardedWrite_kept, Kept.self, kept_mk, MemKept.self, optKept_getD, implies_true, *]; done) | split | dsimp only)

theorem countEmber_kept (t : StreamCtx) (len : Nat) (s : State) {s0 : State} (h0 : Kept s0 s) :
    Kept s0 (countEmber t len s) := by
  unfold countEmber
  repeat' (first | (simp (maxDischargeDepth := 80) only [modHeld_kept, Kept.self, kept_mk, MemKept.self,
                        implies_true, *]; done) | split | dsimp only)

theorem stagingBurst_kept (n : Nat) (e : BurstErr) (s : State) {s0 : State} (h0 : Kept s0 s) :
    Kept s0 (stagingBurst n e s) := by
  unfold stagingBurst
  repeat' (first | (simp (maxDischargeDepth := 80) only [modPos_kept, clearCheck_kept, Kept.self, kept_mk,
                        MemKept.self, implies_true, *]; done) | split | dsimp only)

theorem chunkVerdict_kept (t : StreamCtx) (off len : Nat) (errs : List BurstErr) (s : State) {s0 : State} (h0 : Kept s0
    s) :
    Kept s0 (chunkVerdict t off len errs s).2 := by
  unfold chunkVerdict
  repeat' (first | (simp (maxDischargeDepth := 80) only [forAll_kept, readBursts_kept, stagingBurst_kept,
                        Kept.self, kept_mk, MemKept.self, implies_true, *]; done) | split | dsimp only)

theorem chunkBack_kept (k : Nat) (s : State) {s0 : State} (h0 : Kept s0 s) :
    Kept s0 (chunkBack k s) := by
  unfold chunkBack
  simp (maxDischargeDepth := 80) only [modStream_kept, outDown_kept, Kept.self, kept_mk, MemKept.self, implies_true,
      *]

theorem finishStream_kept (k : Nat) (s : State) {s0 : State} (h0 : Kept s0 s) :
    Kept s0 (finishStream k s) := by
  unfold finishStream
  simp (maxDischargeDepth := 80) only [endStream_kept, Kept.self, kept_mk, MemKept.self, kept_ite, kept_ite_snd,
      implies_true, *]

theorem landAndFinish_kept (k : Nat) (ch : Chunk) (bs : List Byte) (s : State) {s0 : State} (h0 : Kept s0 s) :
    Kept s0 (landAndFinish k ch bs s) := by
  unfold landAndFinish
  repeat' (first | (simp (maxDischargeDepth := 80) only [modStream_kept, copyEmber_kept, crossEdge_kept,
                        landChunk_kept, countEmber_kept, finishStream_kept, Kept.self, kept_mk, MemKept.self,
                        implies_true, *]; done) | split | dsimp only)

theorem discardChunk_kept (k : Nat) (s : State) {s0 : State} (h0 : Kept s0 s) :
    Kept s0 (discardChunk k s) := by
  unfold discardChunk
  simp (maxDischargeDepth := 80) only [countDropped_kept, chunkBack_kept, Kept.self, kept_mk, MemKept.self, kept_ite,
      kept_ite_snd, implies_true, *]

theorem serveChunk_kept (k : Nat) (ch : Chunk) (errs : List BurstErr) (data : List Byte) (s : State) {s0 : State} (h0 :
    Kept s0 s) :
    Kept s0 (serveChunk k ch errs data s) := by
  unfold serveChunk
  repeat' (first | (simp (maxDischargeDepth := 80) only [endStream_kept, stopStream_kept, chunkVerdict_kept,
                        chunkBack_kept, landAndFinish_kept, Kept.self, kept_mk, MemKept.self, kept_ite, kept_ite_snd,
                        implies_true, *]; done) | split | dsimp only)

theorem returnChunk_kept (k : Nat) (errs : List BurstErr) (data : List Byte) (s : State) {s0 : State} (h0 : Kept s0 s) :
    Kept s0 (returnChunk k errs data s) := by
  unfold returnChunk
  repeat' (first | (simp (maxDischargeDepth := 80) only [modPos_kept, finishStream_kept, discardChunk_kept,
                        serveChunk_kept, Kept.self, kept_mk, MemKept.self, kept_ite, kept_ite_snd, implies_true, *];
                        done) | split | dsimp only)

theorem releaseAccess_kept (h : HeldAccess) (s : State) {s0 : State} (h0 : Kept s0 s) :
    Kept s0 (releaseAccess h s) := by
  unfold releaseAccess
  simp (maxDischargeDepth := 80) only [returnChunk_kept, Kept.self, kept_mk, MemKept.self, kept_ite, kept_ite_snd,
      implies_true, *]

theorem releaseChannel_kept (n ch : Nat) (s : State) {s0 : State} (h0 : Kept s0 s) :
    Kept s0 (releaseChannel n ch s) := by
  unfold releaseChannel
  simp (maxDischargeDepth := 80) only [modPos_kept, forAll_kept, releaseAccess_kept, Kept.self, kept_mk, MemKept.self,
      implies_true, *]

theorem execChunkReturn_kept (posn : Posn) (sctx : BitVec 17) (errs : List BurstErr) (data : List Byte) (s : State) {s0 :
    State} (h0 : Kept s0 s) :
    OutKept s0 (execChunkReturn posn sctx errs data s) := by
  unfold execChunkReturn
  simp (maxDischargeDepth := 80) only [returnChunk_kept, Kept.self, kept_mk, MemKept.self, outKept_next, implies_true,
      *]

theorem mirrorAcked_kept (k : Nat) (s : State) {s0 : State} (h0 : Kept s0 s) :
    Kept s0 (mirrorAcked k s) := by
  unfold mirrorAcked
  simp (maxDischargeDepth := 80) only [modStream_kept, finishStream_kept, Kept.self, kept_mk, MemKept.self,
      implies_true, *]

theorem modRed_kept (i : Nat) (f : Reduction → Reduction) (s : State) {s0 : State} (h0 : Kept s0 s) :
    Kept s0 (modRed i f s) := by
  unfold modRed
  simp (maxDischargeDepth := 80) only [modFab_kept, Kept.self, kept_mk, MemKept.self, implies_true, *]

theorem mayRead_kept (r : Reduction) (s : State) {s0 : State} (h0 : Kept s0 s) : Kept s0 (mayRead r s).2 := by
  have fold : ∀ (l : List RedNode) (b : Bool) (t : State), Kept s0 t → Kept s0 (l.foldl (fun p n =>
      ((p.1 && (guardedRead (placerMid p.2 (r.src + n.shard * r.elements * redSize r.cfmt.toNat)) r.ctx
        (r.src + n.shard * r.elements * redSize r.cfmt.toNat) (r.elements * redSize r.cfmt.toNat) p.2).1,
        (guardedRead (placerMid p.2 (r.src + n.shard * r.elements * redSize r.cfmt.toNat)) r.ctx
        (r.src + n.shard * r.elements * redSize r.cfmt.toNat) (r.elements * redSize r.cfmt.toNat) p.2).2) :
        Bool × State)) (b, t)).2 := by
    intro l
    induction l with
    | nil => exact fun _ _ h => h
    | cons n l ih => exact fun b t h => ih _ _ (guardedRead_kept _ _ _ _ _ h)
  exact fold _ true s h0

theorem landRed_kept (i shard off : Nat) (data : List (BitVec 32)) (s : State) {s0 : State} (h0 : Kept s0 s) :
    Kept s0 (landRed i shard off data s) := by
  unfold landRed
  repeat' (first | (simp (maxDischargeDepth := 80) only [guardedWrite_kept, modRed_kept, Kept.self, kept_mk,
                        MemKept.self, implies_true, *]; done) | split | dsimp only)

theorem sendToMember_kept (c : Ctx) (member : Nat) (p : Packet) (s : State) {s0 : State} (h0 : Kept s0 s) :
    Kept s0 (sendToMember c member p s) := by
  unfold sendToMember
  simp (maxDischargeDepth := 80) only [sendToRank_kept, Kept.self, kept_mk, MemKept.self, implies_true, *]

theorem emitNode_kept (i j : Nat) (off : Nat) (data : List (BitVec 32)) (s : State) {s0 : State} (h0 : Kept s0 s) :
    Kept s0 (emitNode i j off data s).2 := by
  unfold emitNode
  repeat' (first | (simp (maxDischargeDepth := 80) only [forAll_kept, modRed_kept, landRed_kept,
                        sendToMember_kept, Kept.self, kept_mk, MemKept.self, kept_ite, kept_ite_snd, implies_true, *];
                        done) | split | dsimp only)

/-- What a node emits leaves a state that keeps as much. -/
theorem emitNode_after {i j off : Nat} {v : List (BitVec 32)} {s t s0 : State} {o : Option RedOperand}
    (h : emitNode i j off v s = (o, t)) (h0 : Kept s0 s) : Kept s0 t := by
  have e := emitNode_kept i j off v s h0
  rwa [h] at e

theorem pairOperand_kept (n i : Nat) (o : RedOperand) (s : State) {s0 : State} (h0 : Kept s0 s) :
    Kept s0 (pairOperand n i o s) := by
  induction n generalizing o s with
  | zero => exact h0
  | succ n ih =>
    unfold pairOperand
    repeat' (first | exact h0 | exact modRed_kept _ _ _ h0 |
      (generalize hm : emitNode i _ o.off _ _ = r
       obtain ⟨_ | up, t⟩ := r
       · exact emitNode_after hm (modRed_kept _ _ _ h0)
       · exact ih _ _ (emitNode_after hm (modRed_kept _ _ _ h0))) | split | dsimp only)

theorem settleRed_kept (i status detail : Nat) (s : State) {s0 : State} (h0 : Kept s0 s) :
    Kept s0 (settleRed i status detail s) := by
  unfold settleRed
  repeat' (first | (simp (maxDischargeDepth := 80) only [modFab_kept, completeKey_kept, modRed_kept, Kept.self,
                        kept_mk, MemKept.self, kept_ite, kept_ite_snd, implies_true, *]; done) | split | dsimp only)

theorem finishRed_kept (i : Nat) (s : State) {s0 : State} (h0 : Kept s0 s) :
    Kept s0 (finishRed i s) := by
  unfold finishRed
  repeat' (first | (simp (maxDischargeDepth := 80) only [settleRed_kept, Kept.self, kept_mk, MemKept.self,
                        kept_ite, kept_ite_snd, implies_true, *]; done) | split | dsimp only)

theorem sendLeaf_kept (f i j : Nat) (s : State) {s0 : State} (h0 : Kept s0 s) : Kept s0 (sendLeaf f i j s) := by
  induction f generalizing s with
  | zero => exact h0
  | succ f ih =>
    unfold sendLeaf
    repeat' (first | exact h0 | split | dsimp only)
    · exact ih _ (pairOperand_kept _ _ _ _ (emitNode_after ‹_› h0))
    · exact ih _ (emitNode_after ‹_› h0)

theorem sendLeaves_kept (i : Nat) (s : State) {s0 : State} (h0 : Kept s0 s) :
    Kept s0 (sendLeaves i s) := by
  unfold sendLeaves
  simp (maxDischargeDepth := 80) only [forAll_kept, sendLeaf_kept, Kept.self, kept_mk, MemKept.self, implies_true, *]

theorem pumpLeaves_kept (i : Nat) (s : State) {s0 : State} (h0 : Kept s0 s) :
    Kept s0 (pumpLeaves i s) := by
  unfold pumpLeaves
  simp (maxDischargeDepth := 80) only [forAll_kept, sendLeaves_kept, Kept.self, kept_mk, MemKept.self, implies_true,
      *]

theorem sumContribution_kept (d : Desc) (r : Reduction) (s : State) {s0 : State} (h0 : Kept s0 s) :
    Kept s0 (sumContribution d r s) := by
  unfold sumContribution
  simp (maxDischargeDepth := 80) only [addOutput_kept, Kept.self, kept_mk, MemKept.self, kept_ite, kept_ite_snd,
      implies_true, *]

theorem openRed_kept (c : Ctx) (d : Desc) (r : Reduction) (s : State) {s0 : State} (h0 : Kept s0 s) :
    Kept s0 (openRed c d r s) := by
  unfold openRed
  repeat' (first | (simp (maxDischargeDepth := 80) only [modStream_kept, modFab_kept, keepStarting_kept,
                        finishRed_kept, pumpLeaves_kept, sumContribution_kept, Kept.self, kept_mk, MemKept.self,
                        implies_true, *]; done) | split | dsimp only)

theorem execStreamReduce_kept (ctx : Ctx) (s : State) {s0 : State} (h0 : Kept s0 s) :
    OutKept s0 (execStreamReduce ctx s) := by
  unfold execStreamReduce
  repeat' (first | (simp (maxDischargeDepth := 80) only [finishStarting_kept, chargeCause_kept, mayRead_kept,
                        openRed_kept, Kept.self, kept_mk, MemKept.self, kept_ite, kept_ite_snd, outKept_next,
                        outKept_ite, implies_true, *]; done) | split | dsimp only)

theorem redStray_kept (redid : BitVec 16) (s : State) {s0 : State} (h0 : Kept s0 s) :
    Kept s0 (redStray redid s) := by
  unfold redStray
  repeat' (first | (simp (maxDischargeDepth := 80) only [modStep_kept, modFab_kept, chargeCause_kept,
                        settleRed_kept, Kept.self, kept_mk, MemKept.self, kept_ite, kept_ite_snd, implies_true, *];
                        done) | split | dsimp only)

theorem arriveOperand_kept (redid : BitVec 16) (o : RedOperand) (s : State) {s0 : State} (h0 : Kept s0 s) :
    Kept s0 (arriveOperand redid o s) := by
  unfold arriveOperand
  repeat' (first | (simp (maxDischargeDepth := 80) only [pairOperand_kept, finishRed_kept, pumpLeaves_kept,
                        redStray_kept, Kept.self, kept_mk, MemKept.self, kept_ite, kept_ite_snd, implies_true, *];
                        done) | split | dsimp only)

theorem arriveResult_kept (redid : BitVec 16) (shard off : Nat) (data : List (BitVec 32)) (s : State) {s0 : State} (h0 :
    Kept s0 s) :
    Kept s0 (arriveResult redid shard off data s) := by
  unfold arriveResult
  repeat' (first | (simp (maxDischargeDepth := 80) only [landRed_kept, finishRed_kept, redStray_kept, Kept.self,
                        kept_mk, MemKept.self, implies_true, *]; done) | split | dsimp only)

theorem execReductionOperandArrive_kept (redid shard : BitVec 16) (lo hi : BitVec 15) (offset : BitVec 40) (data : List
    (BitVec 32)) (s : State) {s0 : State} (h0 : Kept s0 s) :
    OutKept s0 (execReductionOperandArrive redid shard lo hi offset data s) := by
  unfold execReductionOperandArrive
  simp (maxDischargeDepth := 80) only [arriveOperand_kept, Kept.self, kept_mk, MemKept.self, outKept_next,
      implies_true, *]

end Sys2Proof.Machine
end

