-- ==== Sys2Proof/Laws/KeptContexts.lean ====
section
/-! SUPPORT. What every operation keeps (`Kept`): contexts, status, copies, resets and map-out. -/

set_option linter.all false

namespace Sys2Proof.Machine

theorem clearSync_kept (base count : Nat) (s : State) {s0 : State} (h0 : Kept s0 s) :
    Kept s0 (clearSync base count s) := by
  unfold clearSync
  repeat' (first | (simp (maxDischargeDepth := 80) only [modHif_kept, Kept.self, kept_mk, MemKept.self, kept_ite,
                        kept_ite_snd, implies_true, *]; done) | split | dsimp only)

theorem setStatus_kept (f : Nat) (c : Ctx) (result : Nat) (s : State) {s0 : State} (h0 : Kept s0 s) :
    Kept s0 (setStatus f c result s) := by
  unfold setStatus
  simp (maxDischargeDepth := 80) only [modHif_kept, Kept.self, kept_mk, MemKept.self, kept_ite, kept_ite_snd,
      implies_true, *]

theorem noteAer_kept (f : Nat) (read : HostReadEnd) (s : State) {s0 : State} (h0 : Kept s0 s) :
    Kept s0 (noteAer f read s) := by
  unfold noteAer
  simp (maxDischargeDepth := 80) only [modHif_kept, Kept.self, kept_mk, MemKept.self, kept_ite, kept_ite_snd,
      implies_true, *]

theorem createCmd_kept (f : Fin 64) (ctx : Ctx) (read : HostReadEnd) (s : State) {s0 : State} (h0 : Kept s0 s) :
    Kept s0 (createCmd f ctx read s) := by
  unfold createCmd
  simp (maxDischargeDepth := 80) only [modCtx_kept, clearSync_kept, setStatus_kept, noteAer_kept, Kept.self, kept_mk,
      MemKept.self, kept_ite, kept_ite_snd, implies_true, *]

theorem execCtxCreate_kept (f : Fin 64) (ctx : Ctx) (read : HostReadEnd) (s : State) {s0 : State} (h0 : Kept s0 s) :
    OutKept s0 (execCtxCreate f ctx read s) := by
  unfold execCtxCreate
  simp (maxDischargeDepth := 80) only [createCmd_kept, Kept.self, kept_mk, MemKept.self, outKept_next, implies_true,
      *]

theorem dropFifos_kept (c : Ctx) (s : State) {s0 : State} (h0 : Kept s0 s) :
    Kept s0 (dropFifos c s) := by
  unfold dropFifos
  simp (maxDischargeDepth := 80) only [mapCells_kept, countDropped_kept, Kept.self, kept_mk, MemKept.self,
      implies_true, *]

theorem teardownAbort_kept (c : Ctx) (s : State) {s0 : State} (h0 : Kept s0 s) :
    Kept s0 (teardownAbort c s) := by
  unfold teardownAbort
  repeat' (first | (simp (maxDischargeDepth := 80) only [injectAbort_kept, Kept.self, kept_mk, MemKept.self,
                        implies_true, *]; done) | split | dsimp only)

theorem teardownStage2_kept (c : Ctx) (s : State) {s0 : State} (h0 : Kept s0 s) :
    Kept s0 (teardownStage2 c s) := by
  unfold teardownStage2
  simp (maxDischargeDepth := 80) only [modPos_kept, modStep_kept, forAll_kept, stopCells_kept, setModes_kept,
      clearValid_kept, loseRankIn_kept, teardownAbort_kept, Kept.self, kept_mk, MemKept.self, kept_ite, kept_ite_snd,
      implies_true, *]

theorem beginTeardown_kept (c : Ctx) (d : Option Desc) (s : State) {s0 : State} (h0 : Kept s0 s) :
    Kept s0 (beginTeardown c d s) := by
  unfold beginTeardown
  simp (maxDischargeDepth := 80) only [modCtx_kept, teardownStage2_kept, Kept.self, kept_mk, MemKept.self, kept_ite,
      kept_ite_snd, implies_true, *]

theorem execTeardown_kept (ctx : Ctx) (s : State) {s0 : State} (h0 : Kept s0 s) :
    OutKept s0 (execTeardown ctx s) := by
  unfold execTeardown
  repeat' (first | (simp (maxDischargeDepth := 80) only [beginTeardown_kept, Kept.self, kept_mk, MemKept.self,
                        kept_ite, kept_ite_snd, outKept_next, outKept_ite, implies_true, *]; done) | split | dsimp only)

theorem teardownCmd_kept (f : Fin 64) (ctx : Ctx) (s : State) {s0 : State} (h0 : Kept s0 s) :
    Kept s0 (teardownCmd f ctx s) := by
  unfold teardownCmd
  simp (maxDischargeDepth := 80) only [setStatus_kept, beginTeardown_kept, Kept.self, kept_mk, MemKept.self, kept_ite,
      kept_ite_snd, implies_true, *]

theorem execCtxTeardown_kept (f : Fin 64) (ctx : Ctx) (s : State) {s0 : State} (h0 : Kept s0 s) :
    OutKept s0 (execCtxTeardown f ctx s) := by
  unfold execCtxTeardown
  simp (maxDischargeDepth := 80) only [teardownCmd_kept, Kept.self, kept_mk, MemKept.self, outKept_next, implies_true,
      *]

theorem queryCmd_kept (f : Fin 64) (ctx : Ctx) (s : State) {s0 : State} (h0 : Kept s0 s) :
    Kept s0 (queryCmd f ctx s) := by
  unfold queryCmd
  simp (maxDischargeDepth := 80) only [setStatus_kept, Kept.self, kept_mk, MemKept.self, kept_ite, kept_ite_snd,
      implies_true, *]

theorem execCtxQuery_kept (f : Fin 64) (ctx : Ctx) (s : State) {s0 : State} (h0 : Kept s0 s) :
    OutKept s0 (execCtxQuery f ctx s) := by
  unfold execCtxQuery
  simp (maxDischargeDepth := 80) only [queryCmd_kept, Kept.self, kept_mk, MemKept.self, outKept_next, implies_true, *]

theorem endCopies_kept (c : Ctx) (s : State) {s0 : State} (h0 : Kept s0 s) :
    Kept s0 (endCopies c s) := by
  unfold endCopies
  simp (maxDischargeDepth := 80) only [modCtx_kept, Kept.self, kept_mk, MemKept.self, kept_ite, kept_ite_snd,
      implies_true, *]

theorem execTeardownGenerationChange_kept (ctx : Ctx) (s : State) {s0 : State} (h0 : Kept s0 s) :
    OutKept s0 (execTeardownGenerationChange ctx s) := by
  unfold execTeardownGenerationChange
  simp (maxDischargeDepth := 80) only [modCtx_kept, closeReductions_kept, dropFifos_kept, endCopies_kept, Kept.self,
      kept_mk, MemKept.self, kept_ite, kept_ite_snd, outKept_next, outKept_ite, implies_true, *]

theorem teardownRecord_kept (c : Ctx) (status : Nat) (s : State) {s0 : State} (h0 : Kept s0 s) :
    Kept s0 (teardownRecord c status s) := by
  unfold teardownRecord
  repeat' (first | (simp (maxDischargeDepth := 80) only [signalDesc_kept, sendMsix_kept, writeCompletion_kept,
                        Kept.self, kept_mk, MemKept.self, kept_ite, kept_ite_snd, implies_true, *]; done) | split | dsimp only)

theorem execTeardownFinish_kept (ctx : Ctx) (s : State) {s0 : State} (h0 : Kept s0 s) :
    OutKept s0 (execTeardownFinish ctx s) := by
  unfold execTeardownFinish
  repeat' (first | (simp (maxDischargeDepth := 80) only [advanceTo_kept, modHif_kept, modCtx_kept, modStep_kept,
                        raise_kept, teardownRecord_kept, Kept.self, kept_mk, MemKept.self, kept_ite, kept_ite_snd,
                        outKept_next, outKept_ite, implies_true, *]; done) | split | dsimp only)

theorem tearAll_kept (p : Context → Bool) (s : State) {s0 : State} (h0 : Kept s0 s) :
    Kept s0 (tearAll p s) := by
  unfold tearAll
  simp (maxDischargeDepth := 80) only [forAll_kept, beginTeardown_kept, Kept.self, kept_mk, MemKept.self,
      implies_true, *]

theorem execFunctionLevelReset_kept (f : Fin 64) (port : Fin 2) (s : State) {s0 : State} (h0 : Kept s0 s) :
    OutKept s0 (execFunctionLevelReset f port s) := by
  unfold execFunctionLevelReset
  simp (maxDischargeDepth := 80) only [modHif_kept, tearAll_kept, Kept.self, kept_mk, MemKept.self, kept_ite,
      kept_ite_snd, outKept_next, outKept_ite, implies_true, *]

theorem execHostDmaError_kept (ctx : Ctx) (s : State) {s0 : State} (h0 : Kept s0 s) :
    OutKept s0 (execHostDmaError ctx s) := by
  unfold execHostDmaError
  simp (maxDischargeDepth := 80) only [beginTeardown_kept, Kept.self, kept_mk, MemKept.self, outKept_next,
      implies_true, *]

theorem writeFuncCfg_kept (f : Nat) (v : BitVec 64) (s : State) {s0 : State} (h0 : Kept s0 s) :
    Kept s0 (writeFuncCfg f v s) := by
  unfold writeFuncCfg
  simp (maxDischargeDepth := 80) only [modHif_kept, raise_kept, Kept.self, kept_mk, MemKept.self, kept_ite,
      kept_ite_snd, implies_true, *]

theorem execHifFuncCfgWrite_kept (f : Fin 64) (v : BitVec 64) (s : State) {s0 : State} (h0 : Kept s0 s) :
    OutKept s0 (execHifFuncCfgWrite f v s) := by
  unfold execHifFuncCfgWrite
  simp (maxDischargeDepth := 80) only [writeFuncCfg_kept, Kept.self, kept_mk, MemKept.self, outKept_next,
      implies_true, *]

theorem execVfEnable_kept (port : Fin 2) (s : State) {s0 : State} (h0 : Kept s0 s) :
    OutKept s0 (execVfEnable port s) := by
  unfold execVfEnable
  simp (maxDischargeDepth := 80) only [modHif_kept, Kept.self, kept_mk, MemKept.self, kept_ite, kept_ite_snd,
      outKept_next, outKept_ite, implies_true, *]

theorem memZero_kept (a b : Nat) (s : State) {s0 : State} (h0 : Kept s0 s) :
    Kept s0 (memZero a b s) := by
  unfold memZero
  repeat' (first | (simp (maxDischargeDepth := 80) only [Kept.self, kept_mk, MemKept.self, memKept_nil,
                        memKept_ite, memKept_filter, implies_true, *]; done) | split | dsimp only)

theorem scrubPosn_kept (n : Nat) (s : State) {s0 : State} (h0 : Kept s0 s) :
    Kept s0 (scrubPosn n s) := by
  unfold scrubPosn
  simp (maxDischargeDepth := 80) only [modPos_kept, mapCells_kept, memZero_kept, Kept.self, kept_mk, MemKept.self,
      implies_true, *]

theorem execFirmwareScrub_kept (s : State) {s0 : State} (h0 : Kept s0 s) :
    OutKept s0 (execFirmwareScrub s) := by
  unfold execFirmwareScrub
  repeat' (first | (simp (maxDischargeDepth := 80) only [modHif_kept, modMgmt_kept, forAll_kept, raise_kept,
                        memZero_kept, scrubPosn_kept, Kept.self, kept_mk, MemKept.self, kept_ite, kept_ite_snd,
                        outKept_next, outKept_ite, implies_true, *]; done) | split | dsimp only)

theorem alertSets_kept (before after : State) {s0 : State} (h0 : Kept s0 after) :
    Kept s0 (alertSets before after) := by
  unfold alertSets
  simp (maxDischargeDepth := 80) only [Kept.self, kept_mk, MemKept.self, kept_ite, *]

theorem snapLost_kept (c : Ctx) (s : State) {s0 : State} (h0 : Kept s0 s) :
    Kept s0 (snapLost c s) := by
  unfold snapLost
  repeat' (first | (simp (maxDischargeDepth := 80) only [modCtx_kept, completeKey_kept, Kept.self, kept_mk,
                        MemKept.self, implies_true, *]; done) | split | dsimp only)

theorem bankLost_kept (detail : Nat) (s : State) {s0 : State} (h0 : Kept s0 s) :
    Kept s0 (bankLost detail s) := by
  unfold bankLost
  repeat' (first | (simp (maxDischargeDepth := 80) only [raise_kept, completeKey_kept, Kept.self, kept_mk,
                        MemKept.self, implies_true, *]; done) | split | dsimp only)

theorem snapsLostOn_kept (n : Nat) (s : State) {s0 : State} (h0 : Kept s0 s) :
    Kept s0 (snapsLostOn n s) := by
  unfold snapsLostOn
  simp (maxDischargeDepth := 80) only [forAll_kept, snapLost_kept, Kept.self, kept_mk, MemKept.self, implies_true, *]

theorem bankLostOn_kept (n detail : Nat) (s : State) {s0 : State} (h0 : Kept s0 s) :
    Kept s0 (bankLostOn n detail s) := by
  unfold bankLostOn
  simp (maxDischargeDepth := 80) only [bankLost_kept, Kept.self, kept_mk, MemKept.self, kept_ite, kept_ite_snd,
      implies_true, *]

theorem writeCapture_kept (r : PendingReset) (complete : Bool) (s : State) {s0 : State} (h0 : Kept s0 s) :
    Kept s0 (writeCapture r complete s) := by
  unfold writeCapture
  repeat' (first | (simp (maxDischargeDepth := 80) only [memWrite_kept, Kept.self, kept_mk, MemKept.self,
                        implies_true, *]; done) | split | dsimp only)

theorem resetStream_kept (k : Nat) (s : State) {s0 : State} (h0 : Kept s0 s) :
    Kept s0 (resetStream k s) := by
  unfold resetStream
  simp (maxDischargeDepth := 80) only [modCtx_kept, modStream_kept, endStream_kept, Kept.self, kept_mk, MemKept.self,
      kept_ite, kept_ite_snd, implies_true, *]

theorem resetTransfer_kept (posn engine : Nat) (s : State) {s0 : State} (h0 : Kept s0 s) :
    Kept s0 (resetTransfer posn engine s) := by
  unfold resetTransfer
  simp (maxDischargeDepth := 80) only [modPos_kept, forAll_kept, clearCheck_kept, resetStream_kept, Kept.self,
      kept_mk, MemKept.self, kept_ite, kept_ite_snd, implies_true, *]

theorem resetAgent_kept (posn : Nat) (s : State) {s0 : State} (h0 : Kept s0 s) :
    Kept s0 (resetAgent posn s) := by
  unfold resetAgent
  simp (maxDischargeDepth := 80) only [modPos_kept, snapsLostOn_kept, bankLostOn_kept, Kept.self, kept_mk,
      MemKept.self, kept_ite, kept_ite_snd, implies_true, *]

theorem resetUnit_kept (u : Nat) (s : State) {s0 : State} (h0 : Kept s0 s) :
    Kept s0 (resetUnit u s) := by
  unfold resetUnit
  simp (maxDischargeDepth := 80) only [modFab_kept, clearCheck_kept, Kept.self, kept_mk, MemKept.self, kept_ite,
      kept_ite_snd, implies_true, *]

theorem resetEdges_kept (n : Nat) (s : State) {s0 : State} (h0 : Kept s0 s) :
    Kept s0 (resetEdges n s) := by
  unfold resetEdges
  simp (maxDischargeDepth := 80) only [forAll_kept, modEdge_kept, Kept.self, kept_mk, MemKept.self, implies_true, *]

theorem endStreamsOf_kept (n : Nat) (s : State) {s0 : State} (h0 : Kept s0 s) :
    Kept s0 (endStreamsOf n s) := by
  unfold endStreamsOf
  simp (maxDischargeDepth := 80) only [forAll_kept, endStream_kept, Kept.self, kept_mk, MemKept.self, implies_true, *]

theorem loseStepOf_kept (n : Nat) (s : State) {s0 : State} (h0 : Kept s0 s) :
    Kept s0 (loseStepOf n s) := by
  unfold loseStepOf
  repeat' (first | (simp (maxDischargeDepth := 80) only [chargeCause_kept, loseRanks_kept, Kept.self, kept_mk,
                        MemKept.self, kept_ite, kept_ite_snd, implies_true, *]; done) | split | dsimp only)

theorem resetPosition_kept (n : Nat) (s : State) {s0 : State} (h0 : Kept s0 s) :
    Kept s0 (resetPosition n s) := by
  unfold resetPosition
  simp (maxDischargeDepth := 80) only [loseStepOf_kept, bankLostOn_kept, snapsLostOn_kept, endStreamsOf_kept, modPos_kept,
      resetEdges_kept, memZero_kept, Kept.self, kept_mk, MemKept.self, kept_mk_repairs, kept_ite, implies_true, *]

theorem doReset_kept (r : PendingReset) (s : State) {s0 : State} (h0 : Kept s0 s) :
    Kept s0 (doReset r s) := by
  unfold doReset
  simp (maxDischargeDepth := 80) only [modPos_kept, raise_kept, resetTransfer_kept, resetAgent_kept, resetUnit_kept,
      resetPosition_kept, Kept.self, kept_mk, MemKept.self, kept_ite, kept_ite_snd, implies_true, *]

theorem startReset_kept (r : PendingReset) (captured : Bool) (s : State) {s0 : State} (h0 : Kept s0 s) :
    Kept s0 (startReset r captured s) := by
  unfold startReset
  simp (maxDischargeDepth := 80) only [writeCapture_kept, doReset_kept, Kept.self, kept_mk, MemKept.self, kept_ite,
      kept_ite_snd, implies_true, *]

theorem partitionReset_kept (n cause : Nat) (s : State) {s0 : State} (h0 : Kept s0 s) :
    Kept s0 (partitionReset n cause s) := by
  unfold partitionReset
  simp (maxDischargeDepth := 80) only [startReset_kept, Kept.self, kept_mk, MemKept.self, implies_true, *]

theorem setRasReset_kept (v : BitVec 32) (s : State) {s0 : State} (h0 : Kept s0 s) :
    Kept s0 (setRasReset v s) := by
  unfold setRasReset
  simp (maxDischargeDepth := 80) only [Kept.self, kept_mk, MemKept.self, implies_true, *]

theorem rasWrite_kept (m : Master) (v : BitVec 32) (level : Nat) (f : Nat → State → State) (s : State) {s0 : State}
    (h0 : Kept s0 s) (hf : ∀ a t, Kept t (f a t)) :
    Kept s0 (rasWrite m v level f s) := by
  have hg := fun a t (h : Kept s0 t) => h.trans (hf a t)
  unfold rasWrite
  (repeat' split) <;> simp (maxDischargeDepth := 80) only [setRasReset_kept, Kept.self, kept_ite, implies_true, *]

theorem execRasResetEngine_kept (m : Master) (v : BitVec 32) (captured : Bool) (s : State) {s0 : State} (h0 : Kept s0 s) :
    OutKept s0 (execRasResetEngine m v captured s) := by
  unfold execRasResetEngine
  refine outKept_next (rasWrite_kept _ _ _ _ _ h0 fun cause t => ?_)
  split <;> simp (maxDischargeDepth := 80) only [rasWrite_kept, startReset_kept, Kept.self, outKept_next, implies_true]

theorem execRasResetPartition_kept (m : Master) (v : BitVec 32) (captured : Bool) (s : State) {s0 : State} (h0 : Kept s0
    s) :
    OutKept s0 (execRasResetPartition m v captured s) := by
  unfold execRasResetPartition
  simp (maxDischargeDepth := 80) only [startReset_kept, rasWrite_kept, Kept.self, kept_mk, MemKept.self, outKept_next,
      implies_true, *]

theorem requestChip_kept (s : State) {s0 : State} (h0 : Kept s0 s) :
    Kept s0 (requestChip s) := by
  unfold requestChip
  simp (maxDischargeDepth := 80) only [alertSets_kept, Kept.self, kept_mk, MemKept.self, implies_true, *]

theorem execRasResetChipRequest_kept (m : Master) (v : BitVec 32) (s : State) {s0 : State} (h0 : Kept s0 s) :
    OutKept s0 (execRasResetChipRequest m v s) := by
  unfold execRasResetChipRequest
  simp (maxDischargeDepth := 80) only [rasWrite_kept, requestChip_kept, Kept.self, kept_mk, MemKept.self,
      outKept_next, implies_true, *]

theorem execEngineWatchdog_kept (posn : Posn) (engine : BitVec 6) (stateError captured : Bool) (s : State) {s0 : State}
    (h0 : Kept s0 s) :
    OutKept s0 (execEngineWatchdog posn engine stateError captured s) := by
  unfold execEngineWatchdog
  repeat' (first | (simp (maxDischargeDepth := 80) only [startReset_kept, Kept.self, kept_mk, MemKept.self,
                        kept_ite, kept_ite_snd, outKept_next, outKept_ite, implies_true, *]; done) | split | dsimp only)

theorem execCaptureLeaseExpiry_kept (s : State) {s0 : State} (h0 : Kept s0 s) :
    OutKept s0 (execCaptureLeaseExpiry s) := by
  unfold execCaptureLeaseExpiry
  repeat' (first | (simp (maxDischargeDepth := 80) only [writeCapture_kept, doReset_kept, Kept.self, kept_mk,
                        MemKept.self, outKept_next, implies_true, *]; done) | split | dsimp only)

theorem startEdge_kept (e : Nat) (s : State) {s0 : State} (h0 : Kept s0 s) :
    Kept s0 (startEdge e s) := by
  unfold startEdge
  repeat' (first | (simp (maxDischargeDepth := 80) only [modEdge_kept, Kept.self, kept_mk, MemKept.self,
                        kept_ite, kept_ite_snd, implies_true, *]; done) | split | dsimp only)

theorem lockPlls_kept (n : Nat) (s : State) {s0 : State} (h0 : Kept s0 s) :
    Kept s0 (lockPlls n s) := by
  unfold lockPlls
  repeat' (first | (simp (maxDischargeDepth := 80) only [Kept.self, kept_mk, MemKept.self, kept_ite,
                        kept_ite_snd, implies_true, *]; done) | split | dsimp only)

theorem execPartitionResetDone_kept (posn : Posn) (s : State) {s0 : State} (h0 : Kept s0 s) :
    OutKept s0 (execPartitionResetDone posn s) := by
  unfold execPartitionResetDone
  simp (maxDischargeDepth := 80) only [modPos_kept, forAll_kept, startEdge_kept, lockPlls_kept, Kept.self, kept_mk,
      MemKept.self, kept_ite, kept_ite_snd, outKept_next, outKept_ite, implies_true, *]

theorem execPartitionResetTimeout_kept (posn : Posn) (s : State) {s0 : State} (h0 : Kept s0 s) :
    OutKept s0 (execPartitionResetTimeout posn s) := by
  unfold execPartitionResetTimeout
  simp (maxDischargeDepth := 80) only [modPos_kept, Kept.self, kept_mk, MemKept.self, kept_ite, kept_ite_snd,
      outKept_next, outKept_ite, implies_true, *]

theorem execEngineResetDone_kept (posn : Posn) (engine : BitVec 6) (s : State) {s0 : State} (h0 : Kept s0 s) :
    OutKept s0 (execEngineResetDone posn engine s) := by
  unfold execEngineResetDone
  simp (maxDischargeDepth := 80) only [modPos_kept, Kept.self, kept_mk, MemKept.self, kept_ite, kept_ite_snd,
      outKept_next, outKept_ite, implies_true, *]

theorem execEngineResetTimeout_kept (posn : Posn) (engine : BitVec 6) (s : State) {s0 : State} (h0 : Kept s0 s) :
    OutKept s0 (execEngineResetTimeout posn engine s) := by
  unfold execEngineResetTimeout
  simp (maxDischargeDepth := 80) only [partitionReset_kept, requestChip_kept, Kept.self, kept_mk, MemKept.self,
      kept_ite, kept_ite_snd, outKept_next, outKept_ite, implies_true, *]

theorem execContextResetTimeout_kept (ctx : Ctx) (s : State) {s0 : State} (h0 : Kept s0 s) :
    OutKept s0 (execContextResetTimeout ctx s) := by
  unfold execContextResetTimeout
  simp (maxDischargeDepth := 80) only [forAll_kept, startReset_kept, Kept.self, kept_mk, MemKept.self, kept_ite,
      kept_ite_snd, outKept_next, outKept_ite, implies_true, *]

theorem withdraw_kept (n l : Nat) (s : State) {s0 : State} (h0 : Kept s0 s) :
    Kept s0 (withdraw n l s) := by
  unfold withdraw
  simp (maxDischargeDepth := 80) only [modPos_kept, shrink_kept, partitionReset_kept, Kept.self, kept_mk,
      MemKept.self, kept_ite, kept_ite_snd, implies_true, *]

theorem clearStripe_kept (n l : Nat) (s : State) {s0 : State} (h0 : Kept s0 s) :
    Kept s0 (clearStripe n l s) := by
  unfold clearStripe
  simp (maxDischargeDepth := 80) only [modPos_kept, Kept.self, kept_mk, MemKept.self, implies_true, *]

theorem leaveEntry_kept (n l : Nat) (s : State) {s0 : State} (h0 : Kept s0 s) :
    Kept s0 (leaveEntry n l s) := by
  unfold leaveEntry
  repeat' (first | (simp (maxDischargeDepth := 80) only [modPos_kept, Kept.self, kept_mk, MemKept.self,
                        implies_true, *]; done) | split | dsimp only)

theorem retireReserve_kept (n r : Nat) (s : State) {s0 : State} (h0 : Kept s0 s) :
    Kept s0 (retireReserve n r s) := by
  unfold retireReserve
  simp (maxDischargeDepth := 80) only [modPos_kept, saveRemap_kept, clearStripe_kept, Kept.self, kept_mk,
      MemKept.self, kept_ite, kept_ite_snd, implies_true, *]

theorem mapStripe_kept (n l : Nat) (bad : Bool) (pulled : Option (List (Nat × Byte))) (src : BitVec 12) (s : State) {s0 :
    State} (h0 : Kept s0 s) :
    Kept s0 (mapStripe n l bad pulled src s) := by
  unfold mapStripe
  repeat' (first | (simp (maxDischargeDepth := 80) only [modPos_kept, raise_kept, restoreStripe_kept,
                        saveRemap_kept, withdraw_kept, Kept.self, kept_mk, MemKept.self, kept_ite, kept_ite_snd,
                        implies_true, *]; done) | split | dsimp only)

theorem execStripeRemap_kept (posn : Posn) (stripe : BitVec 24) (why : RemapCause) (s : State) {s0 : State} (h0 : Kept s0
    s) :
    OutKept s0 (execStripeRemap posn stripe why s) := by
  unfold execStripeRemap
  repeat' (first | (simp (maxDischargeDepth := 80) only [clearStripe_kept, leaveEntry_kept, retireReserve_kept,
                        mapStripe_kept, Kept.self, kept_mk, MemKept.self, kept_ite, kept_ite_snd, outKept_next,
                        outKept_ite, implies_true, *]; done) | split | dsimp only)

theorem execRetrainComplete_kept (posn : Posn) (ch : Fin 32) (s : State) {s0 : State} (h0 : Kept s0 s) :
    OutKept s0 (execRetrainComplete posn ch s) := by
  unfold execRetrainComplete
  simp (maxDischargeDepth := 80) only [forAll_kept, modChan_kept, writeBack_kept, releaseChannel_kept, Kept.self,
      kept_mk, MemKept.self, kept_ite, kept_ite_snd, outKept_next, outKept_ite, implies_true, *]

theorem limpChan_kept (n q : Nat) (dead : Bool) (s : State) {s0 : State} (h0 : Kept s0 s) :
    Kept s0 (limpChan n q dead s) := by
  unfold limpChan
  simp (maxDischargeDepth := 80) only [raise_kept, clearCheck_kept, modChan_kept, Kept.self, kept_mk, MemKept.self,
      implies_true, *]

theorem mapoutStart_kept (n q : Nat) (pulled : Option (List (Nat × Byte))) (s : State) {s0 : State} (h0 : Kept s0 s) :
    Kept s0 (mapoutStart n q pulled s) := by
  unfold mapoutStart
  simp (maxDischargeDepth := 80) only [modPos_kept, forAll_kept, modChan_kept, restoreStripe_kept, saveRemap_kept,
      withdraw_kept, clearStripe_kept, Kept.self, kept_mk, MemKept.self, kept_ite, kept_ite_snd, implies_true, *]

theorem mapoutFinish_kept (n q : Nat) (pulled : Option (List (Nat × Byte))) (s : State) {s0 : State} (h0 : Kept s0 s) :
    Kept s0 (mapoutFinish n q pulled s) := by
  unfold mapoutFinish
  repeat' (first | (simp (maxDischargeDepth := 80) only [modPos_kept, forAll_kept, raise_kept, modChan_kept,
                        shrink_kept, restoreStripe_kept, saveRemap_kept, releaseChannel_kept, clearStripe_kept,
                        Kept.self, kept_mk, MemKept.self, kept_ite, kept_ite_snd, implies_true, *]; done) | split | dsimp only)

theorem execMapout_kept (posn : Posn) (m : MapoutInput) (s : State) {s0 : State} (h0 : Kept s0 s) :
    OutKept s0 (execMapout posn m s) := by
  unfold execMapout
  repeat' (first | (simp (maxDischargeDepth := 80) only [limpChan_kept, mapoutStart_kept, mapoutFinish_kept,
                        Kept.self, kept_mk, MemKept.self, kept_ite, kept_ite_snd, outKept_next, outKept_ite,
                        implies_true, *]; done) | split | dsimp only)

end Sys2Proof.Machine
end

