-- ==== Sys2Proof/Laws/KeptLinks.lean ====
section
/-! SUPPORT. What every operation keeps (`Kept`): edges, ports, statistics, commits and the mirror. -/

set_option linter.all false

namespace Sys2Proof.Machine

theorem quarantineEdge_kept (e : Nat) (s : State) {s0 : State} (h0 : Kept s0 s) :
    Kept s0 (quarantineEdge e s) := by
  unfold quarantineEdge
  simp (maxDischargeDepth := 80) only [occur_kept, raise_kept, modEdge_kept, Kept.self, kept_mk, MemKept.self,
      kept_ite, kept_ite_snd, implies_true, *]

theorem retrainEdge_kept (e : Nat) (s : State) {s0 : State} (h0 : Kept s0 s) :
    Kept s0 (retrainEdge e s) := by
  unfold retrainEdge
  simp (maxDischargeDepth := 80) only [occur_kept, modEdge_kept, Kept.self, kept_mk, MemKept.self, kept_ite,
      kept_ite_snd, implies_true, *]

theorem edgeCrcError_kept (e m : Nat) (s : State) {s0 : State} (h0 : Kept s0 s) :
    Kept s0 (edgeCrcError e m s) := by
  unfold edgeCrcError
  simp (maxDischargeDepth := 80) only [occur_kept, modEdge_kept, retrainEdge_kept, Kept.self, kept_mk, MemKept.self,
      kept_ite, kept_ite_snd, implies_true, *]

theorem execEdgeFrameReceive_kept (e : Fin 14) (module : Fin 16) (fr : Frame) (s : State) {s0 : State} (h0 : Kept s0 s) :
    OutKept s0 (execEdgeFrameReceive e module fr s) := by
  unfold execEdgeFrameReceive
  simp (maxDischargeDepth := 80) only [modEdge_kept, quarantineEdge_kept, edgeCrcError_kept, Kept.self, kept_mk,
      MemKept.self, kept_ite, kept_ite_snd, outKept_next, outKept_ite, implies_true, *]

theorem execEdgeNakReceive_kept (e : Fin 14) (module : Fin 16) (ack : BitVec 8) (s : State) {s0 : State} (h0 : Kept s0 s)
    :
    OutKept s0 (execEdgeNakReceive e module ack s) := by
  unfold execEdgeNakReceive
  simp (maxDischargeDepth := 80) only [modEdge_kept, Kept.self, kept_mk, MemKept.self, kept_ite, kept_ite_snd,
      outKept_next, outKept_ite, implies_true, *]

theorem d2dStage_kept (s : State) {s0 : State} (h0 : Kept s0 s) :
    Kept s0 (d2dStage s) := by
  unfold d2dStage
  simp (maxDischargeDepth := 80) only [raise_kept, Kept.self, kept_mk, MemKept.self, kept_ite, kept_ite_snd,
      implies_true, *]

theorem losePosn_kept (n : Nat) (s : State) {s0 : State} (h0 : Kept s0 s) :
    Kept s0 (losePosn n s) := by
  unfold losePosn
  simp (maxDischargeDepth := 80) only [modPos_kept, loseStepOf_kept, Kept.self, kept_mk, MemKept.self, kept_ite,
      kept_ite_snd, implies_true, *]

theorem failEdge_kept (e : Nat) (s : State) {s0 : State} (h0 : Kept s0 s) :
    Kept s0 (failEdge e s) := by
  unfold failEdge
  simp (maxDischargeDepth := 80) only [raise_kept, modEdge_kept, partitionReset_kept, d2dStage_kept, losePosn_kept,
      Kept.self, kept_mk, MemKept.self, kept_ite, kept_ite_snd, implies_true, *]

theorem execEdgeSbinitTimeout_kept (e : Fin 14) (s : State) {s0 : State} (h0 : Kept s0 s) :
    OutKept s0 (execEdgeSbinitTimeout e s) := by
  unfold execEdgeSbinitTimeout
  simp (maxDischargeDepth := 80) only [advanceTo_kept, failEdge_kept, Kept.self, kept_mk, MemKept.self, kept_ite,
      kept_ite_snd, outKept_next, outKept_ite, implies_true, *]

theorem execEdgeSidebandUp_kept (e : Fin 14) (s : State) {s0 : State} (h0 : Kept s0 s) :
    OutKept s0 (execEdgeSidebandUp e s) := by
  unfold execEdgeSidebandUp
  simp (maxDischargeDepth := 80) only [modEdge_kept, Kept.self, kept_mk, MemKept.self, kept_ite, kept_ite_snd,
      outKept_next, outKept_ite, implies_true, *]

theorem decideWidth_kept (e : Nat) (s : State) {s0 : State} (h0 : Kept s0 s) :
    Kept s0 (decideWidth e s) := by
  unfold decideWidth
  simp (maxDischargeDepth := 80) only [occur_kept, modEdge_kept, failEdge_kept, Kept.self, kept_mk, MemKept.self,
      kept_ite, kept_ite_snd, implies_true, *]

theorem execEdgeModuleTrainingDone_kept (e : Fin 14) (near far : BitVec 16) (s : State) {s0 : State} (h0 : Kept s0 s) :
    OutKept s0 (execEdgeModuleTrainingDone e near far s) := by
  unfold execEdgeModuleTrainingDone
  repeat' (first | (simp (maxDischargeDepth := 80) only [modEdge_kept, decideWidth_kept, Kept.self, kept_mk,
                        MemKept.self, outKept_next, implies_true, *]; done) | split | dsimp only)

theorem edgeGoesOn_kept (e : Nat) (s : State) {s0 : State} (h0 : Kept s0 s) :
    Kept s0 (edgeGoesOn e s) := by
  unfold edgeGoesOn
  repeat' (first | (simp (maxDischargeDepth := 80) only [modEdge_kept, Kept.self, kept_mk, MemKept.self,
                        kept_ite, kept_ite_snd, implies_true, *]; done) | split | dsimp only)

theorem execEdgeLinkinitDone_kept (e : Fin 14) (s : State) {s0 : State} (h0 : Kept s0 s) :
    OutKept s0 (execEdgeLinkinitDone e s) := by
  unfold execEdgeLinkinitDone
  simp (maxDischargeDepth := 80) only [raise_kept, modEdge_kept, d2dStage_kept, Kept.self, kept_mk, MemKept.self,
      kept_ite, kept_ite_snd, outKept_next, outKept_ite, implies_true, *]

theorem execLinkinitModuleFail_kept (e : Fin 14) (module : Fin 16) (s : State) {s0 : State} (h0 : Kept s0 s) :
    OutKept s0 (execLinkinitModuleFail e module s) := by
  unfold execLinkinitModuleFail
  simp (maxDischargeDepth := 80) only [modEdge_kept, decideWidth_kept, Kept.self, kept_mk, MemKept.self, kept_ite,
      kept_ite_snd, outKept_next, outKept_ite, implies_true, *]

theorem execEdgeRetrainTrigger_kept (e : Fin 14) (s : State) {s0 : State} (h0 : Kept s0 s) :
    OutKept s0 (execEdgeRetrainTrigger e s) := by
  unfold execEdgeRetrainTrigger
  simp (maxDischargeDepth := 80) only [retrainEdge_kept, Kept.self, kept_mk, MemKept.self, outKept_next, implies_true,
      *]

theorem execEdgeQuarantine_kept (e : Fin 14) (s : State) {s0 : State} (h0 : Kept s0 s) :
    OutKept s0 (execEdgeQuarantine e s) := by
  unfold execEdgeQuarantine
  simp (maxDischargeDepth := 80) only [quarantineEdge_kept, Kept.self, kept_mk, MemKept.self, outKept_next,
      implies_true, *]

theorem execQuarantineTimeout_kept (e : Fin 14) (s : State) {s0 : State} (h0 : Kept s0 s) :
    OutKept s0 (execQuarantineTimeout e s) := by
  unfold execQuarantineTimeout
  simp (maxDischargeDepth := 80) only [advanceTo_kept, partitionReset_kept, Kept.self, kept_mk, MemKept.self,
      kept_ite, kept_ite_snd, outKept_next, outKept_ite, implies_true, *]

theorem execEdgeSidebandPoll_kept (e : Fin 14) (mask : BitVec 16) (ctag : BitVec 4) (s : State) {s0 : State} (h0 : Kept
    s0 s) :
    OutKept s0 (execEdgeSidebandPoll e mask ctag s) := by
  unfold execEdgeSidebandPoll
  simp (maxDischargeDepth := 80) only [modEdge_kept, quarantineEdge_kept, Kept.self, kept_mk, MemKept.self, kept_ite,
      kept_ite_snd, outKept_next, outKept_ite, implies_true, *]

theorem raiseTransit_kept (k : Nat) (s : State) {s0 : State} (h0 : Kept s0 s) :
    Kept s0 (raiseTransit k s) := by
  unfold raiseTransit
  simp (maxDischargeDepth := 80) only [raise_kept, Kept.self, kept_mk, MemKept.self, implies_true, *]

theorem afterTransitMsg_kept (s : State) {s0 : State} (h0 : Kept s0 s) :
    Kept s0 (afterTransitMsg s) := by
  unfold afterTransitMsg
  simp (maxDischargeDepth := 80) only [Kept.self, kept_mk, MemKept.self, implies_true, *]

theorem transitError_kept (p : Nat) (s : State) {s0 : State} (h0 : Kept s0 s) :
    Kept s0 (transitError p s) := by
  unfold transitError
  simp (maxDischargeDepth := 80) only [forAll_kept, sendTc0_kept, raiseTransit_kept, afterTransitMsg_kept, Kept.self,
      kept_mk, MemKept.self, kept_ite, kept_ite_snd, implies_true, *]

theorem transitPacket_kept (port : Nat) (p : Packet) (s : State) {s0 : State} (h0 : Kept s0 s) :
    Kept s0 (transitPacket port p s) := by
  unfold transitPacket
  repeat' (first | (simp (maxDischargeDepth := 80) only [modFab_kept, emitOn_kept, transitError_kept, Kept.self,
                        kept_mk, MemKept.self, implies_true, *]; done) | split | dsimp only)

theorem transitArrive_kept (port : Nat) (p : Packet) (s : State) {s0 : State} (h0 : Kept s0 s) :
    Kept s0 (transitArrive port p s) := by
  unfold transitArrive
  simp (maxDischargeDepth := 80) only [forAll_kept, raiseTransit_kept, transitPacket_kept, Kept.self, kept_mk,
      MemKept.self, kept_ite, kept_ite_snd, implies_true, *]

theorem transitTc0_kept (port : Nat) (msg : Tc0) (s : State) {s0 : State} (h0 : Kept s0 s) :
    Kept s0 (transitTc0 port msg s) := by
  unfold transitTc0
  simp (maxDischargeDepth := 80) only [transitPacket_kept, Kept.self, kept_mk, MemKept.self, implies_true, *]

theorem execTransitErrReceive_kept (port : Fin 24) (pid : BitVec 12) (s : State) {s0 : State} (h0 : Kept s0 s) :
    OutKept s0 (execTransitErrReceive port pid s) := by
  unfold execTransitErrReceive
  simp (maxDischargeDepth := 80) only [afterTransitMsg_kept, transitArrive_kept, Kept.self, kept_mk, MemKept.self,
      outKept_next, implies_true, *]

theorem nakArrive_kept (p : Nat) (ack : BitVec 12) (s : State) {s0 : State} (h0 : Kept s0 s) :
    Kept s0 (nakArrive p ack s) := by
  unfold nakArrive
  simp (maxDischargeDepth := 80) only [modPort_kept, transitError_kept, Kept.self, kept_mk, MemKept.self, kept_ite,
      kept_ite_snd, implies_true, *]

theorem takeFlit_kept (p : Nat) (fl : Flit) (s : State) {s0 : State} (h0 : Kept s0 s) :
    Kept s0 (takeFlit p fl s) := by
  unfold takeFlit
  repeat' (first | (simp (maxDischargeDepth := 80) only [modPort_kept, nakArrive_kept, Kept.self, kept_mk,
                        MemKept.self, implies_true, *]; done) | split | dsimp only)

theorem degradePort_kept (p : Nat) (s : State) {s0 : State} (h0 : Kept s0 s) :
    Kept s0 (degradePort p s) := by
  unfold degradePort
  simp (maxDischargeDepth := 80) only [modPort_kept, transitError_kept, Kept.self, kept_mk, MemKept.self,
      implies_true, *]

theorem badCodeword_kept (p lane : Nat) (s : State) {s0 : State} (h0 : Kept s0 s) :
    Kept s0 (badCodeword p lane s) := by
  unfold badCodeword
  simp (maxDischargeDepth := 80) only [modPort_kept, degradePort_kept, Kept.self, kept_mk, MemKept.self, kept_ite,
      kept_ite_snd, implies_true, *]

theorem spoiledFlit_kept (p : Nat) (bad : Option (Fin 8)) (s : State) {s0 : State} (h0 : Kept s0 s) :
    Kept s0 (spoiledFlit p bad s) := by
  unfold spoiledFlit
  repeat' (first | (simp (maxDischargeDepth := 80) only [modPort_kept, occur_kept, badCodeword_kept, Kept.self,
                        kept_mk, MemKept.self, implies_true, *]; done) | split | dsimp only)

theorem execFlitReceive_kept (port : Fin 24) (a : FlitArrival) (s : State) {s0 : State} (h0 : Kept s0 s) :
    OutKept s0 (execFlitReceive port a s) := by
  unfold execFlitReceive
  repeat' (first | (simp (maxDischargeDepth := 80) only [modPort_kept, occur_kept, forAll_kept, takeFlit_kept,
                        spoiledFlit_kept, Kept.self, kept_mk, MemKept.self, kept_ite, kept_ite_snd, outKept_next,
                        outKept_ite, implies_true, *]; done) | split | dsimp only)

theorem execFlitNakReceive_kept (port : Fin 24) (ack : BitVec 12) (s : State) {s0 : State} (h0 : Kept s0 s) :
    OutKept s0 (execFlitNakReceive port ack s) := by
  unfold execFlitNakReceive
  simp (maxDischargeDepth := 80) only [nakArrive_kept, Kept.self, kept_mk, MemKept.self, kept_ite, kept_ite_snd,
      outKept_next, outKept_ite, implies_true, *]

theorem resendPacket_kept (port : Nat) (o : OutPacket) (s : State) {s0 : State} (h0 : Kept s0 s) :
    Kept s0 (resendPacket port o s) := by
  unfold resendPacket
  simp (maxDischargeDepth := 80) only [modFab_kept, modPort_kept, Kept.self, kept_mk, MemKept.self, implies_true, *]

theorem movePackets_kept (p r : Nat) (s : State) {s0 : State} (h0 : Kept s0 s) :
    Kept s0 (movePackets p r s) := by
  unfold movePackets
  simp (maxDischargeDepth := 80) only [modPort_kept, forAll_kept, resendPacket_kept, Kept.self, kept_mk, MemKept.self,
      implies_true, *]

theorem portDown_kept (p : Nat) (s : State) {s0 : State} (h0 : Kept s0 s) :
    Kept s0 (portDown p s) := by
  unfold portDown
  repeat' (first | (simp (maxDischargeDepth := 80) only [modPort_kept, occur_kept, forAll_kept, chargeCause_kept,
                        transitError_kept, movePackets_kept, Kept.self, kept_mk, MemKept.self, kept_ite, kept_ite_snd,
                        implies_true, *]; done) | split | dsimp only)

theorem takeOver_kept (p : Nat) (s : State) {s0 : State} (h0 : Kept s0 s) :
    Kept s0 (takeOver p s) := by
  unfold takeOver
  simp (maxDischargeDepth := 80) only [forAll_kept, movePackets_kept, Kept.self, kept_mk, MemKept.self, implies_true,
      *]

theorem discoveryDone_kept (s : State) {s0 : State} (h0 : Kept s0 s) :
    Kept s0 (discoveryDone s) := by
  unfold discoveryDone
  simp (maxDischargeDepth := 80) only [modFab_kept, raise_kept, Kept.self, kept_mk, MemKept.self, kept_ite,
      kept_ite_snd, implies_true, *]

theorem sendIdent_kept (p : Nat) (s : State) {s0 : State} (h0 : Kept s0 s) :
    Kept s0 (sendIdent p s) := by
  unfold sendIdent
  simp (maxDischargeDepth := 80) only [modFab_kept, Kept.self, kept_mk, MemKept.self, implies_true, *]

theorem trainPort_kept (p : Nat) (s : State) {s0 : State} (h0 : Kept s0 s) :
    Kept s0 (trainPort p s) := by
  unfold trainPort
  simp (maxDischargeDepth := 80) only [modPort_kept, sendIdent_kept, Kept.self, kept_mk, MemKept.self, implies_true,
      *]

theorem holdPort_kept (p : Nat) (code : EventCode) (s : State) {s0 : State} (h0 : Kept s0 s) :
    Kept s0 (holdPort p code s) := by
  unfold holdPort
  simp (maxDischargeDepth := 80) only [modPort_kept, raise_kept, discoveryDone_kept, Kept.self, kept_mk, MemKept.self,
      implies_true, *]

theorem execLinkctlIdent_kept (port : Fin 24) (serial : BitVec 64) (farPort : BitVec 5) (digest : BitVec 64) (s : State)
    {s0 : State} (h0 : Kept s0 s) :
    OutKept s0 (execLinkctlIdent port serial farPort digest s) := by
  unfold execLinkctlIdent
  repeat' (first | (simp (maxDischargeDepth := 80) only [modPort_kept, sendBitmaps_kept, takeOver_kept,
                        discoveryDone_kept, holdPort_kept, Kept.self, kept_mk, MemKept.self, kept_ite, kept_ite_snd,
                        outKept_next, outKept_ite, implies_true, *]; done) | split | dsimp only)

theorem execLaneDegrade_kept (port : Fin 24) (s : State) {s0 : State} (h0 : Kept s0 s) :
    OutKept s0 (execLaneDegrade port s) := by
  unfold execLaneDegrade
  simp (maxDischargeDepth := 80) only [degradePort_kept, Kept.self, kept_mk, MemKept.self, kept_ite, kept_ite_snd,
      outKept_next, outKept_ite, implies_true, *]

theorem resumePort_kept (p : Nat) (near : BitVec 8) (s : State) {s0 : State} (h0 : Kept s0 s) :
    Kept s0 (resumePort p near s) := by
  unfold resumePort
  simp (maxDischargeDepth := 80) only [modPort_kept, sendLink_kept, sendBitmaps_kept, takeOver_kept, Kept.self,
      kept_mk, MemKept.self, implies_true, *]

theorem execLaneTrainingDone_kept (port : Fin 24) (near far : BitVec 8) (s : State) {s0 : State} (h0 : Kept s0 s) :
    OutKept s0 (execLaneTrainingDone port near far s) := by
  unfold execLaneTrainingDone
  repeat' (first | (simp (maxDischargeDepth := 80) only [modPort_kept, occur_kept, raise_kept, portDown_kept,
                        discoveryDone_kept, resumePort_kept, Kept.self, kept_mk, MemKept.self, kept_ite, kept_ite_snd,
                        outKept_next, outKept_ite, implies_true, *]; done) | split | dsimp only)

theorem execIdentTimeout_kept (port : Fin 24) (s : State) {s0 : State} (h0 : Kept s0 s) :
    OutKept s0 (execIdentTimeout port s) := by
  unfold execIdentTimeout
  simp (maxDischargeDepth := 80) only [modPort_kept, raise_kept, discoveryDone_kept, Kept.self, kept_mk, MemKept.self,
      kept_ite, kept_ite_snd, outKept_next, outKept_ite, implies_true, *]

theorem retrainPort_kept (p : Nat) (s : State) {s0 : State} (h0 : Kept s0 s) :
    Kept s0 (retrainPort p s) := by
  unfold retrainPort
  repeat' (first | (simp (maxDischargeDepth := 80) only [modPort_kept, occur_kept, trainPort_kept, Kept.self,
                        kept_mk, MemKept.self, kept_ite, kept_ite_snd, implies_true, *]; done) | split | dsimp only)

theorem execFabPortRetrain_kept (m : Master) (s : State) {s0 : State} (h0 : Kept s0 s) :
    OutKept s0 (execFabPortRetrain m s) := by
  unfold execFabPortRetrain
  repeat' (first | (simp (maxDischargeDepth := 80) only [retrainPort_kept, Kept.self, kept_mk, MemKept.self,
                        outKept_next, implies_true, *]; done) | split | dsimp only)

theorem execPidBitmap_kept (port : Fin 24) (pids : List (BitVec 12)) (s : State) {s0 : State} (h0 : Kept s0 s) :
    OutKept s0 (execPidBitmap port pids s) := by
  unfold execPidBitmap
  simp (maxDischargeDepth := 80) only [modPort_kept, Kept.self, kept_mk, MemKept.self, kept_ite, kept_ite_snd,
      outKept_next, outKept_ite, implies_true, *]

theorem steer_kept (off : Int) (s : State) {s0 : State} (h0 : Kept s0 s) :
    Kept s0 (steer off s) := by
  unfold steer
  simp (maxDischargeDepth := 80) only [modFab_kept, Kept.self, kept_mk, MemKept.self, kept_ite, kept_ite_snd,
      implies_true, *]

theorem missExchange_kept (s : State) {s0 : State} (h0 : Kept s0 s) :
    Kept s0 (missExchange s) := by
  unfold missExchange
  repeat' (first | (simp (maxDischargeDepth := 80) only [modFab_kept, raise_kept, Kept.self, kept_mk,
                        MemKept.self, kept_ite, kept_ite_snd, implies_true, *]; done) | split | dsimp only)

theorem execTimeExchange_kept (stamps : Option TimeStamps) (s : State) {s0 : State} (h0 : Kept s0 s) :
    OutKept s0 (execTimeExchange stamps s) := by
  unfold execTimeExchange
  repeat' (first | (simp (maxDischargeDepth := 80) only [modFab_kept, sendLink_kept, steer_kept,
                        missExchange_kept, Kept.self, kept_mk, MemKept.self, kept_ite, kept_ite_snd, outKept_next,
                        outKept_ite, implies_true, *]; done) | split | dsimp only)

theorem dropRecord_kept (n : Nat) (s : State) {s0 : State} (h0 : Kept s0 s) :
    Kept s0 (dropRecord n s) := by
  unfold dropRecord
  simp (maxDischargeDepth := 80) only [modPos_kept, Kept.self, kept_mk, MemKept.self, implies_true, *]

theorem raiseRingFull_kept (n : Nat) (step : BitVec 64) (s : State) {s0 : State} (h0 : Kept s0 s) :
    Kept s0 (raiseRingFull n step s) := by
  unfold raiseRingFull
  simp (maxDischargeDepth := 80) only [modPos_kept, raise_kept, Kept.self, kept_mk, MemKept.self, kept_ite,
      kept_ite_snd, implies_true, *]

theorem writeRecord_kept (n a : Nat) (bs : List Byte) (s : State) {s0 : State} (h0 : Kept s0 s) :
    Kept s0 (writeRecord n a bs s).2 := by
  unfold writeRecord
  repeat' (first | (simp (maxDischargeDepth := 80) only [memWrite_kept, gfwRange_kept, Kept.self, kept_mk,
                        MemKept.self, kept_ite, kept_ite_snd, implies_true, *]; done) | split | dsimp only)

theorem ringRecord_kept (n : Nat) (step : BitVec 64) (bs : List Byte) (s : State) {s0 : State} (h0 : Kept s0 s) :
    Kept s0 (ringRecord n step bs s) := by
  unfold ringRecord
  simp (maxDischargeDepth := 80) only [modPos_kept, dropRecord_kept, raiseRingFull_kept, writeRecord_kept, Kept.self,
      kept_mk, MemKept.self, kept_ite, kept_ite_snd, implies_true, *]

theorem closeRecord_kept (n slot : Nat) (step : BitVec 64) (attempt : BitVec 4) (auto : Bool) (p : Partial) (s : State)
    {s0 : State} (h0 : Kept s0 s) :
    Kept s0 (closeRecord n slot step attempt auto p s) := by
  unfold closeRecord
  simp (maxDischargeDepth := 80) only [modPos_kept, ringRecord_kept, Kept.self, kept_mk, MemKept.self, implies_true,
      *]

theorem mergeArrived_kept (n : Nat) (m : PartialMsg) (s : State) {s0 : State} (h0 : Kept s0 s) :
    Kept s0 (mergeArrived n m s) := by
  unfold mergeArrived
  repeat' (first | (simp (maxDischargeDepth := 80) only [modPos_kept, closeRecord_kept, Kept.self, kept_mk,
                        MemKept.self, kept_ite, kept_ite_snd, implies_true, *]; done) | split | dsimp only)

theorem takePartial_kept (n : Nat) (s : State) {s0 : State} (h0 : Kept s0 s) :
    Kept s0 (takePartial n s) := by
  unfold takePartial
  repeat' (first | (simp (maxDischargeDepth := 80) only [modPos_kept, mergeArrived_kept, Kept.self, kept_mk,
                        MemKept.self, implies_true, *]; done) | split | dsimp only)

theorem execStatPartialArrive_kept (posn : Posn) (s : State) {s0 : State} (h0 : Kept s0 s) :
    OutKept s0 (execStatPartialArrive posn s) := by
  unfold execStatPartialArrive
  simp (maxDischargeDepth := 80) only [takePartial_kept, Kept.self, kept_mk, MemKept.self, outKept_next, implies_true,
      *]

theorem writeStatTail_kept (n : Nat) (v : BitVec 32) (s : State) {s0 : State} (h0 : Kept s0 s) :
    Kept s0 (writeStatTail n v s) := by
  unfold writeStatTail
  simp (maxDischargeDepth := 80) only [modPos_kept, raise_kept, Kept.self, kept_mk, MemKept.self, kept_ite,
      kept_ite_snd, implies_true, *]

theorem execStatRingTailWrite_kept (posn : Posn) (v : BitVec 32) (s : State) {s0 : State} (h0 : Kept s0 s) :
    OutKept s0 (execStatRingTailWrite posn v s) := by
  unfold execStatRingTailWrite
  simp (maxDischargeDepth := 80) only [writeStatTail_kept, Kept.self, kept_mk, MemKept.self, kept_ite, kept_ite_snd,
      outKept_next, outKept_ite, implies_true, *]

theorem autoClose_kept (n : Nat) (h : Held) (s : State) {s0 : State} (h0 : Kept s0 s) :
    Kept s0 (autoClose n h s) := by
  unfold autoClose
  simp (maxDischargeDepth := 80) only [modPos_kept, forAll_kept, mapCells_kept, closeRecord_kept, mergeArrived_kept,
      Kept.self, kept_mk, MemKept.self, kept_ite, kept_ite_snd, implies_true, *]

theorem watchSlot_kept (n slot : Nat) (h : Held) (mask : BitVec 1024) (s : State) {s0 : State} (h0 : Kept s0 s) :
    Kept s0 (watchSlot n slot h mask s) := by
  unfold watchSlot
  repeat' (first | (simp (maxDischargeDepth := 80) only [modPos_kept, raise_kept, Kept.self, kept_mk,
                        MemKept.self, kept_ite, kept_ite_snd, implies_true, *]; done) | split | dsimp only)

theorem watchUnderflow_kept (n : Nat) (h : Held) (mask : BitVec 1024) (s : State) {s0 : State} (h0 : Kept s0 s) :
    Kept s0 (watchUnderflow n h mask s) := by
  unfold watchUnderflow
  repeat' (first | (simp (maxDischargeDepth := 80) only [forAll_kept, watchSlot_kept, Kept.self, kept_mk,
                        MemKept.self, kept_ite, kept_ite_snd, implies_true, *]; done) | split | dsimp only)

theorem forgetClosed_kept (n : Nat) (step : BitVec 64) (s : State) {s0 : State} (h0 : Kept s0 s) :
    Kept s0 (forgetClosed n step s) := by
  unfold forgetClosed
  simp (maxDischargeDepth := 80) only [modPos_kept, Kept.self, kept_mk, MemKept.self, implies_true, *]

theorem resolveStats_kept (h : Held) (commit : Bool) (mask : BitVec 1024) (s : State) {s0 : State} (h0 : Kept s0 s) :
    Kept s0 (resolveStats h commit mask s) := by
  unfold resolveStats
  simp (maxDischargeDepth := 80) only [forAll_kept, autoClose_kept, watchUnderflow_kept, forgetClosed_kept, Kept.self,
      kept_mk, MemKept.self, kept_ite, kept_ite_snd, implies_true, *]

theorem writeBs16_kept (a n b : Nat) (vs : List (BitVec 32)) (s : State) {s0 : State} (h0 : Kept s0 s) :
    Kept s0 (writeBs16 a n b vs s) := by
  unfold writeBs16
  simp (maxDischargeDepth := 80) only [memWrite_kept, Kept.self, kept_mk, MemKept.self, implies_true, *]

theorem writeWorking_kept (e : UpdEntry) (b : Nat) (s : State) {s0 : State} (h0 : Kept s0 s) :
    Kept s0 (writeWorking e b s) := by
  unfold writeWorking
  simp (maxDischargeDepth := 80) only [memWrite_kept, Kept.self, kept_mk, MemKept.self, implies_true, *]

theorem commitBlock_kept (owner : Bool) (e : UpdEntry) (ec : Int) (b : Nat) (s : State) {s0 : State} (h0 : Kept s0 s) :
    Kept s0 (commitBlock owner e ec b s) := by
  unfold commitBlock
  simp (maxDischargeDepth := 80) only [memWrite_kept, writeBs16_kept, writeWorking_kept, Kept.self, kept_mk,
      MemKept.self, kept_ite, kept_ite_snd, implies_true, *]

theorem writeHeader_kept (e : UpdEntry) (s : State) {s0 : State} (h0 : Kept s0 s) :
    Kept s0 (writeHeader e s) := by
  unfold writeHeader
  simp (maxDischargeDepth := 80) only [memWrite_kept, Kept.self, kept_mk, MemKept.self, implies_true, *]

theorem writePulled_kept (p : Nat → Bool) (l : List (Nat × Byte)) (s : State) {s0 : State} (h0 : Kept s0 s) :
    Kept s0 (writePulled p l s) := by
  unfold writePulled
  simp (maxDischargeDepth := 80) only [forAll_kept, memWrite_kept, Kept.self, kept_mk, MemKept.self, implies_true, *]

theorem commitOrPull_kept (owner : Bool) (ms : List CommitMiss) (n i : Nat) (e : UpdEntry) (ec : Int) (b : Nat) (s :
    State) {s0 : State} (h0 : Kept s0 s) :
    Kept s0 (commitOrPull owner ms n i e ec b s) := by
  unfold commitOrPull
  repeat' (first | (simp (maxDischargeDepth := 80) only [writeWorking_kept, commitBlock_kept, writePulled_kept,
                        Kept.self, kept_mk, MemKept.self, kept_ite, kept_ite_snd, implies_true, *]; done) | split | dsimp only)

theorem commitEntry_kept (owner : Bool) (ms : List CommitMiss) (n i : Nat) (e : UpdEntry) (s : State) {s0 : State} (h0 :
    Kept s0 s) :
    Kept s0 (commitEntry owner ms n i e s) := by
  unfold commitEntry
  repeat' (first | (simp (maxDischargeDepth := 80) only [forAll_kept, writeWorking_kept, writeHeader_kept,
                        writePulled_kept, commitOrPull_kept, Kept.self, kept_mk, MemKept.self, kept_ite, kept_ite_snd,
                        implies_true, *]; done) | split | dsimp only)

theorem commitList_kept (owner : Bool) (ms : List CommitMiss) (t : Option VariantTable) (mask : BitVec 1024) (n : Nat) (l
    : List UpdEntry) (s : State) {s0 : State} (h0 : Kept s0 s) :
    Kept s0 (commitList owner ms t mask n l s) := by
  unfold commitList
  simp (maxDischargeDepth := 80) only [forAll_kept, commitEntry_kept, Kept.self, kept_mk, MemKept.self, kept_ite,
      kept_ite_snd, implies_true, *]

theorem readAhead_kept (areas : List (Nat × Nat)) (s : State) {s0 : State} (h0 : Kept s0 s) :
    Kept s0 (readAhead areas s) := by
  unfold readAhead
  repeat' (first | (simp (maxDischargeDepth := 80) only [freeVal_kept, Kept.self, kept_mk, MemKept.self,
                        kept_ite, kept_ite_snd, implies_true, *]; done) | split | dsimp only)

theorem commitLists_kept (owner : Bool) (ms : List CommitMiss) (t : Option VariantTable) (mask : BitVec 1024) (lists :
    SMap (List UpdEntry)) (s : State) {s0 : State} (h0 : Kept s0 s) :
    Kept s0 (commitLists owner ms t mask lists s) := by
  unfold commitLists
  simp (maxDischargeDepth := 80) only [forAll_kept, commitList_kept, readAhead_kept, Kept.self, kept_mk, MemKept.self,
      implies_true, *]

theorem chargeMisses_kept (ms : List CommitMiss) (mirrored : Bool) (s : State) {s0 : State} (h0 : Kept s0 s) :
    Kept s0 (chargeMisses ms mirrored s) := by
  unfold chargeMisses
  repeat' (first | (simp (maxDischargeDepth := 80) only [clearCheck_kept, declareMirrorLost_kept, Kept.self,
                        kept_mk, MemKept.self, kept_ite, kept_ite_snd, implies_true, *]; done) | split | dsimp only)

theorem sendFence_kept (fop : Nat) (step : BitVec 64) (attempt : BitVec 4) (rest : Nat) (s : State) {s0 : State} (h0 :
    Kept s0 s) :
    Kept s0 (sendFence fop step attempt rest s) := by
  unfold sendFence
  repeat' (first | (simp (maxDischargeDepth := 80) only [sendTc0To_kept, Kept.self, kept_mk, MemKept.self,
                        implies_true, *]; done) | split | dsimp only)

theorem sendRange_kept (kind : StepCopy) (c : Ctx) (dst a len at_ : Nat) (s : State) {s0 : State} (h0 : Kept s0 s) :
    Kept s0 (sendRange kind c dst a len at_ s) := by
  unfold sendRange
  repeat' (first | (simp (maxDischargeDepth := 80) only [forAll_kept, sendPacket_kept, Kept.self, kept_mk,
                        MemKept.self, implies_true, *]; done) | split | dsimp only)

theorem modAudit_kept (f : Audit → Audit) (s : State) {s0 : State} (h0 : Kept s0 s) :
    Kept s0 (modAudit f s) := by
  unfold modAudit
  simp (maxDischargeDepth := 80) only [modStep_kept, Kept.self, kept_mk, MemKept.self, implies_true, *]

theorem compareGroup_kept (g : Nat) (s : State) {s0 : State} (h0 : Kept s0 s) :
    Kept s0 (compareGroup g s) := by
  unfold compareGroup
  repeat' (first | (simp (maxDischargeDepth := 80) only [modStep_kept, raise_kept, completeKey_kept,
                        sendRange_kept, modAudit_kept, Kept.self, kept_mk, MemKept.self, kept_ite, kept_ite_snd,
                        implies_true, *]; done) | split | dsimp only)

theorem auditBoundary_kept (step : BitVec 64) (s : State) {s0 : State} (h0 : Kept s0 s) :
    Kept s0 (auditBoundary step s) := by
  unfold auditBoundary
  repeat' (first | (simp (maxDischargeDepth := 80) only [forAll_kept, modAudit_kept, compareGroup_kept,
                        Kept.self, kept_mk, MemKept.self, implies_true, *]; done) | split | dsimp only)

theorem peerAuditBoundary_kept (step : BitVec 64) (s : State) {s0 : State} (h0 : Kept s0 s) :
    Kept s0 (peerAuditBoundary step s) := by
  unfold peerAuditBoundary
  repeat' (first | (simp (maxDischargeDepth := 80) only [modStep_kept, forAll_kept, sendFence_kept, Kept.self,
                        kept_mk, MemKept.self, implies_true, *]; done) | split | dsimp only)

theorem markSnapshot_kept (c : Ctx) (step : BitVec 64) (s : State) {s0 : State} (h0 : Kept s0 s) :
    Kept s0 (markSnapshot c step s) := by
  unfold markSnapshot
  simp (maxDischargeDepth := 80) only [modCtx_kept, Kept.self, kept_mk, MemKept.self, kept_ite, kept_ite_snd,
      implies_true, *]

theorem markBank_kept (c : Ctx) (step : BitVec 64) (s : State) {s0 : State} (h0 : Kept s0 s) :
    Kept s0 (markBank c step s) := by
  unfold markBank
  simp (maxDischargeDepth := 80) only [Kept.self, kept_mk, MemKept.self, kept_ite, kept_ite_snd, implies_true, *]

theorem sendShadowState_kept (c : Ctx) (s : State) {s0 : State} (h0 : Kept s0 s) :
    Kept s0 (sendShadowState c s) := by
  unfold sendShadowState
  repeat' (first | (simp (maxDischargeDepth := 80) only [forAll_kept, sendFollower_kept, sendRange_kept,
                        Kept.self, kept_mk, MemKept.self, kept_ite, kept_ite_snd, implies_true, *]; done) | split | dsimp only)

theorem atBoundary_kept (c : Ctx) (step : BitVec 64) (s : State) {s0 : State} (h0 : Kept s0 s) :
    Kept s0 (atBoundary c step s) := by
  unfold atBoundary
  simp (maxDischargeDepth := 80) only [auditBoundary_kept, markSnapshot_kept, markBank_kept, sendShadowState_kept,
      Kept.self, kept_mk, MemKept.self, implies_true, *]

end Sys2Proof.Machine
end

