-- ==== Sys2Proof/Laws/KeptStep.lean ====
section
/-! SUPPORT. What every operation keeps (`Kept`): the step transaction, rounds, the mirror family, shadows and banking. -/

set_option linter.all false

namespace Sys2Proof.Machine

theorem chargeOpened_kept (step : BitVec 64) (s : State) {s0 : State} (h0 : Kept s0 s) :
    Kept s0 (chargeOpened step s) := by
  unfold chargeOpened
  repeat' (first | (simp (maxDischargeDepth := 80) only [modStep_kept, injectAbort_kept, Kept.self, kept_mk,
                        MemKept.self, implies_true, *]; done) | split | dsimp only)

theorem openStep_kept (c : Ctx) (d : Desc) (s : State) {s0 : State} (h0 : Kept s0 s) :
    Kept s0 (openStep c d s) := by
  unfold openStep
  simp (maxDischargeDepth := 80) only [modStep_kept, headWriteBack_kept, chargeOpened_kept, Kept.self, kept_mk,
      MemKept.self, implies_true, *]

theorem openFence_kept (c : Ctx) (d : Desc) (i : Nat) (h : Held) (s : State) {s0 : State} (h0 : Kept s0 s) :
    Kept s0 (openFence c d i h s) := by
  unfold openFence
  simp (maxDischargeDepth := 80) only [finishStarting_kept, modHeld_kept, stepFence_kept, Kept.self, kept_mk,
      MemKept.self, implies_true, *]

theorem settleOpen_kept (c : Ctx) (d : Desc) (s : State) {s0 : State} (h0 : Kept s0 s) :
    Kept s0 (settleOpen c d s) := by
  unfold settleOpen
  repeat' (first | (simp (maxDischargeDepth := 80) only [openFence_kept, Kept.self, kept_mk, MemKept.self,
                        kept_ite, kept_ite_snd, implies_true, *]; done) | split | dsimp only)

theorem reopen_kept (c : Ctx) (d : Desc) (i : Nat) (h : Held) (s : State) {s0 : State} (h0 : Kept s0 s) :
    Kept s0 (reopen c d i h s) := by
  unfold reopen
  simp (maxDischargeDepth := 80) only [modCtx_kept, modHeld_kept, chargeOpened_kept, openFence_kept, Kept.self,
      kept_mk, MemKept.self, implies_true, *]

theorem execStepOpen_kept (ctx : Ctx) (s : State) {s0 : State} (h0 : Kept s0 s) :
    OutKept s0 (execStepOpen ctx s) := by
  unfold execStepOpen
  repeat' (first | (simp (maxDischargeDepth := 80) only [modStep_kept, finishStarting_kept, openStep_kept,
                        settleOpen_kept, reopen_kept, Kept.self, kept_mk, MemKept.self, kept_ite, kept_ite_snd,
                        outKept_next, outKept_ite, implies_true, *]; done) | split | dsimp only)

theorem execStepDepthTimeout_kept (ctx : Ctx) (s : State) {s0 : State} (h0 : Kept s0 s) :
    OutKept s0 (execStepDepthTimeout ctx s) := by
  unfold execStepDepthTimeout
  repeat' (first | (simp (maxDischargeDepth := 80) only [advanceTo_kept, modStep_kept, finishStarting_kept,
                        Kept.self, kept_mk, MemKept.self, kept_ite, kept_ite_snd, outKept_next, outKept_ite,
                        implies_true, *]; done) | split | dsimp only)

theorem signalCsync_kept (s : State) {s0 : State} (h0 : Kept s0 s) :
    Kept s0 (signalCsync s) := by
  unfold signalCsync
  simp (maxDischargeDepth := 80) only [syncRequest_kept, Kept.self, kept_mk, MemKept.self, kept_ite, kept_ite_snd,
      implies_true, *]

theorem dropVotes_kept (step : BitVec 64) (s : State) {s0 : State} (h0 : Kept s0 s) :
    Kept s0 (dropVotes step s) := by
  unfold dropVotes
  simp (maxDischargeDepth := 80) only [modStep_kept, Kept.self, kept_mk, MemKept.self, implies_true, *]

theorem completeVote_kept (h : Held) (outcome : Nat) (s : State) {s0 : State} (h0 : Kept s0 s) :
    Kept s0 (completeVote h outcome s) := by
  unfold completeVote
  repeat' (first | (simp (maxDischargeDepth := 80) only [completeKey_kept, Kept.self, kept_mk, MemKept.self,
                        implies_true, *]; done) | split | dsimp only)

theorem notePeer_kept (step : BitVec 64) (mask : BitVec 1024) (skip : Bool) (s : State) {s0 : State} (h0 : Kept s0 s) :
    Kept s0 (notePeer step mask skip s) := by
  unfold notePeer
  simp (maxDischargeDepth := 80) only [modStep_kept, Kept.self, kept_mk, MemKept.self, kept_ite, kept_ite_snd,
      implies_true, *]

theorem writeSkip_kept (k : SkipStep) (s : State) {s0 : State} (h0 : Kept s0 s) :
    Kept s0 (writeSkip k s) := by
  unfold writeSkip
  simp (maxDischargeDepth := 80) only [modStep_kept, atBoundary_kept, Kept.self, kept_mk, MemKept.self, implies_true,
      *]

theorem settleSkips_kept (n : Nat) (s : State) {s0 : State} (h0 : Kept s0 s) : Kept s0 (settleSkips n s) := by
  induction n generalizing s with
  | zero => exact h0
  | succ n ih =>
    unfold settleSkips
    split
    · exact h0
    · split
      · exact h0
      · exact ih _ (writeSkip_kept _ _ (modStep_kept _ _ h0))

theorem resolveSkip_kept (i : Nat) (s : State) {s0 : State} (h0 : Kept s0 s) :
    Kept s0 (resolveSkip i s) := by
  unfold resolveSkip
  repeat' (first | (simp (maxDischargeDepth := 80) only [modStep_kept, headWriteBack_kept, sendRecord_kept,
                        recordWait_kept, resolveStats_kept, signalCsync_kept, dropVotes_kept, completeVote_kept,
                        notePeer_kept, settleSkips_kept, Kept.self, kept_mk, MemKept.self, implies_true, *]; done) | split | dsimp only)

theorem noteMask_kept (h : Held) (mask : BitVec 1024) (s : State) {s0 : State} (h0 : Kept s0 s) :
    Kept s0 (noteMask h mask s) := by
  unfold noteMask
  simp (maxDischargeDepth := 80) only [modStep_kept, raise_kept, Kept.self, kept_mk, MemKept.self, kept_ite,
      kept_ite_snd, implies_true, *]

theorem staleMirror_kept (s : State) {s0 : State} (h0 : Kept s0 s) :
    Kept s0 (staleMirror s) := by
  unfold staleMirror
  repeat' (first | (simp (maxDischargeDepth := 80) only [modStep_kept, Kept.self, kept_mk, MemKept.self,
                        kept_ite, kept_ite_snd, implies_true, *]; done) | split | dsimp only)

theorem resolveCommit_kept (i : Nat) (mask : BitVec 1024) (s : State) {s0 : State} (h0 : Kept s0 s) :
    Kept s0 (resolveCommit i mask s) := by
  unfold resolveCommit
  repeat' (first | (simp (maxDischargeDepth := 80) only [headWriteBack_kept, sendRecord_kept, modHeld_kept,
                        recordWait_kept, resolveStats_kept, dropVotes_kept, completeVote_kept, notePeer_kept,
                        noteMask_kept, staleMirror_kept, Kept.self, kept_mk, MemKept.self, implies_true, *]; done) | split | dsimp only)

theorem resolveCast_kept (i : Nat) (skip : Bool) (mask : BitVec 1024) (s : State) {s0 : State} (h0 : Kept s0 s) :
    Kept s0 (resolveCast i skip mask s) := by
  unfold resolveCast
  simp (maxDischargeDepth := 80) only [resolveSkip_kept, resolveCommit_kept, Kept.self, kept_mk, MemKept.self,
      kept_ite, kept_ite_snd, implies_true, *]

theorem floodResolve_kept (c : Ctx) (step : BitVec 64) (attempt : BitVec 4) (outcome : Nat) (mask : BitVec 1024) (s :
    State) {s0 : State} (h0 : Kept s0 s) :
    Kept s0 (floodResolve c step attempt outcome mask s) := by
  unfold floodResolve
  repeat' (first | (simp (maxDischargeDepth := 80) only [forAll_kept, floodOwn_kept, Kept.self, kept_mk,
                        MemKept.self, implies_true, *]; done) | split | dsimp only)

theorem voteUp_kept (c : Ctx) (step : BitVec 64) (attempt : BitVec 4) (outcome : Nat) (mask : BitVec 1024) (s : State)
    {s0 : State} (h0 : Kept s0 s) :
    Kept s0 (voteUp c step attempt outcome mask s) := by
  unfold voteUp
  repeat' (first | (simp (maxDischargeDepth := 80) only [forAll_kept, sendTc0Rank_kept, Kept.self, kept_mk,
                        MemKept.self, implies_true, *]; done) | split | dsimp only)

theorem tryTree_kept (i : Nat) (s : State) {s0 : State} (h0 : Kept s0 s) :
    Kept s0 (tryTree i s) := by
  unfold tryTree
  repeat' (first | (simp (maxDischargeDepth := 80) only [modHeld_kept, resolveCast_kept, floodResolve_kept,
                        voteUp_kept, Kept.self, kept_mk, MemKept.self, kept_ite, kept_ite_snd, implies_true, *]; done) | split | dsimp only)

theorem dropTc0_kept (s : State) {s0 : State} (h0 : Kept s0 s) :
    Kept s0 (dropTc0 s) := by
  unfold dropTc0
  simp (maxDischargeDepth := 80) only [modFab_kept, Kept.self, kept_mk, MemKept.self, implies_true, *]

theorem keepVote_kept (child : BitVec 14) (rollcall : Bool) (msg : Tc0) (s : State) {s0 : State} (h0 : Kept s0 s) :
    Kept s0 (keepVote child rollcall msg s) := by
  unfold keepVote
  simp (maxDischargeDepth := 80) only [modStep_kept, Kept.self, kept_mk, MemKept.self, implies_true, *]

theorem voteArrives_kept (child : BitVec 14) (msg : Tc0) (s : State) {s0 : State} (h0 : Kept s0 s) :
    Kept s0 (voteArrives child msg s) := by
  unfold voteArrives
  repeat' (first | (simp (maxDischargeDepth := 80) only [tryTree_kept, dropTc0_kept, keepVote_kept, Kept.self,
                        kept_mk, MemKept.self, kept_ite, kept_ite_snd, implies_true, *]; done) | split | dsimp only)

theorem execVoteReceive_kept (child : BitVec 14) (msg : Tc0) (s : State) {s0 : State} (h0 : Kept s0 s) :
    OutKept s0 (execVoteReceive child msg s) := by
  unfold execVoteReceive
  simp (maxDischargeDepth := 80) only [voteArrives_kept, Kept.self, kept_mk, MemKept.self, outKept_next, implies_true,
      *]

theorem forwardResolve_kept (k port : Nat) (msg : Tc0) (s : State) {s0 : State} (h0 : Kept s0 s) :
    Kept s0 (forwardResolve k port msg s) := by
  unfold forwardResolve
  simp (maxDischargeDepth := 80) only [modPart_kept, sendTc0_kept, Kept.self, kept_mk, MemKept.self, kept_ite,
      kept_ite_snd, implies_true, *]

theorem takeSegment_kept (i : Nat) (h : Held) (msg : Tc0) (s : State) {s0 : State} (h0 : Kept s0 s) :
    Kept s0 (takeSegment i h msg s) := by
  unfold takeSegment
  repeat' (first | (simp (maxDischargeDepth := 80) only [modHeld_kept, resolveCast_kept, Kept.self, kept_mk,
                        MemKept.self, kept_ite, kept_ite_snd, implies_true, *]; done) | split | dsimp only)

theorem resolveArrives_kept (port : Nat) (msg : Tc0) (s : State) {s0 : State} (h0 : Kept s0 s) :
    Kept s0 (resolveArrives port msg s) := by
  unfold resolveArrives
  repeat' (first | (simp (maxDischargeDepth := 80) only [resolveAbort_kept, transitTc0_kept, forwardResolve_kept,
                        takeSegment_kept, Kept.self, kept_mk, MemKept.self, kept_ite, kept_ite_snd, implies_true, *];
                        done) | split | dsimp only)

theorem execResolve_kept (port : Fin 24) (msg : Tc0) (s : State) {s0 : State} (h0 : Kept s0 s) :
    OutKept s0 (execResolve port msg s) := by
  unfold execResolve
  simp (maxDischargeDepth := 80) only [resolveArrives_kept, Kept.self, kept_mk, MemKept.self, outKept_next,
      implies_true, *]

theorem execCastResolveTimeout_kept (s : State) {s0 : State} (h0 : Kept s0 s) :
    OutKept s0 (execCastResolveTimeout s) := by
  unfold execCastResolveTimeout
  repeat' (first | (simp (maxDischargeDepth := 80) only [advanceTo_kept, resolveAbort_kept, Kept.self, kept_mk,
                        MemKept.self, outKept_next, implies_true, *]; done) | split | dsimp only)

theorem execVoteLeaseExpiry_kept (s : State) {s0 : State} (h0 : Kept s0 s) :
    OutKept s0 (execVoteLeaseExpiry s) := by
  unfold execVoteLeaseExpiry
  repeat' (first | (simp (maxDischargeDepth := 80) only [advanceTo_kept, injectAbort_kept, Kept.self, kept_mk,
                        MemKept.self, outKept_next, implies_true, *]; done) | split | dsimp only)

theorem hostAbort_kept (s : State) {s0 : State} (h0 : Kept s0 s) :
    Kept s0 (hostAbort s) := by
  unfold hostAbort
  simp (maxDischargeDepth := 80) only [chargeCause_kept, Kept.self, kept_mk, MemKept.self, kept_ite, kept_ite_snd,
      implies_true, *]

theorem execStepCtrlAbort_kept (s : State) {s0 : State} (h0 : Kept s0 s) :
    OutKept s0 (execStepCtrlAbort s) := by
  unfold execStepCtrlAbort
  simp (maxDischargeDepth := 80) only [hostAbort_kept, Kept.self, kept_mk, MemKept.self, outKept_next, implies_true,
      *]

theorem releaseEmber_kept (s : State) {s0 : State} (h0 : Kept s0 s) :
    Kept s0 (releaseEmber s) := by
  unfold releaseEmber
  repeat' (first | (simp (maxDischargeDepth := 80) only [modStep_kept, Kept.self, kept_mk, MemKept.self,
                        implies_true, *]; done) | split | dsimp only)

theorem releasePeers_kept (s : State) {s0 : State} (h0 : Kept s0 s) :
    Kept s0 (releasePeers s) := by
  unfold releasePeers
  repeat' (first | (simp (maxDischargeDepth := 80) only [modStep_kept, Kept.self, kept_mk, MemKept.self,
                        implies_true, *]; done) | split | dsimp only)

theorem tryPull_kept (s : State) {s0 : State} (h0 : Kept s0 s) :
    Kept s0 (tryPull s) := by
  unfold tryPull
  repeat' (first | (simp (maxDischargeDepth := 80) only [modStep_kept, forAll_kept, sendRange_kept,
                        releaseEmber_kept, releasePeers_kept, Kept.self, kept_mk, MemKept.self, kept_ite,
                        kept_ite_snd, implies_true, *]; done) | split | dsimp only)

theorem sendDigests_kept (h : Held) (s : State) {s0 : State} (h0 : Kept s0 s) :
    Kept s0 (sendDigests h s) := by
  unfold sendDigests
  simp (maxDischargeDepth := 80) only [sendFollower_kept, Kept.self, kept_mk, MemKept.self, kept_ite, kept_ite_snd,
      implies_true, *]

theorem ownerRole_kept (i : Nat) (misses : List CommitMiss) (h : Held) (s : State) {s0 : State} (h0 : Kept s0 s) :
    Kept s0 (ownerRole i misses h s) := by
  unfold ownerRole
  simp (maxDischargeDepth := 80) only [modStep_kept, modHeld_kept, commitLists_kept, chargeMisses_kept,
      sendFence_kept, atBoundary_kept, signalCsync_kept, settleSkips_kept, releaseEmber_kept, tryPull_kept,
      sendDigests_kept, Kept.self, kept_mk, MemKept.self, kept_ite, kept_ite_snd, implies_true, *]

theorem execOwnerRoleDone_kept (misses : List CommitMiss) (s : State) {s0 : State} (h0 : Kept s0 s) :
    OutKept s0 (execOwnerRoleDone misses s) := by
  unfold execOwnerRoleDone
  repeat' (first | (simp (maxDischargeDepth := 80) only [ownerRole_kept, Kept.self, kept_mk, MemKept.self,
                        kept_ite, kept_ite_snd, outKept_next, outKept_ite, implies_true, *]; done) | split | dsimp only)

theorem partnerRole_kept (p : PeerStep) (record : Nat) (block : Option (BitVec 48)) (misses : List CommitMiss) (s :
    State) {s0 : State} (h0 : Kept s0 s) :
    Kept s0 (partnerRole p record block misses s) := by
  unfold partnerRole
  simp (maxDischargeDepth := 80) only [modStep_kept, commitLists_kept, chargeMisses_kept, sendFence_kept,
      peerAuditBoundary_kept, releasePeers_kept, tryPull_kept, Kept.self, kept_mk, MemKept.self, kept_ite, kept_ite_snd,
      implies_true, *]

theorem execPartnerRoleDone_kept (record : BitVec 48) (block : Option (BitVec 48)) (misses : List CommitMiss) (s : State)
    {s0 : State} (h0 : Kept s0 s) :
    OutKept s0 (execPartnerRoleDone record block misses s) := by
  unfold execPartnerRoleDone
  repeat' (first | (simp (maxDischargeDepth := 80) only [partnerRole_kept, Kept.self, kept_mk, MemKept.self,
                        kept_ite, kept_ite_snd, outKept_next, outKept_ite, implies_true, *]; done) | split | dsimp only)

theorem ownerDoneArrives_kept (b : FenceBody) (s : State) {s0 : State} (h0 : Kept s0 s) :
    Kept s0 (ownerDoneArrives b s) := by
  unfold ownerDoneArrives
  simp (maxDischargeDepth := 80) only [modStep_kept, releasePeers_kept, Kept.self, kept_mk, MemKept.self, kept_ite,
      kept_ite_snd, implies_true, *]

theorem execOwnerDone_kept (b : FenceBody) (s : State) {s0 : State} (h0 : Kept s0 s) :
    OutKept s0 (execOwnerDone b s) := by
  unfold execOwnerDone
  simp (maxDischargeDepth := 80) only [ownerDoneArrives_kept, Kept.self, kept_mk, MemKept.self, outKept_next,
      implies_true, *]

theorem mirrorDoneArrives_kept (b : FenceBody) (s : State) {s0 : State} (h0 : Kept s0 s) :
    Kept s0 (mirrorDoneArrives b s) := by
  unfold mirrorDoneArrives
  repeat' (first | (simp (maxDischargeDepth := 80) only [modHeld_kept, releaseEmber_kept, Kept.self, kept_mk,
                        MemKept.self, implies_true, *]; done) | split | dsimp only)

theorem execMirrorDone_kept (b : FenceBody) (s : State) {s0 : State} (h0 : Kept s0 s) :
    OutKept s0 (execMirrorDone b s) := by
  unfold execMirrorDone
  simp (maxDischargeDepth := 80) only [mirrorDoneArrives_kept, Kept.self, kept_mk, MemKept.self, outKept_next,
      implies_true, *]

theorem reloadBodies_kept (s : State) {s0 : State} (h0 : Kept s0 s) :
    Kept s0 (reloadBodies s) := by
  unfold reloadBodies
  simp (maxDischargeDepth := 80) only [forAll_kept, Kept.self, kept_mk, MemKept.self, kept_ite, kept_ite_snd,
      implies_true, *]

theorem replayHere_kept (c : Ctx) (r : Round) (s : State) {s0 : State} (h0 : Kept s0 s) :
    Kept s0 (replayHere c r s) := by
  unfold replayHere
  simp (maxDischargeDepth := 80) only [modCtx_kept, modStep_kept, headWriteBack_kept, reloadBodies_kept, Kept.self,
      kept_mk, MemKept.self, kept_ite, kept_ite_snd, implies_true, *]

theorem drainedUp_kept (c : Ctx) (r : Round) (s : State) {s0 : State} (h0 : Kept s0 s) :
    Kept s0 (drainedUp c r s) := by
  unfold drainedUp
  simp (maxDischargeDepth := 80) only [voteUp_kept, Kept.self, kept_mk, MemKept.self, implies_true, *]

theorem tryDrained_kept (s : State) {s0 : State} (h0 : Kept s0 s) :
    Kept s0 (tryDrained s) := by
  unfold tryDrained
  repeat' (first | (simp (maxDischargeDepth := 80) only [modStep_kept, floodResolve_kept, replayHere_kept,
                        drainedUp_kept, Kept.self, kept_mk, MemKept.self, kept_ite, kept_ite_snd, implies_true, *];
                        done) | split | dsimp only)

theorem sendRollCall_kept (c : Ctx) (r : Round) (rank : Nat) (s : State) {s0 : State} (h0 : Kept s0 s) :
    Kept s0 (sendRollCall c r rank s) := by
  unfold sendRollCall
  repeat' (first | (simp (maxDischargeDepth := 80) only [sendTc0Rank_kept, Kept.self, kept_mk, MemKept.self,
                        implies_true, *]; done) | split | dsimp only)

theorem castDrained_kept (s : State) {s0 : State} (h0 : Kept s0 s) :
    Kept s0 (castDrained s) := by
  unfold castDrained
  repeat' (first | (simp (maxDischargeDepth := 80) only [modStep_kept, tryDrained_kept, sendRollCall_kept,
                        Kept.self, kept_mk, MemKept.self, kept_ite, kept_ite_snd, implies_true, *]; done) | split | dsimp only)

theorem haltStep_kept (cause : BitVec 8) (i : Nat) (s : State) {s0 : State} (h0 : Kept s0 s) :
    Kept s0 (haltStep cause i s) := by
  unfold haltStep
  repeat' (first | (simp (maxDischargeDepth := 80) only [raise_kept, haltAt_kept, Kept.self, kept_mk,
                        MemKept.self, implies_true, *]; done) | split | dsimp only)

theorem haltRound_kept (cause : BitVec 8) (i : Nat) (s : State) {s0 : State} (h0 : Kept s0 s) :
    Kept s0 (haltRound cause i s) := by
  unfold haltRound
  simp (maxDischargeDepth := 80) only [modStep_kept, haltStep_kept, Kept.self, kept_mk, MemKept.self, implies_true, *]

theorem haltSpent_kept (s : State) {s0 : State} (h0 : Kept s0 s) :
    Kept s0 (haltSpent s) := by
  unfold haltSpent
  simp (maxDischargeDepth := 80) only [forAll_kept, haltStep_kept, Kept.self, kept_mk, MemKept.self, implies_true, *]

theorem drainEnds_kept (c : Ctx) (r : Round) (i : Nat) (s : State) {s0 : State} (h0 : Kept s0 s) :
    Kept s0 (drainEnds c r i s) := by
  unfold drainEnds
  simp (maxDischargeDepth := 80) only [advanceTo_kept, modStep_kept, castDrained_kept, haltSpent_kept, Kept.self,
      kept_mk, MemKept.self, kept_ite, kept_ite_snd, implies_true, *]

theorem execAbortDrainDone_kept (s : State) {s0 : State} (h0 : Kept s0 s) :
    OutKept s0 (execAbortDrainDone s) := by
  unfold execAbortDrainDone
  repeat' (first | (simp (maxDischargeDepth := 80) only [drainEnds_kept, Kept.self, kept_mk, MemKept.self,
                        kept_ite, kept_ite_snd, outKept_next, outKept_ite, implies_true, *]; done) | split | dsimp only)

theorem replaceCoords_kept (k : Nat) (l : List (Nat × Nat)) (s : State) {s0 : State} (h0 : Kept s0 s) :
    Kept s0 (replaceCoords k l s) := by
  unfold replaceCoords
  simp (maxDischargeDepth := 80) only [modPart_kept, forAll_kept, memWrite_kept, Kept.self, kept_mk, MemKept.self,
      implies_true, *]

theorem stopPromotion_kept (e : Part) (lost : List Nat) (s : State) {s0 : State} (h0 : Kept s0 s) :
    Kept s0 (stopPromotion e lost s) := by
  unfold stopPromotion
  repeat' (first | (simp (maxDischargeDepth := 80) only [modStep_kept, Kept.self, kept_mk, MemKept.self,
                        kept_ite, kept_ite_snd, implies_true, *]; done) | split | dsimp only)

theorem mirrorLostHalt_kept (k i : Nat) (lost : List Nat) (s : State) {s0 : State} (h0 : Kept s0 s) :
    Kept s0 (mirrorLostHalt k i lost s) := by
  unfold mirrorLostHalt
  simp (maxDischargeDepth := 80) only [raise_kept, haltLost_kept, stopPromotion_kept, Kept.self, kept_mk,
      MemKept.self, implies_true, *]

theorem restartRound_kept (k i : Nat) (l : List (Nat × Nat)) (s : State) {s0 : State} (h0 : Kept s0 s) :
    Kept s0 (restartRound k i l s) := by
  unfold restartRound
  repeat' (first | (simp (maxDischargeDepth := 80) only [modCtx_kept, modStep_kept, raise_kept, dropStreams_kept,
                        Kept.self, kept_mk, MemKept.self, implies_true, *]; done) | split | dsimp only)

theorem takeDeclaration_kept (k i : Nat) (msg : Tc0) (s : State) {s0 : State} (h0 : Kept s0 s) :
    Kept s0 (takeDeclaration k i msg s) := by
  unfold takeDeclaration
  simp (maxDischargeDepth := 80) only [modStep_kept, loseRankIn_kept, haltRound_kept, replaceCoords_kept,
      mirrorLostHalt_kept, restartRound_kept, Kept.self, kept_mk, MemKept.self, kept_ite, kept_ite_snd, implies_true, *]

theorem declineRank_kept (k : Nat) (rank : Nat) (s : State) {s0 : State} (h0 : Kept s0 s) :
    Kept s0 (declineRank k rank s) := by
  unfold declineRank
  simp (maxDischargeDepth := 80) only [raise_kept, Kept.self, kept_mk, MemKept.self, implies_true, *]

theorem offerRank_kept (k : Nat) (rank own : Nat) (msg : Tc0) (s : State) {s0 : State} (h0 : Kept s0 s) :
    Kept s0 (offerRank k rank own msg s) := by
  unfold offerRank
  repeat' (first | (simp (maxDischargeDepth := 80) only [sendTc0To_kept, declineRank_kept, Kept.self, kept_mk,
                        MemKept.self, kept_ite, kept_ite_snd, implies_true, *]; done) | split | dsimp only)

theorem declaredElsewhere_kept (k : Nat) (msg : Tc0) (s : State) {s0 : State} (h0 : Kept s0 s) :
    Kept s0 (declaredElsewhere k msg s) := by
  unfold declaredElsewhere
  repeat' (first | (simp (maxDischargeDepth := 80) only [replaceCoords_kept, offerRank_kept, Kept.self, kept_mk,
                        MemKept.self, kept_ite, kept_ite_snd, implies_true, *]; done) | split | dsimp only)

theorem acceptRank_kept (w : SpareWait) (s : State) {s0 : State} (h0 : Kept s0 s) :
    Kept s0 (acceptRank w s) := by
  unfold acceptRank
  simp (maxDischargeDepth := 80) only [modCtx_kept, modStep_kept, modPart_kept, raise_kept, Kept.self, kept_mk,
      MemKept.self, implies_true, *]

theorem abortLater_kept (msg : Tc0) (s : State) {s0 : State} (h0 : Kept s0 s) :
    Kept s0 (abortLater msg s) := by
  unfold abortLater
  simp (maxDischargeDepth := 80) only [modStep_kept, Kept.self, kept_mk, MemKept.self, implies_true, *]

theorem abortResolved_kept (msg : Tc0) (s : State) {s0 : State} (h0 : Kept s0 s) :
    Kept s0 (abortResolved msg s) := by
  unfold abortResolved
  repeat' (first | (simp (maxDischargeDepth := 80) only [modStep_kept, abortNamed_kept, Kept.self, kept_mk,
                        MemKept.self, implies_true, *]; done) | split | dsimp only)

theorem endJoining_kept (k : Nat) (msg : Tc0) (s : State) {s0 : State} (h0 : Kept s0 s) :
    Kept s0 (endJoining k msg s) := by
  unfold endJoining
  simp (maxDischargeDepth := 80) only [modCtx_kept, modStep_kept, abortLater_kept, Kept.self, kept_mk, MemKept.self,
      implies_true, *]

theorem joinAgain_kept (r : Round) (l : List (Nat × Nat)) (s : State) {s0 : State} (h0 : Kept s0 s) :
    Kept s0 (joinAgain r l s) := by
  unfold joinAgain
  simp (maxDischargeDepth := 80) only [modStep_kept, castDrained_kept, Kept.self, kept_mk, MemKept.self, kept_ite,
      kept_ite_snd, implies_true, *]

theorem joinerDeclared_kept (k : Nat) (r : Round) (msg : Tc0) (s : State) {s0 : State} (h0 : Kept s0 s) :
    Kept s0 (joinerDeclared k r msg s) := by
  unfold joinerDeclared
  simp (maxDischargeDepth := 80) only [modCtx_kept, modStep_kept, raise_kept, loseRankIn_kept, replaceCoords_kept,
      stopPromotion_kept, endJoining_kept, joinAgain_kept, Kept.self, kept_mk, MemKept.self, kept_ite, kept_ite_snd,
      implies_true, *]

theorem abortArrives_kept (k : Nat) (msg : Tc0) (s : State) {s0 : State} (h0 : Kept s0 s) :
    Kept s0 (abortArrives k msg s) := by
  unfold abortArrives
  repeat' (first | (simp (maxDischargeDepth := 80) only [abortNamed_kept, takeDeclaration_kept,
                        declaredElsewhere_kept, abortLater_kept, abortResolved_kept, joinerDeclared_kept, Kept.self,
                        kept_mk, MemKept.self, kept_ite, kept_ite_snd, implies_true, *]; done) | split | dsimp only)

theorem routeAbort_kept (port : Nat) (msg : Tc0) (s : State) {s0 : State} (h0 : Kept s0 s) :
    Kept s0 (routeAbort port msg s) := by
  unfold routeAbort
  repeat' (first | (simp (maxDischargeDepth := 80) only [floodAbort_kept, transitTc0_kept, abortArrives_kept,
                        Kept.self, kept_mk, MemKept.self, kept_ite, kept_ite_snd, implies_true, *]; done) | split | dsimp only)

theorem execAbortReceive_kept (port : Fin 24) (msg : Tc0) (s : State) {s0 : State} (h0 : Kept s0 s) :
    OutKept s0 (execAbortReceive port msg s) := by
  unfold execAbortReceive
  simp (maxDischargeDepth := 80) only [routeAbort_kept, Kept.self, kept_mk, MemKept.self, outKept_next, implies_true,
      *]

theorem drainedArrives_kept (rollcall : Bool) (msg : Tc0) (s : State) {s0 : State} (h0 : Kept s0 s) :
    Kept s0 (drainedArrives rollcall msg s) := by
  unfold drainedArrives
  repeat' (first | (simp (maxDischargeDepth := 80) only [dropTc0_kept, keepVote_kept, tryDrained_kept, Kept.self,
                        kept_mk, MemKept.self, kept_ite, kept_ite_snd, implies_true, *]; done) | split | dsimp only)

theorem execVoteDrained_kept (rollcall : Bool) (msg : Tc0) (s : State) {s0 : State} (h0 : Kept s0 s) :
    OutKept s0 (execVoteDrained rollcall msg s) := by
  unfold execVoteDrained
  simp (maxDischargeDepth := 80) only [drainedArrives_kept, Kept.self, kept_mk, MemKept.self, outKept_next,
      implies_true, *]

theorem replayArrives_kept (port : Nat) (msg : Tc0) (s : State) {s0 : State} (h0 : Kept s0 s) :
    Kept s0 (replayArrives port msg s) := by
  unfold replayArrives
  repeat' (first | (simp (maxDischargeDepth := 80) only [transitTc0_kept, forwardResolve_kept, replayHere_kept,
                        Kept.self, kept_mk, MemKept.self, kept_ite, kept_ite_snd, implies_true, *]; done) | split | dsimp only)

theorem execResolveReplay_kept (port : Fin 24) (msg : Tc0) (s : State) {s0 : State} (h0 : Kept s0 s) :
    OutKept s0 (execResolveReplay port msg s) := by
  unfold execResolveReplay
  simp (maxDischargeDepth := 80) only [replayArrives_kept, Kept.self, kept_mk, MemKept.self, outKept_next,
      implies_true, *]

theorem roundTime_kept (s : State) (r : Round) (drains : Nat) (s' : State) {s0 : State} (h0 : Kept s0 s') :
    Kept s0 (roundTime s r drains s') := advanceTo_kept _ _ h0

theorem declareLost_kept (k : Nat) (r : Round) (lost : List Nat) (s : State) {s0 : State} (h0 : Kept s0 s) :
    Kept s0 (declareLost k r lost s) := by
  unfold declareLost
  repeat' (first | (simp (maxDischargeDepth := 80) only [floodAbort_kept, takeDeclaration_kept, Kept.self,
                        kept_mk, MemKept.self, kept_ite, kept_ite_snd, implies_true, *]; done) | split | dsimp only)

theorem execRoundLeaseExpiry_kept (s : State) {s0 : State} (h0 : Kept s0 s) :
    OutKept s0 (execRoundLeaseExpiry s) := by
  unfold execRoundLeaseExpiry
  repeat' (first | (simp (maxDischargeDepth := 80) only [roundTime_kept, declareLost_kept, Kept.self, kept_mk,
                        MemKept.self, kept_ite, kept_ite_snd, outKept_next, outKept_ite, implies_true, *]; done) | split | dsimp only)

theorem execRollCallResend_kept (s : State) {s0 : State} (h0 : Kept s0 s) :
    OutKept s0 (execRollCallResend s) := by
  unfold execRollCallResend
  repeat' (first | (simp (maxDischargeDepth := 80) only [sendRollCall_kept, roundTime_kept, Kept.self, kept_mk,
                        MemKept.self, kept_ite, kept_ite_snd, outKept_next, outKept_ite, implies_true, *]; done) | split | dsimp only)

theorem execRootFallback_kept (s : State) {s0 : State} (h0 : Kept s0 s) :
    OutKept s0 (execRootFallback s) := by
  unfold execRootFallback
  repeat' (first | (simp (maxDischargeDepth := 80) only [modStep_kept, roundTime_kept, declareLost_kept,
                        Kept.self, kept_mk, MemKept.self, kept_ite, kept_ite_snd, outKept_next, outKept_ite,
                        implies_true, *]; done) | split | dsimp only)

theorem execRoundHaltTimeout_kept (s : State) {s0 : State} (h0 : Kept s0 s) :
    OutKept s0 (execRoundHaltTimeout s) := by
  unfold execRoundHaltTimeout
  repeat' (first | (simp (maxDischargeDepth := 80) only [haltRound_kept, roundTime_kept, Kept.self, kept_mk,
                        MemKept.self, outKept_next, implies_true, *]; done) | split | dsimp only)

theorem workingWeights_kept (a : Nat) (s : State) {s0 : State} (h0 : Kept s0 s) :
    Kept s0 (workingWeights a s) := by
  unfold workingWeights
  repeat' (first | (simp (maxDischargeDepth := 80) only [forAll_kept, writeWorking_kept, Kept.self, kept_mk,
                        MemKept.self, implies_true, *]; done) | split | dsimp only)

theorem execPromotionPullDone_kept (pulled : List (Nat × Byte)) (maps : List MirMap) (lists : List (BitVec 48)) (embers :
    List (BitVec 64)) (stepNumber : BitVec 64) (cursors : PulledCursors) (next : BitVec 64) (s : State) {s0 : State}
    (h0 : Kept s0 s) :
    OutKept s0 (execPromotionPullDone pulled maps lists embers stepNumber cursors next s) := by
  unfold execPromotionPullDone
  simp (maxDischargeDepth := 80) only [modStep_kept, forAll_kept, memWrite_kept, castDrained_kept,
      workingWeights_kept, Kept.self, kept_mk, MemKept.self, kept_ite, kept_ite_snd, outKept_next, outKept_ite,
      implies_true, *]

theorem refuseBusy_kept (c : Ctx) (d : Desc) (s : State) {s0 : State} (h0 : Kept s0 s) :
    Kept s0 (refuseBusy c d s) := by
  unfold refuseBusy
  simp (maxDischargeDepth := 80) only [finishStarting_kept, Kept.self, kept_mk, MemKept.self, implies_true, *]

theorem noteRefusal_kept (c : Ctx) (reason : Nat) (s : State) {s0 : State} (h0 : Kept s0 s) :
    Kept s0 (noteRefusal c reason s) := by
  unfold noteRefusal
  simp (maxDischargeDepth := 80) only [modStep_kept, raise_kept, Kept.self, kept_mk, MemKept.self, implies_true, *]

theorem refuseMap_kept (w : MapWait) (reason : Nat) (s : State) {s0 : State} (h0 : Kept s0 s) :
    Kept s0 (refuseMap w reason s) := by
  unfold refuseMap
  simp (maxDischargeDepth := 80) only [modStep_kept, completeKey_kept, noteRefusal_kept, Kept.self, kept_mk,
      MemKept.self, implies_true, *]

theorem sendMap_kept (w : MapWait) (s : State) {s0 : State} (h0 : Kept s0 s) :
    Kept s0 (sendMap w s) := by
  unfold sendMap
  simp (maxDischargeDepth := 80) only [modStep_kept, sendFence_kept, refuseMap_kept, Kept.self, kept_mk, MemKept.self,
      kept_ite, kept_ite_snd, implies_true, *]

theorem execMirrorMap_kept (ctx : Ctx) (s : State) {s0 : State} (h0 : Kept s0 s) :
    OutKept s0 (execMirrorMap ctx s) := by
  unfold execMirrorMap
  repeat' (first | (simp (maxDischargeDepth := 80) only [modStep_kept, keepStarting_kept, sendTc0To_kept,
                        refuseBusy_kept, refuseMap_kept, sendMap_kept, Kept.self, kept_mk, MemKept.self, kept_ite,
                        kept_ite_snd, outKept_next, outKept_ite, implies_true, *]; done) | split | dsimp only)

theorem setPaired_kept (s : State) {s0 : State} (h0 : Kept s0 s) :
    Kept s0 (setPaired s) := by
  unfold setPaired
  simp (maxDischargeDepth := 80) only [modStep_kept, Kept.self, kept_mk, MemKept.self, kept_ite, kept_ite_snd,
      implies_true, *]

theorem execMirrorUnmap_kept (ctx : Ctx) (s : State) {s0 : State} (h0 : Kept s0 s) :
    OutKept s0 (execMirrorUnmap ctx s) := by
  unfold execMirrorUnmap
  repeat' (first | (simp (maxDischargeDepth := 80) only [modStep_kept, finishStarting_kept, sendFence_kept,
                        refuseBusy_kept, setPaired_kept, Kept.self, kept_mk, MemKept.self, kept_ite, kept_ite_snd,
                        outKept_next, outKept_ite, implies_true, *]; done) | split | dsimp only)

theorem finishFill_kept (s : State) {s0 : State} (h0 : Kept s0 s) :
    Kept s0 (finishFill s) := by
  unfold finishFill
  repeat' (first | (simp (maxDischargeDepth := 80) only [modStep_kept, completeKey_kept, Kept.self, kept_mk,
                        MemKept.self, kept_ite, kept_ite_snd, implies_true, *]; done) | split | dsimp only)

theorem fillAcked_kept (s : State) {s0 : State} (h0 : Kept s0 s) :
    Kept s0 (fillAcked s) := by
  unfold fillAcked
  simp (maxDischargeDepth := 80) only [modStep_kept, finishFill_kept, Kept.self, kept_mk, MemKept.self, implies_true,
      *]

theorem sendFill_kept (c : Ctx) (s : State) {s0 : State} (h0 : Kept s0 s) :
    Kept s0 (sendFill c s) := by
  unfold sendFill
  repeat' (first | (simp (maxDischargeDepth := 80) only [forAll_kept, sendPacket_kept, sendRange_kept, Kept.self,
                        kept_mk, MemKept.self, implies_true, *]; done) | split | dsimp only)

theorem execMirrorFill_kept (ctx : Ctx) (s : State) {s0 : State} (h0 : Kept s0 s) :
    OutKept s0 (execMirrorFill ctx s) := by
  unfold execMirrorFill
  repeat' (first | (simp (maxDischargeDepth := 80) only [modStep_kept, keepStarting_kept, refuseBusy_kept,
                        finishFill_kept, sendFill_kept, Kept.self, kept_mk, MemKept.self, kept_ite, kept_ite_snd,
                        outKept_next, outKept_ite, implies_true, *]; done) | split | dsimp only)

theorem execMirrorAudit_kept (ctx : Ctx) (s : State) {s0 : State} (h0 : Kept s0 s) :
    OutKept s0 (execMirrorAudit ctx s) := by
  unfold execMirrorAudit
  repeat' (first | (simp (maxDischargeDepth := 80) only [modStep_kept, finishStarting_kept, keepStarting_kept,
                        sendFence_kept, refuseBusy_kept, Kept.self, kept_mk, MemKept.self, kept_ite, kept_ite_snd,
                        outKept_next, outKept_ite, implies_true, *]; done) | split | dsimp only)

theorem execPairTimeout_kept (s : State) {s0 : State} (h0 : Kept s0 s) :
    OutKept s0 (execPairTimeout s) := by
  unfold execPairTimeout
  repeat' (first | (simp (maxDischargeDepth := 80) only [advanceTo_kept, declineRank_kept, refuseMap_kept,
                        Kept.self, kept_mk, MemKept.self, kept_ite, kept_ite_snd, outKept_next, outKept_ite,
                        implies_true, *]; done) | split | dsimp only)

theorem sendMaps_kept (s : State) {s0 : State} (h0 : Kept s0 s) :
    Kept s0 (sendMaps s) := by
  unfold sendMaps
  refine forAll_kept _ _ _ h0 fun kv t => ?_
  split <;> simp only [sendFence_kept, Kept.self]

theorem pairArrives_kept (b : FenceBody) (s : State) {s0 : State} (h0 : Kept s0 s) :
    Kept s0 (pairArrives b s) := by
  unfold pairArrives
  repeat' (first | (simp (maxDischargeDepth := 80) only [modStep_kept, sendFence_kept, tryPull_kept,
                        sendMaps_kept, Kept.self, kept_mk, MemKept.self, kept_ite, kept_ite_snd, implies_true, *];
                        done) | split | dsimp only)

theorem execPair_kept (b : FenceBody) (s : State) {s0 : State} (h0 : Kept s0 s) :
    OutKept s0 (execPair b s) := by
  unfold execPair
  simp (maxDischargeDepth := 80) only [pairArrives_kept, Kept.self, kept_mk, MemKept.self, outKept_next, implies_true,
      *]

theorem pairOkArrives_kept (b : FenceBody) (s : State) {s0 : State} (h0 : Kept s0 s) :
    Kept s0 (pairOkArrives b s) := by
  unfold pairOkArrives
  repeat' (first | (simp (maxDischargeDepth := 80) only [modStep_kept, declineRank_kept, acceptRank_kept,
                        refuseMap_kept, sendMap_kept, Kept.self, kept_mk, MemKept.self, kept_ite, kept_ite_snd,
                        implies_true, *]; done) | split | dsimp only)

theorem execPairOk_kept (b : FenceBody) (s : State) {s0 : State} (h0 : Kept s0 s) :
    OutKept s0 (execPairOk b s) := by
  unfold execPairOk
  simp (maxDischargeDepth := 80) only [pairOkArrives_kept, Kept.self, kept_mk, MemKept.self, outKept_next,
      implies_true, *]

theorem pairRefusedArrives_kept (b : FenceBody) (s : State) {s0 : State} (h0 : Kept s0 s) :
    Kept s0 (pairRefusedArrives b s) := by
  unfold pairRefusedArrives
  repeat' (first | (simp (maxDischargeDepth := 80) only [declineRank_kept, refuseMap_kept, Kept.self, kept_mk,
                        MemKept.self, kept_ite, kept_ite_snd, implies_true, *]; done) | split | dsimp only)

theorem execPairRefused_kept (b : FenceBody) (s : State) {s0 : State} (h0 : Kept s0 s) :
    OutKept s0 (execPairRefused b s) := by
  unfold execPairRefused
  simp (maxDischargeDepth := 80) only [pairRefusedArrives_kept, Kept.self, kept_mk, MemKept.self, outKept_next,
      implies_true, *]

theorem mapArrives_kept (b : FenceBody) (s : State) {s0 : State} (h0 : Kept s0 s) :
    Kept s0 (mapArrives b s) := by
  unfold mapArrives
  simp (maxDischargeDepth := 80) only [modStep_kept, sendFence_kept, Kept.self, kept_mk, MemKept.self, kept_ite,
      kept_ite_snd, implies_true, *]

theorem execMap_kept (b : FenceBody) (s : State) {s0 : State} (h0 : Kept s0 s) :
    OutKept s0 (execMap b s) := by
  unfold execMap
  simp (maxDischargeDepth := 80) only [mapArrives_kept, Kept.self, kept_mk, MemKept.self, outKept_next, implies_true,
      *]

theorem mapOkArrives_kept (b : FenceBody) (s : State) {s0 : State} (h0 : Kept s0 s) :
    Kept s0 (mapOkArrives b s) := by
  unfold mapOkArrives
  repeat' (first | (simp (maxDischargeDepth := 80) only [modStep_kept, completeKey_kept, Kept.self, kept_mk,
                        MemKept.self, kept_ite, kept_ite_snd, implies_true, *]; done) | split | dsimp only)

theorem execMapOk_kept (b : FenceBody) (s : State) {s0 : State} (h0 : Kept s0 s) :
    OutKept s0 (execMapOk b s) := by
  unfold execMapOk
  simp (maxDischargeDepth := 80) only [mapOkArrives_kept, Kept.self, kept_mk, MemKept.self, outKept_next,
      implies_true, *]

theorem mapRefusedArrives_kept (b : FenceBody) (s : State) {s0 : State} (h0 : Kept s0 s) :
    Kept s0 (mapRefusedArrives b s) := by
  unfold mapRefusedArrives
  repeat' (first | (simp (maxDischargeDepth := 80) only [refuseMap_kept, Kept.self, kept_mk, MemKept.self,
                        kept_ite, kept_ite_snd, implies_true, *]; done) | split | dsimp only)

theorem execMapRefused_kept (b : FenceBody) (s : State) {s0 : State} (h0 : Kept s0 s) :
    OutKept s0 (execMapRefused b s) := by
  unfold execMapRefused
  simp (maxDischargeDepth := 80) only [mapRefusedArrives_kept, Kept.self, kept_mk, MemKept.self, outKept_next,
      implies_true, *]

theorem unmapArrives_kept (b : FenceBody) (s : State) {s0 : State} (h0 : Kept s0 s) :
    Kept s0 (unmapArrives b s) := by
  unfold unmapArrives
  simp (maxDischargeDepth := 80) only [modStep_kept, Kept.self, kept_mk, MemKept.self, implies_true, *]

theorem execUnmap_kept (b : FenceBody) (s : State) {s0 : State} (h0 : Kept s0 s) :
    OutKept s0 (execUnmap b s) := by
  unfold execUnmap
  simp (maxDischargeDepth := 80) only [unmapArrives_kept, Kept.self, kept_mk, MemKept.self, outKept_next,
      implies_true, *]

theorem auditStartArrives_kept (b : FenceBody) (s : State) {s0 : State} (h0 : Kept s0 s) :
    Kept s0 (auditStartArrives b s) := by
  unfold auditStartArrives
  simp (maxDischargeDepth := 80) only [modStep_kept, sendFence_kept, Kept.self, kept_mk, MemKept.self, kept_ite,
      kept_ite_snd, implies_true, *]

theorem execAuditStart_kept (b : FenceBody) (s : State) {s0 : State} (h0 : Kept s0 s) :
    OutKept s0 (execAuditStart b s) := by
  unfold execAuditStart
  simp (maxDischargeDepth := 80) only [auditStartArrives_kept, Kept.self, kept_mk, MemKept.self, outKept_next,
      implies_true, *]

theorem auditLateArrives_kept (b : FenceBody) (s : State) {s0 : State} (h0 : Kept s0 s) :
    Kept s0 (auditLateArrives b s) := by
  unfold auditLateArrives
  repeat' (first | (simp (maxDischargeDepth := 80) only [sendFence_kept, modAudit_kept, Kept.self, kept_mk,
                        MemKept.self, kept_ite, kept_ite_snd, implies_true, *]; done) | split | dsimp only)

theorem execAuditLate_kept (b : FenceBody) (s : State) {s0 : State} (h0 : Kept s0 s) :
    OutKept s0 (execAuditLate b s) := by
  unfold execAuditLate
  simp (maxDischargeDepth := 80) only [auditLateArrives_kept, Kept.self, kept_mk, MemKept.self, outKept_next,
      implies_true, *]

theorem auditDigestArrives_kept (b : FenceBody) (s : State) {s0 : State} (h0 : Kept s0 s) :
    Kept s0 (auditDigestArrives b s) := by
  unfold auditDigestArrives
  repeat' (first | (simp (maxDischargeDepth := 80) only [modAudit_kept, compareGroup_kept, Kept.self, kept_mk,
                        MemKept.self, kept_ite, kept_ite_snd, implies_true, *]; done) | split | dsimp only)

theorem execAuditDigest_kept (b : FenceBody) (s : State) {s0 : State} (h0 : Kept s0 s) :
    OutKept s0 (execAuditDigest b s) := by
  unfold execAuditDigest
  simp (maxDischargeDepth := 80) only [auditDigestArrives_kept, Kept.self, kept_mk, MemKept.self, outKept_next,
      implies_true, *]

theorem modRas_kept (f : Ras → Ras) (s : State) {s0 : State} (h0 : Kept s0 s) :
    Kept s0 (modRas f s) := by
  unfold modRas
  simp (maxDischargeDepth := 80) only [Kept.self, kept_mk, MemKept.self, implies_true, *]

theorem leaveShadow_kept (st : ShadowState) (code : EventCode) (step : Nat) (s : State) {s0 : State} (h0 : Kept s0 s) :
    Kept s0 (leaveShadow st code step s) := by
  unfold leaveShadow
  simp (maxDischargeDepth := 80) only [modPart_kept, raise_kept, modRas_kept, Kept.self, kept_mk, MemKept.self,
      implies_true, *]

theorem stepMatches_kept (s : State) {s0 : State} (h0 : Kept s0 s) :
    Kept s0 (stepMatches s) := by
  unfold stepMatches
  simp (maxDischargeDepth := 80) only [modRas_kept, leaveShadow_kept, Kept.self, kept_mk, MemKept.self, kept_ite,
      kept_ite_snd, implies_true, *]

theorem stepDiffers_kept (step : BitVec 64) (s : State) {s0 : State} (h0 : Kept s0 s) :
    Kept s0 (stepDiffers step s) := by
  unfold stepDiffers
  simp (maxDischargeDepth := 80) only [modRas_kept, leaveShadow_kept, Kept.self, kept_mk, MemKept.self, implies_true,
      *]

theorem takeRecord_kept (i : Nat) (h : Held) (r : ShadowRec) (s : State) {s0 : State} (h0 : Kept s0 s) :
    Kept s0 (takeRecord i h r s) := by
  unfold takeRecord
  repeat' (first | (simp (maxDischargeDepth := 80) only [resolveSkip_kept, resolveCommit_kept, ownerRole_kept,
                        stepMatches_kept, stepDiffers_kept, Kept.self, kept_mk, MemKept.self, kept_ite, kept_ite_snd,
                        implies_true, *]; done) | split | dsimp only)

theorem settleRecord_kept (s : State) {s0 : State} (h0 : Kept s0 s) :
    Kept s0 (settleRecord s) := by
  unfold settleRecord
  repeat' (first | (simp (maxDischargeDepth := 80) only [resolveAbort_kept, modRas_kept, takeRecord_kept,
                        Kept.self, kept_mk, MemKept.self, kept_ite, kept_ite_snd, implies_true, *]; done) | split | dsimp only)

theorem settleRecords_kept (s : State) {s0 : State} (h0 : Kept s0 s) :
    Kept s0 (settleRecords s) := by
  unfold settleRecords
  simp (maxDischargeDepth := 80) only [settleRecord_kept, Kept.self, kept_mk, MemKept.self, kept_ite, kept_ite_snd,
      implies_true, *]

theorem execShadowRecordReceive_kept (step : BitVec 64) (outcome : BitVec 2) (mask : List (BitVec 32)) (digests : List
    (BitVec 64)) (s : State) {s0 : State} (h0 : Kept s0 s) :
    OutKept s0 (execShadowRecordReceive step outcome mask digests s) := by
  unfold execShadowRecordReceive
  simp (maxDischargeDepth := 80) only [modRas_kept, settleRecords_kept, Kept.self, kept_mk, MemKept.self, kept_ite,
      kept_ite_snd, outKept_next, outKept_ite, implies_true, *]

theorem execShadowStateLoaded_kept (state : List (Nat × Byte)) (stepNumber cursor : BitVec 64) (s : State) {s0 : State}
    (h0 : Kept s0 s) :
    OutKept s0 (execShadowStateLoaded state stepNumber cursor s) := by
  unfold execShadowStateLoaded
  simp (maxDischargeDepth := 80) only [modStep_kept, forAll_kept, memWrite_kept, modRas_kept, Kept.self, kept_mk,
      MemKept.self, kept_ite, kept_ite_snd, outKept_next, outKept_ite, implies_true, *]

theorem execShadowTimeout_kept (s : State) {s0 : State} (h0 : Kept s0 s) :
    OutKept s0 (execShadowTimeout s) := by
  unfold execShadowTimeout
  simp (maxDischargeDepth := 80) only [leaveShadow_kept, Kept.self, kept_mk, MemKept.self, kept_ite, kept_ite_snd,
      outKept_next, outKept_ite, implies_true, *]

theorem startFollowing_kept (peer : Nat) (s : State) {s0 : State} (h0 : Kept s0 s) :
    Kept s0 (startFollowing peer s) := by
  unfold startFollowing
  repeat' (first | (simp (maxDischargeDepth := 80) only [modPart_kept, modRas_kept, Kept.self, kept_mk,
                        MemKept.self, kept_ite, kept_ite_snd, implies_true, *]; done) | split | dsimp only)

theorem writeShadowCfg_kept (v : BitVec 32) (s : State) {s0 : State} (h0 : Kept s0 s) :
    Kept s0 (writeShadowCfg v s) := by
  unfold writeShadowCfg
  repeat' (first | (simp (maxDischargeDepth := 80) only [modRas_kept, startFollowing_kept, Kept.self, kept_mk,
                        MemKept.self, kept_ite, kept_ite_snd, implies_true, *]; done) | split | dsimp only)

theorem execShadowCfgWrite_kept (v : BitVec 32) (s : State) {s0 : State} (h0 : Kept s0 s) :
    OutKept s0 (execShadowCfgWrite v s) := by
  unfold execShadowCfgWrite
  simp (maxDischargeDepth := 80) only [writeShadowCfg_kept, Kept.self, kept_mk, MemKept.self, outKept_next,
      implies_true, *]

theorem castNow_kept (i : Nat) (s : State) {s0 : State} (h0 : Kept s0 s) :
    Kept s0 (castNow i s) := by
  unfold castNow
  simp (maxDischargeDepth := 80) only [modHeld_kept, tryTree_kept, settleRecords_kept, Kept.self, kept_mk,
      MemKept.self, implies_true, *]

theorem sendStepRecord_kept (c : Ctx) (i : Nat) (h : Held) (s : State) {s0 : State} (h0 : Kept s0 s) :
    Kept s0 (sendStepRecord c i h s) := by
  unfold sendStepRecord
  simp (maxDischargeDepth := 80) only [memWrite_kept, modHeld_kept, sendMirror_kept, castNow_kept, Kept.self, kept_mk,
      MemKept.self, kept_ite, kept_ite_snd, implies_true, *]

theorem castVote_kept (d : Desc) (i : Nat) (h : Held) (s : State) {s0 : State} (h0 : Kept s0 s) :
    Kept s0 (castVote d i h s) := by
  unfold castVote
  repeat' (first | (simp (maxDischargeDepth := 80) only [modHeld_kept, injectAbort_kept, sendStepRecord_kept,
                        Kept.self, kept_mk, MemKept.self, implies_true, *]; done) | split | dsimp only)

theorem tryVote_kept (c : Ctx) (d : Desc) (s : State) {s0 : State} (h0 : Kept s0 s) :
    Kept s0 (tryVote c d s) := by
  unfold tryVote
  repeat' (first | (simp (maxDischargeDepth := 80) only [castVote_kept, Kept.self, kept_mk, MemKept.self,
                        kept_ite, kept_ite_snd, implies_true, *]; done) | split | dsimp only)

theorem execStepVote_kept (ctx : Ctx) (s : State) {s0 : State} (h0 : Kept s0 s) :
    OutKept s0 (execStepVote ctx s) := by
  unfold execStepVote
  repeat' (first | (simp (maxDischargeDepth := 80) only [completeKey_kept, finishStarting_kept,
                        keepStarting_kept, tryVote_kept, Kept.self, kept_mk, MemKept.self, outKept_next, implies_true,
                        *]; done) | split | dsimp only)

theorem recordAcked_kept (s : State) {s0 : State} (h0 : Kept s0 s) :
    Kept s0 (recordAcked s) := by
  unfold recordAcked
  repeat' (first | (simp (maxDischargeDepth := 80) only [castNow_kept, Kept.self, kept_mk, MemKept.self,
                        implies_true, *]; done) | split | dsimp only)

theorem writeLoc_kept (c : Ctx) (l : CkptLoc) (off : Nat) (bs : List Byte) (s : State) {s0 : State} (h0 : Kept s0 s) :
    Kept s0 (writeLoc c l off bs s) := by
  unfold writeLoc
  simp (maxDischargeDepth := 80) only [forAll_kept, hostWrite_kept, sendToRank_kept, Kept.self, kept_mk, MemKept.self,
      kept_ite, kept_ite_snd, implies_true, *]

theorem modBank_kept (f : BankEng → BankEng) (s : State) {s0 : State} (h0 : Kept s0 s) :
    Kept s0 (modBank f s) := by
  unfold modBank
  simp (maxDischargeDepth := 80) only [Kept.self, kept_mk, MemKept.self, implies_true, *]

theorem pathLost_kept (port : Fin 2) (s : State) {s0 : State} (h0 : Kept s0 s) :
    Kept s0 (pathLost port s) := by
  unfold pathLost
  simp (maxDischargeDepth := 80) only [forAll_kept, snapLost_kept, bankLost_kept, Kept.self, kept_mk, MemKept.self,
      kept_ite, kept_ite_snd, implies_true, *]

theorem execPerstAssert_kept (port : Fin 2) (s : State) {s0 : State} (h0 : Kept s0 s) :
    OutKept s0 (execPerstAssert port s) := by
  unfold execPerstAssert
  simp (maxDischargeDepth := 80) only [modHif_kept, tearAll_kept, pathLost_kept, Kept.self, kept_mk, MemKept.self,
      kept_ite, kept_ite_snd, outKept_next, outKept_ite, implies_true, *]

theorem execHostLinkDown_kept (port : Fin 2) (s : State) {s0 : State} (h0 : Kept s0 s) :
    OutKept s0 (execHostLinkDown port s) := by
  unfold execHostLinkDown
  simp (maxDischargeDepth := 80) only [modHif_kept, tearAll_kept, pathLost_kept, Kept.self, kept_mk, MemKept.self,
      kept_ite, kept_ite_snd, outKept_next, outKept_ite, implies_true, *]

theorem execSnap_kept (ctx : Ctx) (s : State) {s0 : State} (h0 : Kept s0 s) :
    OutKept s0 (execSnap ctx s) := by
  unfold execSnap
  repeat' (first | (simp (maxDischargeDepth := 80) only [modCtx_kept, finishStarting_kept, keepStarting_kept,
                        Kept.self, kept_mk, MemKept.self, kept_ite, kept_ite_snd, outKept_next, outKept_ite,
                        implies_true, *]; done) | split | dsimp only)

theorem writeSnapshot_kept (c : Ctx) (sn : Snapshot) (l : List (List Byte)) (ptb : BitVec 64) (s : State) {s0 : State}
    (h0 : Kept s0 s) :
    Kept s0 (writeSnapshot c sn l ptb s) := by
  unfold writeSnapshot
  simp (maxDischargeDepth := 80) only [forAll_kept, writeLoc_kept, Kept.self, kept_mk, MemKept.self, implies_true, *]

theorem execSnapshotComplete_kept (ctx : Ctx) (e : CopyEnd) (s : State) {s0 : State} (h0 : Kept s0 s) :
    OutKept s0 (execSnapshotComplete ctx e s) := by
  unfold execSnapshotComplete
  repeat' (first | (simp (maxDischargeDepth := 80) only [modCtx_kept, completeKey_kept, clearCheck_kept,
                        snapLost_kept, pathLost_kept, writeSnapshot_kept, Kept.self, kept_mk, MemKept.self,
                        outKept_next, implies_true, *]; done) | split | dsimp only)

theorem armBank_kept (c : Ctx) (key : Option Nat) (atOnce : Bool) (peer : List (Nat × Byte)) (p : BankPlan) (s : State)
    {s0 : State} (h0 : Kept s0 s) :
    Kept s0 (armBank c key atOnce peer p s) := by
  unfold armBank
  simp (maxDischargeDepth := 80) only [markBank_kept, writeLoc_kept, modBank_kept, Kept.self, kept_mk, MemKept.self,
      kept_ite, kept_ite_snd, implies_true, *]

theorem execBankStart_kept (ctx : Ctx) (peer : List (Nat × Byte)) (s : State) {s0 : State} (h0 : Kept s0 s) :
    OutKept s0 (execBankStart ctx peer s) := by
  unfold execBankStart
  repeat' (first | (simp (maxDischargeDepth := 80) only [finishStarting_kept, keepStarting_kept, armBank_kept,
                        Kept.self, kept_mk, MemKept.self, kept_ite, kept_ite_snd, outKept_next, outKept_ite,
                        implies_true, *]; done) | split | dsimp only)

theorem execBankCancel_kept (ctx : Ctx) (s : State) {s0 : State} (h0 : Kept s0 s) :
    OutKept s0 (execBankCancel ctx s) := by
  unfold execBankCancel
  repeat' (first | (simp (maxDischargeDepth := 80) only [finishStarting_kept, bankLost_kept, Kept.self, kept_mk,
                        MemKept.self, kept_ite, kept_ite_snd, outKept_next, outKept_ite, implies_true, *]; done) | split | dsimp only)

theorem writeShards_kept (r : BankRun) (s : State) {s0 : State} (h0 : Kept s0 s) :
    Kept s0 (writeShards r s) := by
  unfold writeShards
  simp (maxDischargeDepth := 80) only [forAll_kept, writeLoc_kept, modBank_kept, Kept.self, kept_mk, MemKept.self,
      implies_true, *]

theorem execBankSign_kept (e : CopyEnd) (s : State) {s0 : State} (h0 : Kept s0 s) :
    OutKept s0 (execBankSign e s) := by
  unfold execBankSign
  repeat' (first | (simp (maxDischargeDepth := 80) only [clearCheck_kept, bankLost_kept, modBank_kept,
                        pathLost_kept, writeShards_kept, Kept.self, kept_mk, MemKept.self, kept_ite, kept_ite_snd,
                        outKept_next, outKept_ite, implies_true, *]; done) | split | dsimp only)

theorem execBankSignTimeout_kept (s : State) {s0 : State} (h0 : Kept s0 s) :
    OutKept s0 (execBankSignTimeout s) := by
  unfold execBankSignTimeout
  repeat' (first | (simp (maxDischargeDepth := 80) only [bankLost_kept, writeShards_kept, Kept.self, kept_mk,
                        MemKept.self, outKept_next, implies_true, *]; done) | split | dsimp only)

theorem execBankDone_kept (s : State) {s0 : State} (h0 : Kept s0 s) :
    OutKept s0 (execBankDone s) := by
  unfold execBankDone
  repeat' (first | (simp (maxDischargeDepth := 80) only [raise_kept, completeKey_kept, writeLoc_kept,
                        modBank_kept, Kept.self, kept_mk, MemKept.self, kept_ite, kept_ite_snd, outKept_next,
                        outKept_ite, implies_true, *]; done) | split | dsimp only)

theorem execRestore_kept (ctx : Ctx) (peer : List (Nat × Byte)) (s : State) {s0 : State} (h0 : Kept s0 s) :
    OutKept s0 (execRestore ctx peer s) := by
  unfold execRestore
  repeat' (first | (simp (maxDischargeDepth := 80) only [finishStarting_kept, keepStarting_kept, modBank_kept,
                        Kept.self, kept_mk, MemKept.self, kept_ite, kept_ite_snd, outKept_next, outKept_ite,
                        implies_true, *]; done) | split | dsimp only)

theorem writeRestored_kept (r : RestoreShard) (bs : List Byte) (s : State) {s0 : State} (h0 : Kept s0 s) :
    Kept s0 (writeRestored r bs s) := by
  unfold writeRestored
  simp (maxDischargeDepth := 80) only [forAll_kept, memWrite_kept, writeBs16_kept, Kept.self, kept_mk, MemKept.self,
      kept_ite, kept_ite_snd, implies_true, *]

theorem execRestoreComplete_kept (ctx : Ctx) (peer : List (Nat × Byte)) (s : State) {s0 : State} (h0 : Kept s0 s) :
    OutKept s0 (execRestoreComplete ctx peer s) := by
  unfold execRestoreComplete
  repeat' (first | (simp (maxDischargeDepth := 80) only [modCtx_kept, modStep_kept, forAll_kept, raise_kept,
                        completeKey_kept, modBank_kept, writeRestored_kept, Kept.self, kept_mk, MemKept.self,
                        kept_ite, kept_ite_snd, outKept_next, outKept_ite, implies_true, *]; done) | split | dsimp only)

theorem autoBank_kept (s : State) {s0 : State} (h0 : Kept s0 s) :
    Kept s0 (autoBank s) := by
  unfold autoBank
  repeat' (first | (simp (maxDischargeDepth := 80) only [raise_kept, armBank_kept, Kept.self, kept_mk,
                        MemKept.self, kept_ite, kept_ite_snd, implies_true, *]; done) | split | dsimp only)

theorem advise_kept (s : State) {s0 : State} (h0 : Kept s0 s) :
    Kept s0 (advise s) := by
  unfold advise
  simp (maxDischargeDepth := 80) only [raise_kept, modBank_kept, autoBank_kept, Kept.self, kept_mk, MemKept.self,
      kept_ite, kept_ite_snd, implies_true, *]

theorem watchTake_kept (src : WatchSource) (s : State) {s0 : State} (h0 : Kept s0 s) :
    Kept s0 (watchTake src s) := by
  unfold watchTake
  simp (maxDischargeDepth := 80) only [modBank_kept, advise_kept, Kept.self, kept_mk, MemKept.self, kept_ite,
      kept_ite_snd, implies_true, *]

theorem openWindow_kept (k : Nat) (s : State) {s0 : State} (h0 : Kept s0 s) :
    Kept s0 (openWindow k s) := by
  unfold openWindow
  simp (maxDischargeDepth := 80) only [forAll_kept, modBank_kept, watchTake_kept, Kept.self, kept_mk, MemKept.self,
      memKept_nil, memKept_ite, kept_ite, kept_ite_snd, implies_true, *]

theorem takeOccurrence_kept (now : Nat) (src : WatchSource) (stamp : Nat) (s : State) {s0 : State} (h0 : Kept s0 s) :
    Kept s0 (takeOccurrence now src stamp s) := by
  unfold takeOccurrence
  simp (maxDischargeDepth := 80) only [modBank_kept, watchTake_kept, openWindow_kept, Kept.self, kept_mk,
      MemKept.self, kept_ite, kept_ite_snd, implies_true, *]

theorem deliverWatch_kept (s : State) {s0 : State} (h0 : Kept s0 s) :
    Kept s0 (deliverWatch s) := by
  unfold deliverWatch
  simp (maxDischargeDepth := 80) only [forAll_kept, modBank_kept, takeOccurrence_kept, Kept.self, kept_mk,
      MemKept.self, implies_true, *]

theorem execWatchOccurrence_kept (src : WatchSource) (stamp : BitVec 64) (s : State) {s0 : State} (h0 : Kept s0 s) :
    OutKept s0 (execWatchOccurrence src stamp s) := by
  unfold execWatchOccurrence
  simp (maxDischargeDepth := 80) only [advanceTo_kept, takeOccurrence_kept, deliverWatch_kept, Kept.self, kept_mk,
      MemKept.self, outKept_next, implies_true, *]

theorem execWatchWindowClose_kept (s : State) {s0 : State} (h0 : Kept s0 s) :
    OutKept s0 (execWatchWindowClose s) := by
  unfold execWatchWindowClose
  simp (maxDischargeDepth := 80) only [advanceTo_kept, openWindow_kept, deliverWatch_kept, Kept.self, kept_mk,
      MemKept.self, outKept_next, implies_true, *]

end Sys2Proof.Machine
end

