-- ==== Sys2Proof/Laws/KeptMgmt.lean ====
section
/-! SUPPORT. What every operation keeps (`Kept`): mailboxes, firmware, presence, the tray, test access, power and power-up. -/

set_option linter.all false

namespace Sys2Proof.Machine

theorem modMbx_kept (ch : Nat) (f : Chan → Chan) (s : State) {s0 : State} (h0 : Kept s0 s) :
    Kept s0 (modMbx ch f s) := by
  unfold modMbx
  simp (maxDischargeDepth := 80) only [modMgmt_kept, Kept.self, kept_mk, MemKept.self, implies_true, *]

theorem writeMsg_kept (ch : Nat) (mid : BitVec 8) (k : Nat) (v : BitVec 32) (s : State) {s0 : State} (h0 : Kept s0 s) :
    Kept s0 (writeMsg ch mid k v s) := by
  unfold writeMsg
  simp (maxDischargeDepth := 80) only [modMbx_kept, Kept.self, kept_mk, MemKept.self, kept_ite, kept_ite_snd,
      implies_true, *]

theorem notify_kept (ch : Nat) (mid : BitVec 8) (s : State) {s0 : State} (h0 : Kept s0 s) :
    Kept s0 (notify ch mid s) := by
  unfold notify
  simp (maxDischargeDepth := 80) only [modHif_kept, modMgmt_kept, Kept.self, kept_mk, MemKept.self, kept_ite,
      kept_ite_snd, implies_true, *]

theorem postWords_kept (w lo : Nat) (s : State) {s0 : State} (h0 : Kept s0 s) :
    Kept s0 (postWords w lo s).2 := by
  unfold postWords
  simp (maxDischargeDepth := 80) only [freeVal_kept, Kept.self, kept_mk, MemKept.self, kept_ite, kept_ite_snd,
      implies_true, *]

theorem putReply_kept (ch code words acker : Nat) (buf : SMap (BitVec 32)) (s : State) {s0 : State} (h0 : Kept s0 s) :
    Kept s0 (putReply ch code words acker buf s) := by
  unfold putReply
  simp (maxDischargeDepth := 80) only [modMbx_kept, notify_kept, Kept.self, kept_mk, MemKept.self, implies_true, *]

theorem blockReply_kept (ch code : Nat) (s : State) {s0 : State} (h0 : Kept s0 s) :
    Kept s0 (blockReply ch code s) := by
  unfold blockReply
  simp (maxDischargeDepth := 80) only [putReply_kept, Kept.self, kept_mk, MemKept.self, implies_true, *]

theorem sendPost_kept (ch : Nat) (mid : BitVec 8) (v : BitVec 32) (s : State) {s0 : State} (h0 : Kept s0 s) :
    Kept s0 (sendPost ch mid v s) := by
  unfold sendPost
  repeat' (first | (simp (maxDischargeDepth := 80) only [modMbx_kept, notify_kept, postWords_kept,
                        blockReply_kept, Kept.self, kept_mk, MemKept.self, kept_ite, kept_ite_snd, implies_true, *];
                        done) | split | dsimp only)

theorem ackPost_kept (ch : Nat) (mid : BitVec 8) (v : BitVec 32) (s : State) {s0 : State} (h0 : Kept s0 s) :
    Kept s0 (ackPost ch mid v s) := by
  unfold ackPost
  simp (maxDischargeDepth := 80) only [postWords_kept, putReply_kept, Kept.self, kept_mk, MemKept.self, kept_ite,
      kept_ite_snd, implies_true, *]

theorem clearMbxStatus_kept (ch : Nat) (mid : BitVec 8) (v : BitVec 32) (s : State) {s0 : State} (h0 : Kept s0 s) :
    Kept s0 (clearMbxStatus ch mid v s) := by
  unfold clearMbxStatus
  simp (maxDischargeDepth := 80) only [modMbx_kept, Kept.self, kept_mk, MemKept.self, kept_ite, kept_ite_snd,
      implies_true, *]

theorem execMailboxSend_kept (ch : Fin 64) (mid : BitVec 8) (v : BitVec 32) (s : State) {s0 : State} (h0 : Kept s0 s) :
    OutKept s0 (execMailboxSend ch mid v s) := by
  unfold execMailboxSend
  simp (maxDischargeDepth := 80) only [sendPost_kept, Kept.self, kept_mk, MemKept.self, outKept_next, implies_true, *]

theorem execMailboxAck_kept (ch : Fin 64) (mid : BitVec 8) (v : BitVec 32) (s : State) {s0 : State} (h0 : Kept s0 s) :
    OutKept s0 (execMailboxAck ch mid v s) := by
  unfold execMailboxAck
  simp (maxDischargeDepth := 80) only [ackPost_kept, Kept.self, kept_mk, MemKept.self, outKept_next, implies_true, *]

theorem execMailboxStatusClear_kept (ch : Fin 64) (mid : BitVec 8) (v : BitVec 32) (s : State) {s0 : State} (h0 : Kept s0
    s) :
    OutKept s0 (execMailboxStatusClear ch mid v s) := by
  unfold execMailboxStatusClear
  simp (maxDischargeDepth := 80) only [clearMbxStatus_kept, Kept.self, kept_mk, MemKept.self, outKept_next,
      implies_true, *]

theorem execMailboxTimeout_kept (ch : Fin 64) (s : State) {s0 : State} (h0 : Kept s0 s) :
    OutKept s0 (execMailboxTimeout ch s) := by
  unfold execMailboxTimeout
  simp (maxDischargeDepth := 80) only [advanceTo_kept, raise_kept, blockReply_kept, Kept.self, kept_mk, MemKept.self,
      kept_ite, kept_ite_snd, outKept_next, outKept_ite, implies_true, *]

theorem rebind_kept (ch : Nat) (v : BitVec 32) (s : State) {s0 : State} (h0 : Kept s0 s) :
    Kept s0 (rebind ch v s) := by
  unfold rebind
  simp (maxDischargeDepth := 80) only [modMgmt_kept, raise_kept, modMbx_kept, Kept.self, kept_mk, MemKept.self,
      implies_true, *]

theorem presenceDenied_kept (unit : Nat) (s : State) {s0 : State} (h0 : Kept s0 s) :
    Kept s0 (presenceDenied unit s) := by
  unfold presenceDenied
  simp (maxDischargeDepth := 80) only [raise_kept, Kept.self, kept_mk, MemKept.self, implies_true, *]

theorem writeRebind_kept (v : BitVec 32) (s : State) {s0 : State} (h0 : Kept s0 s) :
    Kept s0 (writeRebind v s) := by
  unfold writeRebind
  simp (maxDischargeDepth := 80) only [modMgmt_kept, rebind_kept, presenceDenied_kept, Kept.self, kept_mk,
      MemKept.self, kept_ite, kept_ite_snd, implies_true, *]

theorem execMbxRebindGo_kept (v : BitVec 32) (s : State) {s0 : State} (h0 : Kept s0 s) :
    OutKept s0 (execMbxRebindGo v s) := by
  unfold execMbxRebindGo
  simp (maxDischargeDepth := 80) only [writeRebind_kept, Kept.self, kept_mk, MemKept.self, outKept_next, implies_true,
      *]

theorem writeWindow_kept (ch off : Nat) (mid : BitVec 8) (v : BitVec 32) (s : State) {s0 : State} (h0 : Kept s0 s) :
    Kept s0 (writeWindow ch off mid v s) := by
  unfold writeWindow
  simp (maxDischargeDepth := 80) only [writeMsg_kept, sendPost_kept, ackPost_kept, clearMbxStatus_kept, Kept.self,
      kept_mk, MemKept.self, kept_ite, kept_ite_snd, implies_true, *]

theorem fwReply_kept (ch : Nat) (m : FwMsg) (code : Nat) (ws : List (BitVec 32)) (s : State) {s0 : State} (h0 : Kept s0
    s) :
    Kept s0 (fwReply ch m code ws s) := by
  unfold fwReply
  simp (maxDischargeDepth := 80) only [forAll_kept, writeMsg_kept, ackPost_kept, Kept.self, kept_mk, MemKept.self,
      implies_true, *]

theorem fwData_kept (ch : Nat) (m : FwMsg) (bs : List Byte) (s : State) {s0 : State} (h0 : Kept s0 s) :
    Kept s0 (fwData ch m bs s) := by
  unfold fwData
  simp (maxDischargeDepth := 80) only [hostWrite_kept, fwReply_kept, Kept.self, kept_mk, MemKept.self, kept_ite,
      kept_ite_snd, implies_true, *]

theorem onCommand_kept (ch : Fin 64) (cmd : Nat) (f : FwMsg → State → State) (s : State) {s0 : State} (h0 : Kept s0 s)
    (hf : ∀ a t, Kept t (f a t)) :
    Kept s0 (onCommand ch cmd f s) := by
  have hg := fun a t (h : Kept s0 t) => h.trans (hf a t)
  unfold onCommand
  (repeat' split) <;> simp (maxDischargeDepth := 80) only [fwReply_kept, Kept.self, kept_ite, implies_true, *]

theorem underPresence_kept (ch : Nat) (m : FwMsg) (f : State → State) (s : State) {s0 : State} (h0 : Kept s0 s)
    (hf : ∀ t, Kept t (f t)) :
    Kept s0 (underPresence ch m f s) := by
  have hg := fun t (h : Kept s0 t) => h.trans (hf t)
  unfold underPresence
  simp (maxDischargeDepth := 80) only [fwReply_kept, Kept.self, kept_ite, implies_true, *]

theorem execPing_kept (ch : Fin 64) (s : State) {s0 : State} (h0 : Kept s0 s) :
    OutKept s0 (execPing ch s) := by
  unfold execPing
  simp (maxDischargeDepth := 80) only [fwReply_kept, onCommand_kept, Kept.self, kept_mk, MemKept.self, outKept_next,
      implies_true, *]

theorem execInfo_kept (ch : Fin 64) (s : State) {s0 : State} (h0 : Kept s0 s) :
    OutKept s0 (execInfo ch s) := by
  unfold execInfo
  simp (maxDischargeDepth := 80) only [fwReply_kept, onCommand_kept, Kept.self, kept_mk, MemKept.self, outKept_next,
      implies_true, *]

theorem execAttest_kept (ch : Fin 64) (s : State) {s0 : State} (h0 : Kept s0 s) :
    OutKept s0 (execAttest ch s) := by
  unfold execAttest
  simp (maxDischargeDepth := 80) only [fwData_kept, onCommand_kept, Kept.self, kept_mk, MemKept.self, outKept_next,
      implies_true, *]

theorem execIdChain_kept (ch : Fin 64) (s : State) {s0 : State} (h0 : Kept s0 s) :
    OutKept s0 (execIdChain ch s) := by
  unfold execIdChain
  simp (maxDischargeDepth := 80) only [fwData_kept, onCommand_kept, Kept.self, kept_mk, MemKept.self, outKept_next,
      implies_true, *]

theorem execReadCapture_kept (ch : Fin 64) (s : State) {s0 : State} (h0 : Kept s0 s) :
    OutKept s0 (execReadCapture ch s) := by
  unfold execReadCapture
  repeat' (first | (simp (maxDischargeDepth := 80) only [fwReply_kept, fwData_kept, onCommand_kept, Kept.self,
                        kept_mk, MemKept.self, kept_ite, kept_ite_snd, outKept_next, outKept_ite, implies_true, *];
                        done) | split | dsimp only)

theorem execScrub_kept (ch : Fin 64) (target : ScrubTarget) (s : State) {s0 : State} (h0 : Kept s0 s) :
    OutKept s0 (execScrub ch target s) := by
  unfold execScrub
  simp (maxDischargeDepth := 80) only [modHif_kept, modMgmt_kept, fwReply_kept, onCommand_kept, Kept.self, kept_mk,
      MemKept.self, kept_ite, kept_ite_snd, outKept_next, outKept_ite, implies_true, *]

theorem takeLock_kept (k core : Nat) (s : State) {s0 : State} (h0 : Kept s0 s) :
    Kept s0 (takeLock k core s) := by
  unfold takeLock
  simp (maxDischargeDepth := 80) only [modMgmt_kept, Kept.self, kept_mk, MemKept.self, implies_true, *]

theorem dropLock_kept (k : Nat) (s : State) {s0 : State} (h0 : Kept s0 s) :
    Kept s0 (dropLock k s) := by
  unfold dropLock
  simp (maxDischargeDepth := 80) only [modMgmt_kept, Kept.self, kept_mk, MemKept.self, implies_true, *]

theorem startLong_kept (ch : Nat) (m : FwMsg) (lock : Nat) (l : LongCommand) (s : State) {s0 : State} (h0 : Kept s0 s) :
    Kept s0 (startLong ch m lock l s) := by
  unfold startLong
  simp (maxDischargeDepth := 80) only [modMgmt_kept, fwReply_kept, takeLock_kept, Kept.self, kept_mk, MemKept.self,
      kept_ite, kept_ite_snd, implies_true, *]

theorem execInstallTableWrite_kept (ch : Fin 64) (s : State) {s0 : State} (h0 : Kept s0 s) :
    OutKept s0 (execInstallTableWrite ch s) := by
  unfold execInstallTableWrite
  simp (maxDischargeDepth := 80) only [fwReply_kept, onCommand_kept, underPresence_kept, startLong_kept, Kept.self,
      kept_mk, MemKept.self, kept_ite, kept_ite_snd, outKept_next, outKept_ite, implies_true, *]

theorem loseBeyond_kept (s : State) (r : Repair) (t : State) {s0 : State} (h0 : Kept s0 t) :
    Kept s0 (loseBeyond s r t) := by
  unfold loseBeyond
  split
  · exact losePosn_kept _ _ h0
  · exact h0

theorem execFuseRepair_kept (ch : Fin 64) (r : Repair) (readback : Bool) (s : State) {s0 : State} (h0 : Kept s0 s) :
    OutKept s0 (execFuseRepair ch r readback s) := by
  unfold execFuseRepair
  repeat' (first | (simp (maxDischargeDepth := 80) only [fwReply_kept, onCommand_kept, underPresence_kept,
                        startLong_kept, loseBeyond_kept, Kept.self, kept_mk, MemKept.self, kept_ite, kept_ite_snd,
                        outKept_next, outKept_ite, implies_true, *]; done) | split | dsimp only)

theorem modFuses_kept (f : Fuses → Fuses) (s : State) {s0 : State} (h0 : Kept s0 s)
    (hf : factoryFuses (f s.fuses) = factoryFuses s.fuses) (hg : s.fuses.idGen.toNat ≤ (f s.fuses).idGen.toNat) :
    Kept s0 (modFuses f s) := by
  refine h0.trans ⟨?_, hg, id⟩
  simp only [State.steady, modFuses, hf]

theorem logEnd_kept (ticket : BitVec 8) (code : Nat) (s : State) {s0 : State} (h0 : Kept s0 s) :
    Kept s0 (logEnd ticket code s) := by
  unfold logEnd
  simp (maxDischargeDepth := 80) only [modMgmt_kept, Kept.self, kept_mk, MemKept.self, implies_true, *]

theorem fuseIn_factory (r : Repair) (f : Fuses) :
    factoryFuses (fuseIn r f) = factoryFuses f ∧ (fuseIn r f).idGen = f.idGen := by
  cases r <;> exact ⟨Eq.refl _, Eq.refl _⟩

theorem endRepair_kept (l : LongCommand) (r : Repair) (s : State) {s0 : State} (h0 : Kept s0 s) :
    Kept s0 (endRepair l r s) := by
  unfold endRepair
  dsimp only
  have h1 := modFuses_kept (fun f => { f with wordsUsed := SMap.upd 0 f.wordsUsed (repairHome r) (fun n => n + 1) }) s h0
    (Eq.refl _) (le_refl _)
  split
  · exact logEnd_kept _ _ _ (raise_kept _ _ _ _ (modFuses_kept _ _ h1 (fuseIn_factory r _).1 (by rw [(fuseIn_factory r _).2])))
  · exact logEnd_kept _ _ _ h1

theorem endLong_kept (l : LongCommand) (s : State) {s0 : State} (h0 : Kept s0 s) :
    Kept s0 (endLong l s) := by
  unfold endLong
  repeat' (first | (simp (maxDischargeDepth := 80) only [modMgmt_kept, raise_kept, dropLock_kept, logEnd_kept,
                        endRepair_kept, Kept.self, kept_mk, MemKept.self, kept_ite, kept_ite_snd, implies_true, *];
                        done) | split | dsimp only)

theorem execFirmwareCommandEnd_kept (ticket : BitVec 8) (s : State) {s0 : State} (h0 : Kept s0 s) :
    OutKept s0 (execFirmwareCommandEnd ticket s) := by
  unfold execFirmwareCommandEnd
  repeat' (first | (simp (maxDischargeDepth := 80) only [modMgmt_kept, endLong_kept, Kept.self, kept_mk,
                        MemKept.self, outKept_next, implies_true, *]; done) | split | dsimp only)

theorem execRotateId_kept (ch : Fin 64) (s : State) {s0 : State} (h0 : Kept s0 s) :
    OutKept s0 (execRotateId ch s) := by
  unfold execRotateId
  refine outKept_next (onCommand_kept _ _ _ _ h0 fun m t => underPresence_kept _ _ _ _ (Kept.self t) fun u => ?_)
  split
  · exact fwReply_kept _ _ _ _ _ (Kept.self u)
  · exact fwReply_kept _ _ _ _ _ (raise_kept _ _ _ _ (kept_idGen (modMgmt_kept _ _ (Kept.self u)) ‹_›))

theorem execDebugUnlock_kept (ch : Fin 64) (s : State) {s0 : State} (h0 : Kept s0 s) :
    OutKept s0 (execDebugUnlock ch s) := by
  unfold execDebugUnlock
  simp (maxDischargeDepth := 80) only [modMgmt_kept, raise_kept, fwReply_kept, onCommand_kept, underPresence_kept,
      Kept.self, kept_mk, MemKept.self, outKept_next, implies_true, *]

theorem execMbxRebind_kept (ch target : Fin 64) (v : BitVec 32) (s : State) {s0 : State} (h0 : Kept s0 s) :
    OutKept s0 (execMbxRebind ch target v s) := by
  unfold execMbxRebind
  simp (maxDischargeDepth := 80) only [rebind_kept, fwReply_kept, onCommand_kept, underPresence_kept, Kept.self,
      kept_mk, MemKept.self, outKept_next, implies_true, *]

theorem execSealClear_kept (ch : Fin 64) (s : State) {s0 : State} (h0 : Kept s0 s) :
    OutKept s0 (execSealClear ch s) := by
  unfold execSealClear
  simp (maxDischargeDepth := 80) only [modMgmt_kept, fwReply_kept, onCommand_kept, underPresence_kept, Kept.self,
      kept_mk, MemKept.self, outKept_next, implies_true, *]

theorem execPresenceAssert_kept (s : State) {s0 : State} (h0 : Kept s0 s) :
    OutKept s0 (execPresenceAssert s) := by
  unfold execPresenceAssert
  simp (maxDischargeDepth := 80) only [modMgmt_kept, Kept.self, kept_mk, MemKept.self, outKept_next, implies_true, *]

theorem execPresenceEnd_kept (s : State) {s0 : State} (h0 : Kept s0 s) :
    OutKept s0 (execPresenceEnd s) := by
  unfold execPresenceEnd
  simp (maxDischargeDepth := 80) only [modMgmt_kept, Kept.self, kept_mk, MemKept.self, outKept_next, implies_true, *]

theorem openSeal_kept (s : State) {s0 : State} (h0 : Kept s0 s) :
    Kept s0 (openSeal s) := by
  unfold openSeal
  simp (maxDischargeDepth := 80) only [modMgmt_kept, raise_kept, alertSets_kept, Kept.self, kept_mk, MemKept.self,
      kept_ite, kept_ite_snd, implies_true, *]

theorem execSealOpened_kept (s : State) {s0 : State} (h0 : Kept s0 s) :
    OutKept s0 (execSealOpened s) := by
  unfold execSealOpened
  simp (maxDischargeDepth := 80) only [openSeal_kept, Kept.self, kept_mk, MemKept.self, outKept_next, implies_true, *]

theorem execSealToggle_kept (returns : Bool) (s : State) {s0 : State} (h0 : Kept s0 s) :
    OutKept s0 (execSealToggle returns s) := by
  unfold execSealToggle
  simp (maxDischargeDepth := 80) only [modMgmt_kept, openSeal_kept, Kept.self, kept_mk, MemKept.self, kept_ite,
      kept_ite_snd, outKept_next, outKept_ite, implies_true, *]

theorem execFwLockExpired_kept (lock : Fin 131) (core : Fin 4) (s : State) {s0 : State} (h0 : Kept s0 s) :
    OutKept s0 (execFwLockExpired lock core s) := by
  unfold execFwLockExpired
  repeat' (first | (simp (maxDischargeDepth := 80) only [modMgmt_kept, raise_kept, Kept.self, kept_mk,
                        MemKept.self, kept_ite, kept_ite_snd, outKept_next, outKept_ite, implies_true, *]; done) | split | dsimp only)

theorem execHeartbeat_kept (s : State) {s0 : State} (h0 : Kept s0 s) :
    OutKept s0 (execHeartbeat s) := by
  unfold execHeartbeat
  simp (maxDischargeDepth := 80) only [modMgmt_kept, Kept.self, kept_mk, MemKept.self, kept_ite, kept_ite_snd,
      outKept_next, outKept_ite, implies_true, *]

theorem execPtbSample_kept (s : State) {s0 : State} (h0 : Kept s0 s) :
    OutKept s0 (execPtbSample s) := by
  unfold execPtbSample
  simp (maxDischargeDepth := 80) only [advanceTo_kept, modMgmt_kept, Kept.self, kept_mk, MemKept.self, outKept_next,
      implies_true, *]

theorem partRing_kept (e : Event) (s : State) {s0 : State} (h0 : Kept s0 s) :
    Kept s0 (partRing e s) := by
  unfold partRing
  simp (maxDischargeDepth := 80) only [modHif_kept, modMgmt_kept, hostWrite_kept, Kept.self, kept_mk, MemKept.self,
      kept_ite, kept_ite_snd, implies_true, *]

theorem toPartRing_kept (e : Event) (s : State) {s0 : State} (h0 : Kept s0 s) :
    Kept s0 (toPartRing e s) := by
  unfold toPartRing
  simp (maxDischargeDepth := 80) only [modMgmt_kept, partRing_kept, Kept.self, kept_mk, MemKept.self, kept_ite,
      kept_ite_snd, implies_true, *]

theorem toCtxRing_kept (c : Ctx) (e : Event) (s : State) {s0 : State} (h0 : Kept s0 s) :
    Kept s0 (toCtxRing c e s) := by
  unfold toCtxRing
  simp (maxDischargeDepth := 80) only [modCtx_kept, hostWrite_kept, sendMsix_kept, Kept.self, kept_mk, MemKept.self,
      kept_ite, kept_ite_snd, implies_true, *]

theorem execEventRecordWrite_kept (s : State) {s0 : State} (h0 : Kept s0 s) :
    OutKept s0 (execEventRecordWrite s) := by
  unfold execEventRecordWrite
  repeat' (first | (simp (maxDischargeDepth := 80) only [modMgmt_kept, toPartRing_kept, toCtxRing_kept,
                        Kept.self, kept_mk, MemKept.self, outKept_next, implies_true, *]; done) | split | dsimp only)

theorem writeEvtCtrl_kept (v : BitVec 32) (s : State) {s0 : State} (h0 : Kept s0 s) :
    Kept s0 (writeEvtCtrl v s) := by
  unfold writeEvtCtrl
  simp (maxDischargeDepth := 80) only [modMgmt_kept, forAll_kept, partRing_kept, Kept.self, kept_mk, MemKept.self,
      kept_ite, kept_ite_snd, implies_true, *]

theorem execEvtRingEnable_kept (v : BitVec 32) (s : State) {s0 : State} (h0 : Kept s0 s) :
    OutKept s0 (execEvtRingEnable v s) := by
  unfold execEvtRingEnable
  simp (maxDischargeDepth := 80) only [writeEvtCtrl_kept, Kept.self, kept_mk, MemKept.self, outKept_next,
      implies_true, *]

theorem writeEvtTail_kept (v : BitVec 32) (s : State) {s0 : State} (h0 : Kept s0 s) :
    Kept s0 (writeEvtTail v s) := by
  unfold writeEvtTail
  simp (maxDischargeDepth := 80) only [modMgmt_kept, raise_kept, Kept.self, kept_mk, MemKept.self, kept_ite,
      kept_ite_snd, implies_true, *]

theorem execEvtRingTailWrite_kept (v : BitVec 32) (s : State) {s0 : State} (h0 : Kept s0 s) :
    OutKept s0 (execEvtRingTailWrite v s) := by
  unfold execEvtRingTailWrite
  simp (maxDischargeDepth := 80) only [writeEvtTail_kept, Kept.self, kept_mk, MemKept.self, outKept_next,
      implies_true, *]

theorem modPwr_kept (f : Pwr → Pwr) (s : State) {s0 : State} (h0 : Kept s0 s) :
    Kept s0 (modPwr f s) := by
  unfold modPwr
  simp (maxDischargeDepth := 80) only [Kept.self, kept_mk, MemKept.self, implies_true, *]

theorem writeAlert_kept (v : BitVec 32) (s : State) {s0 : State} (h0 : Kept s0 s) :
    Kept s0 (writeAlert v s) := by
  unfold writeAlert
  simp (maxDischargeDepth := 80) only [modPwr_kept, Kept.self, kept_mk, MemKept.self, implies_true, *]

theorem writeFlash_kept (v : BitVec 32) (s : State) {s0 : State} (h0 : Kept s0 s) :
    Kept s0 (writeFlash v s) := by
  unfold writeFlash
  repeat' (first | (simp (maxDischargeDepth := 80) only [modPwr_kept, Kept.self, kept_mk, MemKept.self, kept_ite,
                        kept_ite_snd, implies_true, *]; done) | split | dsimp only)

theorem trayWrite_kept (off : Nat) (v : BitVec 32) (s : State) {s0 : State} (h0 : Kept s0 s) :
    Kept s0 (trayWrite off v s) := by
  unfold trayWrite
  simp (maxDischargeDepth := 80) only [writeWindow_kept, modPwr_kept, writeAlert_kept, writeFlash_kept, Kept.self,
      kept_mk, MemKept.self, kept_ite, kept_ite_snd, implies_true, *]

theorem execI3cPrivateWrite_kept (offset : BitVec 24) (data : List (BitVec 32)) (s : State) {s0 : State} (h0 : Kept s0 s)
    :
    OutKept s0 (execI3cPrivateWrite offset data s) := by
  unfold execI3cPrivateWrite
  simp (maxDischargeDepth := 80) only [forAll_kept, modPwr_kept, trayWrite_kept, Kept.self, kept_mk, MemKept.self,
      outKept_next, implies_true, *]

theorem execI3cDynamicAddress_kept (addr : BitVec 7) (s : State) {s0 : State} (h0 : Kept s0 s) :
    OutKept s0 (execI3cDynamicAddress addr s) := by
  unfold execI3cDynamicAddress
  simp (maxDischargeDepth := 80) only [modPwr_kept, Kept.self, kept_mk, MemKept.self, outKept_next, implies_true, *]

theorem flashActed_kept (s : State) {s0 : State} (h0 : Kept s0 s) :
    Kept s0 (flashActed s) := by
  unfold flashActed
  simp (maxDischargeDepth := 80) only [modPwr_kept, Kept.self, kept_mk, MemKept.self, implies_true, *]

theorem pageBytes_kept (a : Nat) (s : State) {s0 : State} (h0 : Kept s0 s) :
    Kept s0 (pageBytes a s).2 := by
  unfold pageBytes
  simp (maxDischargeDepth := 80) only [freeBytes_kept, Kept.self, kept_mk, MemKept.self, kept_ite, kept_ite_snd,
      implies_true, *]

theorem execFlashRead_kept (s : State) {s0 : State} (h0 : Kept s0 s) :
    OutKept s0 (execFlashRead s) := by
  unfold execFlashRead
  repeat' (first | (simp (maxDischargeDepth := 80) only [modPwr_kept, flashActed_kept, pageBytes_kept, Kept.self,
                        kept_mk, MemKept.self, outKept_next, implies_true, *]; done) | split | dsimp only)

theorem flashWrite_kept (a : Nat) (bs : List Byte) (s : State) {s0 : State} (h0 : Kept s0 s) :
    Kept s0 (flashWrite a bs s) := by
  unfold flashWrite
  simp (maxDischargeDepth := 80) only [modPwr_kept, Kept.self, kept_mk, MemKept.self, memKept_writeRun, implies_true,
      *]

theorem flashRefuse_kept (s : State) {s0 : State} (h0 : Kept s0 s) :
    Kept s0 (flashRefuse s) := by
  unfold flashRefuse
  simp (maxDischargeDepth := 80) only [modPwr_kept, Kept.self, kept_mk, MemKept.self, implies_true, *]

theorem execFlashProgram_kept (s : State) {s0 : State} (h0 : Kept s0 s) :
    OutKept s0 (execFlashProgram s) := by
  unfold execFlashProgram
  repeat' (first | (simp (maxDischargeDepth := 80) only [freeBytes_kept, flashActed_kept, flashWrite_kept,
                        flashRefuse_kept, Kept.self, kept_mk, MemKept.self, kept_ite, kept_ite_snd, outKept_next,
                        outKept_ite, implies_true, *]; done) | split | dsimp only)

theorem execFlashErase_kept (s : State) {s0 : State} (h0 : Kept s0 s) :
    OutKept s0 (execFlashErase s) := by
  unfold execFlashErase
  repeat' (first | (simp (maxDischargeDepth := 80) only [modPwr_kept, flashActed_kept, flashRefuse_kept,
                        Kept.self, kept_mk, MemKept.self, kept_ite, kept_ite_snd, outKept_next, outKept_ite,
                        implies_true, *]; done) | split | dsimp only)

theorem execFlashOpDone_kept (s : State) {s0 : State} (h0 : Kept s0 s) :
    OutKept s0 (execFlashOpDone s) := by
  unfold execFlashOpDone
  simp (maxDischargeDepth := 80) only [modPwr_kept, Kept.self, kept_mk, MemKept.self, kept_ite, kept_ite_snd,
      outKept_next, outKept_ite, implies_true, *]

theorem loadIr_kept (code : BitVec 8) (drBits : Nat) (boundary floated : Bool) (s : State) {s0 : State} (h0 : Kept s0 s)
    :
    Kept s0 (loadIr code drBits boundary floated s) := by
  unfold loadIr
  simp (maxDischargeDepth := 80) only [Kept.self, kept_mk, MemKept.self, implies_true, *]

theorem refuseIr_kept (s : State) {s0 : State} (h0 : Kept s0 s) :
    Kept s0 (refuseIr s) := by
  unfold refuseIr
  simp (maxDischargeDepth := 80) only [Kept.self, kept_mk, MemKept.self, implies_true, *]

theorem tapInstr_kept (allowed : Bool) (code : BitVec 8) (drBits : Nat) (boundary floated : Bool) (s : State) {s0 :
    State} (h0 : Kept s0 s) :
    OutKept s0 (tapInstr allowed code drBits boundary floated s) := by
  unfold tapInstr
  simp (maxDischargeDepth := 80) only [loadIr_kept, refuseIr_kept, Kept.self, kept_mk, MemKept.self, kept_ite,
      kept_ite_snd, outKept_next, outKept_ite, implies_true, *]

theorem tapReset_kept (s : State) {s0 : State} (h0 : Kept s0 s) :
    Kept s0 (tapReset s) := by
  unfold tapReset
  simp (maxDischargeDepth := 80) only [Kept.self, kept_mk, MemKept.self, implies_true, *]

theorem execExtest_kept (s : State) {s0 : State} (h0 : Kept s0 s) :
    OutKept s0 (execExtest s) := by
  unfold execExtest
  simp (maxDischargeDepth := 80) only [tapInstr_kept, Kept.self, kept_mk, MemKept.self, outKept_next, implies_true, *]

theorem execSamplePreload_kept (s : State) {s0 : State} (h0 : Kept s0 s) :
    OutKept s0 (execSamplePreload s) := by
  unfold execSamplePreload
  simp (maxDischargeDepth := 80) only [tapInstr_kept, Kept.self, kept_mk, MemKept.self, outKept_next, implies_true, *]

theorem execIdcode_kept (s : State) {s0 : State} (h0 : Kept s0 s) :
    OutKept s0 (execIdcode s) := by
  unfold execIdcode
  simp (maxDischargeDepth := 80) only [tapInstr_kept, Kept.self, kept_mk, MemKept.self, outKept_next, implies_true, *]

theorem execClamp_kept (s : State) {s0 : State} (h0 : Kept s0 s) :
    OutKept s0 (execClamp s) := by
  unfold execClamp
  simp (maxDischargeDepth := 80) only [tapInstr_kept, Kept.self, kept_mk, MemKept.self, outKept_next, implies_true, *]

theorem execHighz_kept (s : State) {s0 : State} (h0 : Kept s0 s) :
    OutKept s0 (execHighz s) := by
  unfold execHighz
  simp (maxDischargeDepth := 80) only [tapInstr_kept, Kept.self, kept_mk, MemKept.self, outKept_next, implies_true, *]

theorem execExtestPulse_kept (s : State) {s0 : State} (h0 : Kept s0 s) :
    OutKept s0 (execExtestPulse s) := by
  unfold execExtestPulse
  simp (maxDischargeDepth := 80) only [tapInstr_kept, Kept.self, kept_mk, MemKept.self, outKept_next, implies_true, *]

theorem execExtestTrain_kept (s : State) {s0 : State} (h0 : Kept s0 s) :
    OutKept s0 (execExtestTrain s) := by
  unfold execExtestTrain
  simp (maxDischargeDepth := 80) only [tapInstr_kept, Kept.self, kept_mk, MemKept.self, outKept_next, implies_true, *]

theorem execPosnSel_kept (s : State) {s0 : State} (h0 : Kept s0 s) :
    OutKept s0 (execPosnSel s) := by
  unfold execPosnSel
  simp (maxDischargeDepth := 80) only [tapInstr_kept, Kept.self, kept_mk, MemKept.self, outKept_next, implies_true, *]

theorem execWirAccess_kept (s : State) {s0 : State} (h0 : Kept s0 s) :
    OutKept s0 (execWirAccess s) := by
  unfold execWirAccess
  simp (maxDischargeDepth := 80) only [tapInstr_kept, Kept.self, kept_mk, MemKept.self, outKept_next, implies_true, *]

theorem execDwrAccess_kept (s : State) {s0 : State} (h0 : Kept s0 s) :
    OutKept s0 (execDwrAccess s) := by
  unfold execDwrAccess
  simp (maxDischargeDepth := 80) only [tapInstr_kept, Kept.self, kept_mk, MemKept.self, outKept_next, implies_true, *]

theorem execMbist_kept (s : State) {s0 : State} (h0 : Kept s0 s) :
    OutKept s0 (execMbist s) := by
  unfold execMbist
  simp (maxDischargeDepth := 80) only [tapInstr_kept, Kept.self, kept_mk, MemKept.self, outKept_next, implies_true, *]

theorem execLaneTest_kept (s : State) {s0 : State} (h0 : Kept s0 s) :
    OutKept s0 (execLaneTest s) := by
  unfold execLaneTest
  simp (maxDischargeDepth := 80) only [tapInstr_kept, Kept.self, kept_mk, MemKept.self, outKept_next, implies_true, *]

theorem execFuseAccess_kept (s : State) {s0 : State} (h0 : Kept s0 s) :
    OutKept s0 (execFuseAccess s) := by
  unfold execFuseAccess
  simp (maxDischargeDepth := 80) only [tapInstr_kept, Kept.self, kept_mk, MemKept.self, outKept_next, implies_true, *]

theorem execBypass_kept (s : State) {s0 : State} (h0 : Kept s0 s) :
    OutKept s0 (execBypass s) := by
  unfold execBypass
  simp (maxDischargeDepth := 80) only [tapInstr_kept, Kept.self, kept_mk, MemKept.self, outKept_next, implies_true, *]

theorem writeDebug_kept (code word : Nat) (v : BitVec 64) (s : State) {s0 : State} (h0 : Kept s0 s) :
    Kept s0 (writeDebug code word v s) := by
  unfold writeDebug
  simp (maxDischargeDepth := 80) only [presenceDenied_kept, Kept.self, kept_mk, MemKept.self, kept_ite, kept_ite_snd,
      implies_true, *]

theorem execDebugWindowWrite_kept (m : Master) (code : BitVec 8) (word : BitVec 9) (v : BitVec 64) (s : State) {s0 :
    State} (h0 : Kept s0 s) :
    OutKept s0 (execDebugWindowWrite m code word v s) := by
  unfold execDebugWindowWrite
  simp (maxDischargeDepth := 80) only [writeDebug_kept, Kept.self, kept_mk, MemKept.self, kept_ite, kept_ite_snd,
      outKept_next, outKept_ite, implies_true, *]

theorem restart_kept (s : State) {s0 : State} (h0 : Kept s0 s) :
    Kept s0 (restart s) := by
  refine h0.trans ⟨Eq.refl _, le_refl _, fun w => ?_⟩
  simp only [State.canonical, Bool.and_eq_true] at w
  exact w.2

theorem clearStaging_kept (keep : Option Nat) (s : State) {s0 : State} (h0 : Kept s0 s) :
    Kept s0 (clearStaging keep s) := by
  unfold clearStaging
  simp (maxDischargeDepth := 80) only [forAll_kept, memZero_kept, Kept.self, kept_mk, MemKept.self, kept_ite,
      kept_ite_snd, implies_true, *]

theorem chipReset_kept (keep : Option Nat) (s : State) {s0 : State} (h0 : Kept s0 s) :
    Kept s0 (chipReset keep s) := by
  exact clearStaging_kept _ _ (h0.trans ⟨Eq.refl _, le_refl _, id⟩)

theorem execPkgResetAssert_kept (captured : Bool) (s : State) {s0 : State} (h0 : Kept s0 s) :
    OutKept s0 (execPkgResetAssert captured s) := by
  unfold execPkgResetAssert
  simp (maxDischargeDepth := 80) only [loseRanks_kept, writeCapture_kept, chipReset_kept, Kept.self, kept_mk,
      MemKept.self, kept_ite, kept_ite_snd, outKept_next, outKept_ite, implies_true, *]

theorem startUp_kept (s : State) {s0 : State} (h0 : Kept s0 s) :
    Kept s0 (startUp s) := by
  unfold startUp
  simp (maxDischargeDepth := 80) only [modPwr_kept, Kept.self, kept_mk, MemKept.self, implies_true, *]

theorem execPkgResetDeassert_kept (s : State) {s0 : State} (h0 : Kept s0 s) :
    OutKept s0 (execPkgResetDeassert s) := by
  unfold execPkgResetDeassert
  simp (maxDischargeDepth := 80) only [modPwr_kept, tapReset_kept, startUp_kept, Kept.self, kept_mk, MemKept.self,
      kept_ite, kept_ite_snd, outKept_next, outKept_ite, implies_true, *]

theorem execPwrGoodRise_kept (straps : BitVec 2) (s : State) {s0 : State} (h0 : Kept s0 s) :
    OutKept s0 (execPwrGoodRise straps s) := by
  unfold execPwrGoodRise
  simp (maxDischargeDepth := 80) only [modPwr_kept, startUp_kept, Kept.self, kept_mk, MemKept.self, kept_ite,
      kept_ite_snd, outKept_next, outKept_ite, implies_true, *]

theorem execPwrGoodFall_kept (s : State) {s0 : State} (h0 : Kept s0 s) :
    OutKept s0 (execPwrGoodFall s) := by
  unfold execPwrGoodFall
  simp (maxDischargeDepth := 80) only [loseRanks_kept, modPwr_kept, tapReset_kept, restart_kept, Kept.self, kept_mk,
      MemKept.self, kept_ite, kept_ite_snd, outKept_next, outKept_ite, implies_true, *]

theorem execThermtrip_kept (s : State) {s0 : State} (h0 : Kept s0 s) :
    OutKept s0 (execThermtrip s) := by
  unfold execThermtrip
  repeat' (first | (simp (maxDischargeDepth := 80) only [loseRanks_kept, modPwr_kept, Kept.self, kept_mk,
                        MemKept.self, kept_ite, kept_ite_snd, outKept_next, outKept_ite, implies_true, *]; done) | split | dsimp only)

theorem execPllLockLoss_kept (p : Pll) (s : State) {s0 : State} (h0 : Kept s0 s) :
    OutKept s0 (execPllLockLoss p s) := by
  unfold execPllLockLoss
  repeat' (first | (simp (maxDischargeDepth := 80) only [partitionReset_kept, requestChip_kept, modPwr_kept,
                        Kept.self, kept_mk, MemKept.self, outKept_next, implies_true, *]; done) | split | dsimp only)

theorem execDampControl_kept (avgW : Nat) (s : State) {s0 : State} (h0 : Kept s0 s) :
    OutKept s0 (execDampControl avgW s) := by
  unfold execDampControl
  simp (maxDischargeDepth := 80) only [modPwr_kept, Kept.self, kept_mk, MemKept.self, kept_ite, kept_ite_snd,
      outKept_next, outKept_ite, implies_true, *]

theorem limitEvent_kept (pkgW : Nat) (s : State) {s0 : State} (h0 : Kept s0 s) :
    Kept s0 (limitEvent pkgW s) := by
  unfold limitEvent
  simp (maxDischargeDepth := 80) only [raise_kept, modPwr_kept, Kept.self, kept_mk, MemKept.self, kept_ite,
      kept_ite_snd, implies_true, *]

theorem warnEvent_kept (tdie thub : Nat) (s : State) {s0 : State} (h0 : Kept s0 s) :
    Kept s0 (warnEvent tdie thub s) := by
  unfold warnEvent
  simp (maxDischargeDepth := 80) only [raise_kept, modPwr_kept, Kept.self, kept_mk, MemKept.self, kept_ite,
      kept_ite_snd, implies_true, *]

theorem execTelemetryUpdate_kept (tdie : BitVec 8) (tposn : Posn) (thub : BitVec 8) (pkgW : BitVec 16) (s : State) {s0 :
    State} (h0 : Kept s0 s) :
    OutKept s0 (execTelemetryUpdate tdie tposn thub pkgW s) := by
  unfold execTelemetryUpdate
  simp (maxDischargeDepth := 80) only [alertSets_kept, modPwr_kept, limitEvent_kept, warnEvent_kept, Kept.self,
      kept_mk, MemKept.self, outKept_next, implies_true, *]

theorem lockAll_kept (s : State) {s0 : State} (h0 : Kept s0 s) :
    Kept s0 (lockAll s) := by
  unfold lockAll
  repeat' (first | (simp (maxDischargeDepth := 80) only [forAll_kept, lockPlls_kept, modPwr_kept, Kept.self,
                        kept_mk, MemKept.self, implies_true, *]; done) | split | dsimp only)

theorem loadConfig_kept (s : State) {s0 : State} (h0 : Kept s0 s) :
    Kept s0 (loadConfig s) := by
  unfold loadConfig
  simp (maxDischargeDepth := 80) only [modMgmt_kept, forAll_kept, modGfw_kept, modMbx_kept, Kept.self, kept_mk,
      MemKept.self, kept_ite, kept_ite_snd, implies_true, *]

theorem execManagementBoot_kept (s : State) {s0 : State} (h0 : Kept s0 s) :
    OutKept s0 (execManagementBoot s) := by
  unfold execManagementBoot
  simp (maxDischargeDepth := 80) only [modMgmt_kept, raise_kept, alertSets_kept, modPwr_kept, lockAll_kept,
      loadConfig_kept, Kept.self, kept_mk, MemKept.self, kept_ite, kept_ite_snd, outKept_next, outKept_ite, implies_true,
      *]

theorem execDieInventory_kept (s : State) {s0 : State} (h0 : Kept s0 s) :
    OutKept s0 (execDieInventory s) := by
  unfold execDieInventory
  repeat' (first | (simp (maxDischargeDepth := 80) only [modPos_kept, forAll_kept, raise_kept, modEdge_kept,
                        startEdge_kept, d2dStage_kept, modPwr_kept, Kept.self, kept_mk, MemKept.self, kept_ite,
                        kept_ite_snd, outKept_next, outKept_ite, implies_true, *]; done) | split | dsimp only)

theorem execHbmTraining_kept (failed : List (Posn × Fin 64)) (s : State) {s0 : State} (h0 : Kept s0 s) :
    OutKept s0 (execHbmTraining failed s) := by
  unfold execHbmTraining
  repeat' (first | (simp (maxDischargeDepth := 80) only [modPos_kept, modHif_kept, forAll_kept, raise_kept,
                        modChan_kept, mapoutStart_kept, mapoutFinish_kept, modPwr_kept, Kept.self, kept_mk,
                        MemKept.self, kept_ite, kept_ite_snd, outKept_next, outKept_ite, implies_true, *]; done) | split | dsimp only)

theorem execFabricDiscovery_kept (s : State) {s0 : State} (h0 : Kept s0 s) :
    OutKept s0 (execFabricDiscovery s) := by
  unfold execFabricDiscovery
  repeat' (first | (simp (maxDischargeDepth := 80) only [modFab_kept, modPort_kept, forAll_kept, raise_kept,
                        discoveryDone_kept, trainPort_kept, Kept.self, kept_mk, MemKept.self, kept_ite, kept_ite_snd,
                        outKept_next, outKept_ite, implies_true, *]; done) | split | dsimp only)

theorem execHostLinkTraining_kept (port : Fin 2) (width : BitVec 5) (rate : BitVec 7) (s : State) {s0 : State} (h0 : Kept
    s0 s) :
    OutKept s0 (execHostLinkTraining port width rate s) := by
  unfold execHostLinkTraining
  simp (maxDischargeDepth := 80) only [modHif_kept, raise_kept, modPwr_kept, Kept.self, kept_mk, MemKept.self,
      kept_ite, kept_ite_snd, outKept_next, outKept_ite, implies_true, *]

end Sys2Proof.Machine
end

