-- ==== Sys2Proof/Laws/KeptRows.lean ====
section
/-! SUPPORT. What every operation keeps (`Kept`): register writes and the router. -/

set_option linter.all false

namespace Sys2Proof.Machine

theorem modSel_kept (m : Master) (f : Selectors → Selectors) (s : State) {s0 : State} (h0 : Kept s0 s) :
    Kept s0 (modSel m f s) := by
  unfold modSel
  repeat' (first | (simp (maxDischargeDepth := 80) only [Kept.self, kept_mk, MemKept.self, implies_true, *];
                        done) | split | dsimp only)

theorem writeMemCfg_kept (v : BitVec 64) (s : State) {s0 : State} (h0 : Kept s0 s) :
    Kept s0 (writeMemCfg v s) := by
  unfold writeMemCfg
  simp (maxDischargeDepth := 80) only [Kept.self, kept_mk, MemKept.self, kept_ite, kept_ite_snd, implies_true, *]

theorem writeBind_kept (c : Nat) (v : BitVec 64) (s : State) {s0 : State} (h0 : Kept s0 s) :
    Kept s0 (writeBind c v s) := by
  unfold writeBind
  simp (maxDischargeDepth := 80) only [modMbx_kept, Kept.self, kept_mk, MemKept.self, kept_ite, kept_ite_snd,
      implies_true, *]

theorem writeSec_kept (v : BitVec 64) (s : State) {s0 : State} (h0 : Kept s0 s) :
    Kept s0 (writeSec v s) := by
  unfold writeSec
  simp (maxDischargeDepth := 80) only [modMgmt_kept, presenceDenied_kept, Kept.self, kept_mk, MemKept.self, kept_ite,
      kept_ite_snd, implies_true, *]

theorem writeGfwCtrl_kept (g : Nat) (v : BitVec 64) (s : State) {s0 : State} (h0 : Kept s0 s) :
    Kept s0 (writeGfwCtrl g v s) := by
  unfold writeGfwCtrl
  simp (maxDischargeDepth := 80) only [modGfw_kept, Kept.self, kept_mk, MemKept.self, kept_ite, kept_ite_snd,
      implies_true, *]

theorem writeGfwVaddr_kept (g : Nat) (v : BitVec 64) (s : State) {s0 : State} (h0 : Kept s0 s) :
    Kept s0 (writeGfwVaddr g v s) := by
  unfold writeGfwVaddr
  simp (maxDischargeDepth := 80) only [modGfw_kept, Kept.self, kept_mk, MemKept.self, kept_ite, kept_ite_snd,
      implies_true, *]

theorem writeRule_kept (x : Selectors) (f : GfwRule → GfwRule) (s : State) {s0 : State} (h0 : Kept s0 s) :
    Kept s0 (writeRule x f s) := by
  unfold writeRule
  simp (maxDischargeDepth := 80) only [modGfw_kept, Kept.self, kept_mk, MemKept.self, kept_ite, kept_ite_snd,
      implies_true, *]

theorem writePortCfg_kept (p : Nat) (v : BitVec 64) (s : State) {s0 : State} (h0 : Kept s0 s) :
    Kept s0 (writePortCfg p v s) := by
  unfold writePortCfg
  simp (maxDischargeDepth := 80) only [modPort_kept, retrainPort_kept, Kept.self, kept_mk, MemKept.self, kept_ite,
      kept_ite_snd, implies_true, *]

theorem writePartCfg_kept (k : Nat) (v : BitVec 64) (s : State) {s0 : State} (h0 : Kept s0 s) :
    Kept s0 (writePartCfg k v s) := by
  unfold writePartCfg
  simp (maxDischargeDepth := 80) only [modPart_kept, setValid_kept, clearValid_kept, Kept.self, kept_mk, MemKept.self,
      kept_ite, kept_ite_snd, implies_true, *]

theorem writePartBox_kept (k : Nat) (v : BitVec 64) (s : State) {s0 : State} (h0 : Kept s0 s) :
    Kept s0 (writePartBox k v s) := by
  unfold writePartBox
  simp (maxDischargeDepth := 80) only [modPart_kept, Kept.self, kept_mk, MemKept.self, kept_ite, kept_ite_snd,
      implies_true, *]

theorem writeRasReset_kept (m : Master) (v : BitVec 32) (s : State) {s0 : State} (h0 : Kept s0 s) :
    Kept s0 (writeRasReset m v s) := by
  unfold writeRasReset
  repeat' (first | (simp (maxDischargeDepth := 80) only [startReset_kept, setRasReset_kept, requestChip_kept,
                        Kept.self, kept_mk, MemKept.self, kept_ite, kept_ite_snd, implies_true, *]; done) | split | dsimp only)

theorem writeSlotCfg_kept (n slot : Nat) (v : BitVec 64) (s : State) {s0 : State} (h0 : Kept s0 s) :
    Kept s0 (writeSlotCfg n slot v s) := by
  unfold writeSlotCfg
  simp (maxDischargeDepth := 80) only [modPos_kept, Kept.self, kept_mk, MemKept.self, implies_true, *]

theorem writeCtxCmd_kept (f : Fin 64) (v : BitVec 64) (s : State) {s0 : State} (h0 : Kept s0 s) :
    Kept s0 (writeCtxCmd f v s) := by
  unfold writeCtxCmd
  repeat' (first | (simp (maxDischargeDepth := 80) only [createCmd_kept, teardownCmd_kept, queryCmd_kept,
                        Kept.self, kept_mk, MemKept.self, implies_true, *]; done) | split | dsimp only)

theorem write32A_kept (m : Master) (off : Nat) (v : BitVec 64) (s : State) {s0 : State} (h0 : Kept s0 s) :
    OptKept s0 (write32A m off v s) := by
  unfold write32A
  repeat' (first | (simp (maxDischargeDepth := 80) only [modHif_kept, modMgmt_kept, writeShadowCfg_kept,
                        writeRebind_kept, writeEvtCtrl_kept, writeEvtTail_kept, writeMemCfg_kept, writeRasReset_kept,
                        Kept.self, kept_mk, MemKept.self, kept_ite, kept_ite_snd, optKept_none, optKept_some,
                        optKept_ite, optKept_map, optKept_or, optKept_bind, implies_true, *]; done) | split | dsimp only)

theorem write32B_kept (off : Nat) (v : BitVec 64) (s : State) {s0 : State} (h0 : Kept s0 s) :
    OptKept s0 (write32B off v s) := by
  unfold write32B
  repeat' (first | (simp (maxDischargeDepth := 80) only [modStep_kept, hostAbort_kept, modPwr_kept,
                        writeSec_kept, Kept.self, kept_mk, MemKept.self, kept_ite, kept_ite_snd, optKept_none,
                        optKept_some, optKept_ite, optKept_map, optKept_or, optKept_bind, implies_true, *]; done) | split | dsimp only)

theorem write32S_kept (x : Selectors) (off : Nat) (v : BitVec 64) (s : State) {s0 : State} (h0 : Kept s0 s) :
    OptKept s0 (write32S x off v s) := by
  unfold write32S
  repeat' (first | (simp (maxDischargeDepth := 80) only [writePortCfg_kept, writeSlotCfg_kept, Kept.self,
                        kept_mk, MemKept.self, kept_ite, kept_ite_snd, optKept_none, optKept_some, optKept_ite,
                        optKept_map, optKept_or, optKept_bind, implies_true, *]; done) | split | dsimp only)

theorem write32P_kept (off : Nat) (v : BitVec 64) (s : State) {s0 : State} (h0 : Kept s0 s) :
    OptKept s0 (write32P off v s) := by
  unfold write32P
  repeat' (first | (simp (maxDischargeDepth := 80) only [modPos_kept, writeStatTail_kept, Kept.self, kept_mk,
                        MemKept.self, kept_ite, kept_ite_snd, optKept_none, optKept_some, optKept_ite, optKept_map,
                        optKept_or, optKept_bind, implies_true, *]; done) | split | dsimp only)

theorem write64H_kept (x : Selectors) (off : Nat) (v : BitVec 64) (s : State) {s0 : State} (h0 : Kept s0 s) :
    OptKept s0 (write64H x off v s) := by
  unfold write64H
  repeat' (first | (simp (maxDischargeDepth := 80) only [modStep_kept, modMgmt_kept, writeRmap_kept,
                        writeRule_kept, writePartCfg_kept, writePartBox_kept, Kept.self, kept_mk, MemKept.self,
                        kept_ite, kept_ite_snd, optKept_none, optKept_some, optKept_ite, optKept_map, optKept_or,
                        optKept_bind, implies_true, *]; done) | split | dsimp only)

theorem write64I_kept (off : Nat) (v : BitVec 64) (s : State) {s0 : State} (h0 : Kept s0 s) :
    OptKept s0 (write64I off v s) := by
  unfold write64I
  repeat' (first | (simp +contextual (maxDischargeDepth := 80) only [writeFuncCfg_kept, writeGfwCtrl_kept,
                        writeGfwVaddr_kept, writeDebug_kept, modPos_kept, Kept.self, kept_mk, MemKept.self, kept_ite,
                        kept_ite_snd, optKept_none, optKept_some, optKept_map, optKept_or, optKept_bind, optKept_ite,
                        implies_true, *]; done) | split | dsimp only)

theorem writeSel_kept (m : Master) (off : Nat) (v : BitVec 64) (s : State) {s0 : State} (h0 : Kept s0 s) :
    OptKept s0 ((writeSel m off v).map (fun f => f s)) := by
  intro t h
  obtain ⟨f, hf, rfl⟩ := Option.map_eq_some_iff.mp h
  unfold writeSel at hf
  split at hf <;> cases hf <;> first | exact modSel_kept _ _ _ h0 | exact kept_ite (modSel_kept _ _ _ h0) h0

theorem write32_kept (m : Master) (off : Nat) (v : BitVec 64) (s : State) {s0 : State} (h0 : Kept s0 s) :
    OptKept s0 (write32 m off v s) := by
  unfold write32
  refine optKept_or (writeSel_kept _ _ _ _ h0) ?_
  simp (maxDischargeDepth := 80) only [write32A_kept, write32B_kept, write32S_kept, writeBind_kept, write32P_kept,
      Kept.self, kept_ite, optKept_none, optKept_some, optKept_map, optKept_or, optKept_bind, optKept_ite, implies_true,
      h0]

theorem write64_kept (m : Master) (off : Nat) (v : BitVec 64) (s : State) {s0 : State} (h0 : Kept s0 s) :
    OptKept s0 (write64 m off v s) := by
  unfold write64
  repeat' (first | (simp +contextual (maxDischargeDepth := 80) only [write64H_kept, write64I_kept, Kept.self, optKept_none,
                        optKept_some, optKept_map, optKept_or, optKept_bind, optKept_ite, implies_true,
                        *]; done) | split | dsimp only)

theorem writePage_kept (f : Fin 64) (off : Nat) (wide : Bool) (v : BitVec 64) (s : State) {s0 : State} (h0 : Kept s0 s) :
    Kept s0 (writePage f off wide v s) := by
  unfold writePage
  simp (maxDischargeDepth := 80) only [modHif_kept, writeCtxCmd_kept, Kept.self, kept_mk, MemKept.self, kept_ite,
      kept_ite_snd, implies_true, *]

theorem writeBar0_kept (m : Master) (off : Nat) (wide : Bool) (v : BitVec 64) (s : State) {s0 : State} (h0 : Kept s0 s) :
    Kept s0 (writeBar0 m off wide v s) := by
  unfold writeBar0
  split
  · exact writePage_kept _ _ _ _ _ h0
  · split
    · exact write32_kept _ _ _ _ h0 _ ‹_›
    · simp (maxDischargeDepth := 80) only [writePage_kept, write32_kept, write64_kept, Kept.self, kept_ite, optKept_getD, h0]

theorem writeAligned_kept (m : Master) (off : Nat) (wide : Bool) (v : BitVec 64) (s : State) {s0 : State} (h0 : Kept s0
    s) :
    Kept s0 (writeAligned m off wide v s) := by
  unfold writeAligned
  repeat' (first | (simp (maxDischargeDepth := 80) only [writeWindow_kept, writePage_kept, writeBar0_kept,
                        Kept.self, kept_mk, MemKept.self, kept_ite, kept_ite_snd, implies_true, *]; done) | split | dsimp only)

theorem execRegisterWrite_kept (m : Master) (offset : BitVec 27) (size : AccessSize) (v : BitVec 64) (s : State) {s0 :
    State} (h0 : Kept s0 s) :
    OutKept s0 (execRegisterWrite m offset size v s) := by
  unfold execRegisterWrite
  repeat' (first | (simp (maxDischargeDepth := 80) only [writeAligned_kept, Kept.self, kept_mk, MemKept.self,
                        kept_ite, kept_ite_snd, outKept_next, outKept_ite, implies_true, *]; done) | split | dsimp only)

theorem dropPacket_kept (s : State) {s0 : State} (h0 : Kept s0 s) :
    Kept s0 (dropPacket s) := by
  unfold dropPacket
  simp (maxDischargeDepth := 80) only [modFab_kept, Kept.self, kept_mk, MemKept.self, implies_true, *]

theorem forwardPacket_kept (port : Nat) (e : Part) (dst : Nat) (p : Packet) (s : State) {s0 : State} (h0 : Kept s0 s) :
    Kept s0 (forwardPacket port e dst p s) := by
  unfold forwardPacket
  repeat' (first | (simp (maxDischargeDepth := 80) only [emitOn_kept, dropPacket_kept, Kept.self, kept_mk,
                        MemKept.self, implies_true, *]; done) | split | dsimp only)

theorem landPacket_kept (c : Ctx) (p : Packet) (s : State) {s0 : State} (h0 : Kept s0 s) :
    Kept s0 (landPacket c p s) := by
  unfold landPacket
  simp (maxDischargeDepth := 80) only [guardedWrite_kept, Kept.self, kept_mk, MemKept.self, kept_ite, kept_ite_snd,
      implies_true, *]

theorem ackPacket_kept (port : Nat) (e : Part) (p : Packet) (s : State) {s0 : State} (h0 : Kept s0 s) :
    Kept s0 (ackPacket port e p s) := by
  unfold ackPacket
  repeat' (first | (simp (maxDischargeDepth := 80) only [sendPacket_kept, Kept.self, kept_mk, MemKept.self,
                        implies_true, *]; done) | split | dsimp only)

theorem ackArrives_kept (p : Packet) (s : State) {s0 : State} (h0 : Kept s0 s) :
    Kept s0 (ackArrives p s) := by
  unfold ackArrives
  simp (maxDischargeDepth := 80) only [mirrorAcked_kept, fillAcked_kept, recordAcked_kept, Kept.self, kept_mk,
      MemKept.self, kept_ite, kept_ite_snd, implies_true, *]

theorem groupArrives_kept (p : Packet) (s : State) {s0 : State} (h0 : Kept s0 s) :
    Kept s0 (groupArrives p s) := by
  unfold groupArrives
  simp (maxDischargeDepth := 80) only [modStep_kept, Kept.self, kept_mk, MemKept.self, kept_ite, kept_ite_snd,
      implies_true, *]

theorem landCopy_kept (c : Ctx) (p : Packet) (s : State) {s0 : State} (h0 : Kept s0 s) :
    Kept s0 (landCopy c p s) := by
  unfold landCopy
  simp (maxDischargeDepth := 80) only [modStep_kept, landPacket_kept, groupArrives_kept, Kept.self, kept_mk,
      MemKept.self, kept_ite, kept_ite_snd, implies_true, *]

theorem deliverStream_kept (port k : Nat) (p : Packet) (s : State) {s0 : State} (h0 : Kept s0 s) :
    Kept s0 (deliverStream port k p s) := by
  unfold deliverStream
  simp (maxDischargeDepth := 80) only [modStep_kept, ackPacket_kept, ackArrives_kept, landCopy_kept, Kept.self,
      kept_mk, MemKept.self, kept_ite, kept_ite_snd, implies_true, *]

theorem deliverReduction_kept (p : Packet) (s : State) {s0 : State} (h0 : Kept s0 s) :
    Kept s0 (deliverReduction p s) := by
  unfold deliverReduction
  simp (maxDischargeDepth := 80) only [arriveOperand_kept, arriveResult_kept, Kept.self, kept_mk, MemKept.self,
      kept_ite, kept_ite_snd, implies_true, *]

theorem deliverFence_kept (msg : Tc0) (s : State) {s0 : State} (h0 : Kept s0 s) :
    Kept s0 (deliverFence msg s) := by
  unfold deliverFence
  repeat' (first | (simp (maxDischargeDepth := 80) only [ownerDoneArrives_kept, mirrorDoneArrives_kept,
                        pairArrives_kept, pairOkArrives_kept, pairRefusedArrives_kept, mapArrives_kept,
                        mapOkArrives_kept, mapRefusedArrives_kept, unmapArrives_kept, auditStartArrives_kept,
                        auditLateArrives_kept, auditDigestArrives_kept, dropPacket_kept, Kept.self, kept_mk,
                        MemKept.self, implies_true, *]; done) | split | dsimp only)

theorem deliverTc0_kept (k : Nat) (msg : Tc0) (s : State) {s0 : State} (h0 : Kept s0 s) :
    Kept s0 (deliverTc0 k msg s) := by
  unfold deliverTc0
  repeat' (first | (simp (maxDischargeDepth := 80) only [syncArrives_kept, voteArrives_kept, drainedArrives_kept,
                        dropPacket_kept, deliverFence_kept, Kept.self, kept_mk, MemKept.self, kept_ite, kept_ite_snd,
                        implies_true, *]; done) | split | dsimp only)

theorem copyToFollower_kept (port : Nat) (e : Part) (p : Packet) (s : State) {s0 : State} (h0 : Kept s0 s) :
    Kept s0 (copyToFollower port e p s) := by
  unfold copyToFollower
  repeat' (first | (simp (maxDischargeDepth := 80) only [sendPacket_kept, Kept.self, kept_mk, MemKept.self,
                        implies_true, *]; done) | split | dsimp only)

theorem deliverPacket_kept (port k : Nat) (p : Packet) (s : State) {s0 : State} (h0 : Kept s0 s) :
    Kept s0 (deliverPacket port k p s) := by
  unfold deliverPacket
  repeat' (first | (simp (maxDischargeDepth := 80) only [dropPacket_kept, deliverStream_kept,
                        deliverReduction_kept, deliverTc0_kept, copyToFollower_kept, Kept.self, kept_mk, MemKept.self,
                        kept_ite, kept_ite_snd, implies_true, *]; done) | split | dsimp only)

theorem routeFlood_kept (port : Nat) (msg : Tc0) (s : State) {s0 : State} (h0 : Kept s0 s) :
    Kept s0 (routeFlood port msg s) := by
  unfold routeFlood
  simp (maxDischargeDepth := 80) only [resolveArrives_kept, routeAbort_kept, replayArrives_kept, Kept.self, kept_mk,
      MemKept.self, kept_ite, kept_ite_snd, implies_true, *]

theorem routePacket_kept (port : Nat) (p : Packet) (s : State) {s0 : State} (h0 : Kept s0 s) :
    Kept s0 (routePacket port p s) := by
  unfold routePacket
  repeat' (first | (simp (maxDischargeDepth := 80) only [transitPacket_kept, transitArrive_kept, dropPacket_kept,
                        forwardPacket_kept, deliverPacket_kept, routeFlood_kept, Kept.self, kept_mk, MemKept.self,
                        kept_ite, kept_ite_snd, implies_true, *]; done) | split | dsimp only)

theorem receivePacket_kept (port : Nat) (p : Packet) (s : State) {s0 : State} (h0 : Kept s0 s) :
    Kept s0 (receivePacket port p s) := by
  unfold receivePacket
  repeat' (first | (simp (maxDischargeDepth := 80) only [modFab_kept, modPort_kept, dropPacket_kept,
                        routePacket_kept, Kept.self, kept_mk, MemKept.self, kept_ite, kept_ite_snd, implies_true, *];
                        done) | split | dsimp only)

theorem execPacketReceive_kept (port : Fin 24) (p : Packet) (s : State) {s0 : State} (h0 : Kept s0 s) :
    OutKept s0 (execPacketReceive port p s) := by
  unfold execPacketReceive
  simp (maxDischargeDepth := 80) only [receivePacket_kept, Kept.self, kept_mk, MemKept.self, kept_ite, kept_ite_snd,
      outKept_next, outKept_ite, implies_true, *]

theorem unitsGoOn_kept (s : State) {s0 : State} (h0 : Kept s0 s) :
    Kept s0 (unitsGoOn s) := by
  unfold unitsGoOn
  simp (maxDischargeDepth := 80) only [forAll_kept, portTick_kept, deliverGuest_kept, edgeGoesOn_kept,
      deliverWatch_kept, Kept.self, kept_mk, MemKept.self, implies_true, *]

theorem tick_kept (s : State) {s0 : State} (h0 : Kept s0 s) :
    Kept s0 (tick s) := by
  unfold tick
  simp (maxDischargeDepth := 80) only [idleTick_kept, unitsGoOn_kept, Kept.self, kept_mk, MemKept.self, implies_true,
      *]

end Sys2Proof.Machine
end

