-- ==== Sys2Proof/WellFormed.lean ====
section
/-! DEFINITION. Which commands are well formed: the byte and word lists a command carries have the length the spec gives
the thing they stand for. Everything else about a command's operands is in its types. -/

namespace Sys2Proof

/-- Memory contents carried by a command: in canonical form. -/
def memOk (m : List (Nat × Byte)) : Bool := SMap.wf (0 : Byte) m

/-- The data bytes of a packet: 32 with LEN 0 for a TC0 message, else 64·LEN with LEN at most 64 (R232). -/
def packetOk (p : Packet) : Bool :=
  if p.pkind = 4 then decide (p.len = 0) && decide (p.data.length = 32)
  else decide (p.len.toNat ≤ 64) && decide (p.data.length = 64 * p.len.toNat)

/-- A flit carries 244 data bytes at most (R226). -/
def flitOk (f : Flit) : Bool := decide (f.data.length ≤ 244) && decide (f.crl.length ≤ 4) && decide (f.crt.length ≤ 4)

/-- Whether the operands of a command are such as the spec gives it. -/
def Instr.wf : Instr → Bool
  | .streamUnitArrive _ _ u => decide (u.length = 64)
  | .edgeFrameReceive _ _ f => decide (f.payload.length ≤ 248)
  | .flitReceive _ a => flitOk a.flit
  | .packetReceive _ p => packetOk p
  | .chunkReturn _ _ _ d => decide (d.length ≤ 4096)
  | .guestFirewallCheck _ _ u _ _ _ => u.all (fun d => decide (d.length = 64))
  | .reductionOperandArrive _ _ lo hi _ d => decide (lo.toNat ≤ hi.toNat) && decide (d.length ≤ 1024)
  | .shadowRecordReceive _ _ m d => decide (m.length ≤ 32) && decide (d.length ≤ 1024)
  | .promotionPullDone p _ _ _ _ _ _ => memOk p
  | .shadowStateLoaded p _ _ => memOk p
  | .restore _ p => memOk p
  | .restoreComplete _ p => memOk p
  | .bankStart _ p => memOk p
  | .i3cPrivateWrite _ d => decide (d.length ≤ 64)
  | _ => true

end Sys2Proof
end

