-- ==== Sys2Proof/Tests/Slice0.lean ====
section
/-! SUPPORT. The model's own tests: what the well-formedness checks refuse, the worked numbers of the spec, and for every statement
with premises a state and operands that meet them, clause by clause. -/

set_option Elab.async false

open Sys2Proof Sys2Proof.Machine

/-! ### What the tests are built from -/

/-- Cell (0,0) of P0. -/
def Tests.cell : CellId := ⟨0, 0, 0⟩

/-- A body of eight slots that stands at its first. -/
def Tests.run : Run :=
  { ctx := 1, key := 7, pid := 0, first := 0, len := 8, pc := 0, kindle := false, loops := [], aregs := [], step := none }

/-- Reset, with a body in the cell whose first word is given. -/
def Tests.atWord (w : BitVec 64) (f : Cell → Cell) (r : Run) : State :=
  { State.reset with prog := SMap.set 0 [] 0 w, cells := SMap.set Cell.init [] 0 (f { Cell.init with run := some r }) }

/-- Reset, with the cell changed. -/
def Tests.atCell (f : Cell → Cell) : State := modCell 0 f State.reset

/-- An instruction word: an opcode over the bits of its fields. -/
def Tests.word (op rest : Nat) : BitVec 64 := BitVec.ofNat 64 (op * 2 ^ 58 + rest)

/-- A read of storage without an error. -/
def Tests.fine : ReadErr := { corrected := 0, uncorrected := false }

/-- An operation in a unit. -/
def Tests.unitOp (w : BitVec 64) (started : Bool) : UnitOp := { newOp Tests.run w [] Tests.fine 0 with started := started }

/-- A descriptor of one opcode, all else 0. -/
def Tests.desc (op rest : Nat) : Desc :=
  { key := 7, index := 3, words := BitVec.ofNat 512 (op + rest), refetched := false, step := none, attempt := 0, cells := 0 }

/-- An ACTIVE context with rings of 16 entries, four sync objects from 8 on, P0 and one window. -/
def Tests.ctx : Context :=
  { Context.init with
    st := .active, posns := 1, holdsStep := true, dlog2 := 4, clog2 := 4, elog2 := 4, dring := 0x1000, cring := 0x2000
    ering := 0x3000, headwb := 0x4000, syncBase := 8, syncCount := 4, windows := [{ base := 0, limit := 0x100000 }] }

/-- Reset, with context 1 ACTIVE. -/
def Tests.atCtx (f : Context → Context) : State := modCtx 1 (fun _ => f Tests.ctx) State.reset

/-- Reset, with a descriptor of context 1 that has just started. -/
def Tests.starting (d : Desc) : State := Tests.atCtx (fun x => { x with starting := some d })

/-- A packet of 64 bytes for partition 5. -/
def Tests.packet : Packet :=
  { pid := 5, pkind := 0, len := 1, dst := ⟨0, 0, 0⟩, src := ⟨1, 0, 0⟩, lport := 0, lseq := 0, target := 0, aux := 0, tc := 0
    reserved := false, data := List.replicate 64 0 }

/-- A data flit. -/
def Tests.flit : Flit :=
  { seq := 0, ack := 0, kind := .data, tc := 0, pool := false, sop := true, crl := [], crt := [], data := [1], crc := 0 }

/-! ### Ill-formed commands -/

/-- Every check of `Instr.wf` refuses an operand list of a wrong length, or memory contents out of form. -/
theorem test_wf_refuses_cells_and_edges :
    (Instr.streamUnitArrive ⟨0, 0, 0⟩ 5 (List.replicate 63 0)).wf = false ∧
    (Instr.streamUnitArrive ⟨0, 0, 0⟩ 5 (List.replicate 64 0)).wf = true ∧
    (Instr.edgeFrameReceive 0 0
      { seq := 0, ack := 0, ftype := .data, ctag := 0, payload := List.replicate 249 0, crc := 0, packet := 0, last := true }).wf = false := by
  decide +kernel

/-- Flits of more than 244 bytes or more than four credits are refused. -/
theorem test_wf_refuses_flits :
    (Instr.flitReceive 0 ⟨{ Tests.flit with data := List.replicate 245 0 }, none, 0⟩).wf = false ∧
    (Instr.flitReceive 0 ⟨{ Tests.flit with crl := [1, 1, 1, 1, 1] }, none, 0⟩).wf = false ∧
    (Instr.flitReceive 0 ⟨{ Tests.flit with crt := [1, 1, 1, 1, 1] }, none, 0⟩).wf = false ∧
    (Instr.flitReceive 0 ⟨Tests.flit, none, 0⟩).wf = true := by decide +kernel

/-- Packets are refused when LEN does not give their data, or is above 64, and TC0 messages of other than 32 bytes. -/
theorem test_wf_refuses_packets :
    (Instr.packetReceive 0 { Tests.packet with len := 1, data := List.replicate 63 0 }).wf = false ∧
    (Instr.packetReceive 0 { Tests.packet with len := 65, data := List.replicate 4160 0 }).wf = false ∧
    (Instr.packetReceive 0 { Tests.packet with pkind := 4, len := 0, data := List.replicate 31 0 }).wf = false ∧
    (Instr.packetReceive 0 { Tests.packet with pkind := 4, len := 1, data := List.replicate 32 0 }).wf = false ∧
    (Instr.packetReceive 0 Tests.packet).wf = true := by decide +kernel

/-- Data lists longer than what carries them are refused, and an operand whose member range runs backward. -/
theorem test_wf_refuses_data :
    (Instr.chunkReturn 0 0 [] (List.replicate 4097 0)).wf = false ∧
    (Instr.reductionOperandArrive 0 0 2 1 0 []).wf = false ∧
    (Instr.reductionOperandArrive 0 0 1 2 0 (List.replicate 1025 0)).wf = false ∧
    (Instr.shadowRecordReceive 0 0 (List.replicate 33 0) []).wf = false ∧
    (Instr.shadowRecordReceive 0 0 [] (List.replicate 1025 0)).wf = false ∧
    (Instr.i3cPrivateWrite 0 (List.replicate 65 0)).wf = false := by decide +kernel

/-- Memory contents that a command carries are refused out of canonical form. -/
theorem test_wf_refuses_memory :
    (Instr.promotionPullDone [(5, 0)] [] [] [] 0 ⟨0, 0⟩ 0).wf = false ∧ (Instr.shadowStateLoaded [(5, 1), (5, 2)] 0 0).wf = false ∧
    (Instr.restore 1 [(6, 1), (5, 2)]).wf = false ∧ (Instr.restoreComplete 1 [(6, 1), (5, 2)]).wf = false ∧
    (Instr.bankStart 1 [(5, 0)]).wf = false := by decide +kernel

/-! ### Premises of the statements about cells -/

/-- SequencerInstructions: each instruction at a first slot with its completion signalled, and a loop's last and next rounds. -/
theorem test_sequencer_premises :
    (∀ op ∈ [0x00, 0x01, 0x04, 0x05, 0x06], let w := Tests.word op (2 ^ 53)
      let s := Tests.atWord w id Tests.run
      issues s Tests.cell Tests.run w ∧ Tests.run.pc + 1 < Tests.run.len ∧ Tests.run.loops.length < 4 ∧ wOp w = op ∧
        signalFits s Tests.cell w (semsTaken s Tests.cell w)) ∧
    (let w := Tests.word 0x07 0
      ∀ k ∈ [0, 1], let r : Run := { Tests.run with loops := [(7, k)] }
      issues (Tests.atWord w id r) Tests.cell r w ∧ wOp w = 0x07 ∧ 7 < r.len ∧
        signalFits (Tests.atWord w id r) Tests.cell w (semsTaken (Tests.atWord w id r) Tests.cell w)) ∧
    (let w := Tests.word 0x08 (2 ^ 57 + 255)
      let s := Tests.atWord w (fun k => { k with sems := [(0, 255)] }) Tests.run
      issues s Tests.cell Tests.run w ∧ wOp w = 0x08 ∧ 0 < fld w 7 0) ∧
    (let w := Tests.word 0x08 254
      let s := Tests.atWord w (fun k => { k with sems := [(0, 254)] }) Tests.run
      fld w 7 0 ≤ (SMap.get 0 (semsTaken s Tests.cell w) (fld w 48 46)).toNat) := by
  unfold issues signalFits; decide +kernel

/-- EndEndsBody: END with idle units, the TILE gone, waiting for this cell alone, and waiting for another as well. -/
theorem test_end_premises :
    let w := Tests.word 0x02 0
    let s := Tests.atWord w id Tests.run
    let d := { Tests.desc 3 0 with cells := 1 }
    issues s Tests.cell Tests.run w ∧ wOp w = 0x02 ∧ unitsIdle (getCell s 0) = true ∧ startedDesc s 1 7 = none ∧
      startedDesc (modCtx 1 (fun x => { x with started := [d] }) s) 1 7 = some d ∧
      d.cells &&& ~~~(BitVec.ofNat 256 (2 ^ (cellNum Tests.cell % 256))) = 0 ∧
      (3 : BitVec 256) &&& ~~~(BitVec.ofNat 256 (2 ^ (cellNum Tests.cell % 256))) ≠ 0 := by
  unfold issues; decide +kernel

/-- SequencerFaults: a reserved bit, a reserved opcode and VOPC, four loops and none, COUNT 0, and the last slot. -/
theorem test_fault_premises :
    (∀ op ∈ [0x00, 0x01, 0x04, 0x05, 0x06, 0x07],
      reservedBit (Tests.word op (2 ^ 29)) = true ∧ wOp (Tests.word op (2 ^ 29)) = op) ∧
    knownOps.contains (wOp (Tests.word 0x03 0)) = false ∧ wOp (Tests.word 0x19 (0x14 * 2 ^ 31)) = 0x19 ∧
    vopcReserved (wVopc (Tests.word 0x19 (0x14 * 2 ^ 31))) = true ∧
    reservedBit (Tests.word 0x06 0) = false ∧ reservedBit (Tests.word 0x07 0) = false ∧
    reservedBit (Tests.word 0x08 0) = false ∧ fld (Tests.word 0x08 0) 7 0 = 0 ∧
    (let r : Run := { Tests.run with pc := 7, loops := [(0, 1), (0, 1), (0, 1), (0, 1)] };
      (getCell (Tests.atWord 0 id r) 0).run = some r ∧ r.len ≤ r.pc + 1 ∧ 4 ≤ r.loops.length ∧
        runWord (Tests.atWord 0 id r) 0 r = 0 ∧ waitReady (Tests.atWord 0 id r) 0 0 = true ∧
        (Tests.atWord 0 id r).pwr.arithStopped = false) ∧
    State.reset.step.held = [] := by decide +kernel

/-- UnitInstructionsIssue: each unit with room for one operation more. -/
theorem test_unit_premises :
    (let w := Tests.word 0x10 (2 ^ 16 + 2 ^ 12)
      let s := Tests.atWord w (fun k => { k with unitM := [Tests.unitOp w true] }) Tests.run
      issues s Tests.cell Tests.run w ∧ wOp w = 0x10 ∧ (getCell s 0).unitM.length < 2 ∧ mmFault s 0 w = none) ∧
    (let w := Tests.word 0x18 0
      let s := Tests.atWord w (fun k => { k with unitD := [Tests.unitOp w true] }) Tests.run
      issues s Tests.cell Tests.run w ∧ (getCell s 0).unitD.length < 2 ∧ drainFault s 0 w = none) ∧
    (∀ out, let w := Tests.word (if out then 0x21 else 0x20) 0
      let s := Tests.atWord w (fun k => { k with cfg := { k.cfg with ports := [(0, { sctx := 9, out := out, en := true })] } })
        Tests.run
      issues s Tests.cell Tests.run w ∧ (getCell s 0).unitI.length < 2 ∧ portFault s 0 w out = none) := by
  unfold issues; decide +kernel

/-- UnitOperationsComplete: an operation of each unit at its end. -/
theorem test_complete_premises :
    let mm := Tests.unitOp (Tests.word 0x10 (2 ^ 16 + 2 ^ 12)) true
    let chk : UnitOp := { Tests.unitOp (Tests.word 0x19 (0x30 * 2 ^ 31)) true with step := some 4 }
    let h := { (openedStep State.reset 1 (Tests.desc 7 (4 * 2 ^ 128))) with step := 4 }
    mm.started = true ∧ (passInfo mm.word).isSome = true ∧
    partialsLeft (Tests.atCell (fun k => { k with unitM := [mm] })) 0 false = true ∧
    (Tests.atCell (fun k => { k with unitM := [mm] })).pwr.arithStopped = false ∧
    wOp chk.word = 0x19 ∧ wVopc chk.word = 0x30 ∧ bit chk.word 21 = false ∧
    (let s := modStep (fun e => { e with held := [h] }) State.reset;
      heldPlace s 4 = some 0 ∧ s.step.held[0]? = some h ∧ h.st = .opened) ∧
    (Tests.unitOp (Tests.word 0x20 0) true).left = 0 ∧
    wOp (Tests.unitOp (Tests.word 0x18 0) true).word = 0x18 ∧ wVopc (Tests.word 0x19 0) ≠ 0x30 := by decide +kernel

/-- PassFillsBank: a CLEAR pass into bank 0, and a KEEP pass into the same bank once it is FULL. -/
theorem test_pass_premises :
    ∀ keep : Bool, let o := Tests.unitOp (Tests.word 0x10 (2 ^ 16 + 2 ^ 12 + (if keep then 2 ^ 9 else 0))) false
    let k := getCell (Tests.atCell (fun k => { k with
      unitM := [o], bank0 := { st := if keep then .full else .empty, kn := false } })) 0
    o.err.uncorrected = false ∧ (passInfo o.word).map (fun i => (i.kn, i.seg, i.keep)) = some (false, false, keep) ∧ k.cfg.gang = none ∧
      ramped State.reset = false ∧ k.kPhase = .off ∧ (bankOf k false).st = (if keep then .full else .empty) ∧
      draining k false = false := by decide +kernel

/-- The operations of the vector unit: each VOPC, in an idle D unit. -/
theorem test_vop_premises :
    ∀ v ∈ (List.range 0x13 ++ [0x20, 0x21, 0x22, 0x23, 0x24, 0x25, 0x26, 0x27, 0x28, 0x2F, 0x30, 0x31] : List Nat),
      vopIssues (Tests.atWord (Tests.word 0x19 (v * 2 ^ 31)) id Tests.run) Tests.cell Tests.run
        (Tests.word 0x19 (v * 2 ^ 31)) v := by
  unfold vopIssues issues; decide +kernel

/-- PACK4 reads and writes E2M1 in blocks. -/
theorem test_pack4_premises :
    let w := Tests.word 0x19 (0x13 * 2 ^ 31 + 9 * 2 ^ 27 + 9 * 2 ^ 23)
    vopIssues (Tests.atWord w id Tests.run) Tests.cell Tests.run w 0x13 := by
  unfold vopIssues issues; decide +kernel

/-- CellEvents: a signal for a semaphore of 254, a FULL bank, a partial that waits, and a SIN that waits for its last unit. -/
theorem test_cell_event_premises :
    let dr := Tests.unitOp (Tests.word 0x18 0) false
    let kn := Tests.unitOp (Tests.word 0x10 (2 ^ 16 + 2 ^ 12 + 2 ^ 11)) true
    let si : UnitOp := { Tests.unitOp (Tests.word 0x20 0) true with left := 1 }
    let port : PortCfg := { sctx := 9, out := false, en := true }
    SMap.get 0 (getCell (Tests.atCell (fun k => { k with sems := [(3, 254)] })) 0).sems 3 ≠ 255 ∧
    (Tests.atCell (fun k => { k with sems := [(3, 254)] })).pwr.arithStopped = false ∧
    (bankOf (getCell (Tests.atCell (fun k => { k with unitD := [dr], bank0 := { st := .full, kn := false } })) 0) false).st =
      .full ∧
    partialBank (Tests.atCell (fun k => { k with unitM := [kn], bank0 := { st := .busy, kn := true } })) 0 = some false ∧
    0 < si.left ∧ opPort si = 0 ∧
    (let k := getCell (Tests.atCell (fun k => { k with unitI := [si], cfg := { k.cfg with ports := [(0, port)] } })) 0;
      (List.range 16).find? (fun p =>
        let q := SMap.get PortCfg.init k.cfg.ports p
        q.en && !q.out && q.sctx == 9) = some (opPort si) ∧ SMap.get [] k.fifoIn 0 = []) := by decide +kernel

/-- BodiesStartByEpoch: the current epoch, the last one ahead of which a TILE waits, and the first one that has passed. -/
theorem test_epoch_premises :
    let t : TileWait := { ctx := 1, key := 7, pid := 2, epoch := 0, step := none, since := 0 }
    let e : ProgEntry := { first := 0, len := 1 }
    let w := Tests.word 0x01 (2 * 2 ^ 30)
    let s := { Tests.atWord w (fun k => { k with tiles := [t], cfg := { k.cfg with table := [(2, some e)] } }) Tests.run with
      prog := [(0, w)] }
    epochDistance s 0 0 = 0 ∧ SMap.get none (getCell s 0).cfg.table 2 = some e ∧
      progMatches (runWord s 0 (newRun t e)) t e = true ∧ epochDistance s 0 1 = 1 ∧ epochDistance s 0 32767 = 32767 ∧
      epochDistance s 0 32768 = 32768 ∧ s.pwr.arithStopped = false ∧ (getCell (Tests.atCell (fun k => { k with tiles := [t] })) 0).run = none := by
  decide +kernel

/-- KindlingPhases: the gap after a pass in STEADY and in OPEN, and both ends of a ramp. -/
theorem test_kindling_premises :
    let steady := { State.reset with pwr := { State.reset.pwr with modes := { State.reset.pwr.modes with draught := .steady } } }
    gangOrigin steady 0 = 0 ∧ kindles steady { Cell.init with kLevel := 8 } = true ∧ ramped steady = true ∧
      ramped State.reset = false ∧ steady.pwr.arithStopped = false ∧ (Tests.atCell (fun k => { k with kPhase := .rampUp, kLevel := 7 })).cells.length = 1 ∧
      (getCell (Tests.atCell (fun k => { k with kPhase := .rampDown })) 0).kLevel = 0 := by decide +kernel
/-! ### Premises of the statements about statistics, descriptors and sync objects -/

/-- HistogramField: a partial whose counts stand at 0 and where they stop. -/
theorem test_histogram_premises :
    let p : Partial := { Partial.init with hist := [(0, 1), (31, 0xFFFFFFFF)] }
    SMap.wf 0 p.hist = true ∧ ∀ kv ∈ p.hist, kv.1 < 32 ∧ kv.2 ≤ 0xFFFFFFFF := by decide +kernel

/-- StatisticsMerge: a partial short of a record's count and one that completes it, the ring's last index and one past it. -/
theorem test_statistics_premises :
    let m : PartialMsg := { slot := 4, p := Partial.init, step := 0, attempt := 0 }
    let p : Pos := { Pos.init with st := .enabled, partialQ := [m], slotCfg := [(4, 5)], ringHead := 63 }
    let cfg := SMap.get slotCfgInit p.slotCfg 4
    p.partialQ = [m] ∧ slotEn cfg = true ∧ State.reset.pwr.modes.stats = true ∧ slotCells cfg = 2 ∧
      (SMap.get Merged.init p.merged 4).count + 1 < slotCells cfg ∧
      slotCells cfg ≤ ({ count := 1, p := Partial.init } : Merged).count + 1 ∧ p.st = .enabled ∧ statRingSize p = 64 ∧
      ((63 + 64 - p.ringTail.toNat) % 64 ≤ (p.ringHead.toNat + 64 - p.ringTail.toNat) % 64) ∧ ¬(64 < statRingSize p) := by
  decide +kernel

/-- ErrorRateWatch: off, and on with stamps in the first and the next window, below the threshold and at it, advised and not. -/
theorem test_watch_premises :
    let on := { State.reset with bank := { State.reset.bank with watchCfg := 0x2103E8 } }
    bit { State.reset.bank with watchCfg := 0 }.watchCfg 16 = false ∧ bit on.bank.watchCfg 16 = true ∧
      watchPeriod on = 1000000000 ∧ (999999999 : BitVec 64).toNat / watchPeriod on = on.bank.window ∧
      ((advanceTo 999999999 on).mgmt.ptb.toNat - 10000) / watchPeriod on ≤ on.bank.window ∧
      (1000000000 : BitVec 64).toNat / watchPeriod on = on.bank.window + 1 ∧
      ((advanceTo 1000000000 on).mgmt.ptb.toNat - 10000) / watchPeriod on ≤ on.bank.window ∧
      watchHit (modBank (watchAdd .mem) on) .mem = false ∧
      watchHit (modBank (watchAdd .drop) { on with bank := { on.bank with drop := 0 } }) .drop = true ∧
      on.bank.advised = false ∧ on.pwr.modes.autoBank = false ∧ on.bank.early = [] := by decide +kernel

/-- DoorbellsMoveIndices: PF0's first page, a page without a context, and the first index past what may be taken. -/
theorem test_doorbell_premises :
    let s := modHif (fun h => { h with funcCfg := [(0, 0x1001)] }) (Tests.atCtx (fun x => { x with
      release := 2, fetch := 5, cplWrite := 3, evtWrite := 15 }))
    doorbellCtx s 0 0 = some 1 ∧ doorbellCtx s 0 1 = none ∧ doorbellCtx s 1 0 = none := by
  decide +kernel

/-- The indices at the bounds of R267: the last TAIL short of RELEASE and RELEASE itself, the write index and the one past it. -/
theorem test_doorbell_bounds :
    let x := { Tests.ctx with release := 2, fetch := 5, cplWrite := 3, evtWrite := 15 }
    tailOk x 1 = true ∧ tailOk x 2 = false ∧ tailOk x 16 = false ∧ headOk x.clog2 x.cplHead x.cplWrite 3 = true ∧
      headOk x.clog2 x.cplHead x.cplWrite 4 = false ∧ headOk x.elog2 x.evtHead x.evtWrite 15 = true ∧
      headOk x.elog2 x.evtHead x.evtWrite 16 = false := by decide +kernel

/-- DescriptorCompletionRecord: an ACTIVE context, a descriptor with CPL and one without. -/
theorem test_completion_premises :
    recordsOpen Tests.ctx = true ∧ dCpl (Tests.desc 0 (2 ^ 12)).words = true ∧ dCpl (Tests.desc 0 0).words = false := by
  decide +kernel

/-- FetchReadsRing: a context with three entries posted. -/
theorem test_fetch_premises :
    let s := Tests.atCtx (fun x => { x with tail := 3, cplHead := 0 })
    roundRobin s.hif.fetchPtr 4096 (fun c => decide (0 < fetchCount (SMap.get Context.init s.hif.ctxs c))) = some 1 ∧
      fetchCount (getCtx s 1) = 3 := by decide +kernel

/-- DescriptorsStartInOrder: a NOP that starts, one that offends, and one that waits on an object below its value, or with ERROR. -/
theorem test_start_premises :
    let d := Tests.desc 0 0
    let bad := Tests.desc 0 (2 ^ 128)
    let waits := Tests.desc 0 (2 ^ 14 + 8 * 2 ^ 32 + 5 * 2 ^ 64)
    let s := Tests.atCtx (fun x => { x with fetched := [d] })
    (getCtx s 1).fetched = [d] ∧ (getCtx s 1).st = .active ∧ (getCtx s 1).starting = none ∧
      (getCtx s 1).fetchStopped = false ∧ d.refetched = false ∧ (getCtx s 1).ver.toNat = dVer d.words ∧
      dWait d.words = false ∧ newestHeld s 1 = none ∧ offences (getCtx s 1) d.words = [] ∧
      needsStep (dOpcode d.words) = false ∧
      firstOffence (offences (getCtx s 1) bad.words) = some (16, stBadDescriptor) ∧ dWait waits.words = true ∧
      inSyncRange (getCtx s 1) (dWaitSync waits.words) = true ∧ (getCtx s 1).waiting = none ∧
      (getSync s (dWaitSync waits.words)).error = false ∧ syncReached { value := 4, error := false } (dWaitValue waits.words) = false := by
  decide +kernel

/-- SimpleDescriptors: each of them in the starting place; the context bound to an entry whose map names a rank. -/
theorem test_simple_premises :
    (∀ op ∈ [0x00, 0x05, 0x06], startingOf (Tests.starting (Tests.desc op 0)) 1 op = some (Tests.desc op 0)) ∧
    dfld (Tests.desc 4 (4 * 2 ^ 128)).words 0x10 3 0 = 4 ∧
    (∀ k ∈ [0, 1, 2, 3], dfld (Tests.desc 6 ((8 + k * 2 ^ 16) * 2 ^ 128)).words 0x10 18 16 = k ∧
      inSyncRange Tests.ctx (dfld (Tests.desc 6 ((8 + k * 2 ^ 16) * 2 ^ 128)).words 0x10 15 0) = true) ∧
    (let s := modPart 0 (fun e => { e with valid := true, ctx := 1, pid := 5, map := [(0, 0x8003)] })
      (Tests.starting (Tests.desc 6 0));
      boundEntry s 1 = some 0 ∧ (SMap.get 0 (getPart s 0).map 0).getLsbD 15 = true) := by decide +kernel

/-- SyncObjectsUpdate: one update that waits, a context that waits, and a PID whose context holds the object, and one past it. -/
theorem test_sync_premises :
    let u : SyncUpd := { obj := 11, requester := 10, op := .add 1 }
    let s := modHif (fun h => { h with syncQ := [u], syncPtr := [(11, 10)] }) (Tests.atCtx id)
    let p := modPart 0 (fun e => { e with valid := true, ctx := 1, pid := 5 }) s
    let wait : WaitRec := { since := 0, reached := false }
    u.requester < 11 ∧ SMap.get 0 s.hif.syncPtr 11 = u.requester ∧ (∀ kv ∈ s.hif.ctxs, kv.2.waiting = none) ∧
      entryOfPid p 5 = some 0 ∧ inSyncRange (getCtx p (getPart p 0).ctx) 11 = true ∧
      inSyncRange (getCtx p (getPart p 0).ctx) 12 = false ∧
      (getCtx (Tests.atCtx (fun x => { x with waiting := some wait, fetched := [Tests.desc 0 0] })) 1).waiting = some wait := by
  decide +kernel

/-- TilesAndBodies and ConfigurationGoesToShadow: a TILE, a body load that conflicts and one that fills memory to its end, an image and
modes for the next epoch, and an epoch one further. -/
theorem test_config_premises :
    let load := Tests.desc 4 ((1 + 2 ^ 8 + 4095 * 2 ^ 32 + 0x20000000000 * 2 ^ 64 + 2 ^ 128) * 2 ^ 128)
    let image := fun (kind e : Nat) => Tests.desc 4 ((kind + 2 ^ 8 + e * 2 ^ 16 + 0x20000000000 * 2 ^ 64 + 2 ^ 128) * 2 ^ 128)
    let s := Tests.starting load
    let busy := modCell 0 (fun k => { k with cfg := { k.cfg with table := [(0, some { first := 4095, len := 1 })] } }) s
    startingOf (Tests.starting (Tests.desc 3 (2 ^ 256))) 1 0x03 = some (Tests.desc 3 (2 ^ 256)) ∧
      startingOf s 1 0x04 = some load ∧ dfld load.words 0x10 3 0 = 1 ∧ unlocked s (dfld load.words 0x18 47 0) = false ∧
      configCells load.words = [0] ∧ dfld load.words 0x14 11 0 + (dfld load.words 0x14 27 16 + 1) ≤ 4096 ∧
      lowest ((configCells load.words).map (bodyClash s 4095 1)) = none ∧
      lowest ((configCells load.words).map (bodyClash busy 4095 1)) = some 4095 ∧
      dfld (image 2 1).words 0x10 3 0 = 2 ∧ dfld (image 3 1).words 0x10 3 0 = 3 ∧
      (openShadows 1 (configPosns (image 2 1).words) s).isRight = true ∧
      (openShadows 2 (configPosns (image 2 2).words) s).isLeft = true ∧
      imageRefused (memRead s 0x20000000000 576) [0] = none := by decide +kernel

/-- StepFences: a position with a shadow and one without; gangs that agree and one that clashes; modes that are refused, staged and
not staged. -/
theorem test_fence_premises :
    let sh := modPos 0 (fun p => { p with shadowEpoch := some 1 }) (Tests.starting (Tests.desc 5 (2 ^ 16)))
    let clash := modCell 0 (fun k => { k with shadow := { k.shadow with gang := some ⟨.s1x2, 0, 0⟩ } }) sh
    let staged := fun (w : BitVec 16) => { sh with pwr := { sh.pwr with staged := [(1, w)] } }
    (getPos sh 0).shadowEpoch = some 1 ∧ gangClash sh 0 = none ∧ gangClash clash 0 = some 0 ∧
      (getPos sh 1).shadowEpoch = none ∧ startingOf sh 1 0x05 = some (Tests.desc 5 (2 ^ 16)) ∧
      dOpf0 (Tests.desc 5 (2 ^ 16)).words = true ∧ cellsIdle sh 1 = true ∧ modeRefused (staged 0x18) 0x18 = true ∧
      modeRefused (staged 5) 5 = false ∧ SMap.get 0 (staged 5).pwr.staged 1 = 5 ∧
      (fencePosns [0] clash).1 = some 0 ∧ (fencePosns [0] sh).1 = none := by decide +kernel
/-! ### Premises of the statements about streams and memory -/

/-- StreamsBind: a COPY and a STREAM between two areas of staging SRAM, inside the windows and not, on an ENABLED position and not. -/
theorem test_stream_premises :
    let src := 0x20000000000
    let copy := Tests.desc 1 ((src + (src + 64) * 2 ^ 64 + 64 * 2 ^ 128) * 2 ^ 128)
    let move := Tests.desc 2 ((5 + src * 2 ^ 64 + (src + 64) * 2 ^ 128 + 64 * 2 ^ 192) * 2 ^ 128)
    let wide := { Tests.ctx with windows := [{ base := src, limit := src + 4096 }] }
    let s := Tests.starting copy
    let r : StreamReq := { posn := 0, sctx := 131041, src := .dpa 0x20000000000, dst := .dpa 0x20000000040, length := 64, runU := 0
                           stepU := 0, tc := 0, ember := false }
    startingOf s 1 0x01 = some copy ∧ copyReq s 1 copy.words = some r ∧ sideUnlocked s r.src = false ∧
      sideUnlocked s r.dst = false ∧ (getStream s (streamKey r.posn r.sctx)).st = .free ∧
      streamInWindows wide r.src r.dst r.length 0 0 = true ∧
      streamInWindows { Tests.ctx with posns := 0 } r.src r.dst r.length 0 0 = false ∧ (getPos s 0).st ≠ .enabled ∧
      dfld move.words 0x10 23 20 ≠ 1 ∧ (streamReq move.words).length = 64 ∧ (streamReq move.words).posn = 0 := by
  decide +kernel

/-- A READY stream of context 1 between two areas of staging SRAM. -/
def Tests.stream : StreamCtx :=
  { StreamCtx.init with
    st := .ready, owner := 1, src := .dpa 0x20000000000, dst := .dpa 0x20000001000, length := 8192 }

/-- Reset, with context 1 and a stream of its own on ENABLED P0. -/
def Tests.atStream (f : StreamCtx → StreamCtx) : State :=
  modStream 5 (fun _ => f Tests.stream) (modPos 0 (fun p => { p with st := .enabled }) (Tests.atCtx id))

/-- EngineMovesOneChunk: a stream that requests a turn, live and stale, with a credit and without. -/
theorem test_engine_premises :
    let s := Tests.atStream id
    let t := getStream s 5
    engineLoad s 0 5 = 0 ∧
      roundRobin (SMap.get 0 (getPos s 0).turnPtr 5) 4096 (fun i => wantsTurn s (streamKey 0 (32 * i + 5))) = some 0 ∧
      streamLive s t = true ∧ turnStop s t = none ∧ chunkLen s 5 t = 4096 ∧ (guestPass 0 t 4096 s).1 = true ∧
      streamLive s { t with gen := 1 } = false ∧ t.inflight = [] := by decide +kernel

/-- ChunksLand: a chunk in flight that is not the last, and the last one; a source whose position is in reset. -/
theorem test_chunk_premises :
    let ch := fun (off : Nat) => ({ off := off, len := 4096, data := List.replicate 16 1 } : Chunk)
    let s := Tests.atStream (fun t => { t with inflight := [ch 0, ch 4096], issued := 8192 })
    let e := Tests.atStream (fun t => { t with st := .done, inflight := [ch 4096], issued := 8192, acked := 4096 })
    let t := getStream s 5
    t.inflight = [ch 0, ch 4096] ∧ t.st ≠ .free ∧ t.src = .dpa 0x20000000000 ∧ t.ember = none ∧ t.copies = 0 ∧
      streamLive s t = true ∧ queuedChunks s 5 = 0 ∧ landable s 5 t = true ∧ edgeHeld s 0 t = false ∧
      chunkHold s t 0 = none ∧ stopAt s t 0 = none ∧ chunkVerdict t 0 4096 [] s = (false, s) ∧
      cellOf (chunkBack 5 s) 0x20000001000 = none ∧ guestOf (chunkBack 5 s) 0x20000001000 = none ∧
      (getStream e 5).inflight = [ch 4096] ∧ (getStream e 5).acked + (ch 4096).len = (getStream e 5).length ∧
      chunkVerdict (getStream e 5) 4096 4096 [] e = (false, e) ∧
      stopAt (modPos 0 (fun p => { p with st := .inReset }) s) t 0 = some stDomainReset := by decide +kernel

/-- The failed burst of ChunksLand: a source in HBM, whose stripe the layout maps, and a channel that is held. -/
theorem test_failed_chunk_premises :
    let s := { Tests.atStream (fun t => { t with src := .dpa 0x10000000000, inflight := [⟨0, 64, []⟩], length := 64 }) with
      pkg := { State.reset.pkg with invEnabled := 1 }, memRegs := { State.reset.memRegs with lock := true } }
    let t := getStream s 5
    let r := chunkVerdict t 0 64 [{ burst := 0, onDie := false, result := .failed }] s
    let held := modChan 0 0 (fun c => { c with st := .retrain }) s
    r.1 = true ∧ getStream r.2 5 = t ∧ chunkHold s t 0 = none ∧ stopAt s t 0 = none ∧ chunkHold held t 0 = some (0, 0) := by
  decide +kernel

/-- ReductionsPairOperands: a REDUCE within its windows, the room it needs and one less, and an operand alone and with its partner. -/
theorem test_reduction_premises :
    let d := Tests.desc 2 ((2 ^ 20 + 2 * 2 ^ 320) * 2 ^ 128)
    let s := Tests.starting d
    let node : RedNode := { lo := 0, hi := 2, shard := 0, dest := 0, land := true, bcast := false }
    let o : RedOperand := { shard := 0, lo := 0, hi := 1, off := 0, data := [0] }
    let q : RedOperand := { shard := 0, lo := 1, hi := 2, off := 0, data := [0] }
    let r : Reduction := { newReduction 1 d [node] with redid := 9, operands := [q] }
    let t := modFab (fun f => { f with reductions := [r] }) s
    startingOf s 1 0x02 = some d ∧ dfld d.words 0x10 23 20 = 1 ∧ redInWindows (getCtx s 1) d.words [] = true ∧
      tracksOutputs s = false ∧ redPlace s 0 false = none ∧ redWindows (newReduction 1 d [node]) = 2 ∧
      2 ≤ 128 - 126 ∧ 128 - 127 < 2 ∧ redPlace t 9 true = some 0 ∧ placeOf (takesOperand o) r.nodes = some 0 ∧
      ([] : List RedOperand).find? (partnerOperand node o) = none ∧ r.operands.find? (partnerOperand node o) = some q := by
  decide +kernel

/-- MemoryControllers: a stripe in its slot, an entry that is FREE, and channels that run and are held. -/
theorem test_memory_premises :
    let s := { State.reset with pkg := { State.reset.pkg with invEnabled := 1 } }
    slotHolds (getPos s 0) 0 0 = some 0 ∧ (stripeDpa s 0 0).isSome = true ∧ (getChan (getPos s 0) 0).dead = false ∧ remapOf (getPos s 0) 0 = none ∧
      0 < stripesPerPosn ∧ (lowestFree (getPos s 0)).isSome = true ∧
      fld s.memRegs.rasCfg 23 16 = 8 ∧ (getChan (getPos s 0) 63).st = .normal ∧
      (getChan { Pos.init with pchan := [(63, { PChan.init with st := .retrain })] } 63).st = .retrain := by decide +kernel

/-- A run of entries in use ends at its length. -/
theorem Tests.lowest_of_run (n : Nat) : ∀ i,
    lowestFreeFrom i ((List.range' i n).map (fun k => (k, { st := .bad, home := 0 }))) = i + n := by
  induction n with
  | zero => simp [lowestFreeFrom]
  | succ n ih => intro i; rw [List.range'_succ, List.map_cons, lowestFreeFrom, if_pos rfl, ih]; omega

/-- MemoryControllers: a table with every reserve entry in use has none that is FREE. -/
theorem test_no_entry_free :
    lowestFree { Pos.init with remap := (List.range' 0 remapEntries).map (fun k => (k, { st := .bad, home := 0 })) } =
      none := by
  unfold lowestFree; rw [Tests.lowest_of_run]; decide

/-! ### Premises of the statements about contexts -/

/-- ContextsAndFunctions: PF0, a block that cannot be read, a configuration taken and one refused, VFs not yet enabled. -/
theorem test_context_premises :
    funcLive State.reset 0 = true ∧ createResult State.reset 0 0 .unsuccessful ≠ 0 ∧
      funcCfgRefused State.reset 1 0 = false ∧ funcCfgRefused (Tests.atCtx id) 1 0x1001 = true ∧
      SMap.get false State.reset.hif.vfEnabled 0 = false := by decide +kernel

/-- Teardowns: an ACTIVE context of PF0, a DRAINING one before and after its change of generation, and a scrub that waits. -/
theorem test_teardown_premises :
    let d := Tests.desc 0x0E 0
    let s := Tests.starting d
    let drain := fun (t : Option (BitVec 64)) => Tests.atCtx (fun x => { x with st := .draining, tearT0 := t })
    startingOf s 1 0x0E = some d ∧ (getCtx s 1).started = [] ∧ funcLive s 0 = true ∧ inFuncRange s 0 1 = true ∧
      (getCtx s 1).st = .active ∧ (getCtx (drain none) 1).tearT0 = none ∧ commitsRun (drain none) 1 = false ∧
      (getCtx (drain (some 5)) 1).tearT0 = some 5 := by decide +kernel
/-! ### Premises of the statements about the step transaction -/

/-- A held step of context 1, number 4, with 64 KiB of ember at 64 KiB. -/
def Tests.held : Held :=
  { openedStep State.reset 1 (Tests.desc 7 (4 * 2 ^ 128)) with emberBase := 0x10000, emberBytes := 0x10000 }

/-- Context 1 bound to a VALID and RANKED entry of partition 5, with two ranks, on which nothing is held. -/
def Tests.bound (rank : BitVec 14) : State :=
  modStep (fun e => { e with next := 5 }) (modPart 0 (fun e => { e with
    valid := true, ranked := true, ctx := 1, pid := 5, rank := rank, map := [(0, 0x8000), (1, 0x8001)] }) (Tests.atCtx id))

/-- The same, with a step held. -/
def Tests.holds (h : Held) : State := modStep (fun e => { e with held := [h] }) (Tests.bound 0)

/-- A TC0 message of partition 5 about step 4. -/
def Tests.tc0 : Tc0 := { pid := 5, mkind := 2, attempt := 0, cause := 0, origin := 1, step := 4, body := 0 }


/-- Bytes that are all 0 hold the number 0. -/
theorem Tests.leNat_zero (l : List Byte) (h : ∀ b ∈ l, b = 0) : leNat l = 0 := by
  induction l with
  | nil => rfl
  | cons b l ih =>
    rw [leNat, h b (List.mem_cons_self ..), ih (fun c hc => h c (List.mem_cons_of_mem _ hc))]
    rfl
/-- StepsOpen: an opening refused, one that waits and one that opens, a wait for the slot, a good block and a bad one. -/
theorem test_open_premises :
    let d := Tests.desc 7 ((4 + 0x10000 * 2 ^ 64 + 8192 * 2 ^ 128) * 2 ^ 128)
    let on := fun (s : State) => modCtx 1 (fun x => { x with starting := some d }) (modStep (fun e => { e with next := 4 }) s)
    let s := on (Tests.bound 0)
    let two := modStep (fun e => { e with held := [{ Tests.held with step := 2, emberBase := 0, emberBytes := 0 },
                                                   { Tests.held with step := 3, emberBase := 0, emberBytes := 0 }] }) s
    startingOf s 1 0x07 = some d ∧ d.refetched = false ∧ openRefusal s 1 d.words = none ∧
      openRefusal (Tests.bound 0) 1 d.words = some (stStepOrder, 5) ∧ s.pwr.modes.depth = 2 ∧
      s.step.held.length < s.pwr.modes.depth ∧ openRefusal two 1 d.words = none ∧ two.pwr.modes.depth ≤ two.step.held.length ∧
      openDrained s 1 = true ∧ heldStep s 4 = none ∧ s.step.clearNext = false ∧ s.step.abortNext = [] := by
  decide +kernel

/-- A variant block of one variant, whose other bytes are 0, has no offence. -/
theorem Tests.one_variant (posns : BitVec 8) (bs : List Byte) (h2 : leAt bs 0 2 = 1)
    (h : ∀ o n, 1 ≤ o → leAt bs o n = 0) : variantBad posns bs ++ (slotsMeet (variantSlots bs)).toList = [] := by
  have z : ∀ hi lo, bitsOf 0 hi lo = 0 := by intro hi lo; simp [bitsOf]
  have head : ∀ b < 64, (if b = 0 then decide (leAt bs 0 2 % 2048 = 0) || decide (1024 < leAt bs 0 2 % 2048)
      else if b = 1 then decide (8 ≤ leAt bs b 1) else decide (leAt bs b 1 ≠ 0)) = false := by
    intro b _
    by_cases hb : b = 0
    · simp [hb, h2]
    · simp [hb, h b 1 (by omega)]
  have vars : ∀ v, leAt bs (0x40 + 8 * v) 8 = 0 := fun v => h _ 8 (by omega)
  have maps : ∀ k, leAt bs (0x2040 + 2 * k) 2 = 0 := fun k => h _ 2 (by omega)
  simp only [variantBad, variantSlots, vars, maps, h2, z, List.append_eq_nil_iff, List.filter_eq_nil_iff, List.filterMap_eq_nil_iff]
  refine ⟨⟨⟨fun b hb => ?_, fun v _ => by simp⟩, fun k _ => by simp⟩, by decide⟩
  have := head b (List.mem_range.1 hb)
  rw [h2] at this
  exact Bool.eq_false_iff.1 this

/-- What a memory with one byte, 1, reads from there on. -/
theorem Tests.read_one (a n : Nat) : SMap.readRun (0 : Byte) [(a, 1)] a (n + 1) = 1 :: List.replicate n 0 := by
  rw [SMap.readRun, List.range_succ_eq_map, List.map_cons, List.map_map]
  refine List.cons_eq_cons.2 ⟨by simp [SMap.get], List.eq_replicate_iff.2 ⟨by simp, fun b hb => ?_⟩⟩
  obtain ⟨k, _, rfl⟩ := List.mem_map.1 hb
  simp [SMap.get]

/-- A block of one variant in a memory, and one of none. -/
theorem Tests.variant_read (s t : State) (h : s.mem = [(0x10000, 1)]) (h0 : t.mem = []) :
    let offs := fun (t : State) => variantBad 1 (memRead t 0x10000 12352) ++ (slotsMeet (variantSlots (memRead t 0x10000 12352))).toList
    offs s = [] ∧ ∃ o, leastOf (offs t) = some o := by
  have zero : ∀ l : List Byte, (∀ b ∈ l, b = 0) → ∀ o n, leAt l o n = 0 := fun l h o n =>
    Tests.leNat_zero _ (fun b hb => h b (List.mem_of_mem_drop (List.mem_of_mem_take hb)))
  have one : memRead s 0x10000 12352 = 1 :: List.replicate 12351 0 := by rw [memRead, h, Tests.read_one]
  have none_ : ∀ b ∈ memRead t 0x10000 12352, b = 0 := by
    rw [memRead, h0]
    intro b hb
    obtain ⟨k, _, rfl⟩ := List.mem_map.1 hb
    rfl
  refine ⟨?_, ?_⟩
  · beta_reduce
    rw [one]
    refine Tests.one_variant _ _ rfl (fun o n ho => ?_)
    obtain ⟨o, rfl⟩ : ∃ k, o = k + 1 := ⟨o - 1, by omega⟩
    exact zero (List.replicate 12351 0) (fun b hb => List.eq_of_mem_replicate hb) o n
  · have some_ : ∀ l : List Nat, l ≠ [] → ∃ o, leastOf l = some o := by
      intro l hl
      cases l with
      | nil => exact absurd rfl hl
      | cons a l => exact ⟨_, rfl⟩
    refine some_ _ (List.ne_nil_of_mem (a := 0) (List.mem_append_left _ (List.mem_append_left _ (List.mem_append_left _
      (List.mem_filter.2 ⟨by decide, ?_⟩)))))
    simp [zero _ none_]

/-- The VARIANT of StepsOpen: a block of one variant inside ember, and one of none. -/
theorem test_variant_premises :
    let d := { Tests.desc 0x0D (0x10000 * 2 ^ 128) with step := some 4 }
    let s := modCtx 1 (fun x => { x with starting := some d }) (Tests.holds Tests.held)
    startingOf s 1 0x0D = some d ∧ (getCtx s 1).started = [] ∧ d.step = some Tests.held.step ∧ heldPlace s 4 = some 0 ∧
      s.step.held[0]? = some Tests.held ∧ Tests.held.variant = none ∧ reaches (getCtx s 1) 0x10000 12352 = true ∧
      0x10000 + 12352 ≤ Tests.held.emberBase + Tests.held.emberBytes ∧ s.mem = [] ∧
      (memWrite 0x10000 [1] s).mem = [(0x10000, 1)] := by decide +kernel

/-- VotesAreCast: no uncast step, another step, a mask outside the context, an ABORT by its check flag, and a cast that waits for a
child; a vote of an unknown partition, one that is past and one for a step not open yet. -/
theorem test_vote_premises :
    let d := fun (n umask : Nat) => Tests.desc 8 ((n + umask * 2 ^ 104) * 2 ^ 128)
    let s := modCtx 1 (fun x => { x with starting := some (d 4 0) }) (Tests.holds Tests.held)
    let vote := fun (h : Held) => contribution s h (d 4 0).words (validLists s h false 0 (voteLists (d 4 0).words))
    startingOf s 1 0x08 = some (d 4 0) ∧ placeOf uncast (Tests.bound 0).step.held = none ∧
      placeOf uncast s.step.held = some 0 ∧ oldestUncast s = some Tests.held ∧ Tests.held.step = 4 ∧ Tests.held.ctx = 1 ∧
      (2 : BitVec 8) &&& (getCtx s 1).posns ≠ 2 ∧ BitVec.ofNat 8 (dfld (d 4 2).words 0x18 47 40) = 2 ∧
      s.pwr.modes.mirror = false ∧ (vote { Tests.held with check := false }).1 = .abort ∧ (vote Tests.held).1 ≠ .abort ∧
      Tests.held.abortAt = none ∧ follower s = false ∧ 1 ∈ childRanks (rankOf s 1).toNat (rankTotal s 1) ∧
      childVote s Tests.held 1 = none ∧ entryOfPid s 6 = none ∧ entryOfPid s 5 = some 0 ∧
      staleVote s { Tests.tc0 with step := 3 } = true ∧ staleVote s { Tests.tc0 with step := 5 } = false ∧
      heldPlace s 5 = none := by decide +kernel

/-- StepsResolve: a cast step and each outcome, an attempt that differs, ABORTs with a lower and a higher key, a step that waits for
its RESOLVE, and the context that holds the step engine, or none. -/
theorem test_resolve_premises :
    let cast := { Tests.held with st := .cast }
    let s := Tests.holds cast
    let body := fun (out : Nat) => { Tests.tc0 with body := BitVec.ofNat 128 (out * 2 ^ 72) }
    let late := Tests.holds { cast with abortAt := some 0 }
    let told := modPart 0 (fun e => { e with abortKey := some (4, 0) }) (Tests.holds { Tests.held with attempt := 1 })
    entryOfPid s 5 = some 0 ∧ heldPlace s 4 = some 0 ∧ heldStep s 4 = some cast ∧ cast.attempt = Tests.tc0.attempt ∧
      follower s = false ∧ cast.abortAt = none ∧ cast.resSegs = [] ∧
      (∀ out ∈ [0, 1, 2], msgOutcome (body out) = out ∧ msgSeg (body out) = 0 ∧ msgSegs (body out) = 1) ∧
      keyHigher 4 0 (getPart told 0).abortKey = false ∧ keyHigher 4 1 (getPart told 0).abortKey = true ∧
      keyHigher 4 0 (getPart s 0).abortKey = true ∧ (getPart s 0).ranked = true ∧ (getCtx s (getPart s 0).ctx).holdsStep = true ∧
      Tests.held.st = .opened ∧ (0 : BitVec 4) < 1 ∧
      placeOf (fun h => decide (h.st = .cast) && h.abortAt.isSome) late.step.held = some 0 ∧
      placeOf (fun h => decide (h.st = .cast)) s.step.held = some 0 ∧ (stepHolder s).isSome = true ∧
      stepHolder State.reset = none ∧ causeHost ≠ causeMirrorLost := by decide +kernel

/-- CommitRoles: a committing step, and a step of the partner's whose record lies in its mirror, as COMMIT and not there. -/
theorem test_commit_premises :
    let done := { Tests.held with st := .committing }
    let s := Tests.holds done
    let p : PeerStep := { step := 4, mask := 0, resolved := true, skip := false, partnerDone := false, ownerDone := false }
    let m := memWrite 0x8000 (leBytes 8 4 ++ leBytes 8 0x10000) (modStep (fun e => { e with
      held := [], peerSteps := [p], peerEntries := [(0, some { own := 0, mir := 0x8000, length := 4096 })] }) s)
    placeOf (fun h => decide (h.st = .committing) && !h.ownerDone) s.step.held = some 0 ∧ s.step.peerSteps = [] ∧
      done.mirrored = false ∧ s.step.skipQ = [] ∧ s.step.pullFor = false ∧
      m.step.peerSteps.find? (fun p => p.resolved && !p.partnerDone) = some p ∧ isPeerRecord m 0x8000 4 = true ∧
      isPeerRecord m 0x8FC1 4 = false ∧ earlierCommit m 4 = false ∧ m.step.pullFor = false := by decide +kernel

/-- RoundsOfDrained: the last attempt and one before it, a child that is silent and one that has drained, stale and present
messages, and rounds with no rank lost, with five lost, and at rank 1 and above. -/
theorem test_round_premises :
    let r : Round := { step := 4, attempt := 1, startedAt := 0, afterDecl := false, ownDrained := false, sentUp := false
                       actingRoot := false, promoting := [] }
    let h := { Tests.held with st := .aborting }
    let at_ := fun (rank : BitVec 14) (r : Round) (n : Nat) => modStep (fun e => { e with held := [h], round := some r })
      (modPart 0 (fun e => { e with map := (List.range n).map (fun k => (k, 0x8000)) }) (Tests.bound rank))
    let s := at_ 1 r 18
    let root := at_ 0 { r with ownDrained := true } 2
    let msg := { Tests.tc0 with attempt := 1, body := BitVec.ofNat 128 (3 * 2 ^ 72) }
    let v := keepVote 1 false msg root
    s.step.round = some r ∧ stepHolder s = some 1 ∧ boundEntry s 1 = some 0 ∧ (getPart s 0).ranked = true ∧
      follower s = false ∧ abortingPlace s = some 0 ∧ s.step.held[0]? = some h ∧ emberRuns s = false ∧ maxAttempts s = 4 ∧
      h.attempt.toNat + 1 < maxAttempts s ∧ maxAttempts s ≤ (3 : BitVec 4).toNat + 1 ∧ (getPart s 0).rank = 1 ∧
      17 ∈ childRanks (getPart s 0).rank.toNat (rankCount (getPart s 0)) ∧ holdsDrained s r false 17 = false ∧
      staleDrained s { msg with attempt := 0 } = true ∧ staleDrained s msg = false ∧ (getPart root 0).rank = 0 ∧
      (∀ p ∈ childRanks 0 (rankCount (getPart root 0)), holdsDrained v { r with ownDrained := true } false p = true) ∧
      rankless (forwardResolve 0 0 msg s) 1 = false ∧ isRoot s 1 = false ∧ isRoot root 1 = true ∧
      lostRanks (at_ 0 { r with ownDrained := true } 1) (getPart (at_ 0 { r with ownDrained := true } 1) 0)
        { r with ownDrained := true } = [] ∧
      4 < (lostRanks (at_ 0 r 5) (getPart (at_ 0 r 5) 0) r).length ∧
      pairLost (roundTime (at_ 0 r 5) r 0 (at_ 0 r 5)) (getPart (at_ 0 r 5) 0) r (lostRanks (at_ 0 r 5) (getPart (at_ 0 r 5) 0) r) =
        false ∧ (at_ 0 r 5).pwr.modes.mirror = false ∧ 1 < (2 : BitVec 14).toNat := by decide +kernel

/-- SpareIsPromoted: a spare that pulls, and an address at the last byte of a pulled area and the one past it. -/
theorem test_promotion_premises :
    let maps : List MirMap := [{ mine := true, entry := 15, own := 0x1000, mir := 0, length := 0x1000 }]
    ({ State.reset.ras with spareState := .pulling } : Ras).spareState = .pulling ∧ pulledArea maps 0x1FFF = true ∧
      pulledArea maps 0x2000 = false := by decide +kernel

/-! ### Premises of the statements about mirrors, shadows and checkpoints -/

/-- An install table of two packages that mirror each other, with serials 1 and 2, different tags and X ports 0 and 4 cabled. -/
def Tests.table : List Byte :=
  let pkg := fun (serial tags partner port cable : Nat) =>
    leBytes 8 serial ++ leBytes 4 tags ++ leBytes 4 tags ++ leBytes 4 (0x8000 + partner) ++ leBytes 4 0x80 ++ leBytes 8 0
      ++ (List.range 24).flatMap (fun p => leBytes 4 (if p = port then cable else 0))
  leBytes 4 1 ++ leBytes 4 0x010102 ++ leBytes 56 0 ++ pkg 1 0 1 0 (0x80000 + 4 * 2 ^ 14 + 1) ++ pkg 2 0x10001 0 4 0x80000

/-- A state, as the package of serial 1 under the table. -/
def Tests.installed (s : State) : State := { s with
  fuses := { s.fuses with serial := 1 }, fab := { s.fab with table := some Tests.table, selfIdx := some 0 } }

/-- A started descriptor of context 1, on a bound context. -/
def Tests.waits (d : Desc) : State := modCtx 1 (fun x => { x with started := [d] }) (Tests.bound 0)

/-- A starting descriptor of context 1, on a bound context. -/
def Tests.begins (d : Desc) : State := modCtx 1 (fun x => { x with starting := some d }) (Tests.bound 0)

/-- A mirror area of two groups. -/
def Tests.area : MirEntry := { own := 0, mir := 0, length := 0x8000000 }

/-- A FENCE body of entry 3 with an area of 4 KiB, about step 4. -/
def Tests.fence : FenceBody :=
  { enabled := 0, effective := 0, partnum := 8, reason := 0, entry := 3, own := 0x1000, mir := 0x2000, length := 0x1000, step := 4
    attempt := 0, group := 0, groups := 2, digest := 9 }

/-- The table passes the checks of R240 for the package of serial 1, whose partner is coordinate 1. -/
theorem test_table : tableOk 1 Tests.table = true ∧ partnerOf Tests.table 0 = some 1 ∧ tableOk 3 Tests.table = false ∧
    tableOk 1 (Tests.table ++ [0]) = false := by decide +kernel

/-- MirrorDescriptors: each OP, busy and not, a MAP that conflicts and one that does not, a range to the last byte of its entry and
one past it. -/
theorem test_mirror_premises :
    let d := fun (op own len : Nat) => Tests.desc 9 ((op + 3 * 2 ^ 8) * 2 ^ 128 + own * 2 ^ 192 + len * 2 ^ 320)
    let s := fun (d : Desc) => modStep (fun e => { e with pairedCtx := some (1, 0), entries := [(3, some Tests.area)] }) (Tests.begins d)
    let busy := modStep (fun e => { e with held := [Tests.held] }) (s (d 1 0 4096))
    let out := d 4 0x4000000 0x4001000
    let full := d 4 0x4000000 0x4000000
    let free := modStep (fun e => { e with entries := [] }) (s (d 1 0 4096))
    let m : MirEntry := { own := 0, mir := 0, length := 4096 }
    (∀ op ∈ [1, 2, 3, 4], startingOf (s (d op 0 4096)) 1 0x09 = some (d op 0 4096) ∧ dfld (d op 0 4096).words 0x10 3 0 = op) ∧
      busy.step.held.any (fun h => h.ctx == 1) = true ∧ (s full).step.held.any (fun h => h.ctx == 1) = false ∧
      (s full).pwr.modes.mirror = false ∧ liveMap (s full) = none ∧ (s full).step.audit = none ∧
      (s full).step.pairedCtx = some (1, (getCtx (s full) 1).gen) ∧ mapConflict free 1 3 m = false ∧
      mapConflict (s full) 1 3 m = true ∧ mapConflict free 1 3 { m with own := 0x100000 } = true ∧
      SMap.get none (s full).step.entries 3 = some Tests.area ∧ dfld full.words 0x10 11 8 = 3 ∧
      dfld full.words 0x18 47 0 + dfld full.words 0x28 39 0 = Tests.area.own + Tests.area.length ∧ dfld full.words 0x28 39 0 ≠ 0 ∧
      Tests.area.own + Tests.area.length < dfld out.words 0x18 47 0 + dfld out.words 0x28 39 0 := by decide +kernel

/-- PairingAndMapping: a partner that agrees, one of another part, a reason found, a MAP that waits for pairing and one that waits
for its answer, a held step, and areas inside and outside the windows. -/
theorem test_pairing_premises :
    let d := Tests.desc 9 0
    let wait : MapWait := { ctx := 1, key := 7, entry := 3, e := Tests.area, pairing := true, since := 0 }
    let s := Tests.installed (modStep (fun e => { e with mapWait := some wait }) (Tests.waits d))
    let s2 := modStep (fun e => { e with mapWait := some { wait with pairing := false } }) s
    let me := ((stepHolder s).bind (boundEntry s)).map (getPart s)
    let bad := { s with fab := { s.fab with table := some [] } }
    let b := { Tests.fence with enabled := enabledMask s, partnum := BitVec.ofNat 4 (partCode s.fuses.part) }
    let sameParts := modPart 0 (fun e => { e with map := [(0, 0x8000), (1, 0x8001)] }) s
    s.fab.selfIdx = some 0 ∧ pairReason s 0 0 me = none ∧ pairReason sameParts 0 0 none = some 5 ∧ pairReason bad 0 0 me = some 1 ∧
      b.partnum.toNat = partCode s.fuses.part ∧ b.enabled = enabledMask s ∧ s.step.round = none ∧
      (b.partnum + 1).toNat ≠ partCode s.fuses.part ∧ b.enabled + 1 ≠ enabledMask s ∧ s.ras.spareWait = none ∧
      liveMap s = some wait ∧ liveMap s2 = some { wait with pairing := false } ∧ heldPlace (Tests.holds Tests.held) 4 = some 0 ∧
      s.step.peerSteps = [] ∧ s.step.number ≤ Tests.fence.step ∧ stepHolder s = some 1 ∧
      reaches (getCtx s 1) 0xFF000 4096 = true ∧ reaches (getCtx s 1) 0xFF000 4097 = false ∧
      s.step.peerEntries = [] ∧ areasMeet 0 4096 4096 4096 = false ∧ wait.entry = Tests.fence.entry.toNat := by decide +kernel

/-- AuditMessages: a boundary that has passed, one to come, and a group whose digests agree, or differ. -/
theorem test_audit_premises :
    let a : Audit := { ctx := 1, key := 7, step := 4, entry := 3, first := 0, groups := 2, compared := 0, differed := 0
                       digests := some [9, 8], theirs := [] }
    let s := Tests.installed (modStep (fun e => { e with audit := some a, entries := [(3, some Tests.area)] }) (Tests.bound 0))
    let past := modStep (fun e => { e with peerNumber := 5 }) s
    peerBoundaryPassed past 4 = true ∧ peerBoundaryPassed s 4 = false ∧ s.step.audit = some a ∧ a.step = Tests.fence.step ∧
      a.first ≤ 1 ∧ 1 < a.first + a.groups ∧ SMap.get none a.theirs 1 = none ∧
      SMap.get none s.step.entries a.entry = some Tests.area ∧ a.compared + 1 ≠ a.groups ∧ [9, 8].getD (0 - a.first) 0 = 9 ∧
      [9, 8].getD (1 - a.first) 0 ≠ 9 ∧ mirrorPartner s = some 1 := by decide +kernel

/-- ShadowAdmission: each state and role, a record that waits and one that meets its cast step. -/
theorem test_shadow_premises :
    let s := modPart 0 (fun e => { e with ranked := false }) (Tests.bound 0)
    let cast := Tests.holds { Tests.held with st := .cast }
    let on := fun (x : ShadowState) (s : State) => { s with ras := { s.ras with shadowState := x } }
    s.ras.shadowState = .off ∧ fld (0x8000 : BitVec 32) 15 14 = 2 ∧ stepHolder s = some 1 ∧ boundEntry s 1 = some 0 ∧
      (getPart s 0).ranked = false ∧ (on .lost s).ras.shadowState = .lost ∧ fld (0 : BitVec 32) 15 14 = 0 ∧
      (on .loading s).ras.shadowState = .loading ∧ reaches (getCtx s (getPart s s.ras.shadowEntry).ctx) 0xFFFFF 1 = true ∧
      reaches (getCtx s (getPart s s.ras.shadowEntry).ctx) 0x100000 1 = false ∧ (on .following s).ras.shadowQ = [] ∧
      heldPlace (on .following s) 4 = none ∧ heldPlace (on .following cast) 4 = some 0 ∧
      heldStep (on .following cast) 4 = some { Tests.held with st := .cast } ∧ Tests.held.outCrc.map Prod.snd = [] ∧
      Tests.held.outCrc.map Prod.snd ≠ [5] := by decide +kernel

/-- Snapshots: a snapshot held, a step past, a list that follows R173 and one that does not, and content that has been taken. -/
theorem test_snapshot_premises :
    let d := Tests.desc 0x0B (4 * 2 ^ 128 + 0x1000 * 2 ^ 192)
    let sn : Snapshot := { key := 7, step := 4, hostDest := true, destAddr := 0, peerRank := 0, trailerOff := 4096, entries := []
                           taken := some ([], 0) }
    let s := Tests.begins d
    let ok := memWrite 0x1000 (leBytes 64 1 ++ leBytes 8 0x2000 ++ leBytes 8 4096 ++ leBytes 16 0) s
    let bs := memRead ok 0x1000 96
    startingOf s 1 0x0B = some d ∧ (getCtx s 1).snapshot = none ∧ BitVec.ofNat 64 (dfld d.words 0x10 63 0) = 4 ∧
      dfld d.words 0x18 47 0 = 0x1000 ∧ 4 < (modStep (fun e => { e with number := 5 }) s).step.number ∧ ¬4 < s.step.number ∧
      snapListOk ok 1 0x1000 1 bs = true ∧ snapListOk s 1 0x1000 0 (memRead s 0x1000 64) = false ∧
      (getCtx (modCtx 1 (fun x => { x with snapshot := some sn }) s) 1).snapshot = some sn ∧ sn.taken = some ([], 0) := by
  decide +kernel

/-- Banking: a list that is refused and one that is not, a bank that runs in each state, by descriptor and by itself, a step past,
the present one and all ones. -/
theorem test_bank_premises :
    let d := fun (op : Nat) => Tests.desc 0x0A (op * 2 ^ 128 + 0x1000 * 2 ^ 320)
    let s := Tests.begins (d 1)
    let lst := fun (step : Nat) => leBytes 8 step ++ leBytes 8 1 ++ leBytes 8 0x100000 ++ leBytes 12 0 ++ leBytes 4 65536
      ++ leBytes 24 0 ++ leBytes 8 (2 ^ 48 + 0x2000) ++ leBytes 8 64 ++ leBytes 16 0x80000
    let on := fun (step : Nat) => memWrite 0x1000 (lst step) s
    let r : BankRun := { ctx := 1, key := some 7, auto := false, plan := bankPlan (on 4) (d 1).words, slot := false, st := .banking
                         nextStep := 4, cursor := 0, ptb := 0, shards := [], ahead := [], signature := [] }
    let runs := fun (r : BankRun) => modBank (fun b => { b with run := some r }) (on 4)
    (∀ op ∈ [1, 2], startingOf (Tests.begins (d op)) 1 0x0A = some (d op) ∧ dfld (d op).words 0x10 3 0 = op) ∧
      dfld (d 1).words 0x28 47 0 = 0x1000 ∧ bankListBad s 1 0x1000 = some 8 ∧ bankListBad (on 4) 1 0x1000 = none ∧
      bankListBad (runs r) 1 0x1000 = none ∧ (runs r).bank.run = some r ∧ (on 4).bank.run = none ∧
      (bankPlan (on 4) (d 1).words).step = 4 ∧ 4 < (modStep (fun e => { e with number := 5 }) (on 4)).step.number ∧
      ¬4 < (on 4).step.number ∧ bankListBad (on (2 ^ 64 - 1)) 1 0x1000 = none ∧
      (bankPlan (on (2 ^ 64 - 1)) (d 1).words).step = BitVec.allOnes 64 ∧ oldestUnresolved (on 4) 1 = none ∧ r.st = .banking ∧
      ({ r with st := .signing } : BankRun).st = .signing ∧ r.key = some 7 ∧ ({ r with key := none } : BankRun).key = none := by
  decide +kernel

/-- Restores: a manifest that is refused, a second pass that finds the same bytes, and one that does not. -/
theorem test_restore_premises :
    let d := Tests.desc 0x0C 0
    let s := Tests.begins d
    let sh : RestoreShard := { loc := { host := true, rank := 0, addr := 0 }, first := [0, 0], kind := 1, narrow := false
                               wcopy := false, dst := 0, wc := 0 }
    let r : RestoreRun := { ctx := 1, key := 7, nextStep := 4, cursor := 0, signer := [], shards := [sh] }
    let again := fun (s : State) => r.shards.map (fun h => readLoc s [] h.loc 0 h.first.length)
    let other := hostWrite 1 [5] s
    startingOf s 1 0x0C = some d ∧ s.bank.restoreRun = none ∧ restoreRefusal s 1 [] (restoreJob s [] d.words) = some (0x31, 1) ∧
      (modBank (fun b => { b with restoreRun := some r }) s).bank.restoreRun = some r ∧ r.ctx = 1 ∧
      r.shards.map RestoreShard.first = again s ∧
      placeOf (fun q => decide (q.1.first ≠ q.2)) (r.shards.zip (again other)) = some 0 := by decide +kernel

/-- A RESTORE that passes every check but those of the signature and the digest, whose values Config leaves open. -/
theorem test_restore_passes :
    let d := Tests.desc 0x0C (0x1000 * 2 ^ 320)
    let s0 := memWrite 0x1000 (leBytes 64 1 ++ leBytes 8 0 ++ leBytes 8 0x2000 ++ leBytes 16 0) (Tests.begins d)
    let m := leBytes 4 manifestMagic ++ leBytes 4 1 ++ leBytes 24 4 ++ leBytes 4 0x10000 ++ leBytes 1 (partCode s0.fuses.part)
      ++ leBytes 1 0 ++ leBytes 1 (enabledMask s0).toNat ++ leBytes 89 0 ++ leBytes 16 1 ++ leBytes 8 64 ++ leBytes 8 0x80000
    let s := hostWrite 0x80040 (leBytes 8 4) (hostWrite 0 m s0)
    let j := restoreJob s [] d.words
    startingOf s 1 0x0C = some d ∧ s.bank.restoreRun = none ∧ j.entries.length = 1 ∧ j.manifests.all Manifest.formOk = true ∧
      jobOk s 1 j = true ∧ j.manifests.all (Manifest.partOk s) = true ∧ j.manifests.any (fun m => decide (m.nextStep ≠ 4)) = false ∧
      j.own.nextStep = 4 ∧ firstBad j.entries (tagOk s [] j) = none ∧ restoreListOk s 1 j = true := by decide +kernel

/-! ### Premises of the statements about links and the fabric -/

/-- Reset, with the edge changed. -/
def Tests.edge (f : Edge → Edge) : State := modEdge 0 f State.reset

/-- An edge in a state. -/
def Tests.edgeIn (st : EdgeState) : Edge := getEdge (Tests.edge (fun x => { x with st := st })) 0

/-- DieEdges: each state; frames of a good and a bad CRC, of another CTAG, and in order; the least widths that pass and fail. -/
theorem test_edge_premises :
    let fr : Frame := { seq := 0, ack := 0, ftype := .data, ctag := 0, payload := [], crc := 0, packet := 0, last := true }
    let x := Tests.edgeIn .active
    (∀ st ∈ [EdgeState.active, .linkinit, .sbinit, .mbinit, .retrain, .quarantine, .mbtrain], (Tests.edgeIn st).st = st) ∧
      (edgeModule x 0).discarding = false ∧ fr.ctag = x.ctag ∧ fr.ctag + 1 ≠ x.ctag ∧ fr.seq = (edgeModule x 0).rxNext ∧
      (getEdge (modEdge 0 (modModule 0 (fun q => { q with discarding := true })) State.reset) 0).modules ≠ [] ∧
      widthOf (modulesOf (0xFFFF &&& 0xF &&& 0xFFFF)).length = 4 ∧ widthOf (modulesOf (0xFFFF &&& 0x7 &&& 0xFFFF)).length = 0 ∧
      State.reset.pwr.stage ≠ 4 ∧ x.linkFailed = false ∧ (1 : BitVec 16) ≠ x.mask ∧ (0 : BitVec 16) = x.mask ∧
      ({ x with st := .mbtrain, quarantined := true } : Edge).quarantined = true := by decide +kernel

/-- A ZSN-8G, whose first guest has EN and one rule. -/
def Tests.guarded (r : GfwRule) : State := { modGfw 0 (fun w => { w with en := true, rules := [(0, r)] }) (Tests.atCtx id) with
  fuses := { State.reset.fuses with part := .zsn8g } }

/-- GuestFirewall: a rule that permits inbound reads of context 1 up to its limit and not past it, one that permits outbound ones,
EN 0, another part, and a guest in reset. -/
theorem test_firewall_premises :
    let rin : GfwRule := { base := 0x1000, limit := 0x2000, attr := BitVec.ofNat 33 (7 + 2 ^ 12 * 255 + 2 ^ 20) }
    let rout : GfwRule := { rin with attr := BitVec.ofNat 33 (5 + 2 ^ 12 * 255 + 2 ^ 20) }
    let s := Tests.guarded rin
    State.reset.fuses.part ≠ .zsn8g ∧ s.fuses.part = .zsn8g ∧ (getGfw s 0).en = true ∧ (getGfw State.reset 0).en = false ∧
      gfwMatch (getGfw s 0) true 0x1FC0 7 1 = some rin ∧ bit rin.attr 2 = true ∧ gfwMatch (getGfw s 0) true 0x2000 7 1 = none ∧
      gfwMatch (getGfw s 0) true 0x1000 7 2 = none ∧ gfwMatch (getGfw (Tests.guarded rout) 0) false 0x1FC0 7 0 = some rout ∧
      bit rout.attr 2 = true ∧ reaches (getCtx s (BitVec.ofNat 12 (fld rout.attr 31 20))) 0x1FC0 64 = true ∧
      (getPos (modPos 6 (fun p => { p with st := .guest }) s) 6).st ≠ .inReset ∧
      (getPos (modPos 6 (fun p => { p with st := .inReset }) s) 6).st = .inReset := by decide +kernel

/-- A package of the table, with port 0 in a state. -/
def Tests.link (st : PortState) : State := modPort 0 (fun q => { q with st := st }) (Tests.installed State.reset)

/-- YalxoLinks: each state; flits in and out of order; the least widths; idents that match and that do not. -/
theorem test_link_premises :
    let t := tableBytes (Tests.link .training)
    let ring := modPart 0 (fun e => { e with valid := true, box := 0x20 }) State.reset
    (∀ st ∈ [PortState.up, .training, .retrain, .notCabled, .down], (getPort (Tests.link st) 0).st = st) ∧
      Tests.flit.seq = (getPort (Tests.link .up) 0).rxNext ∧ Tests.flit.seq + 1 ≠ (getPort (Tests.link .up) 0).rxNext ∧
      Tests.flit.kind = .data ∧ fld ({ FabPort.init with cfg := 0 } : FabPort).cfg 15 0 = 0 ∧ pairsOf (Tests.link .up) 0 = [] ∧
      selectors State.reset .pf0h0 = some Selectors.init ∧ fld Selectors.init.fabPort 4 0 = 0 ∧
      laneWidth (lanesOf (1 &&& 0xFF)).length ≠ 0 ∧ laneWidth (lanesOf (1 &&& 2)).length = 0 ∧
      (Tests.link .training).fab.selfIdx = some 0 ∧ indexOfSerial t 2 = some (portField t 0 0 13 0) ∧ portField t 0 0 18 14 = 4 ∧
      indexOfSerial t 1 ≠ some (portField t 0 0 13 0) ∧
      ptbRoot { Tests.link .up with fab := { (Tests.link .up).fab with selfIdx := some 1 } } = false ∧
      ({ (Tests.link .up).fab with ptbState := 1 } : Fab).ptbState ≠ 0 ∧ validEntries ring = [0] ∧
      (boxAxis (getPart ring 0).box (portAxis 0)).2.2 = true := by decide +kernel

/-- RoutersAndPartitions: packets that are reserved, repeated, for this package and in transit; a selected entry. -/
theorem test_router_premises :
    let s := modPort 0 (fun q => { q with st := .up }) (Tests.installed (Tests.bound 0))
    let p := Tests.packet
    (getPort s 0).st = .up ∧ entryOfPid s p.pid = some 0 ∧ p.reserved = false ∧ p.pkind = 0 ∧ isRepeat s 0 p = false ∧
      isRepeat { s with fab := { s.fab with delivered := [(deliveredKey 0 p, [0])] } } 0 p = true ∧ s.fab.selfIdx = some 0 ∧
      coordIdx (tableBytes s) p.dst = some 0 ∧ (getPart s 0).ranked = true ∧ shadowPeer s = none ∧
      inDrain s (getPart s 0).ctx = false ∧ forSelf s p = true ∧ forSelf s { p with dst := ⟨1, 0, 0⟩ } = false ∧
      entryOfPid s 6 = none ∧ selPart s .pf0h0 = some 0 ∧ (getPart s 0).valid = true ∧
      (getPart State.reset 0).valid = false := by decide +kernel

/-- A rank map in memory that lists nothing is empty. -/
theorem Tests.no_map (s : State) (h : s.mem = []) (a : Nat) : readMap s a = [] := by
  have run : ∀ (l : List (BitVec 16)) i, (∀ v ∈ l, v = 0) → SMap.run 0 i l = [] := by
    intro l
    induction l with
    | nil => exact fun _ _ => rfl
    | cons v l ih => exact fun i h => (if_pos (h v (List.mem_cons_self ..))).trans (ih _ (fun w hw => h w (List.mem_cons_of_mem _ hw)))
  refine run _ 0 (fun v hv => ?_)
  obtain ⟨r, _, rfl⟩ := List.mem_map.1 hv
  have zero : ∀ b ∈ memRead s a 32768, b = 0 := by
    intro b hb
    obtain ⟨k, _, rfl⟩ := List.mem_map.1 hb
    rw [h]
    rfl
  rw [leAt, Tests.leNat_zero _ (fun b hb => zero b (List.mem_of_mem_drop (List.mem_of_mem_take hb)))]
  rfl

/-- With memory that lists nothing, the other checks decide whether VALID may be set. -/
theorem Tests.valid_of (s : State) (h : s.mem = []) (ok : s.fab.parts.any (fun kv => decide (kv.1 ≠ 0) && kv.2.valid &&
      kv.2.pid == (getPart s 0).pid) = false ∧ s.fab.selfIdx = some 0 ∧ boxFits (tableBytes s) (getPart s 0).box 0 = true ∧
      transitsOk (tableBytes s) (getPart s 0).box 0 = true ∧ linksOk s (getPart s 0).box 0 = true ∧
      mapOk s (getPart s 0) [] = true) : validResult s 0 = 0 := by
  obtain ⟨h1, h2, h3, h4, h5, h6⟩ := ok
  rw [validResult, if_neg (by rw [h1]; decide)]
  simp [Tests.no_map s h, h2, h3, h4, h5, h6, gradeOf, mapCoords]

/-- RoutersAndPartitions: an entry whose VALID may be set, and one that may not. -/
theorem test_valid_premises :
    let s := modPart 0 (fun e => { e with box := 0x040040040, ctx := 1 }) (Tests.installed (Tests.atCtx id))
    (getPart s 0).valid = false ∧ validResult s 0 = 0 ∧ validResult State.reset 0 = 2 := by
  refine ⟨by decide +kernel, Tests.valid_of _ rfl (by decide +kernel), by decide +kernel⟩
/-! ### Further premises, clause by clause -/

/-- An error that storage cannot correct. -/
def Tests.broken : ReadErr := { corrected := 0, uncorrected := true }

/-- SequencerFaults: an instruction whose word cannot be corrected; BodiesStartByEpoch: a PID outside the table. -/
theorem test_ecc_premises :
    let w := Tests.word 0x00 0
    (.nop ⟨Tests.cell, Tests.broken⟩, 0x00) ∈ opRows Tests.cell Tests.broken Tests.fine 0 ∧ wOp w = 0x00 ∧
      (.cvt ⟨Tests.cell, Tests.broken, Tests.fine⟩, 0x00) ∈ vopRows Tests.cell Tests.broken Tests.fine ∧
      wVopc (Tests.word 0x19 0) = 0x00 ∧ SMap.get none (getCell State.reset 0).cfg.table 63 = none ∧
      Tests.fine.uncorrected = false ∧ epochDistance State.reset 0 0 = 0 := by decide +kernel

/-- UnitOperationsComplete: an FCHECK on a slot of a variant; CellEvents: a drain at its cell's own ready cycle. -/
theorem test_unit_end_premises :
    let o : UnitOp := { Tests.unitOp (Tests.word 0x19 (0x30 * 2 ^ 31 + 2 ^ 21 + 5 * 2 ^ 9)) true with step := some 4 }
    let h := { openedStep State.reset 1 (Tests.desc 7 (4 * 2 ^ 128)) with
      step := 4, variant := some { nvar := 1, slots := [(5, 1)], owner := [] } }
    let pass := Tests.unitOp (Tests.word 0x10 (2 ^ 16 + 2 ^ 12)) true
    let dr := Tests.unitOp (Tests.word 0x18 0) false
    let s := Tests.atCell (fun k => { k with unitM := [pass], unitD := [dr], bank0 := { st := .busy, kn := false } })
    wOp o.word = 0x19 ∧ wVopc o.word = 0x30 ∧ bit o.word 21 = true ∧ h.st = .opened ∧ slotVariant h (fld o.word 20 9) = some 0 ∧
      earlyReady s 0 = true ∧ dr.started = false ∧ wOp dr.word = 0x18 := by decide +kernel

/-- DescriptorsStartInOrder: a refetched MIRROR, a step opened in the shadow, an object with ERROR, a wait that has been reached, and
a family that needs the step engine in a context without it. -/
theorem test_start_further :
    let d := { Tests.desc 9 0 with refetched := true }
    let waits := Tests.desc 0 (2 ^ 14 + 8 * 2 ^ 32 + 5 * 2 ^ 64)
    let s := modHif (fun h => { h with sync := [(8, { value := 0, error := true })] }) (Tests.atCtx id)
    let open_ := Tests.desc 7 ((4 + 0x10000 * 2 ^ 64 + 8192 * 2 ^ 128) * 2 ^ 128)
    refetchOk d.words = true ∧ d.refetched = true ∧ refetchOk (Tests.desc 0 0).words = false ∧
      ({ State.reset.step with pulled := [4] } : StepEng).pulled.contains 4 = true ∧
      (dWait waits.words && inSyncRange (getCtx s 1) (dWaitSync waits.words)) = true ∧
      (getSync s (dWaitSync waits.words)).error = true ∧ (some ({ since := 0, reached := true } : WaitRec)).any WaitRec.reached = true ∧
      needsStep (dOpcode open_.words) = true ∧ offences Tests.ctx open_.words = [] ∧
      ({ Tests.ctx with holdsStep := false } : Context).holdsStep = false := by decide +kernel

/-- StreamsBind: an EMBER transfer whose destination lies in its step's area up to the last byte, and one past it; one with no step
open; a side in HBM before LOCK; a position that answers. -/
theorem test_stream_further :
    let s := Tests.holds Tests.held
    let dst := Side.dpa 0x10000
    emberStep s 1 = some Tests.held ∧ emberFits Tests.held dst 0xF000 = true ∧ emberFits Tests.held dst 0xF001 = false ∧
      emberStep (Tests.bound 0) 1 = none ∧ sideUnlocked s (.dpa 0x10000000000) = true ∧ posnAnswers s 0 = false ∧
      posnAnswers (modPos 0 (fun p => { p with st := .enabled }) s) 0 = true ∧
      posnAnswers (modPos 7 (fun p => { p with st := .guest }) s) 7 = true := by decide +kernel

/-- EngineMovesOneChunk: a source in a guest's memory that its firewall denies, and a source whose position is in reset. -/
theorem test_engine_further :
    let s := { Tests.atStream (fun t => { t with src := .dpa 0x20000000000 }) with fuses := { State.reset.fuses with part := .zsn8g } }
    let g := modPos 6 (fun p => { p with st := .guest }) s
    let t := { getStream s 5 with src := .dpa (BitVec.ofNat 48 (stageBase 6)) }
    posnAnswers s 0 = true ∧ turnStop g t = none ∧ (guestPass 0 t 4096 g).1 = false ∧
      turnStop (modPos 0 (fun p => { p with st := .inReset }) s) (getStream s 5) = some stDomainReset := by decide +kernel

/-- ReductionsPairOperands: a position that answers, leaves that may be read, and no step that aborts. -/
theorem test_reduction_further :
    let d := Tests.desc 2 ((2 ^ 20 + 2 * 2 ^ 320) * 2 ^ 128)
    let s := modPos 0 (fun p => { p with st := .enabled }) (Tests.starting d)
    let new := newReduction 1 d []
    (getStream s new.stream).st = .free ∧ posnAnswers s (dfld d.words 0x10 19 17) = true ∧ mayRead new s = (true, s) ∧
      redPlace s 9 true = none ∧
      s.step.held.any (fun h => decide (h.st = .aborting) || decide (h.st = .halted)) = false := by decide +kernel

/-- MemoryControllers: RETRAIN_CE off; stripes that are withdrawn, worn, and that wait for a commit; channels in each state. -/
theorem test_memory_further :
    let s := { State.reset with pkg := { State.reset.pkg with invEnabled := 1 }, memRegs := { State.reset.memRegs with rasCfg := 0x80000 } }
    let busy := modStep (fun e => { e with
      held := [{ Tests.held with st := .committing }], entries := [(0, some { own := 0x10000000000, mir := 0, length := 0x1000 })] }) s
    let limp := modPos 0 (fun p => { p with pchan := [(0, { PChan.init with st := .limp }), (1, { PChan.init with st := .limp })] }) s
    fld s.memRegs.rasCfg 15 0 = 0 ∧ s.failed = [] ∧ withdrawn { Pos.init with withdrawn := [7] } 7 = true ∧
      withdrawn Pos.init 7 = false ∧ commitRunning s = false ∧ commitRunning busy = true ∧
      ((stripeDpa busy 0 0).any (fun a => mirroredArea busy a 4096)) = true ∧
      8 ≤ SMap.get 0 ({ Pos.init with stripeCe := [(7, 8)] } : Pos).stripeCe 7 ∧ fld s.memRegs.rasCfg 23 16 = 8 ∧
      (getChan (getPos limp 0) 0).st = .limp ∧ pcWaits limp 0 0 = false ∧ pcWaits limp 0 1 = true ∧
      (getChan { Pos.init with pchan := [(63, { PChan.init with st := .mapout })] } 63).st = .mapout := by decide +kernel

/-- ContextsAndFunctions: a block of no window in host memory, of context 1, on an ENABLED position, after LOCK. -/
theorem test_create_premises :
    let blk := leBytes 4 0x101 ++ leBytes 4 0 ++ leBytes 32 0 ++ leBytes 4 0x060606 ++ leBytes 4 0
    let s := hostWrite 0x10000 blk { (modPos 0 (fun p => { p with st := .enabled }) State.reset) with
      memRegs := { State.reset.memRegs with lock := true }
      hif := { State.reset.hif with pages := [(0, { FuncPage.init with ctxBlock := 0x10000 })] } }
    createResult s 0 1 .good = 0 ∧ createResult s 0 1 .timeout = 3 := by decide +kernel

/-- StepsOpen: a step that has been opened and waits for its fence, which has drained and which has not; a VARIANT of a step that is not
open. -/
theorem test_open_further :
    let d := Tests.desc 7 ((4 + 0x10000 * 2 ^ 64 + 8192 * 2 ^ 128) * 2 ^ 128)
    let h := { Tests.held with openKey := d.key }
    let s := modCtx 1 (fun x => { x with starting := some d }) (Tests.holds h)
    let wait := modCtx 1 (fun x => { x with started := [Tests.desc 3 0] }) s
    startingOf s 1 0x07 = some d ∧ openedBy s 1 d = some 0 ∧ s.step.held[0]? = some h ∧ openDrained s 1 = true ∧
      openDrained wait 1 = false ∧ openedBy (Tests.bound 0) 1 d = none ∧
      ({ Tests.held with st := .committing } : Held).st ≠ .opened ∧ Tests.held.st = .opened := by decide +kernel

/-- VotesAreCast: with MIRROR on, a record that lies in an area the partner mirrors, and one that waits for its acknowledgement. -/
theorem test_vote_further :
    let s := Tests.installed (modStep (fun e => { e with entries := [(3, some Tests.area)] }) (Tests.holds Tests.held))
    mirrorable s 1 0x1F000 = true ∧ mirrorable (Tests.holds Tests.held) 1 0x1F000 = false ∧ Tests.held.voteKey = none ∧
      (∀ e ∈ (getCtx s 1).started, e.step ≠ some 4) ∧
      placeOf Held.recordSent (Tests.holds { Tests.held with recordSent := true }).step.held = some 0 := by decide +kernel

/-- StepsResolve: a cast step whose partition is still VALID, and the root of a partition. -/
theorem test_resolve_further :
    let s := Tests.holds { Tests.held with st := .cast, abortAt := some 0 }
    placeOf (fun h => decide (h.st = .cast) && h.abortAt.isSome && !(lostEntry s h.ctx)) s.step.held = some 0 ∧
      placeOf (fun h => decide (h.st = .cast) && !(lostEntry s h.ctx)) s.step.held = some 0 ∧ isRoot s 1 = true ∧
      isRoot (modPart 0 (fun e => { e with rank := 1 }) s) 1 = false ∧ entryOfPid s 6 = none := by decide +kernel

/-- CommitRoles: a group of the partner's that comes again; RoundsOfDrained: no step at its last attempt, and none halted. -/
theorem test_role_further :
    let s := Tests.holds { Tests.held with st := .aborting }
    ({ State.reset.step with peerResend := [] } : StepEng).peerResend = [] ∧
      ({ State.reset.step with peerResend := [(0, 64)] } : StepEng).peerResend ≠ [] ∧ lastAttempts s = [] ∧
      lastAttempts (Tests.holds { Tests.held with st := .aborting, attempt := 3 }) ≠ [] ∧
      (∀ x ∈ s.step.held, x.ctx = 1 → x.st ≠ .halted) := by decide +kernel

/-- MirrorDescriptors: no FILL, and one with a last packet that waits; MappingMessages: an area on a guest's memory. -/
theorem test_fill_premises :
    let f : FillRun := { ctx := 1, key := 7, left := 1 }
    let s := modStep (fun e => { e with fill := some f, mirror := .filling }) (Tests.waits (Tests.desc 9 (3 * 2 ^ 128)))
    let g := { s with fuses := { s.fuses with part := .zsn8g } }
    liveFill State.reset = none ∧ liveFill s = some f ∧ f.left = 1 ∧ s.step.mirror = .filling ∧
      guestHolds g (localBase 6) 64 = true ∧ guestHolds g (localBase 6 - 64) 64 = false := by decide +kernel

/-- DieEdges and YalxoLinks: of two frames, or flits, that differ in the CRC alone, one has a good CRC and the other has not. -/
theorem test_crc_premises (f : Frame) (g : Flit) :
    (∃ c, frameGood { f with crc := c } = true ∧ frameGood { f with crc := c + 1 } = false) ∧
      ∃ c, flitGood { g with crc := c } = true ∧ flitGood { g with crc := c + 1 } = false := by
  have ne : ∀ c : BitVec 32, (c + 1 == c) = false := by intro c; simp
  exact ⟨⟨crc32 (frameBytes f), beq_self_eq_true _, ne _⟩, ⟨crc32 (flitBytes g), beq_self_eq_true _, ne _⟩⟩

/-- DieEdges: an active module and one that is not, a limit met and one passed, and the module whose turn it is. -/
theorem test_edge_further :
    let x := { Tests.edgeIn .active with mask := 0xF, width := 4 }
    x.mask.getLsbD 3 = true ∧ x.mask.getLsbD 4 = false ∧
      fld State.reset.pkg.edgeCfg 15 0 = 256 ∧ fld (1 : BitVec 32) 15 0 = 1 ∧ (1 : Nat) < ([0, 0] : List (BitVec 64)).length ∧
      moduleTurn x x.joinTurn = some 0 ∧ (∀ k, (edgeModule x k).arrived = []) ∧ 0 = x.expected ∧ x.idleOnly = false ∧
      (edgeModule { x with modules := [(0, { EdgeModule.init with discarding := true })] } 0).discarding = true := by
  refine ⟨by decide +kernel, by decide +kernel, by decide +kernel, by decide +kernel, by decide +kernel, by decide +kernel,
    fun _ => rfl, by decide +kernel, by decide +kernel, by decide +kernel⟩

/-- LinksSend: a port with a packet of TC0 and one of TC1 that wait, with credits and without; an edge with a piece, and with IDLE
frames alone. -/
theorem test_send_premises :
    let q := { FabPort.init with
      st := .up, queue := [(outKey 0 24, [⟨Tests.packet, false, []⟩]), (outKey 1 24, [⟨Tests.packet, false, [[1], [2]]⟩])]
      credits := [(0, 1), (1, 1)] }
    let x := { Tests.edgeIn .active with mask := 0xF, pieces := piecesOf 0 [1], sendTurn := 3 }
    q.replay.length < 1024 ∧ (nextPool 0 q).map Prod.fst = some 0 ∧ poolReady q 0 = true ∧ poolReady q 4 = false ∧
      (nextPool 0 { q with credits := [(1, 1)] }).map Prod.fst = some 1 ∧ nextPool 0 { q with credits := [] } = none ∧
      owesFlit { q with credits := [], ackSent := q.rxNext - 1 } = false ∧
      (nextPacket 1 q).map (fun o => o.1.left) = some [[1], [2]] ∧ moduleTurn x x.sendTurn = some 3 ∧ x.pieces ≠ [] ∧
      x.idleOnly = false ∧ ({ x with idleOnly := true } : Edge).idleOnly = true := by decide +kernel

/-- GuestFirewall: memory of the guest that answers, an access that goes out of it, a scratchpad, and a generation that has passed. -/
theorem test_firewall_further :
    let r : GfwRule := { base := 0, limit := 0xFFFFFFFFFFC0, attr := BitVec.ofNat 33 (13 + 2 ^ 12 * 255 + 2 ^ 20) }
    let s := modPos 6 (fun p => { p with st := .guest }) (Tests.guarded r)
    guestOf s (stageBase 6) = some 0 ∧ dpaStop s (stageBase 6) = none ∧ guestOf s 0x1000 = none ∧
      gfwMatch (getGfw s 0) false 0x1000 0 0 = some r ∧ inScratchpads (spBase 0) = true ∧ inScratchpads 0x1000 = false ∧
      ({ addr := 0, write := true, ctx := 1, gen := 1, data := [] } : GuestAccess).gen ≠ (getCtx s 1).gen := by decide +kernel

/-- YalxoLinks: a limit met and one passed, the first exchange before stage 8 and a later one, and a package with no VALID
entry. -/
theorem test_link_further :
    fld ({ FabPort.init with cfg := 1 } : FabPort).cfg 15 0 = 1 ∧
      (1 : Nat) < ([0, 0] : List (BitVec 64)).length ∧ (!State.reset.fab.ptbSet && decide (State.reset.pwr.stage.toNat < 7)) = true ∧
      (!true && decide (State.reset.pwr.stage.toNat < 7)) = false ∧ validEntries State.reset = [] ∧
      (FabPort.init.discarding = false) ∧ ({ FabPort.init with discarding := true } : FabPort).discarding = true ∧
      State.reset.fab.ptbMissed + 1 < 10 := by decide +kernel

/-- RoutersAndPartitions: where a packet's data may land, and where it may not. -/
theorem test_land_premises :
    let s := Tests.bound 0
    reaches (getCtx s 1) 0xFFFC0 64 = true ∧ reaches (getCtx s 1) 0xFFFC1 64 = false ∧ inScratchpads 0xFFFC0 = false ∧
      guestOf s 0xFFFC0 = none ∧ Tests.packet.tc ≠ 2 := by decide +kernel

/-- FirmwareCommands: a third bypass of a cell of an ENABLED position; PinsAndPower: a rank that is lost. -/
theorem test_loss_premises :
    let s := modPos 0 (fun p => { p with st := .enabled }) { State.reset with
      fuses := { State.reset.fuses with macMapFused := [(0, setBypassed 0 0 [3, 4])] } }
    beyondBypasses s (.macRow Tests.cell 65) = true ∧ repairNames s (.macRow Tests.cell 65) = true ∧
      repairFits s (.macRow Tests.cell 65) = false ∧ repairPosn (.macRow Tests.cell 65) = some 0 ∧ (getPos s 0).st = .enabled ∧
      (getPart (Tests.bound 0) 0).valid = true ∧ (getPart (Tests.bound 0) 0).ranked = true := by decide +kernel


/-! ### Premises of the statements about management -/

/-- Reset, with channel 0 bound to PF0 and core 0, and running firmware. -/
def Tests.chan (f : Chan → Chan) : State :=
  modMbx 0 (fun c => f { c with bind := 0x00404000 }) (modMgmt (fun m => { m with fw := .running }) State.reset)

/-- The same, with a command that PF0 has sent. -/
def Tests.sent (cmd : Nat) : State := Tests.chan (fun c => { c with full := true, buf := [(0, BitVec.ofNat 32 (cmd + 5 * 2 ^ 16))] })

/-- Reset, with presence. -/
def Tests.present (s : State) : State := modMgmt (fun m => { m with presence := true }) s

/-- MailboxSendAndAck: both bound masters and another, 1 and 16 words, a channel that is full and one that is not. -/
theorem test_mailbox_premises :
    let s := Tests.chan id
    let f := Tests.sent 1
    let down := { s with hif := { s.hif with perst := [(0, true), (1, true)] } }
    mbxBound s 0 0 = true ∧ mbxBound s 0 0x40 = true ∧ mbxBound s 0 0x41 = false ∧ mbxBound s 1 0x50 = true ∧
      fld (1 : BitVec 32) 4 0 = 1 ∧ fld (16 : BitVec 32) 4 0 = 16 ∧ fld (0x100000 : BitVec 32) 20 16 = 16 ∧
      otherMid (getMbx s 0) 0 = 0x40 ∧ midDown s 0x40 = false ∧ otherMid (getMbx s 0) 0x40 = 0 ∧ midDown down 0 = true ∧
      mbxBound down 0 0x40 = true ∧ (getMbx f 0).full = true ∧ (getMbx f 0).sender ≠ 0x40 ∧ (getMbx f 0).sender = 0 ∧
      (getMbx s 0).full = false ∧ s.mgmt.presence = false ∧ (Tests.present s).mgmt.presence = true := by decide +kernel

/-- EventRings: no record, a record with room and without, EN 1 and 0, tails in range and out of it. -/
theorem test_event_premises :
    let e : Event := { code := 1, src := 0, seq := 0, stamp := 0, ctx := none, pid := none, posn := none, arg0 := 0, arg1 := 0 }
    let at_ := fun (head tail : BitVec 16) (ctrl : BitVec 32) => modMgmt (fun m => { m with
      queue := [e], evtHead := head, evtTail := tail, evtCtrl := ctrl }) State.reset
    let room := fun (s : State) => (s.mgmt.evtHead.toNat + 1) % 2 ^ evtLog2 s ≠ s.mgmt.evtTail.toNat
    State.reset.mgmt.queue = [] ∧ (at_ 63 1 0x106).mgmt.queue = [e] ∧ e.ctx = none ∧ bit (at_ 63 1 0x106).mgmt.evtCtrl 8 = true ∧
      room (at_ 63 1 0x106) ∧ ¬room (at_ 63 0 0x106) ∧ bit (at_ 0 0 6).mgmt.evtCtrl 8 = false ∧ (at_ 0 0 6).mgmt.kept.length < 4096 ∧
      bit (0x106 : BitVec 32) 8 = true ∧ headOk 6 0 5 5 = true ∧ headOk 6 0 5 6 = false ∧ headOk 6 0 5 64 = false ∧
      (Tests.chan id).mgmt.fw = .running ∧ bit (modPwr (fun p => { p with pll := 0x1F000000 }) (Tests.chan id)).pwr.pll 26 = true ∧
      bit State.reset.pwr.pll 26 = false ∧
      SMap.get none (modMgmt (fun m => { m with locks := [(130, some 3)] }) State.reset).mgmt.locks 130 = some 3 := by
  decide +kernel

/-- RegisterWrites: offsets that are aligned and that are not, LOCK both ways, a code with a debug window, and debug locked and not. -/
theorem test_register_premises :
    (0x01C00002 : BitVec 27).toNat % 4 ≠ 0 ∧ (0x01C00004 : BitVec 27).toNat % 8 ≠ 0 ∧ State.reset.memRegs.lock = false ∧
      ({ State.reset.memRegs with lock := true } : MemRegs).lock = true ∧ (selIndex .pf0h0).isSome = true ∧
      privateCodes.contains (0x30 : BitVec 8).toNat = true ∧ State.reset.mgmt.debug = false ∧
      ({ State.reset.mgmt with debug := true } : Mgmt).debug = true ∧ hubDown State.reset = false ∧
      hubDown (modPwr (fun p => { p with pkgReset := true }) State.reset) = true ∧ hasGfw State.reset = false := by decide +kernel

/-- FirmwareCommands: a command of each code that waits, with its operands, with presence and without; and long ones that run. -/
theorem test_firmware_premises :
    let msg := fun (cmd : Nat) (sender : BitVec 8) => ({ core := 0, sender := sender.toNat, cmd := cmd, ticket := 5
                                                         buf := [(0, BitVec.ofNat 32 (cmd + 5 * 2 ^ 16))] } : FwMsg)
    let s := Tests.chan id
    let good : State := { hostWrite 0 Tests.table s with fuses := { s.fuses with serial := 1 } }
    let busy := modMgmt (fun m => { m with locks := [(0, some 1)] }) good
    let row : Repair := .macRow Tests.cell 65
    let l : LongCommand := { core := 0, ticket := 5, cmd := 0x0030, table := Tests.table, repair := none, ok := true }
    let runs := modMgmt (fun m => { m with long := [{ l with cmd := 0x0021 }, l] }) s
    fwMsg s 0 = none ∧ fwMsg (Tests.sent 0x33) 0 = some (msg 0x33 0) ∧
      (∀ cmd ∈ [1, 2, 0x10, 0x11, 0x20, 0x21, 0x30, 0x31, 0x32, 0x33, 0x34, 0x35], fwMsg (Tests.sent cmd) 0 = some (msg cmd 0)) ∧
      (msgWord (msg 0x20 0) 4).toNat ≤ 7 ∧ fitsCompute s.fuses.part 7 = true ∧ posnDown s 7 = true ∧
      posnDown (modPos 7 (fun p => { p with st := .enabled }) s) 7 = false ∧ (msg 0x21 0x10).sender ≠ 0 ∧
      (msg 0x21 0x10).sender ≠ 0x50 ∧ (msg 0x21 0).sender = 0 ∧ scrubOk s { lo := 0, hi := 0, posns := 0 } = false ∧
      scrubOk s { lo := 0, hi := 0, posns := 0x80 } = true ∧ tableOk s.fuses.serial (sentTable s (msg 0x30 0)) = false ∧
      tableOk good.fuses.serial (sentTable good (msg 0x30 0)) = true ∧ lockHeld good 0 = false ∧ lockHeld busy 0 = true ∧
      repairNames s row = true ∧ repairNames s (.macRow Tests.cell 66) = false ∧ repairFits s row = true ∧
      SMap.get 0 s.fuses.wordsUsed (repairHome row) < repairWords (repairHome row) ∧ lockHeld s 1 = false ∧
      s.fuses.idGen ≠ 15 ∧ ({ s.fuses with idGen := 15 } : Fuses).idGen = 15 ∧
      placeOf (fun (l : LongCommand) => l.ticket == 5 && decide (l.cmd ≠ 0x0021)) runs.mgmt.long = some 1 ∧
      runs.mgmt.long[1]? = some l := by decide +kernel

/-- PhysicalPresence and PowerUpStages: the seal loop both ways; each stage; an image that fails; a table good and none. -/
theorem test_power_premises :
    let s := State.reset
    s.mgmt.sealClosed = false ∧ ({ s.mgmt with sealClosed := true } : Mgmt).sealClosed = true ∧ s.mgmt.fw = .boot ∧
      s.pwr.stage = 2 ∧ s.pwr.pwrGood = true ∧ s.pwr.pkgReset = false ∧ bootFail s = 2 ∧ (Tests.chan id).mgmt.fw ≠ .boot ∧
      (∀ k ∈ [3, 5, 6, 7], (modPwr (fun p => { p with stage := k }) s).pwr.stage = k) ∧ s.mgmt.tableFlash = none ∧
      tableOk 1 Tests.table = true := by decide +kernel

/-- PowerUpStages: an image of no body, for a signer whose digest the fuses hold and whose signature is accepted. Both rest on
values that Config leaves open, so they are premises here too. -/
theorem test_boot_premises (key : (Config.sha512 (List.replicate 32 0)).toList.take 32 = leBytes 32 0)
    (accepted : ∀ d, Config.ed25519Verify (List.replicate 32 0) d (List.replicate 64 0) = true) :
    bootFail (modPwr (fun p => { p with
      flash := SMap.writeRun erasedByte [] 0 (leBytes 4 0x57464B5A ++ leBytes 252 1) }) State.reset) = 0 := by
  have h : ∀ s : State, imageHeaderOk (flashRead s 0 256) = true → ((flashRead s 0 256).drop 0x20).take 32 = List.replicate 32 0 →
      ((flashRead s 0 256).drop 0x40).take 64 = List.replicate 64 0 → s.fuses.fwKey.toNat = 0 → bootFail s = 0 := by
    intro s h1 h2 h3 h4
    simp only [bootFail, h1, h2, h3, h4, key, accepted]
    decide
  exact h _ (by decide +kernel) (by decide +kernel) (by decide +kernel) (by decide +kernel)

/-- YalxoLinks: a digest of LINKCTL_IDENT that is the loaded table's, and one that is not, whatever the table's digest. -/
theorem test_digest_premises (s : State) :
    ∃ a b : BitVec 64, a.toNat = wTableDigest s ∧ b.toNat ≠ wTableDigest s := by
  have low : ∀ l : List Byte, leNat l < 256 ^ l.length := by
    intro l
    induction l with
    | nil => exact Nat.one_pos
    | cons b l ih => simp only [leNat, List.length_cons, Nat.pow_succ]; omega
  have small : wTableDigest s < 2 ^ 64 := by
    unfold wTableDigest
    split
    · decide
    · refine Nat.lt_of_lt_of_le (low _) ?_
      rw [List.length_take]
      exact Nat.pow_le_pow_right (by decide) (Nat.min_le_left 8 _)
  refine ⟨BitVec.ofNat 64 (wTableDigest s), BitVec.ofNat 64 (wTableDigest s) + 1, ?_, ?_⟩ <;> simp <;> omega

/-- Resets: each level with GO, the engine codes at the ends of their ranges, a target that takes the reset and one that does not,
the watchdog on and off, a capture that waits, and a position and an engine in reset. -/
theorem test_reset_premises :
    let s := State.reset
    let on := modPos 0 (fun p => { p with st := .enabled }) s
    let part : PendingReset := { level := 3, posn := 0, engine := 0, cause := 3 }
    let dog : PendingReset := { level := 2, posn := 0, engine := 31, cause := 3 }
    rasMaster .tray = none ∧ rasMaster .pf0h0 = some capPf0 ∧ (∀ l ∈ [1, 2, 3], bit (BitVec.ofNat 32 (2 ^ 31 + l)) 31 = true ∧
      fld (BitVec.ofNat 32 (2 ^ 31 + l)) 1 0 = l) ∧ resetIgnored on part = false ∧ resetIgnored s part = true ∧
      resetIgnored on dog = false ∧ resetIgnored s { dog with engine := 0x38 } = false ∧ resetIgnored s dog = true ∧
      fld s.ras.wdog 15 0 ≠ 0 ∧ fld ({ s.ras with wdog := 0 } : Ras).wdog 15 0 = 0 ∧ s.ras.pending = [] ∧
      ({ s.ras with pending := [part] } : Ras).pending = [part] ∧ (getPos on 0).st ≠ .inReset ∧
      (getPos (modPos 0 (fun p => { p with st := .inReset, engReset := [55] }) s) 0).st = .inReset ∧
      (getPos (modPos 0 (fun p => { p with engReset := [55] }) s) 0).engReset.contains 55 = true ∧
      ({ s.ras with hubReset := [0x3F] } : Ras).hubReset.contains 0x3F = true := by decide +kernel

/-- PinsAndPower: each pin both ways, and averages above W, from 97 percent of W, and below, with FRAC at its ends. -/
theorem test_pin_premises :
    let s := State.reset
    let p := fun (f : Pwr → Pwr) => modPwr f s
    let damped := p (fun q => { q with modes := { q.modes with draught := .damped } })
    s.pwr.pkgReset = false ∧ (p (fun q => { q with pkgReset := true })).pwr.pkgReset = true ∧ loseRanks s = s ∧
      s.fab.parts = [] ∧ boardLoaded (p (fun q => { q with pkgReset := true })) = false ∧ s.pwr.pwrGood = true ∧
      (p (fun q => { q with pwrGood := false })).pwr.pwrGood = false ∧ s.pwr.thermtrip = false ∧
      (p (fun q => { q with thermtrip := true })).pwr.thermtrip = true ∧
      (p (fun q => { q with arithStopped := true })).pwr.arithStopped = true ∧
      (.nop ⟨Tests.cell, Tests.fine⟩, 0x00) ∈ opRows Tests.cell Tests.fine Tests.fine 0 ∧ s.pwr.modes.draught ≠ .damped ∧
      damped.pwr.modes.draught = .damped ∧ dampW damped = 4200 ∧ 4200 < 4201 ∧ ¬4200 < 4073 ∧ 100 * 4073 < 97 * 4200 ∧
      ¬100 * 4074 < 97 * 4200 ∧ 16 < (17 : BitVec 7).toNat ∧ (16 : BitVec 7).toNat ≤ 16 ∧ (63 : BitVec 7).toNat < 64 ∧
      (6000 : BitVec 16).toNat ≤ fld s.pwr.cap 31 16 ∧ (0x59 : BitVec 8).toNat < s.pwr.warn.toNat := by decide +kernel

/-- TrayAndFlash: GO with each operation, areas up to their last page and the page past them, an erased page, BUSY with and
without an operation. -/
theorem test_tray_premises :
    let s := State.reset
    let runs := fun (op : BitVec 2) (page : BitVec 24) => modPwr (fun p => { p with flashBusy := true, flashRun := some (op, page) }) s
    s.pwr.flashBusy = false ∧ bit (5 : BitVec 32) 2 = true ∧ BitVec.ofNat 2 (fld (5 : BitVec 32) 1 0) ≠ 0 ∧
      (∀ op ∈ [1, 2, 3], flashReady (runs op 0x13FFF) op = some 0x13FFF00 ∧ flashReady (runs op 0x14000) op = some 0x1400000) ∧
      trayArea 0x13FFF00 = true ∧ trayArea 0x1400000 = false ∧ trayArea 0x7FFFFF = true ∧ trayArea 0x800000 = false ∧
      (∀ b ∈ flashRead s 0x13FFF00 256, b = erasedByte) ∧ (runs 1 0).pwr.flashBusy = true ∧ (runs 1 0).pwr.flashRun ≠ none ∧
      (modPwr (fun p => { p with flashBusy := true }) s).pwr.flashRun = none := by decide +kernel

/-- TapInstructions: both values of each gate. -/
theorem test_tap_premises :
    let open_ := { State.reset.fuses with factoryClosed := false }
    State.reset.pwr.pkgReset = false ∧ ({ State.reset.pwr with pkgReset := true } : Pwr).pkgReset = true ∧
      open_.factoryClosed = false ∧ ¬(State.reset.fuses.factoryClosed = false ∨ State.reset.mgmt.debug = true) := by decide +kernel

/-- IdleStepTicks: reset is quiet, as a port that is UP with nothing to send is; and what RATE gathers at both ends of its range. -/
theorem test_idle_premises :
    let f := fun (k : Int) => ({ State.reset.fab with ptbFrac := k }.ptbFrac + State.reset.fab.ptbRate.toInt)
    State.reset.pending = [] ∧ quiet State.reset ∧ quietPort { FabPort.init with st := .up, ackSent := 0xFFF } ∧
      -100000000 < f (-99999999) ∧ f 99999999 < 100000000 ∧ 100000000 ≤ f 100000000 ∧ f (-100000000) ≤ -100000000 := by
  unfold quiet quietPort quietEdge; decide +kernel

/-- The invariants: reset meets the invariant, and a step from it answers a state. -/
theorem test_step_premises :
    State.reset.canonical = true ∧
      (∃ t, step { State.reset with pending := [.presenceAssert] } = .next t ∧ t.pending = [] ∧ t.mgmt.presenceLow = true) :=
  ⟨rfl, ⟨_, rfl, rfl, rfl⟩⟩

/-! ### The spec's worked examples -/

/-- The worked conversions of file 04: FP32 to each format, with SAT 0 and the one row with SAT 1. -/
theorem test_conversions :
    let to_ := fun (f : Fmt) (w : BitVec 32) => (f.convert false (f32 w)).code
    to_ .e4m3 0x43960000 = 0x79 ∧ to_ .e4m3 0x43E80000 = 0x7E ∧ to_ .e4m3 0x43EB0000 = 0x7F ∧
      Fmt.e4m3.convert true (f32 0x43EB0000) = ⟨0x7E, true, false⟩ ∧ to_ .e4m3 0x3B400000 = 0x02 ∧
      to_ .e5m2 0x47700000 = 0x7C ∧ to_ .fp16 0x477FF000 = 0x7C00 ∧ to_ .bf16 0x3F808000 = 0x3F80 ∧
      to_ .bf16 0x3F818000 = 0x3F82 ∧ to_ .bf16 1 = 0 ∧ Fmt.int8.convert false (f32 0x42FF0000) = ⟨0x7F, true, false⟩ ∧
      to_ .int8 0xC0600000 = 0xFC ∧ to_ .int8 0x40200000 = 0x02 ∧ Fmt.int8.convert false (f32 0x7FC00000) = ⟨0, true, false⟩ ∧
      to_ .bf16 0xFFC01234 = 0x7FC0 := by decide +kernel

/-- The MXFP4 block of file 04: 7.2, −0.3, 0.25, 1.25, 2.6, −5.5, 0.1 and 3.0, with SAT 1 and with SAT 0. -/
theorem test_mx_block :
    let vs := [0x40E66666, 0xBE99999A, 0x3E800000, 0x3FA00000, 0x40266666, 0xC0B00000, 0x3DCCCCCD, 0x40400000].map f32
    (convertBlock .mxE2m1 true vs).1 = 0x7F ∧
      (convertBlock .mxE2m1 true vs).2.map Prod.fst = [0x7, 0x9, 0x0, 0x2, 0x5, 0xF, 0x0, 0x5] ∧
      ((convertBlock .mxE2m1 true vs).2.filter Prod.snd).length = 1 ∧ (convertBlock .mxE2m1 false vs).1 = 0xFF := by
  decide +kernel

/-- The BF16 sites of file 05: products that a chunk truncates and that one of their own keeps; the forms MN and KN. -/
theorem test_chunks :
    let at_ := fun (x y : Nat) => ({ a := Fmt.bf16.decode x, b := Fmt.bf16.decode y, sa := 127, sb := 127 } : SiteStep)
    let z := List.replicate 7 (at_ 0 0)
    let sum := fun (ks : List SiteStep) => siteSum ⟨8, false, false⟩ 0 ks
    let c0 := at_ 0x4580 0x4580 :: z
    let c1 := at_ 0x3F80 0x3F80 :: z
    let c3 := at_ 0xC580 0x4580 :: z
    sum ([at_ 0x3F80 0x3F80, at_ 0xBF80 0x3F80, at_ 0x3300 0x3300] ++ z.take 5 ++ at_ 0 0 :: z) = 0 ∧
      sum (at_ 0x3F80 0x3F80 :: at_ 0xBF80 0x3F80 :: z.take 6 ++ at_ 0x3300 0x3300 :: z) = 0x26800000 ∧
      sum (c0 ++ c1 ++ c1 ++ c3) = 0 ∧ sum (c0 ++ c1) = 0x4B800000 ∧ sum (c1 ++ c3) = 0xCB7FFFFF ∧
      combineKN [sum (c0 ++ c1), sum (c1 ++ c3)] = 0x3F800000 := by decide +kernel

/-- TOPK4 and TOPK8 of file 05: 2, NaN, 5, 2, +∞, −0, 5, +0, and −1 in the other lanes. -/
theorem test_topk :
    let row : List (BitVec 32) := [0x40000000, 0x7FC00000, 0x40A00000, 0x40000000, 0x7F800000, 0x80000000, 0x40A00000, 0]
      ++ List.replicate 56 0xBF800000
    topK 4 0 row [] = [(0x7F800000, 4), (0x40A00000, 2), (0x40A00000, 6), (0x40000000, 0)] ∧
      (topK 8 0 row []).drop 4 = [(0x40000000, 3), (0x80000000, 5), (0, 7), (0xBF800000, 8)] := by decide +kernel

/-- The ADAMW element of file 06. -/
theorem test_adamw :
    let p : List (BitVec 32) := [0x3A800000, 0x3F700000, 0x3D800000, 0x3F7E0000, 0x3C000000, 0x03800000, 0x3D800000, 0x3F800000,
                                 0x3F800000, 0x3C]
    adamwElem p 60 (toF32 (Fmt.bf16.decode 0x1A40)) 0x38400000 0x31100000 0x3F000000 =
      { m := 0x38400000, v := 0x31100000, w := 0x3EFF7C00 } := by decide +kernel

/-- The byte of file 08: with LOCAL_ROWS 96,768 and eight positions, DPA 0x010001234567 is on P4, in CH06 PC0 slot 96,777. -/
theorem test_wide_byte :
    let s := { State.reset with memRegs := { State.reset.memRegs with localRows := 96768, lock := true }, pkg := { State.reset.pkg with
      invEnabled := 0xFF } }
    stripeOf s 0x010001234567 = some (4, 6193734) ∧ homeOf 6193734 = (12, 96777) ∧ reserveChan 40000 = 13 := by decide +kernel

/-- The inventory of file 09: a compute die of a lower level, and one below HUB_MIN. -/
theorem test_inventory :
    let with_ := fun (l : BitVec 8) => { State.reset with fuses := { State.reset.fuses with
      posn := SMap.set PosnFuses.init State.reset.fuses.posn 5 { dieStep := 0xA1, dieLevel := l, baseStep := 0xB0, baseLevel := 0x12 } } }
    effectiveLevel (with_ 0x11) = 0x11 ∧ inventoryState (with_ 0x11) 5 = .enabled ∧
      inventoryState (with_ 0x0F) 5 = .disabledLevel ∧ effectiveLevel (with_ 0x0F) = 0x12 := by decide +kernel

/-- The edge of file 09: module 7 has failed, and the lowest twelve of the others are mask 0x1F7F. -/
theorem test_edge_width : widthOf (modulesOf 0xFF7F).length = 12 ∧ maskOf ((modulesOf 0xFF7F).take 12) = 0x1F7F := by decide +kernel

/-- The firewall rule of file 09 lets P0 to P3 write for context 9, and no other; the capture names master 0x4C, DIR and WR. -/
theorem test_firewall :
    let r : GfwRule := { base := 0x006000000000, limit := 0x006040000000, attr := 0x00094B48B }
    let s := Tests.guarded r
    gfwPermit s 0 true true 0x006000000040 0x4B 9 = some 9 ∧ gfwPermit s 0 true true 0x006000000040 0x4C 9 = none ∧
      gfwPermit s 0 true false 0x006000000040 0x4B 9 = none ∧ gfwVaddr true true 0x006000000040 0x4C = 0x834C006000000040 := by
  decide +kernel

/-- The mailbox of file 15: core 0x41 posts over PF0's message, PF0 acknowledges, and clears COLLISION. -/
theorem test_mailbox_collision :
    let s := modMbx 5 (fun c => { c with bind := 0x00404100, full := true, words := 12, sender := 0 })
      { State.reset with hif := { State.reset.hif with perst := [(0, false), (1, false)] } }
    ∃ t u v, exec (.mailboxSend 5 0x41 2) s = .next t ∧ exec (.mailboxAck 5 0 0) t = .next u ∧
      exec (.mailboxStatusClear 5 0 2) u = .next v ∧ wMbxStatus (getMbx t 5) = 0x4113 ∧ wMbxStatus (getMbx u 5) = 0x4106 ∧
      (getMbx u 5).acker = 0 ∧ wMbxStatus (getMbx v 5) = 0x4104 :=
  ⟨_, _, _, rfl, rfl, rfl, by decide +kernel, by decide +kernel, by decide +kernel, by decide +kernel⟩

/-- DAMPED of file 16: at FRAC 40 the package draws 4,210 W and FRAC falls to 39; at 39 it draws 4,137 W and FRAC stays. -/
theorem test_damped :
    let s := modPwr (fun p => { p with modes := { p.modes with draught := .damped }, frac := 40 }) State.reset
    ∃ t, exec (.dampControl 4210) s = .next t ∧ t.pwr.frac = 39 ∧ exec (.dampControl 4137) t = .next t :=
  ⟨_, rfl, by decide +kernel, rfl⟩

/-- IDCODE of file 17: a ZSN-8 with a hub of stepping B0, and a ZSN-8G with one of stepping A1. -/
theorem test_idcode :
    wIdcode State.reset = 0x15A08B75 ∧
      wIdcode { State.reset with fuses := { State.reset.fuses with part := .zsn8g, hubStep := 0xA1 } } = 0x05A09B75 := by
  decide +kernel

/-- The register accesses of file 18: PF0's selector, the pseudo-channel that it selects, a head of P2's ring, and P3 in reset. -/
theorem test_registers :
    let p2 := modPos 2 (fun p => { p with
      st := .enabled, pchan := [(13, { PChan.init with st := .mapped, wfrom := some 0, retrains := 2 })] }) State.reset
    let s := modPos 3 (fun p => { p with st := .inReset }) p2
    ∃ t, exec (.registerWrite .pf0h0 0x01000010 .w32 0x20D) s = .next t ∧
      readRegister t .pf0h0 0x01000018 true = .value 0x0000000200000004 ∧ readRegister t .pf0h0 0x01A40010 false = .error :=
  ⟨_, rfl, by decide +kernel, by decide +kernel⟩

/-- The repair data of file 02: row 17 and column 40 of cell (5,9) of P3. -/
theorem test_repair_data :
    SMap.get 0 (fuseIn (.macCol ⟨3, 5, 9⟩ 40) (fuseIn (.macRow ⟨3, 5, 9⟩ 17) State.reset.fuses)).macMapFused
      (cellNum ⟨3, 5, 9⟩) = 0x00A80091 := by decide +kernel

/-- The route of file 10: from (26,5,3) to (1,5,3) in a box of 28 that wraps, the positive way along X. -/
theorem test_route :
    let t := leBytes 4 1 ++ leBytes 4 0x102020
    let box : BitVec 64 := BitVec.ofNat 64 (28 * 64 + 32 + (32 * 64 + 32) * 2 ^ 12 + 8 * 64 * 2 ^ 24)
    nextGroup t box false (indexOf t 26 5 3) (indexOf t 1 5 3) = some 0 ∧ inBox t box (indexOf t 27 5 3) = true ∧
      inBox t box (indexOf t 28 5 3) = false ∧ nextGroup t box false (indexOf t 1 5 3) (indexOf t 26 5 3) = some 1 ∧
      childRanks 582 15872 = (List.range 16).map (fun i => 9313 + i) := by decide +kernel
end

section
/-! PROOFS. Register writes and the debug window: which accesses are ignored, where the others go, and what the registers
with rules of their own take (R16, R178, R199, R221, R321, R380, R434 to R440, R447). -/

namespace Sys2Proof.Machine

/-! ### Which accesses are ignored (R16, R435, R436) -/

/-- R16, R436: the hub answers no write in chip reset or without power. -/
theorem registerWrite_hubDown {s : State} (h : hubDown s = true) (m : Master) (off : BitVec 27) (size : AccessSize)
    (v : BitVec 64) : exec (.registerWrite m off size v) s = .next s :=
  if_pos h

theorem readRegister_hubDown {s : State} (h : hubDown s = true) (m : Master) (off : Nat) (wide : Bool) :
    readRegister s m off wide = .error :=
  if_pos h

theorem registerWrite_other (m : Master) (off : BitVec 27) (v : BitVec 64) (s : State) :
    exec (.registerWrite m off .other v) s = .next s :=
  ite_self _

theorem registerWrite_w32_misaligned {off : BitVec 27} (h : off.toNat % 4 ≠ 0) (m : Master) (v : BitVec 64) (s : State) :
    exec (.registerWrite m off .w32 v) s = .next s := by
  simp [exec, execRegisterWrite, h]

theorem registerWrite_w64_misaligned {off : BitVec 27} (h : off.toNat % 8 ≠ 0) (m : Master) (v : BitVec 64) (s : State) :
    exec (.registerWrite m off .w64 v) s = .next s := by
  simp [exec, execRegisterWrite, h]

/-! ### Where a 32-bit access that is taken goes (R380, R434) -/

theorem registerWrite_w32_aligned {s : State} {off : BitVec 27} (up : hubDown s = false) (h : off.toNat % 4 = 0) (m : Master)
    (v : BitVec 64) :
    exec (.registerWrite m off .w32 v) s = .next (writeAligned m off.toNat false (keep 64 0xFFFFFFFF v) s) := by
  simp [exec, execRegisterWrite, up, h]

/-- Outside the management complex RECOVERY turns nothing away (R373). -/
theorem recoveryBars_of_not_mgmtBlock {off : Nat} (h : mgmtBlock off = false) (s : State) (m : Master) :
    recoveryBars s m off = false := by
  simp [recoveryBars, h]

/-- A 32-bit write by PF0 to a hub register below the function pages and outside the management complex is `write32`'s. -/
theorem registerWrite_w32_pf0_of_write32 {s t : State} {off : BitVec 27} {v : BitVec 64} (up : hubDown s = false)
    (aligned : off.toNat % 4 = 0) (below : off.toNat < 0x03FF0000) (block : mgmtBlock off.toNat = false)
    (written : write32 .pf0h0 off.toNat (keep 64 0xFFFFFFFF v) s = some t) :
    exec (.registerWrite .pf0h0 off .w32 v) s = .next t := by
  rw [registerWrite_w32_aligned up aligned]
  have hwin : ¬ 0x4000000 ≤ off.toNat := by omega
  have hpage : ¬ (0x03FF0000 ≤ off.toNat ∧ off.toNat < 0x04000000) := by omega
  simp [writeAligned, hwin, reachesMap, recoveryBars_of_not_mgmtBlock block, writeBar0, hpage, written]

/-- A 32-bit write by a host, core or test master from 0x400_0000 on goes to the 1 KiB window of the channel there (R380; log
entry 64). -/
theorem registerWrite_w32_window {s : State} {m : Master} {off : BitVec 27} {o : Nat} (up : hubDown s = false) (hm : m ≠ .tray)
    (ch : Fin 64) (hoff : off.toNat = 0x4000000 + 1024 * ch.val + o) (ho : o < 1024) (aligned : o % 4 = 0) (v : BitVec 64) :
    exec (.registerWrite m off .w32 v) s =
      .next (writeWindow ch.val o (midOf m) ((keep 64 0xFFFFFFFF v).setWidth 32) s) := by
  have hch := ch.isLt
  rw [registerWrite_w32_aligned up (by omega)]
  have hwin : 0x4000000 ≤ off.toNat := by omega
  have hin : ¬ 0x10000 ≤ off.toNat - 0x4000000 := by omega
  have hdiv : (off.toNat - 0x4000000) / 1024 = ch.val := by omega
  have hmod : (off.toNat - 0x4000000) % 1024 = o := by omega
  simp [writeAligned, hwin, hm, hin, hdiv, hmod]

theorem writeWindow_send (ch : Nat) (mid : BitVec 8) (v : BitVec 32) (s : State) :
    writeWindow ch 0x40 mid v s = sendPost ch mid v s := rfl

/-! ### Registers with rules of their own -/

/-- R178, R199: MEM_CFG after LOCK. -/
theorem writeMemCfg_locked {s : State} (h : s.memRegs.lock = true) (v : BitVec 64) : writeMemCfg v s = s :=
  if_pos h

theorem writeMemCfg_unlocked {s : State} (h : s.memRegs.lock = false) (v : BitVec 64) :
    writeMemCfg v s = { s with memRegs := { s.memRegs with localRows := keep 18 0x3FFFF v, lock := bit v 31 } } := by
  simp [writeMemCfg, h]

/-- R447: the debug window while debug is unlocked. -/
theorem writeDebug_unlocked {s : State} (h : s.mgmt.debug = true) (code word : Nat) (v : BitVec 64) :
    writeDebug code word v s = { s with test := { s.test with window := SMap.set 0 s.test.window (code * 512 + word) v } } :=
  if_pos h

theorem writeDebug_locked {s : State} (h : s.mgmt.debug = false) (code word : Nat) (v : BitVec 64) :
    writeDebug code word v s = raise 0x0A02 (hubUnit 8) {} s := by
  simp [writeDebug, h, presenceDenied]

/-- R437, R447: a master that has a selector copy reaches the window of a private instruction. -/
theorem debugWindowWrite_reached {m : Master} {code : BitVec 8} (hm : (selIndex m).isSome = true)
    (hcode : privateCodes.contains code.toNat = true) (word : BitVec 9) (v : BitVec 64) (s : State) :
    exec (.debugWindowWrite m code word v) s = .next (writeDebug code.toNat word.toNat v s) :=
  if_pos (by rw [hm, hcode]; rfl)

/-! ### Hub registers that PF0 writes -/

section PF0
variable {s : State} (up : hubDown s = false) (v : BitVec 64)
include up

/-- STEP_CFG is staged (R321, R440). -/
theorem registerWrite_stepCfg : exec (.registerWrite .pf0h0 0x01C00000 .w32 v) s =
    .next (modStep (fun e => { e with cfgW := keep 32 0xFFFFF (keep 64 0xFFFFFFFF v) }) s) :=
  registerWrite_w32_pf0_of_write32 up rfl (by decide) rfl rfl

/-- MEM_CFG follows `writeMemCfg` (R178, R199). -/
theorem registerWrite_memCfg : exec (.registerWrite .pf0h0 0x01000000 .w32 v) s =
    .next (writeMemCfg (keep 64 0xFFFFFFFF v) s) :=
  registerWrite_w32_pf0_of_write32 up rfl (by decide) rfl rfl

/-- FAB_PORT_SEL is PF0's own copy (R438). -/
theorem registerWrite_fabPortSel : exec (.registerWrite .pf0h0 0x01600010 .w32 v) s =
    .next (modSel .pf0h0 (fun x => { x with fabPort := keep 32 0x1F (keep 64 0xFFFFFFFF v) }) s) :=
  registerWrite_w32_pf0_of_write32 up rfl (by decide) rfl rfl

/-- The firewall's selector on a part without a guest firewall (R221). -/
theorem registerWrite_gfwRuleSel_of_not_hasGfw (h : hasGfw s = false) :
    exec (.registerWrite .pf0h0 0x01400008 .w32 v) s = .next s := by
  have written : write32 .pf0h0 0x01400008 (keep 64 0xFFFFFFFF v) s = some s := by simp [write32, writeSel, h]
  exact registerWrite_w32_pf0_of_write32 up rfl (by decide) rfl written

/-- The SEND word of a channel's window posts as PF0 (R380). -/
theorem registerWrite_windowSend (ch : Fin 64) :
    exec (.registerWrite .pf0h0 (BitVec.ofNat 27 (0x4000040 + 1024 * ch.val)) .w32 v) s =
      .next (sendPost ch.val 0x00 ((keep 64 0xFFFFFFFF v).setWidth 32) s) := by
  have hoff : (BitVec.ofNat 27 (0x4000040 + 1024 * ch.val)).toNat = 0x4000000 + 1024 * ch.val + 0x40 := by
    rw [BitVec.toNat_ofNat, Nat.mod_eq_of_lt (by omega)]; omega
  rw [registerWrite_w32_window up (by decide) ch hoff (by decide) rfl, writeWindow_send]
  rfl

end PF0

/-- Settles O53: each clause is the law of the access or of the register that it speaks of. -/
theorem registerWrites : Obligations.RegisterWrites := by
  intro s m off size v ch code word
  refine ⟨registerWrite_other m off v s, fun h => registerWrite_w32_misaligned h m v s,
    fun h => registerWrite_w64_misaligned h m v s,
    fun down => ⟨registerWrite_hubDown down m off size v, readRegister_hubDown down m off.toNat false⟩,
    fun up => ⟨registerWrite_stepCfg up v, fun lock => ?locked, fun lock => ?unlocked, registerWrite_fabPortSel up v,
      fun h => registerWrite_gfwRuleSel_of_not_hasGfw up v h, registerWrite_windowSend up v ch⟩,
    fun hm hcode => ⟨fun debug => ?debugOpen, fun debug => ?debugShut⟩⟩
  case locked => rw [registerWrite_memCfg up v, writeMemCfg_locked lock]
  case unlocked => rw [registerWrite_memCfg up v, writeMemCfg_unlocked lock]
  case debugOpen => rw [debugWindowWrite_reached hm hcode, writeDebug_unlocked debug]
  case debugShut => rw [debugWindowWrite_reached hm hcode, writeDebug_locked debug]

end Sys2Proof.Machine
end

section
/-! PROOFS. An engine's turn: the stream it is granted to, and a turn whose read of the stream-context store aborts the step
that the stream belongs to (R184, R196, R197, R316). -/

namespace Sys2Proof.Machine

/-! ### What a granted turn does (R196, R197) -/

/-- The state in which a granted turn acts: the engine's pointer has gone on past the stream, and the store has been read. -/
def grantedState (posn : Posn) (engine : Fin 32) (store : ReadErr) (i : Nat) (s : State) : State :=
  storeRead posn.val store
    (modPos posn.val (fun p => { p with turnPtr := SMap.set 0 p.turnPtr engine.val ((i + 1) % 4096) }) s)

/-- An engine with room gives its turn to the stream that the round-robin rule names, as the read of the store leaves it. -/
theorem engineTurn_granted {posn : Posn} {engine : Fin 32} {s : State} {i : Nat} (answers : posnAnswers s posn.val = true)
    (running : engine.val ∉ (getPos s posn.val).engReset) (room : engineLoad s posn.val engine.val < 64)
    (granted : roundRobin (SMap.get 0 (getPos s posn.val).turnPtr engine.val) 4096
      (fun i => wantsTurn s (streamKey posn.val (32 * i + engine.val))) = some i) (turn : TurnInput) :
    exec (.engineTurn posn engine turn) s = .next
      (turnStream posn.val (streamKey posn.val (32 * i + engine.val)) turn.credit (grantedState posn engine turn.store i s)) := by
  have admitted : ¬(!(posnAnswers s posn.val) ∨ (getPos s posn.val).engReset.contains engine.val ∨
      64 ≤ engineLoad s posn.val engine.val) := by
    simp [answers, running, Nat.not_le.mpr room]
  show execEngineTurn posn engine turn s = _
  simp only [execEngineTurn, if_neg admitted, granted]
  rfl

/-- A turn of a stream context that nothing stops and that has no bytes to move changes nothing. -/
theorem turnStream_nothing_left {k : Nat} {s : State} (live : streamLive s (getStream s k) = true)
    (unstopped : turnStop s (getStream s k) = none) (nothing : chunkLen s k (getStream s k) = 0) (posn : Nat) (credit : Bool) :
    turnStream posn k credit s = s := by
  simp [turnStream, live, unstopped, nothing]

/-- The chunk that a turn moves is in flight after it. -/
theorem moveChunk_inflight_ne_nil (k len : Nat) (s : State) : (getStream (moveChunk k len s) k).inflight ≠ [] := by
  simp [moveChunk]

/-! ### A turn whose read of the store aborts the step -/

/-- A read of the store that meets an error its code does not correct (R66, R184). -/
def uncorrectedRead : ReadErr := { corrected := 0, uncorrected := true }

/-- A STEP_OPEN whose fields are all 0. -/
def plainOpen : Desc := { key := 0, index := 0, words := 0, refetched := false, step := none, attempt := 0, cells := 0 }

/-- Reset, with local rows of HBM mapped and P0 ENABLED, a step of context 1 open, and stream context 0 of P0 bound by that
context to copy 4,096 bytes of staging SRAM. -/
def streamOfOpenStep : State :=
  modStep (fun e => { e with held := [openedStep State.reset 1 plainOpen] })
    (modStream 0 (fun t => { t with
      st := .ready, owner := 1, src := .dpa 0x20000000000, dst := .dpa 0x20000001000, length := 4096, step := some 0 })
      (modCtx 1 (fun x => { x with st := .active, posns := 1, holdsStep := true })
        (modPos 0 (fun p => { p with st := .enabled })
          { State.reset with memRegs := { State.reset.memRegs with localRows := 1, lock := true } })))

/-- The same as the stream's turn finds it: the read of the store has aborted the step. -/
def turnOfAbortedStep : State := grantedState 0 0 uncorrectedRead 0 streamOfOpenStep

/-- The engine has room, and the turn is the stream's. -/
theorem streamOfOpenStep_granted :
    posnAnswers streamOfOpenStep 0 = true ∧ 0 ∉ (getPos streamOfOpenStep 0).engReset ∧
      engineLoad streamOfOpenStep 0 0 < 64 ∧
      roundRobin (SMap.get 0 (getPos streamOfOpenStep 0).turnPtr 0) 4096
        (fun i => wantsTurn streamOfOpenStep (streamKey 0 (32 * i + 0))) = some 0 := by
  decide +kernel

/-- The stream, as it was before the read, meets every premise of the move of a chunk. -/
theorem streamOfOpenStep_meets_move_premises :
    let t := getStream streamOfOpenStep 0
    streamLive turnOfAbortedStep t = true ∧ turnStop turnOfAbortedStep t = none ∧ chunkLen turnOfAbortedStep 0 t ≠ 0 ∧
      (guestPass 0 t (chunkLen turnOfAbortedStep 0 t) turnOfAbortedStep).1 = true := by
  decide +kernel

/-- R315, R316: the abort has discarded the stream. -/
theorem turnOfAbortedStep_stream_free : getStream turnOfAbortedStep 0 = StreamCtx.init := by
  decide +kernel

/-- The turn goes to a FREE stream context and moves nothing. -/
theorem streamOfOpenStep_turn :
    exec (.engineTurn 0 0 ⟨true, uncorrectedRead⟩) streamOfOpenStep = .next turnOfAbortedStep := by
  obtain ⟨answers, running, room, granted⟩ := streamOfOpenStep_granted
  have unmoved : turnStream 0 0 true turnOfAbortedStep = turnOfAbortedStep := by
    refine turnStream_nothing_left ?live ?unstopped ?nothing 0 true <;> rw [turnOfAbortedStep_stream_free] <;> decide +kernel
  exact (engineTurn_granted (posn := 0) (engine := 0) answers running room granted _).trans (congrArg _ unmoved)

/-- Refutes O29: an error of the stream-context store that its code does not correct aborts the step that is open, and the abort
discards that step's streams, the one that is read among them. The clause of a chunk that moves takes the stream as it was
before the read, but of the FREE stream context that the turn finds no chunk moves. -/
theorem not_engineMovesOneChunk : ¬ Obligations.EngineMovesOneChunk := by
  intro claim
  obtain ⟨answers, running, room, granted⟩ := streamOfOpenStep_granted
  obtain ⟨live, unstopped, bytes, passes⟩ := streamOfOpenStep_meets_move_premises
  obtain ⟨moves, -⟩ := claim streamOfOpenStep 0 0 true uncorrectedRead 0 answers running room granted
  have claimed := moves _ live unstopped rfl bytes (Prod.ext passes rfl)
  have moved := Host.Outcome.next.inj (claimed.symm.trans streamOfOpenStep_turn)
  have idle : (getStream turnOfAbortedStep 0).inflight = [] := congrArg StreamCtx.inflight turnOfAbortedStep_stream_free
  exact moveChunk_inflight_ne_nil 0 _ _ ((congrArg (fun s => (getStream s 0).inflight) moved).trans idle)

end Sys2Proof.Machine
end

section
/-! PROOFS. What stops a sequencer in place of its action, and what a sequencer fault leaves (R66, R72, R74, R79, R80, R89). -/

namespace Sys2Proof.Machine

open Sys2Proof.Laws

/-! ### The rows of the sequencer (R72) -/

/-- Every sequencer instruction with an opcode of its own is a row of that opcode. -/
theorem exec_opRow {c : CellId} {e er : ReadErr} {gap : Nat} {i : Instr} {op : Nat} (h : (i, op) ∈ opRows c e er gap) (s : State) :
    ∃ ready act, exec i s = .next (seqRow (cellNum c) e (isOp op) ready act s) := by
  have rows : ∀ x ∈ opRows c e er gap, ∃ ready act, exec x.1 s = .next (seqRow (cellNum c) e (isOp x.2) ready act s) := by
    simp only [opRows, List.forall_mem_cons, List.not_mem_nil, false_implies, implies_true, and_true]
    and_intros <;> exact ⟨_, _, rfl⟩
  exact rows _ h

/-- Every vector operation is the row of its VOPC. -/
theorem exec_vopRow {c : CellId} {e er : ReadErr} {i : Instr} {v : Nat} (h : (i, v) ∈ vopRows c e er) (s : State) :
    exec i s = .next (vopRow ⟨c, e, er⟩ v s) := by
  have rows : ∀ x ∈ vopRows c e er, exec x.1 s = .next (vopRow ⟨c, e, er⟩ x.2 s) := by
    simp only [vopRows, List.forall_mem_cons, List.not_mem_nil, false_implies, implies_true, and_true]
    and_intros <;> rfl
  exact rows _ h

/-- The instructions that wait for nothing but WEN's semaphore and that no unit takes, each with its opcode. -/
def unconditionalRows (c : CellId) (e : ReadErr) : List (Instr × Nat) :=
  [(.nop ⟨c, e⟩, 0x00), (.prog ⟨c, e⟩, 0x01), (.seta ⟨c, e⟩, 0x04), (.adda ⟨c, e⟩, 0x05), (.loop ⟨c, e⟩, 0x06),
    (.endl ⟨c, e⟩, 0x07)]

theorem exec_unconditionalRow {c : CellId} {e : ReadErr} {i : Instr} {op : Nat} (h : (i, op) ∈ unconditionalRows c e) (s : State) :
    ∃ act, exec i s = .next (seqRow (cellNum c) e (isOp op) always act s) := by
  have rows : ∀ x ∈ unconditionalRows c e, ∃ act, exec x.1 s = .next (seqRow (cellNum c) e (isOp x.2) always act s) := by
    simp only [unconditionalRows, List.forall_mem_cons, List.not_mem_nil, false_implies, implies_true, and_true]
    and_intros <;> exact ⟨_, rfl⟩
  exact rows _ h

/-! ### What stops an instruction in place of its action (R66, R79) -/

section Stops
variable {s : State} {c : CellId} {r : Run} {w : BitVec 64} (run : (getCell s (cellNum c)).run = some r)
  (word : runWord s (cellNum c) r = w) (running : s.pwr.arithStopped = false) {e : ReadErr}
include run word running

/-- A word that cannot be corrected stops whichever instruction it is (PROG_ECC). -/
theorem exec_programEcc (bad : e.uncorrected = true) {er : ReadErr} {gap : Nat} {i : Instr}
    (row : (∃ op, (i, op) ∈ opRows c e er gap ∧ wOp w = op) ∨ ∃ v, (i, v) ∈ vopRows c e er ∧ wOp w = 0x19 ∧ wVopc w = v) :
    exec i s = .next (seqFault (cellNum c) 0xA (runSlot r) s) := by
  obtain ⟨op, mem, hop⟩ | ⟨v, mem, hop, hv⟩ := row
  · obtain ⟨ready, act, h⟩ := exec_opRow mem s
    rw [h, seqRow_programEcc c r s e run bad running _ _ _ (by simp [isOp, word, hop])]
  · rw [exec_vopRow mem, vopRow, unitRow, seqRow_programEcc c r s e run bad running _ _ _ (by simp [isVop, word, hop, hv])]

variable (good : e.uncorrected = false) (wen : waitReady s (cellNum c) w = true)
include good wen

/-- A reserved bit that is set stops a row in place of its action (ILLEGAL_OP). -/
theorem seqRow_reservedBit {mine : BitVec 64 → Bool} {ready : State → BitVec 64 → Bool}
    {act : Run → BitVec 64 → State → State → State} (hm : mine w = true) (hr : ready s w = true) (set : reservedBit w = true) :
    seqRow (cellNum c) e mine ready act s = seqFault (cellNum c) 1 (runSlot r) (fetched s c e) := by
  simp [seqRow, run, word, running, good, wen, hm, hr, set, fetched]

/-- A row that is neither held up nor stopped by a reserved bit acts. -/
theorem seqRow_acts {mine : BitVec 64 → Bool} {ready : State → BitVec 64 → Bool}
    {act : Run → BitVec 64 → State → State → State} (hm : mine w = true) (hr : ready s w = true) (clear : reservedBit w = false) :
    seqRow (cellNum c) e mine ready act s = act r w (fetched s c e) (takeWait (cellNum c) w (fetched s c e)) :=
  seqRow_runs c r w s e ⟨run, word, clear, wen, running⟩ good mine ready act hm hr

theorem exec_reservedBit (set : reservedBit w = true) {i : Instr} {op : Nat} (row : (i, op) ∈ unconditionalRows c e)
    (hop : wOp w = op) : exec i s = .next (seqFault (cellNum c) 1 (runSlot r) (fetched s c e)) := by
  obtain ⟨act, h⟩ := exec_unconditionalRow row s
  rw [h, seqRow_reservedBit run word running good wen (by simp [isOp, hop]) rfl set]

/-- A reserved opcode or VOPC stops the cell whether or not a reserved bit is set. -/
theorem exec_reservedOpcode (reserved : knownOps.contains (wOp w) = false ∨ (wOp w = 0x19 ∧ vopcReserved (wVopc w) = true)) :
    exec (.reservedOpcode ⟨c, e⟩) s = .next (seqFault (cellNum c) 1 (runSlot r) (fetched s c e)) := by
  have mine : (!(knownOps.contains (wOp w)) || (decide (wOp w = 0x19) && vopcReserved (wVopc w))) = true := by
    rcases reserved with unknown | ⟨vop, vopc⟩
    · rw [unknown]; rfl
    · rw [vop, vopc]; rfl
  refine congrArg Host.Outcome.next ?_
  cases set : reservedBit w with
  | true => exact seqRow_reservedBit run word running good wen mine rfl set
  | false => exact seqRow_acts run word running good wen mine rfl set

theorem exec_loop_tooDeep (clear : reservedBit w = false) (hop : wOp w = 0x06) (deep : 4 ≤ r.loops.length) :
    exec (.loop ⟨c, e⟩) s = .next (seqFault (cellNum c) 5 (runSlot r) (fetched s c e)) :=
  congrArg _ ((seqRow_acts run word running good wen (by simp [isOp, hop]) rfl clear).trans (if_pos deep))

theorem exec_endl_without_loop (clear : reservedBit w = false) (hop : wOp w = 0x07) (noLoop : r.loops = []) :
    exec (.endl ⟨c, e⟩) s = .next (seqFault (cellNum c) 5 (runSlot r) (fetched s c e)) := by
  refine congrArg Host.Outcome.next ((seqRow_acts run word running good wen (by simp [isOp, hop]) rfl clear).trans ?_)
  simp only [noLoop]

/-- A WAITS of COUNT 0 has nothing of its own to wait for. -/
theorem exec_waits_zero (clear : reservedBit w = false) (hop : wOp w = 0x08) (zero : fld w 7 0 = 0) :
    exec (.waits ⟨c, e⟩) s = .next (seqFault (cellNum c) 7 (runSlot r) (fetched s c e)) :=
  congrArg _ ((seqRow_acts run word running good wen (by simp [isOp, hop]) (by simp [waitsReady, zero]) clear).trans (if_pos zero))

end Stops

/-- A pc past the last slot stops the sequencer with PC_RANGE, at the slot that it names (log entry 70). -/
theorem advancePc_past {s : State} {n : Nat} {r : Run} {pc : Nat} (run : (getCell s n).run = some r) (past : r.len ≤ pc) :
    advancePc n pc s = seqFault n 6 (runSlot { r with pc := pc })
      (putCell s n { getCell s n with run := some { r with pc := pc } }) := by
  simp [advancePc, run, past, modCell_eq_putCell]

/-- A NOP whose word is 0 in the last slot of a body. -/
theorem exec_nop_past {s : State} {c : CellId} {r : Run} {e : ReadErr} (run : (getCell s (cellNum c)).run = some r)
    (word : runWord s (cellNum c) r = 0) (running : s.pwr.arithStopped = false) (good : e.uncorrected = false)
    (past : r.len ≤ r.pc + 1) :
    exec (.nop ⟨c, e⟩) s = .next (seqFault (cellNum c) 6 (runSlot { r with pc := r.pc + 1 })
      (putCell (fetched s c e) (cellNum c) { getCell s (cellNum c) with run := some { r with pc := r.pc + 1 } })) := by
  have silent (t : State) : signalDone (cellNum c) 0 t = t := rfl
  refine congrArg Host.Outcome.next ((seqRow_acts run word running good rfl rfl rfl rfl).trans ?_)
  rw [silent, advancePc_past (r := r) (by simp) past, modCell_eq_putCell, putCell_putCell, getCell_putCell]
  rfl

/-! ### What the end of a descriptor leaves and what it looks at (R263, R270) -/

theorem signalDesc_eq (c : Ctx) (w : BitVec 512) (ok : Bool) (requester : Nat) (s : State) :
    ∃ q, signalDesc c w ok requester s = modHif (fun h => { h with syncQ := q }) s := by
  unfold signalDesc
  split
  · exact ⟨_, rfl⟩
  · exact ⟨s.hif.syncQ, rfl⟩

theorem recordDesc_started (c : Ctx) (d : Desc) (status detail : Nat) (s : State) :
    (getCtx (recordDesc c d status detail s) c).started = (getCtx s c).started := by
  have written (bytes : Bool → List Byte) : (getCtx (writeCompletion c bytes s) c).started = (getCtx s c).started := by
    simp [writeCompletion]
  unfold recordDesc
  dsimp only
  split
  · split
    · exact written _
    · exact written _
  · rfl

theorem finishDesc_started (c : Ctx) (d : Desc) (status detail requester : Nat) (s : State) :
    (getCtx (finishDesc c d status detail requester s) c).started = (getCtx s c).started := by
  obtain ⟨q, h⟩ := signalDesc_eq c d.words (decide (status = 0)) requester (recordDesc c d status detail s)
  rw [finishDesc, h]
  exact recordDesc_started ..

/-- A descriptor that has completed is among those that have started no more. -/
theorem startedDesc_completeKey (c : Ctx) (key status detail requester : Nat) (s : State) :
    startedDesc (completeKey c key status detail requester s) c key = none := by
  unfold completeKey
  split
  next absent => exact absent
  next =>
    rw [startedDesc, finishDesc_started, getCtx_modCtx_same]
    simp

/-- The record of a descriptor lies in host memory as its context says, whatever the rest of the package holds. -/
theorem recordDesc_host_congr {s t : State} (hif : t.hif = s.hif) (host : t.host = s.host) (c : Ctx) (d : Desc)
    (status detail : Nat) : (recordDesc c d status detail t).host = (recordDesc c d status detail s).host := by
  have ctx : getCtx t c = getCtx s c := by simp only [getCtx, hif]
  unfold recordDesc
  dsimp only
  rw [ctx]
  split
  · split <;> simp [writeCompletion, sendMsix, hostWrite, ctx, host]
  · exact host

theorem finishDesc_host (c : Ctx) (d : Desc) (status detail requester : Nat) (s : State) :
    (finishDesc c d status detail requester s).host = (recordDesc c d status detail s).host := by
  obtain ⟨q, h⟩ := signalDesc_eq c d.words (decide (status = 0)) requester (recordDesc c d status detail s)
  rw [finishDesc, h]
  rfl

theorem completeKey_host_congr {s t : State} (hif : t.hif = s.hif) (host : t.host = s.host) (c : Ctx)
    (key status detail requester : Nat) :
    (completeKey c key status detail requester t).host = (completeKey c key status detail requester s).host := by
  have same : startedDesc t c key = startedDesc s c key := by simp only [startedDesc, getCtx, hif]
  unfold completeKey
  rw [same]
  split
  · exact host
  · rw [finishDesc_host, finishDesc_host]
    refine recordDesc_host_congr ?_ ?_ c _ status detail
    · rw [modCtx_hif, modCtx_hif, hif]
    · exact host

/-! ### What a sequencer fault leaves (R79, R80, R89) -/

/-- A cause to abort that finds no step held is kept for the next one opened (log entry 10). -/
theorem chargeCause_of_no_step {s : State} (h : s.step.held = []) (cause : BitVec 8) :
    chargeCause cause s = modStep (fun e => { e with clearNext := true, abortNext := e.abortNext ++ [(e.next, 0, cause)] }) s := by
  simp [chargeCause, chargedPlace, placeOf, h]

/-- The record of a fault in a cell (R89). -/
def faultRecord (s : State) (c : CellId) (code : Nat) (slot : BitVec 12) : SeqFault :=
  { x := BitVec.ofNat 4 c.x.val, y := BitVec.ofNat 4 c.y.val, code := BitVec.ofNat 4 code, pc := slot
    count := (getPos s c.posn.val).seqFault.count + 1 }

/-- The state once a fault has stopped its cell, has been recorded and has raised SEQ_FAULT. -/
def faultRaised (s : State) (c : CellId) (r : Run) (f : SeqFault) : State :=
  raise 0x0101 (posUnit c.posn.val 0x22) { ctx := some r.ctx, posn := some c.posn.val }
    (modPos c.posn.val (fun q => { q with seqFault := f }) (modCell (cellNum c) (fun k => { k with run := none }) s))

section Raised
variable (s : State) (c : CellId) (r : Run) (f : SeqFault)

theorem getCell_faultRaised : (getCell (faultRaised s c r f) (cellNum c)).run = none := by
  simp [faultRaised]

theorem getCell_faultRaised_ne {m : Nat} (h : m ≠ cellNum c) : getCell (faultRaised s c r f) m = getCell s m :=
  getCell_modCell_ne _ (fun k => { k with run := none }) _ h s

theorem getPos_faultRaised : (getPos (faultRaised s c r f) c.posn.val).seqFault = f := by
  simp [faultRaised]

end Raised

theorem cellX_cellNum (c : CellId) : cellX (cellNum c) = c.x.val := by
  have := c.x.isLt
  unfold cellX cellNum
  omega

theorem cellY_cellNum (c : CellId) : cellY (cellNum c) = c.y.val := by
  have := c.x.isLt
  have := c.y.isLt
  unfold cellY cellNum
  omega

/-- While no step is held, a fault is recorded and raised, completes the TILE, and is kept as a cause for the next step. -/
theorem seqFault_of_no_step {s : State} {c : CellId} {r : Run} {code : Nat} (notEcc : code ≠ 0xA) (noStep : s.step.held = [])
    (run : (getCell s (cellNum c)).run = some r) (slot : BitVec 12) :
    seqFault (cellNum c) code slot.toNat s = modStep (fun e => { e with
        clearNext := true, abortNext := e.abortNext ++ [(e.next, 0, causeProgram)] })
      (completeKey r.ctx r.key stTileFault (seqFaultWord (faultRecord s c code slot) + 2 ^ 24 * c.posn.val) (c.posn.val + 1)
        (faultRaised s c r (faultRecord s c code slot))) := by
  have kept (t : State) (ctx : Ctx) (key status detail requester : Nat) (h : t.step.held = []) :
      (completeKey ctx key status detail requester t).step.held = [] := by
    obtain ⟨_, _, e⟩ := completeKey_hostOnly ctx key status detail requester t
    rw [e]
    exact h
  simp only [seqFault, run, if_neg notEcc, cellPosn_cellNum, cellX_cellNum, cellY_cellNum, BitVec.ofNat_toNat, BitVec.setWidth_eq]
  refine (chargeCause_of_no_step (kept _ _ _ _ _ _ ?_) causeProgram).trans rfl
  exact noStep

/-- The TILE's completion and the cause that is kept leave the cells, the positions, the events and the memory of the package. -/
theorem seqFault_of_no_step_fields {s : State} {c : CellId} {r : Run} {code : Nat} (notEcc : code ≠ 0xA)
    (noStep : s.step.held = []) (run : (getCell s (cellNum c)).run = some r) (slot : BitVec 12) :
    let t := seqFault (cellNum c) code slot.toNat s
    let u := faultRaised s c r (faultRecord s c code slot)
    t.cells = u.cells ∧ t.posns = u.posns ∧ t.mgmt = u.mgmt ∧ t.mem = s.mem ∧ t.acc = s.acc := by
  obtain ⟨hif, host, ended⟩ := completeKey_hostOnly r.ctx r.key stTileFault
    (seqFaultWord (faultRecord s c code slot) + 2 ^ 24 * c.posn.val) (c.posn.val + 1) (faultRaised s c r (faultRecord s c code slot))
  rw [seqFault_of_no_step notEcc noStep run slot, ended]
  exact ⟨rfl, rfl, rfl, rfl, rfl⟩

/-- Settles O9: what stops an instruction, row by row; and the fault's own law, read field by field. -/
theorem sequencerFaults : Obligations.SequencerFaults := by
  refine ⟨?stops, ?leaves⟩
  case stops =>
    intro s c e er gap r w run word running n s'
    refine ⟨fun bad i row => exec_programEcc run word running bad row, fun good wen => ?_⟩
    refine ⟨fun set i op row hop => exec_reservedBit run word running good wen set row hop,
      exec_reservedOpcode run word running good wen, exec_loop_tooDeep run word running good wen,
      exec_endl_without_loop run word running good wen, exec_waits_zero run word running good wen, fun _ zero past => ?_⟩
    subst zero
    exact exec_nop_past run word running good past
  case leaves =>
    intro s c r code slot notEcc noStep run n f t
    have law : t = _ := seqFault_of_no_step notEcc noStep run slot
    obtain ⟨cells, posns, mgmt, mem, acc⟩ := seqFault_of_no_step_fields notEcc noStep run slot
    have cell (m : Nat) : getCell t m = getCell (faultRaised s c r f) m := congrArg (SMap.get Cell.init · m) cells
    have posn (m : Nat) : getPos t m = getPos (faultRaised s c r f) m := congrArg (SMap.get Pos.init · m) posns
    refine ⟨?run, ?record, congrArg Mgmt.queue mgmt, ?tile, ?host, fun m other => ?others, mem, acc⟩
    case run => rw [cell, getCell_faultRaised]
    case record => rw [posn, getPos_faultRaised]
    case tile => rw [law]; exact startedDesc_completeKey ..
    case host => rw [law, modStep_host]; exact completeKey_host_congr (s := s) (t := faultRaised s c r f) rfl rfl ..
    case others => rw [cell, getCell_faultRaised_ne s c r f other]

end Sys2Proof.Machine
end

section
/-! PROOFS. The end of an operation in its unit: the bank that a pass or a drain leaves, what an FCHECK counts toward, and the next
operation (R51, R67, R76, R78, R145, R165). -/

namespace Sys2Proof.Machine

open Sys2Proof.Laws

/-! ### The counts of an FCHECK (R145, R165) -/

/-- An operation that is no FCHECK counts toward no step. -/
theorem fcheckDone_of_other {o : UnitOp} (h : wVopc o.word ≠ 0x30) (n : Nat) (s : State) : fcheckDone n o s = s := by
  have notFcheck : isFcheck o = false := by
    simp only [isFcheck, Bool.and_eq_false_iff, decide_eq_false_iff_not]
    exact Or.inr h
  simp [fcheckDone, notFcheck]

theorem heldPlace_modCell (n : Nat) (f : Cell → Cell) (s : State) (st : BitVec 64) :
    heldPlace (modCell n f s) st = heldPlace s st := rfl

/-- An FCHECK of a step that is held counts toward it while the step's vote is not cast. -/
theorem fcheckDone_of_held {o : UnitOp} {s : State} {st : BitVec 64} {i : Nat} (hop : wOp o.word = 0x19)
    (hv : wVopc o.word = 0x30) (hstep : o.step = some st) (hplace : heldPlace s st = some i) (n : Nat) :
    fcheckDone n o s = modHeld i (fun h => if h.st = .opened then checkAdd n o h else h) s := by
  have fcheck : isFcheck o = true := by
    simp only [isFcheck, Bool.and_eq_true, decide_eq_true_eq]
    exact ⟨hop, hv⟩
  simp [fcheckDone, fcheck, hstep, hplace]

/-- An FCHECK without a statistics slot counts toward the pair of its position. -/
theorem checkAdd_without_slot {o : UnitOp} (h : bit o.word 21 = false) (n : Nat) (k : Held) :
    checkAdd n o k = { k with checks := SMap.upd CheckPair.init k.checks (cellPosn n) (fun p =>
      { checked := stopInc p.checked (64 * (fld o.word 8 0 + 1)), nonfinite := stopInc p.nonfinite o.left }) } := by
  simp [checkAdd, h, addCheck]

/-- An FCHECK on a slot of a bound variant counts its non-finite elements toward the variant (R165). -/
theorem checkAdd_of_variant {o : UnitOp} {k : Held} {v : Nat} (h : bit o.word 21 = true)
    (hv : slotVariant k (fld o.word 20 9) = some v) (n : Nat) :
    checkAdd n o k = { k with
      checks := SMap.upd CheckPair.init k.checks (cellPosn n) (fun p =>
        { checked := stopInc p.checked (64 * (fld o.word 8 0 + 1)), nonfinite := stopInc p.nonfinite 0 })
      vnon := SMap.upd 0 k.vnon (cellPosn n * 1024 + v) (fun x => stopInc x o.left) } := by
  simp [checkAdd, h, hv, addCheck]

/-! ### Completions (R76, R460) -/

section Completions
variable {s : State} (running : s.pwr.arithStopped = false) {c : CellId} {o : UnitOp} (started : o.started = true)
include running started

/-- MM_COMPLETE of a pass that no other pass follows: the gang's banks are filled and the cycles counted (R51, R67, R78). -/
theorem exec_mmComplete_last {i : PassInfo} (unit : (getCell s (cellNum c)).unitM = [o]) (info : passInfo o.word = some i)
    (left : partialsLeft s (cellNum c) i.bank = true) (stalls : Nat) :
    exec (.mmComplete c stalls) s = .next (startM (cellNum c) (signalDone (cellNum c) o.word
      (modPos c.posn.val (fun p => { p with
        arrayBusy := p.arrayBusy + BitVec.ofNat 64 (o.left + stalls * (gangCells s (cellNum c)).length)
        bankStall := p.bankStall + BitVec.ofNat 64 (stalls * (gangCells s (cellNum c)).length) })
      (fillBanks (cellNum c) i.bank (modCell (cellNum c) (fun k => { k with unitM := [] }) s))))) := by
  show execMmComplete c stalls s = _
  simp [execMmComplete, running, unit, info, started, left]

theorem exec_drainComplete {rest : List UnitOp} (unit : (getCell s (cellNum c)).unitD = o :: rest) (hop : wOp o.word = 0x18) :
    exec (.drainComplete c) s = .next
      (let t := modCell (cellNum c) (fun k => { setBank (bit o.word 36) { st := .empty, kn := false } k with unitD := rest }) s
       startM (gangOrigin t (cellNum c)) (startD (cellNum c) (signalDone (cellNum c) o.word t))) := by
  show execDrainComplete c s = _
  simp [execDrainComplete, running, unit, started, hop]

theorem exec_vopComplete {rest : List UnitOp} (unit : (getCell s (cellNum c)).unitD = o :: rest) (hop : wOp o.word = 0x19) :
    exec (.vopComplete c) s = .next (startD (cellNum c) (signalDone (cellNum c) o.word
      (fcheckDone (cellNum c) o (modCell (cellNum c) (fun k => { k with unitD := rest }) s)))) := by
  show execVopComplete c s = _
  simp [execVopComplete, running, unit, started, hop]

theorem exec_sinComplete {rest : List UnitOp} (unit : (getCell s (cellNum c)).unitI = o :: rest) (done : o.left = 0) :
    exec (.sinComplete c) s = .next (startI (cellNum c) (signalDone (cellNum c) o.word
      (modCell (cellNum c) (fun k => { k with unitI := rest }) s))) := by
  show execSinComplete c s = _
  simp [execSinComplete, running, unit, started, done]

theorem exec_soutComplete {rest : List UnitOp} (unit : (getCell s (cellNum c)).unitO = o :: rest) :
    exec (.soutComplete c) s = .next (startO (cellNum c) (signalDone (cellNum c) o.word
      (modCell (cellNum c) (fun k => { k with unitO := rest }) s))) := by
  show execSoutComplete c s = _
  simp [execSoutComplete, running, unit, started]

end Completions

/-- Settles O11: each clause is the law of the completion that it speaks of, with the counts of an FCHECK put in. -/
theorem unitOperationsComplete : Obligations.UnitOperationsComplete := by
  intro s c stalls o rest started running n k
  refine ⟨?pass, exec_drainComplete running started, fun unit hop other => ?vop,
    fun st i h unit hop hv slot step place _ _ => ?pair,
    fun st i h v unit hop hv slot step place _ _ bound => ?variant,
    exec_sinComplete running started, exec_soutComplete running started⟩
  case pass =>
    rintro i unit info left rfl
    exact exec_mmComplete_last running started unit info left stalls
  case vop => rw [exec_vopComplete running started unit hop, fcheckDone_of_other other]
  case pair =>
    rw [exec_vopComplete running started unit hop, fcheckDone_of_held hop hv step ((heldPlace_modCell ..).trans place)]
    simp only [checkAdd_without_slot slot, n, cellPosn_cellNum]
  case variant =>
    refine ⟨_, exec_vopComplete running started unit hop, ?_, ?_, ?_⟩
    · rw [fcheckDone_of_held hop hv step ((heldPlace_modCell ..).trans place)]
    · simp only [checkAdd_of_variant slot bound, n, cellPosn_cellNum]
    · simp only [checkAdd_of_variant slot bound, n, cellPosn_cellNum]

end Sys2Proof.Machine
end

section
/-! PROOFS. What a drain writes, and the bytes of memory that a write of whole scratchpad units leaves alone (R38, R53 to R56,
R66). -/

namespace Sys2Proof.Machine

open Sys2Proof.Laws

/-! ### The rows of a drain (R54, R55, R73) -/

theorem elementwiseRows_length (vopc : Nat) (s1 s2 : List Row) : (elementwiseRows vopc s1 s2).length = s1.length := by
  simp [elementwiseRows]

/-- A fused operation gives as many rows as it takes, elementwise or not. -/
theorem fusedRows_length (mem : Mem) (base : Nat) (rows : List Row) (op : BitVec 6 × Nat) :
    (fusedRows mem base rows op).length = rows.length := by
  unfold fusedRows
  dsimp only
  split
  · exact elementwiseRows_length ..
  · simp

theorem fusedList_length (mem : Mem) (base : Nat) (ops : List (BitVec 6 × Nat)) (rows : List Row) :
    (fusedList mem base ops rows).length = rows.length := by
  induction ops generalizing rows with
  | nil => rfl
  | cons op ops ih => exact (ih _).trans (fusedRows_length ..)

/-- The rows of a bank as a drain reads them: each element flushed, with whether it was. -/
def bankRows (s : State) (n : Nat) (o : UnitOp) : List (List (BitVec 32 × Bool)) :=
  (List.range 64).map (fun r => (accRow s n (bit o.word 36) r).map flushF32)

/-- The rows of a drain once its fused list has run and its residual has been added (log entry 22). -/
def summedRows (s : State) (n : Nat) (o : UnitOp) : List Row :=
  let fused := fusedList s.mem (spBase n) (o.fused.map (fun v => (v.1, v.2.toNat)))
    ((bankRows s n o).map (fun l => l.map Prod.fst))
  if bit o.word 27 then List.zipWith (List.zipWith fadd) (areaF32 s.mem (spBase n) o.b.toNat .fp32 64) fused else fused

theorem summedRows_length (s : State) (n : Nat) (o : UnitOp) : (summedRows s n o).length = 64 := by
  unfold summedRows
  split <;> simp [fusedList_length, areaF32_length, bankRows]

theorem drainRows_eq_zip (s : State) (n : Nat) (o : UnitOp) :
    drainRows s n o = (summedRows s n o).zip ((bankRows s n o).map (fun l => l.map Prod.snd)) := rfl

/-- No row is lost beside its marks of flushed elements. -/
theorem drainRows_values (s : State) (n : Nat) (o : UnitOp) : (drainRows s n o).map Prod.fst = summedRows s n o := by
  rw [drainRows_eq_zip, List.map_fst_zip (by simp [summedRows_length, bankRows])]

theorem drainRows_flushed (s : State) (n : Nat) (o : UnitOp) :
    (drainRows s n o).map Prod.snd = (bankRows s n o).map (fun l => l.map Prod.snd) := by
  rw [drainRows_eq_zip, List.map_snd_zip (by simp [summedRows_length, bankRows])]

/-! ### Writes of whole units (R38) -/

/-- A byte outside every unit that a write names reads as before. -/
theorem get_spWrite_out (mem : Mem) (base off : Nat) (bs : List Byte) (a : Nat)
    (h : ∀ j, 64 * j < bs.length → a < base + unitOff (off + 64 * j) ∨ base + unitOff (off + 64 * j) + 64 ≤ a) :
    SMap.get 0 (spWrite mem base off bs) a = SMap.get 0 mem a := by
  obtain ⟨short, inside⟩ := pieces_bounds 64 (by decide) bs.length bs
  exact get_spWriteUnits_out base (cut 64 bs) off mem a short fun j hj => h j (inside j hj)

/-- Settles O16: the rows keep their number, so a drain's conversion sees all 64 with their marks; and the frame of a write. -/
theorem cellMemoryWrites : Obligations.CellMemoryWrites := by
  refine ⟨fun s c o => ?_, get_spWrite_out⟩
  have flags : (List.range 64).map (fun r => ((accRow s (cellNum c) (bit o.word 36) r).map flushF32).map Prod.snd) =
      (bankRows s (cellNum c) o).map (fun l => l.map Prod.snd) := by simp [bankRows]
  have values : (List.range 64).map (fun r => ((accRow s (cellNum c) (bit o.word 36) r).map flushF32).map Prod.fst) =
      (bankRows s (cellNum c) o).map (fun l => l.map Prod.fst) := by simp [bankRows]
  dsimp only
  rw [flags, values]
  simp only [runDrain, drainRows_values, drainRows_flushed]
  rfl

end Sys2Proof.Machine
end

section
/-! PROOFS. What a cause to abort leaves in the cells: only the cells that it stops change, and a drain unit that is idle stays
idle (R66, R295 to R297, R315, R461). -/

namespace Sys2Proof.Machine

open Sys2Proof.Laws

/-! ### What leaves the cells alone -/

/-- What each change of a list leaves alone, all of them together leave alone. -/
theorem forAll_keeps {α β : Type} (g : State → β) {f : α → State → State} {l : List α} (h : ∀ a ∈ l, ∀ s, g (f a s) = g s)
    (s : State) : g (forAll l f s) = g s := by
  induction l generalizing s with
  | nil => rfl
  | cons a l ih =>
    calc g (forAll l f (f a s)) = g (f a s) := ih (fun b hb => h b (List.mem_cons_of_mem a hb)) (f a s)
      _ = g s := h a List.mem_cons_self s

theorem forAll_keeps_cells {α : Type} {f : α → State → State} (h : ∀ a s, (f a s).cells = s.cells) (l : List α) (s : State) :
    (forAll l f s).cells = s.cells :=
  forAll_keeps State.cells (fun a _ => h a) s

@[simp] theorem sendOn_cells (port : Nat) (p : Packet) (s : State) : (sendOn port p s).cells = s.cells := by
  unfold sendOn
  split <;> rfl

@[simp] theorem sendPacket_cells (e : Part) (k dst : Nat) (p : Packet) (s : State) :
    (sendPacket e k dst p s).cells = s.cells := by
  unfold sendPacket
  dsimp only
  split
  · rfl
  · split
    · rfl
    · exact sendOn_cells ..

@[simp] theorem sendTc0On_cells (msg : Tc0) (port : Nat) (s : State) : (sendTc0On msg port s).cells = s.cells := by
  unfold sendTc0On
  dsimp only
  split
  · rfl
  · split
    · rfl
    · exact sendOn_cells ..

@[simp] theorem sendTc0_cells (ports : List Nat) (msg : Tc0) (s : State) : (sendTc0 ports msg s).cells = s.cells :=
  forAll_keeps_cells (sendTc0On_cells msg) ports s

theorem freeBytes_cells (k : Nat) (s : State) : (freeBytes k s).2.cells = s.cells := by
  induction k generalizing s with
  | zero => rfl
  | succ k ih => exact ih _

@[simp] theorem sendFollower_cells (c : Ctx) (bs : List Byte) (s : State) : (sendFollower c bs s).cells = s.cells := by
  unfold sendFollower
  split
  · exact sendPacket_cells ..
  · rfl

@[simp] theorem sendRecord_cells (c : Ctx) (s : State) : (sendRecord c s).cells = s.cells := by
  unfold sendRecord
  split
  · exact (sendFollower_cells ..).trans (freeBytes_cells ..)
  · rfl

@[simp] theorem floodAbort_cells (k : Nat) (arrival : Option Nat) (msg : Tc0) (s : State) :
    (floodAbort k arrival msg s).cells = s.cells := by
  unfold floodAbort
  dsimp only
  split
  · exact sendTc0_cells ..
  · rfl

@[simp] theorem floodOwn_cells (k : Nat) (msg : Tc0) (s : State) : (floodOwn k msg s).cells = s.cells :=
  sendTc0_cells ..

@[simp] theorem finishDesc_cells (c : Ctx) (d : Desc) (status detail requester : Nat) (s : State) :
    (finishDesc c d status detail requester s).cells = s.cells := by
  obtain ⟨_, _, h⟩ := finishDesc_hostOnly c d status detail requester s
  rw [h]

@[simp] theorem abortDescs_cells (c : Ctx) (openKey : Nat) (step : BitVec 64) (s : State) :
    (abortDescs c openKey step s).cells = s.cells :=
  forAll_keeps_cells (fun _ _ => finishDesc_cells ..) _ _

@[simp] theorem fcheckDone_cells (n : Nat) (o : UnitOp) (s : State) : (fcheckDone n o s).cells = s.cells := by
  unfold fcheckDone
  split
  · split <;> rfl
  · rfl

@[simp] theorem haltAt_cells (i status : Nat) (detail : Held → Nat) (s : State) : (haltAt i status detail s).cells = s.cells := by
  unfold haltAt
  split
  · rfl
  · exact finishDesc_cells ..

@[simp] theorem haltLost_cells (i : Nat) (s : State) : (haltLost i s).cells = s.cells :=
  haltAt_cells ..

theorem dropStreams_cells (c : Ctx) (p : StreamCtx → Bool) (s : State) : (dropStreams c p s).2.cells = s.cells := rfl

theorem closeReductions_cells (c : Ctx) (s : State) : (closeReductions c s).cells = s.cells := rfl

theorem restoreSync_cells (c : Ctx) (rec : SMap SyncObj) (s : State) : (restoreSync c rec s).cells = s.cells := rfl

theorem recordWait_cells (h : Held) (s : State) : (recordWait h s).cells = s.cells := rfl

theorem startRound_cells (h : Held) (s : State) : (startRound h s).cells = s.cells := rfl

@[simp] theorem countCooling_cells (n : Nat) (s : State) : (countCooling n s).cells = s.cells := by
  unfold countCooling
  dsimp only
  split <;> rfl

/-! ### A drain unit that is idle stays idle -/

/-- The drain unit of a cell holds no operation. -/
def dIdle (n : Nat) (s : State) : Prop := (getCell s n).unitD = []

theorem dIdle_of_cells {n : Nat} {s t : State} (h : t.cells = s.cells) : dIdle n t ↔ dIdle n s := by
  simp only [dIdle, getCell, h]

theorem dIdle_modCell {n m : Nat} {f : Cell → Cell} {s : State} (hf : ∀ k : Cell, k.unitD = [] → (f k).unitD = [])
    (h : dIdle n s) : dIdle n (modCell m f s) := by
  by_cases e : n = m
  · subst e
    simpa [dIdle] using hf _ h
  · simpa [dIdle, getCell_modCell_ne _ _ _ e] using h

/-- What every change of a list of changes keeps, all of them together keep. -/
theorem forAll_invariant {α : Type} {P : State → Prop} {f : α → State → State} (hf : ∀ a s, P s → P (f a s)) (l : List α)
    {s : State} (h : P s) : P (forAll l f s) := by
  induction l generalizing s with
  | nil => exact h
  | cons a l ih => exact ih (hf a s h)

theorem dIdle_mapCells {n : Nat} {f : Cell → Cell} (hf : ∀ k : Cell, k.unitD = [] → (f k).unitD = []) (p : Nat → Bool)
    {s : State} (h : dIdle n s) : dIdle n (mapCells p f s) :=
  forAll_invariant (P := dIdle n) (fun _ _ => dIdle_modCell hf) _ h

theorem dIdle_restCells {n : Nat} {f : Cell → Cell} (hf : ∀ k : Cell, k.unitD = [] → (f k).unitD = []) (p : Nat → Bool)
    {s : State} (h : dIdle n s) : dIdle n (restCells p f s) :=
  dIdle_mapCells hf p ((dIdle_of_cells (forAll_keeps_cells countCooling_cells _ _)).mpr h)

theorem dIdle_settleSignal {n : Nat} (m : Nat) (o : UnitOp) {s : State} (h : dIdle n s) : dIdle n (settleSignal m o s) := by
  unfold settleSignal
  split
  · split
    · exact h
    · exact dIdle_modCell (fun _ hk => hk) h
  · exact h

theorem dIdle_settleWork {n : Nat} (m : Nat) {s : State} (h : dIdle n s) : dIdle n (settleWork m s) :=
  forAll_invariant (P := dIdle n) (fun o _ => dIdle_settleSignal m o) _
    ((dIdle_of_cells (forAll_keeps_cells (fcheckDone_cells m) _ _)).mpr h)

theorem dIdle_stopCells {n : Nat} (p : Nat → Bool) {s : State} (h : dIdle n s) : dIdle n (stopCells p s) :=
  dIdle_mapCells (fun _ _ => rfl) p (forAll_invariant (P := dIdle n) (fun m _ => dIdle_settleWork m) _ h)

theorem dIdle_dropPartials {n : Nat} {s : State} (h : dIdle n s) : dIdle n (dropPartials s) :=
  (dIdle_of_cells (forAll_keeps_cells (modPos_cells · _) _ _)).mpr (dIdle_mapCells (fun _ hk => by exact hk) _ h)

theorem dIdle_abortCells {n : Nat} (c : Ctx) {s : State} (h : dIdle n s) : dIdle n (abortCells c s) := by
  have stopped := dIdle_restCells (f := abortCell) (fun _ hk => hk) (onPosns (getCtx s c).posns)
    (dIdle_stopCells (onPosns (getCtx s c).posns) h)
  unfold abortCells
  exact (dIdle_of_cells (modStep_cells ..)).mpr (dIdle_dropPartials ((dIdle_of_cells rfl).mpr stopped))

/-! ### Aborts (R295 to R297, R306) -/

/-- An abort changes the cells only as `abortCells` does. -/
theorem dIdle_resolveAbort {n : Nat} (i : Nat) (cause : BitVec 8) {s : State} (h : dIdle n s) :
    dIdle n (resolveAbort i cause s) := by
  unfold resolveAbort
  split
  case h_1 => exact h
  case h_2 k _ =>
    dsimp only
    split
    · exact h
    · have waited : dIdle n (forAll ((s.step.held.drop i).filter (fun j => j.ctx == k.ctx && decide (j.st = .cast))) recordWait s) :=
        (dIdle_of_cells (forAll_keeps_cells recordWait_cells _ _)).mpr h
      have stopped := dIdle_abortCells k.ctx ((dIdle_of_cells (modCtx_cells k.ctx (fun x => { x with
        fetchStopped := true, ae := x.ae + 1 }) _)).mpr waited)
      split
      · simpa only [dIdle, getCell, haltLost_cells, raise_cells, sendRecord_cells, restoreSync_cells, abortDescs_cells, modStep_cells,
          modCtx_cells, closeReductions_cells, dropStreams_cells] using stopped
      · simpa only [dIdle, getCell, startRound_cells, raise_cells, sendRecord_cells, restoreSync_cells, abortDescs_cells, modStep_cells,
          modCtx_cells, closeReductions_cells, dropStreams_cells] using stopped

theorem dIdle_resolveLater {n : Nat} (i : Nat) (cause : BitVec 8) {s : State} (h : dIdle n s) :
    dIdle n (resolveLater i cause s) := by
  unfold resolveLater
  split
  · exact h
  · split
    · exact h
    · exact dIdle_resolveAbort _ _ h

theorem dIdle_rootAbort {n : Nat} (i : Nat) (cause : BitVec 8) {s : State} (h : dIdle n s) : dIdle n (rootAbort i cause s) := by
  unfold rootAbort
  split
  · exact h
  · refine dIdle_resolveAbort _ _ ?_
    split
    · exact h
    · exact (dIdle_of_cells (floodOwn_cells ..)).mpr h

theorem dIdle_abortNamed {n : Nat} (i : Nat) (cause : BitVec 8) {s : State} (h : dIdle n s) : dIdle n (abortNamed i cause s) := by
  unfold abortNamed
  split
  · exact h
  · split
    · split
      · exact dIdle_rootAbort _ _ h
      · exact dIdle_resolveAbort _ _ h
    · split
      · exact dIdle_rootAbort _ _ h
      · split
        · exact h
        · exact dIdle_resolveLater _ _ ((dIdle_of_cells (modHeld_cells ..)).mpr h)
    · exact h

theorem dIdle_injectAbort {n : Nat} (i : Nat) (cause : BitVec 8) {s : State} (h : dIdle n s) : dIdle n (injectAbort i cause s) := by
  unfold injectAbort
  split
  · exact h
  · split
    · exact h
    · exact h
    · refine dIdle_abortNamed _ _ ?_
      split
      · exact h
      · exact (dIdle_of_cells (floodAbort_cells ..)).mpr h

theorem dIdle_chargeCause {n : Nat} (cause : BitVec 8) {s : State} (h : dIdle n s) : dIdle n (chargeCause cause s) := by
  unfold chargeCause
  split
  · exact dIdle_injectAbort _ _ h
  · exact h

/-- R66: whatever a storage error brings about, an idle drain unit stays idle. -/
theorem dIdle_storageError {n : Nat} (m : Nat) (e : ReadErr) {s : State} (h : dIdle n s) : dIdle n (storageError m e s) := by
  unfold storageError
  dsimp only
  split
  · refine dIdle_chargeCause _ ?_
    split
    · exact h
    · exact h
  · exact h

end Sys2Proof.Machine
end

section
/-! PROOFS. What waits at a cell and comes: SORG signals, drains that wait for their bank, partials of a gang row and units of a
stream (R41, R51, R66, R76 to R78, R123). -/

namespace Sys2Proof.Machine

open Sys2Proof.Laws

/-! ### Signals (R76) -/

/-- A signal adds 1 to a semaphore below 255. -/
theorem signalSem_below {s : State} {n sem : Nat} (h : SMap.get 0 (getCell s n).sems sem ≠ 255) :
    signalSem n sem s = putCell s n { getCell s n with
      sems := SMap.set 0 (getCell s n).sems sem (SMap.get 0 (getCell s n).sems sem + 1) } := by
  rw [signalSem, if_neg h, modCell_eq_putCell]
  simp only [bumpSem, SMap.upd, if_neg h]

/-! ### Drains that wait (R51, R78) -/

theorem drainBank_of_head {s : State} {n : Nat} {o : UnitOp} {rest : List UnitOp} (h : (getCell s n).unitD = o :: rest) :
    drainBank s n = bit o.word 36 := by
  simp [drainBank, h]

/-- A bank that is FULL already is not early. -/
theorem earlyReady_of_full {s : State} {n : Nat} (h : (bankOf (getCell s n) (drainBank s n)).st = .full) :
    earlyReady s n = false := by
  simp [earlyReady, h]

theorem checkCount_of_drain {o : UnitOp} (h : wOp o.word = 0x18) (s : State) (n : Nat) : checkCount s n o = 0 := by
  simp [checkCount, h]

/-- A DRAIN that waits at the head of its unit starts on its FULL bank. -/
theorem startD_drain_of_full {s : State} {n : Nat} {o : UnitOp} {rest : List UnitOp} (unit : (getCell s n).unitD = o :: rest)
    (waiting : o.started = false) (hop : wOp o.word = 0x18) (full : (bankOf (getCell s n) (bit o.word 36)).st = .full) :
    startD n s = runDrain n { o with started := true, left := 0 }
      (modCell n (fun k => { k with unitD := { o with started := true, left := 0 } :: rest }) s) := by
  simp [startD, unit, waiting, hop, full, checkCount_of_drain hop]
  rfl

/-! ### Units of a stream (R41, R77) -/

/-- Where the next unit that a SIN takes lands. -/
def sinAddress (n : Nat) (o : UnitOp) : Nat := spBase n + unitOff (o.a.toNat + 64 * (fld o.word 38 24 + 1 - o.left))

/-- The state once the SIN `o` has taken one unit, and its port holds no other. -/
def sinTaken (n : Nat) (o : UnitOp) (rest : List UnitOp) (unit : List Byte) (s : State) : State :=
  putCell { s with mem := SMap.writeRun 0 s.mem (sinAddress n o) unit } n { getCell s n with
    unitI := { o with started := true, left := o.left - 1 } :: rest
    fifoIn := SMap.set [] (getCell s n).fifoIn (opPort o) [] }

section Sin
variable {s : State} {n : Nat} {o : UnitOp} {rest : List UnitOp} {unit : List Byte} (head : (getCell s n).unitI = o :: rest)
  (wants : 0 < o.left)
include head wants

/-- The SIN at the head of its unit takes the only unit that waits on its port. -/
theorem startI_one_unit (fifo : SMap.get [] (getCell s n).fifoIn (opPort o) = [unit]) :
    startI n s = sinTaken n o rest unit s := by
  have one : min o.left 1 = 1 := Nat.min_eq_right wants
  simp only [startI, head, fifo, List.length_singleton, one]
  rfl

/-- A unit that comes to a port on which none waits goes to the SIN at the head of the unit (R77). -/
theorem portArrive_taken {sctx : BitVec 17} (port : (List.range 16).find? (fun p =>
      let q := SMap.get PortCfg.init (getCell s n).cfg.ports p
      q.en && !q.out && q.sctx == sctx) = some (opPort o))
    (empty : SMap.get [] (getCell s n).fifoIn (opPort o) = []) :
    portArrive n sctx unit s = some (sinTaken n o rest unit s) := by
  unfold portArrive
  dsimp only
  rw [port, Option.map_some, modCell_eq_putCell, startI_one_unit (unit := unit) (by rw [getCell_putCell]; exact head) wants
    (by rw [getCell_putCell]; simp [empty])]
  simp only [sinTaken, getCell_putCell, SMap.upd, SMap.set_set]
  exact congrArg some (putCell_putCell { s with mem := SMap.writeRun 0 s.mem (sinAddress n o) unit } n _ _)

end Sin

theorem getCell_putCell_ne {s : State} {n m : Nat} (h : m ≠ n) (k : Cell) : getCell (putCell s n k) m = getCell s m :=
  SMap.get_set_ne _ _ _ _ _ h

/-! ### The commands -/

section Commands
variable {s : State} (running : s.pwr.arithStopped = false) {c : CellId}
include running

theorem exec_sorgSignalArrive {sem : Nat} {rest : List (Nat × Nat)} (first : s.sorg = (cellNum c, sem) :: rest) :
    exec (.sorgSignalArrive c) s = .next (signalSem (cellNum c) sem { s with sorg := rest }) := by
  show execSorgSignalArrive c s = _
  simp [execSorgSignalArrive, running, first, takeSorg]

theorem exec_drainBankFullStart : exec (.drainBankFullStart c) s = .next (startD (cellNum c)
    (if earlyReady s (cellNum c) then fillBank (drainBank s (cellNum c)) (cellNum c) s else s)) := by
  show execDrainBankFullStart c s = _
  simp [execDrainBankFullStart, running]

/-- A partial leaves its bank EMPTY; without a DRAIN in the unit nothing waits on it (R78, R123). -/
theorem exec_knPartialLeft {b : Bool} (sends : partialBank s (cellNum c) = some b) (idle : (getCell s (cellNum c)).unitD = [])
    (err : ReadErr) : exec (.knPartialLeft ⟨c, err⟩) s =
      .next (storageError (cellNum c) err (modCell (cellNum c) (setBank b { st := .empty, kn := true }) s)) := by
  have keeps (k : Cell) (h : k.unitD = []) : (setBank b { st := .empty, kn := true } k).unitD = [] := by
    cases b <;> exact h
  have still : (getCell (storageError (cellNum c) err (modCell (cellNum c) (setBank b { st := .empty, kn := true }) s))
      (cellNum c)).unitD = [] := dIdle_storageError _ err (dIdle_modCell keeps idle)
  show execKnPartialLeft ⟨c, err⟩ s = _
  simp [execKnPartialLeft, running, sends, still]

theorem exec_streamUnitArrive (sctx : BitVec 17) (unit : List Byte) :
    exec (.streamUnitArrive c sctx unit) s = .next ((portArrive (cellNum c) sctx unit s).getD s) := by
  show execStreamUnitArrive c sctx unit s = _
  simp [execStreamUnitArrive, running]

end Commands

/-- Settles O17: each clause is the law of the command, with what waits there put in. -/
theorem cellEvents : Obligations.CellEvents := by
  intro s c running n k
  refine ⟨fun sem rest first below => ?sorg, fun o rest unit waiting hop full => ?full, fun o rest unit waiting hop early => ?early,
    fun b err sends idle => exec_knPartialLeft running sends idle err, fun sctx unit o rest p head wants port find empty => ?stream⟩
  case sorg =>
    rw [exec_sorgSignalArrive running first]
    exact congrArg _ (signalSem_below below)
  case full =>
    have bank : (bankOf k (drainBank s n)).st = .full := by rw [drainBank_of_head unit]; exact full
    rw [exec_drainBankFullStart running, earlyReady_of_full bank]
    exact congrArg _ (startD_drain_of_full unit waiting hop full)
  case early => rw [exec_drainBankFullStart running, if_pos early, drainBank_of_head unit]
  case stream =>
    subst port
    intro off
    rw [exec_streamUnitArrive running, portArrive_taken head wants find empty]
    refine ⟨_, rfl, rfl, ?_, ?_, rfl, fun m other => getCell_putCell_ne other _⟩
    · rw [Option.getD_some, sinTaken, getCell_putCell]
    · rw [Option.getD_some, sinTaken, getCell_putCell, SMap.get_set]

end Sys2Proof.Machine
end

section
/-! PROOFS. How a cell takes its next TILE by the epoch, and how an array kindles, expires and ramps (R57 to R60, R66, R68, R69,
R79, R86, R87). -/

namespace Sys2Proof.Machine

open Sys2Proof.Laws

/-! ### Bodies (R66, R68, R69, R86, R87) -/

/-- The state after a cell has taken its first TILE and runs a body. -/
def bodyTaken (s : State) (n : Nat) (rest : List TileWait) (r : Run) : State :=
  putCell s n { getCell s n with run := some r, tiles := rest }

section Start
variable {s : State} {n : Nat} {t : TileWait} {rest : List TileWait} (tiles : (getCell s n).tiles = t :: rest)
include tiles

/-- Taking the first TILE and setting a body running is one change of the cell. -/
theorem modCell_run_tiles (r : Run) :
    modCell n (fun c => { c with run := some r }) (modCell n (fun c => { c with tiles := c.tiles.drop 1 }) s) =
      bodyTaken s n rest r := by
  rw [modCell_eq_putCell n (fun c => { c with tiles := c.tiles.drop 1 }), modCell_putCell, tiles]
  rfl

/-- A PID outside the table stops the cell with NO_PROGRAM (R69; log entry 108). -/
theorem startBody_absent (absent : SMap.get none (getCell s n).cfg.table t.pid.toNat = none) (err : ReadErr) :
    startBody n t err s = seqFault n 9 0 (bodyTaken s n rest (newRun t { first := 0, len := 0 })) := by
  simp only [startBody, getCell_modCell_same, absent, modCell_run_tiles tiles]

variable {e : ProgEntry} (entry : SMap.get none (getCell s n).cfg.table t.pid.toNat = some e) {err : ReadErr}
include entry

/-- A first word that cannot be corrected stops the cell with PROG_ECC (R66). -/
theorem startBody_uncorrected (bad : err.uncorrected = true) :
    startBody n t err s = seqFault n 0xA (runSlot (newRun t e)) (bodyTaken s n rest (newRun t e)) := by
  simp only [startBody, getCell_modCell_same, entry, modCell_run_tiles tiles, bad, if_true]

/-- A first word that is read runs the body when it is the PROG of the entry, and stops the cell with NO_PROGRAM otherwise (R69). -/
theorem startBody_read (good : err.uncorrected = false) :
    startBody n t err s =
      if progMatches (runWord s n (newRun t e)) t e then
        bodyTaken (countCorrectedCell n err.corrected s) n rest (newRun t e)
      else seqFault n 9 (runSlot (newRun t e)) (bodyTaken (countCorrectedCell n err.corrected s) n rest (newRun t e)) := by
  simp only [startBody, getCell_modCell_same, entry, modCell_run_tiles tiles, good]
  rfl

end Start

section BodyStart
variable {s : State} {c : CellId} {t : TileWait} {rest : List TileWait} (running : s.pwr.arithStopped = false)
  (idle : (getCell s (cellNum c)).run = none) (tiles : (getCell s (cellNum c)).tiles = t :: rest) (err : ReadErr)
include running tiles

/-- R86, R87: a cell behind its TILE's limit drops the TILE. -/
theorem exec_epochStall (behind : 0 < epochDistance s (cellNum c) t.epoch) (near : epochDistance s (cellNum c) t.epoch < 32768) :
    exec (.epochStall c) s = .next (dropTile t (cellNum c) stEpochStall
      (raise 0x0103 (posUnit c.posn.val 0x22) { ctx := some t.ctx, posn := some c.posn.val }
        (advanceTo (t.since + usec (fld s.step.epochWait 23 0)) s))) := by
  show execEpochStall c s = _
  simp [execEpochStall, running, tiles, behind, near]

include idle

theorem exec_bodyStart_current (current : epochDistance s (cellNum c) t.epoch = 0) :
    exec (.bodyStart c err) s = .next (startBody (cellNum c) t err s) := by
  show execBodyStart c err s = _
  simp [execBodyStart, running, idle, tiles, current]

theorem exec_bodyStart_behind (behind : 0 < epochDistance s (cellNum c) t.epoch)
    (near : epochDistance s (cellNum c) t.epoch < 32768) : exec (.bodyStart c err) s = .next s := by
  show execBodyStart c err s = _
  simp [execBodyStart, running, idle, tiles, Nat.ne_of_gt behind, near]

theorem exec_bodyStart_ahead (ahead : 32768 ≤ epochDistance s (cellNum c) t.epoch) :
    exec (.bodyStart c err) s = .next (dropTile t (cellNum c) stEpochAhead
      (raise 0x0102 (posUnit c.posn.val 0x22) { ctx := some t.ctx, posn := some c.posn.val } s)) := by
  have away : epochDistance s (cellNum c) t.epoch ≠ 0 := by omega
  show execBodyStart c err s = _
  simp [execBodyStart, running, idle, tiles, away, Nat.not_lt.mpr ahead]

end BodyStart

/-! ### Kindling (R57 to R60, R62) -/

section Kindling
variable {s : State} {c : CellId} (running : s.pwr.arithStopped = false)
include running

theorem exec_kindleStart (origin : gangOrigin s (cellNum c) = cellNum c) (free : (getCell s (cellNum c)).unitM = [])
    (off : (getCell s (cellNum c)).kPhase = .off) (full : (getCell s (cellNum c)).kLevel = 8)
    (wanted : kindles s (getCell s (cellNum c)) = true) :
    exec (.kindleStart c) s = .next (modCell (cellNum c) (fun k => { k with kPhase := .kindling }) s) := by
  show execKindleStart c s = _
  simp [execKindleStart, running, origin, free, off, full, wanted]

/-- A gap that reaches GAP counts at full activity, and then the array ramps down in STEADY or goes cold (R59). -/
theorem exec_kindleGapExpiry (kindling : (getCell s (cellNum c)).kPhase = .kindling) :
    exec (.kindleGapExpiry c) s = .next
      (if ramped s then modCell (cellNum c) (fun k => { k with kPhase := .rampDown, kLevel := 7 })
          (countKindle (cellNum c) (fld s.pwr.kindle 19 0) 8 s)
        else modCell (cellNum c) (fun k => { k with kPhase := .off, kLevel := 0 })
          (countKindle (cellNum c) (fld s.pwr.kindle 19 0) 8 s)) := by
  have same : ramped (countKindle (cellNum c) (fld s.pwr.kindle 19 0) 8 s) = ramped s := rfl
  show execKindleGapExpiry c s = _
  cases h : ramped s <;> simp [execKindleGapExpiry, running, kindling, same, h]

theorem exec_kindleRampStep_down {l : Nat} (phase : (getCell s (cellNum c)).kPhase = .rampDown)
    (level : (getCell s (cellNum c)).kLevel = l + 1) :
    exec (.kindleRampStep c) s = .next (modCell (cellNum c) (fun k => { k with kLevel := l })
      (countKindle (cellNum c) (fld s.pwr.kindle 27 20) (l + 1) s)) := by
  show execKindleRampStep c s = _
  simp [execKindleRampStep, running, phase, level]

theorem exec_kindleRampStep_cold (phase : (getCell s (cellNum c)).kPhase = .rampDown)
    (level : (getCell s (cellNum c)).kLevel = 0) :
    exec (.kindleRampStep c) s = .next (modCell (cellNum c) (fun k => { k with kPhase := .off })
      (countKindle (cellNum c) (fld s.pwr.kindle 27 20) 0 s)) := by
  show execKindleRampStep c s = _
  simp [execKindleRampStep, running, phase, level]

theorem exec_kindleRampStep_up {l : Nat} (below : l < 8) (phase : (getCell s (cellNum c)).kPhase = .rampUp)
    (level : (getCell s (cellNum c)).kLevel = l) :
    exec (.kindleRampStep c) s = .next (startM (cellNum c) (modCell (cellNum c) (fun k => { k with kLevel := l + 1 })
      (countKindle (cellNum c) (fld s.pwr.kindle 27 20) (l + 1) s))) := by
  show execKindleRampStep c s = _
  simp [execKindleRampStep, running, phase, level, below]

end Kindling

/-- Settles O18: the body by the distance of its epoch and the first word of its entry, and each step of kindling by its law. -/
theorem bodiesStartAndArraysKindle : Obligations.BodiesStartAndArraysKindle := by
  refine ⟨?bodies, ?kindling⟩
  case bodies =>
    intro s c t rest n k running idle tiles d ev runs
    have current (err : ReadErr) (h : d = 0) := exec_bodyStart_current running idle tiles err h
    refine ⟨fun e err zero entry good => ⟨fun hits => ?runs, fun fails => ?noProgram⟩, fun e err zero entry bad => ?ecc,
      fun err zero absent => ?absent, fun behind near err => exec_bodyStart_behind running idle tiles err behind near,
      fun ahead err => exec_bodyStart_ahead running idle tiles err ahead, exec_epochStall running tiles⟩
    case runs => rw [current err zero, startBody_read tiles entry good, if_pos hits]; rfl
    case noProgram => rw [current err zero, startBody_read tiles entry good, if_neg (by simp [fails])]; rfl
    case ecc => rw [current err zero, startBody_uncorrected tiles entry bad]; rfl
    case absent => rw [current err zero, startBody_absent tiles absent]; rfl
  case kindling =>
    intro s c running n k gap hold put
    refine ⟨exec_kindleStart running, fun kindling opened => ?cold, fun kindling steady => ?ramp,
      fun l => exec_kindleRampStep_down running, exec_kindleRampStep_cold running, fun l => exec_kindleRampStep_up running⟩
    case cold => rw [exec_kindleGapExpiry running kindling, if_neg (by simp [opened])]
    case ramp => rw [exec_kindleGapExpiry running kindling, if_pos steady]

end Sys2Proof.Machine
end

section
/-! PROOFS. What a STEP fence leaves: the cells of its position, the epochs, the positions beside it, and the status it completes
with (R60, R62, R69, R78, R85, R404). -/

namespace Sys2Proof.Machine

/-! ### A change of every listed cell that a test picks -/

theorem getCell_forAll_modCell {f : Cell → Cell} (twice : ∀ k, f (f k) = f k) (l : List Nat) (s : State) (m : Nat) :
    getCell (forAll l (fun n => modCell n f) s) m = if m ∈ l then f (getCell s m) else getCell s m := by
  induction l generalizing s with
  | nil => simp [forAll]
  | cons n l ih =>
    have step : getCell (forAll (n :: l) (fun n => modCell n f) s) m =
        getCell (forAll l (fun n => modCell n f) (modCell n f s)) m := rfl
    rw [step, ih]
    by_cases here : m = n
    · subst here
      simp [twice]
    · simp [getCell_modCell_ne _ _ _ here, here]

/-- A change that keeps a cell at its reset value, and that done twice is done once, reaches every cell that the test picks, listed
or not. -/
theorem getCell_mapCells {f : Cell → Cell} (twice : ∀ k, f (f k) = f k) (atReset : f Cell.init = Cell.init) (p : Nat → Bool)
    (s : State) (m : Nat) : getCell (mapCells p f s) m = if p m then f (getCell s m) else getCell s m := by
  have listed := getCell_forAll_modCell twice ((s.cells.map Prod.fst).filter p) s m
  rw [mapCells, listed]
  by_cases hm : m ∈ s.cells.map Prod.fst
  · simp [hm]
  · have absent : getCell s m = Cell.init := SMap.get_absent _ _ _ fun kv hkv e => hm (e ▸ List.mem_map_of_mem hkv)
    simp [hm, absent, atReset]

theorem getCell_restCells {f : Cell → Cell} (twice : ∀ k, f (f k) = f k) (atReset : f Cell.init = Cell.init) (p : Nat → Bool)
    (s : State) (m : Nat) : getCell (restCells p f s) m = if p m then f (getCell s m) else getCell s m := by
  have cooled : getCell (forAll (listedCells s p) countCooling s) m = getCell s m := by
    simp only [getCell, forAll_keeps_cells countCooling_cells]
  rw [restCells, getCell_mapCells twice atReset, cooled]

theorem getPos_mapCells (p : Nat → Bool) (f : Cell → Cell) (s : State) (m : Nat) : getPos (mapCells p f s) m = getPos s m :=
  forAll_keeps (fun t => getPos t m) (fun n _ t => getPos_modCell m n f t) s

/-! ### What the kindling that a fence ends leaves in the positions (R62) -/

/-- A position but for its count of kindled cycles. -/
def posUnkindled (s : State) (m : Nat) : Pos := { getPos s m with kindleCnt := 0 }

theorem posUnkindled_countKindle (n cycles level : Nat) (s : State) (m : Nat) :
    posUnkindled (countKindle n cycles level s) m = posUnkindled s m := by
  by_cases here : m = cellPosn n
  · subst here
    simp [posUnkindled, countKindle]
  · simp [posUnkindled, countKindle, getPos_modPos_ne _ _ _ here]

theorem getPos_countKindle_ne {n m : Nat} (h : m ≠ cellPosn n) (cycles level : Nat) (s : State) :
    getPos (countKindle n cycles level s) m = getPos s m :=
  getPos_modPos_ne _ _ _ h _

/-- What a cell's kindling adds as it ends is no more than a count of its own position. -/
theorem countCooling_eq (n : Nat) (s : State) : countCooling n s = s ∨
    ∃ cycles level free, countCooling n s = countKindle n cycles level { s with free := free } := by
  unfold countCooling
  dsimp only
  split
  · exact Or.inl rfl
  · exact Or.inr ⟨_, _, _, rfl⟩
  · exact Or.inr ⟨_, _, _, rfl⟩
  · exact Or.inr ⟨_, _, _, rfl⟩

theorem posUnkindled_countCooling (n : Nat) (s : State) (m : Nat) : posUnkindled (countCooling n s) m = posUnkindled s m := by
  obtain h | ⟨cycles, level, free, h⟩ := countCooling_eq n s
  · rw [h]
  · rw [h, posUnkindled_countKindle]
    rfl

theorem getPos_countCooling_ne {n m : Nat} (h : m ≠ cellPosn n) (s : State) : getPos (countCooling n s) m = getPos s m := by
  obtain e | ⟨cycles, level, free, e⟩ := countCooling_eq n s
  · rw [e]
  · rw [e, getPos_countKindle_ne h]
    rfl

theorem posUnkindled_restCells (p : Nat → Bool) (f : Cell → Cell) (s : State) (m : Nat) :
    posUnkindled (restCells p f s) m = posUnkindled s m := by
  rw [restCells, posUnkindled, getPos_mapCells]
  exact forAll_keeps (fun t => posUnkindled t m) (fun n _ t => posUnkindled_countCooling n t m) s

/-- Cells that come to rest on other positions leave a position as it was. -/
theorem getPos_restCells_of_none {p : Nat → Bool} {m : Nat} (h : ∀ k, p k = true → m ≠ cellPosn k) (f : Cell → Cell) (s : State) :
    getPos (restCells p f s) m = getPos s m := by
  rw [restCells, getPos_mapCells]
  refine forAll_keeps (fun t => getPos t m) (fun n hn t => getPos_countCooling_ne (h n ?_) t) s
  exact (List.mem_filter.mp hn).2

theorem activeEpoch_restCells (p : Nat → Bool) (f : Cell → Cell) (s : State) (m : Nat) :
    (getPos (restCells p f s) m).activeEpoch = (getPos s m).activeEpoch :=
  (congrArg Pos.activeEpoch (posUnkindled_restCells p f s m) :)

theorem shadowEpoch_restCells (p : Nat → Bool) (f : Cell → Cell) (s : State) (m : Nat) :
    (getPos (restCells p f s) m).shadowEpoch = (getPos s m).shadowEpoch :=
  (congrArg Pos.shadowEpoch (posUnkindled_restCells p f s m) :)

/-! ### A fence on one position (R85) -/

theorem getCell_restCells_fence (p : Nat → Bool) (s : State) (m : Nat) :
    getCell (restCells p fenceCell s) m = if p m then restCell (getCell s m) else getCell s m :=
  getCell_restCells (f := fenceCell) (fun _ => rfl) rfl p s m

theorem getCell_restCells_apply (p : Nat → Bool) (s : State) (m : Nat) :
    getCell (restCells p applyCell s) m = if p m then applyCell (getCell s m) else getCell s m :=
  getCell_restCells (f := applyCell) (fun _ => rfl) rfl p s m

/-- The position of a fence without a shadow: its cells come to rest. -/
theorem fencePosn_of_no_shadow {s : State} {n : Nat} (h : (getPos s n).shadowEpoch = none) :
    fencePosn n s = (none, restCells (fun k => decide (cellPosn k = n)) fenceCell s) := by
  simp [fencePosn, h]

/-- A shadow whose gangs agree becomes the active configuration. -/
theorem fencePosn_of_shadow {s : State} {n : Nat} {e : BitVec 16} (h : (getPos s n).shadowEpoch = some e)
    (agree : gangClash s n = none) : fencePosn n s = (none, restCells (fun k => decide (cellPosn k = n)) applyCell
      (modPos n (fun p => { p with activeEpoch := e, shadowEpoch := none }) s)) := by
  simp [fencePosn, h, agree]

/-- A shadow whose gangs clash is discarded. -/
theorem fencePosn_of_clash {s : State} {n k : Nat} {e : BitVec 16} (h : (getPos s n).shadowEpoch = some e)
    (clash : gangClash s n = some k) : fencePosn n s = (some k, restCells (fun k => decide (cellPosn k = n)) fenceCell
      (modPos n (fun p => { p with shadowEpoch := none }) s)) := by
  simp [fencePosn, h, clash]

/-! ### The status of a fence (R85, R404) -/

theorem applyModes_refused {c : Ctx} {s : State} (staged : SMap.get 0 s.pwr.staged c.toNat ≠ 0)
    (refused : modeRefused s (SMap.get 0 s.pwr.staged c.toNat) = true) :
    (applyModes c s).1 = some (stModeUnsupported, (SMap.get 0 s.pwr.staged c.toNat).toNat) := by
  unfold applyModes
  dsimp only
  rw [if_neg staged, if_pos refused]

theorem applyModes_not_refused {c : Ctx} {s : State}
    (fits : SMap.get 0 s.pwr.staged c.toNat = 0 ∨ modeRefused s (SMap.get 0 s.pwr.staged c.toNat) = false) :
    (applyModes c s).1 = none := by
  unfold applyModes
  dsimp only
  split
  · rfl
  · rename_i staged
    rw [if_neg (Bool.eq_false_iff.mp (fits.resolve_left staged))]

/-- Modes that are staged and not refused come into force. -/
theorem applyModes_modes {c : Ctx} {s : State} (staged : SMap.get 0 s.pwr.staged c.toNat ≠ 0)
    (fits : modeRefused s (SMap.get 0 s.pwr.staged c.toNat) = false) :
    (applyModes c s).2.pwr.modes = modesAfter s.pwr.modes (SMap.get 0 s.pwr.staged c.toNat) := by
  unfold applyModes
  dsimp only
  rw [if_neg staged, if_neg (Bool.eq_false_iff.mp fits)]
  rfl

/-- A STEP fence that has drained completes with what its stages answer. -/
theorem exec_stepFence {s : State} {c : Ctx} {d : Desc} (starting : startingOf s c 0x05 = some d) (step : dOpf0 d.words = true)
    (drained : (getCtx s c).started = []) (idle : cellsIdle s c = true) :
    exec (.stepFence c) s = .next (finishStarting c d (stepFence c s).1.1 (stepFence c s).1.2 (stepFence c s).2) := by
  have complete : allComplete s c = true := by simp [allComplete, drained]
  show execStepFence c s = _
  simp [execStepFence, starting, step, complete, idle]

/-- Settles O27: on one position the cells and epochs by the three outcomes of its shadow; the status by the first refusal. -/
theorem stepFences : Obligations.StepFences := by
  refine ⟨fun s n => ⟨fun e shadow agree => ?applied, fun noShadow => ?rested, fun e k shadow clash => ?discarded⟩,
    fun s c d starting step drained idle => ?status⟩
  case applied =>
    rw [fencePosn_of_shadow shadow agree]
    refine ⟨rfl, fun m here => ?_, fun m away => ?_, ?_, ?_⟩
    · rw [getCell_restCells_apply, if_pos (decide_eq_true here)]
      rfl
    · rw [getCell_restCells_apply, if_neg (by simpa using away)]
      rfl
    · rw [activeEpoch_restCells, getPos_modPos_same]
    · rw [shadowEpoch_restCells, getPos_modPos_same]
  case rested =>
    rw [fencePosn_of_no_shadow noShadow]
    refine ⟨fun m here => ?_, fun m away => ?_, ?_, fun m away => ?_⟩
    · rw [getCell_restCells_fence, if_pos (decide_eq_true here)]
      rfl
    · rw [getCell_restCells_fence, if_neg (by simpa using away)]
    · exact congrArg (fun p : Pos => { p with kindleCnt := (getPos s n).kindleCnt }) (posUnkindled_restCells _ fenceCell s n)
    · exact getPos_restCells_of_none (fun k hk => (of_decide_eq_true hk).symm ▸ away) fenceCell s
  case discarded =>
    rw [fencePosn_of_clash shadow clash]
    refine ⟨rfl, ?_, ?_⟩
    · rw [shadowEpoch_restCells, getPos_modPos_same]
    · rw [activeEpoch_restCells, getPos_modPos_same]
  case status =>
    intro staged modes posns
    rw [exec_stepFence starting step drained idle]
    refine ⟨fun waits refused => ?_, fun k fits clash => ?_, fun fits agreed => ?_, applyModes_modes⟩
    · simp only [stepFence, applyModes_refused waits refused]
      rfl
    · have discarded : (fencePosns (maskPosns (getCtx s c).posns) (applyModes c s).2).1 = some k := clash
      simp only [stepFence, applyModes_not_refused fits, discarded]
      rfl
    · have discarded : (fencePosns (maskPosns (getCtx s c).posns) (applyModes c s).2).1 = none := agreed
      simp only [stepFence, applyModes_not_refused fits, discarded]
      rfl

end Sys2Proof.Machine
end

section
/-! PROOFS. Firmware commands: what a message gets while it waits and while it does not, the presence gate, the commands that
only read, the long ones, and how a long one ends (R374 to R379, R384, R388 to R390, R431, R432). -/

namespace Sys2Proof.Machine

/-! ### Messages, the presence gate and the locks (R379, R388, R389) -/

theorem onCommand_of_no_message {s : State} {ch : Fin 64} (h : fwMsg s ch.val = none) (cmd : Nat) (f : FwMsg → State → State) :
    onCommand ch cmd f s = s := by
  simp [onCommand, h]

theorem onCommand_of_message {s : State} {ch : Fin 64} {m : FwMsg} (h : fwMsg s ch.val = some m) {cmd : Nat} (hcmd : m.cmd = cmd)
    (f : FwMsg → State → State) : onCommand ch cmd f s = f m s := by
  simp [onCommand, h, hcmd]

theorem underPresence_absent {s : State} (h : s.mgmt.presence = false) (ch : Nat) (m : FwMsg) (f : State → State) :
    underPresence ch m f s = fwReply ch m fwNoPresence [] s := by
  simp [underPresence, h]

theorem underPresence_present {s : State} (h : s.mgmt.presence = true) (ch : Nat) (m : FwMsg) (f : State → State) :
    underPresence ch m f s = f s :=
  if_pos h

theorem startLong_busy {s : State} {lock : Nat} (h : lockHeld s lock = true) (ch : Nat) (m : FwMsg) (l : LongCommand) :
    startLong ch m lock l s = fwReply ch m fwBusy [] s :=
  if_pos h

/-- A long command that finds its lock free takes it, joins the list and is accepted. -/
theorem startLong_accepted {s : State} {lock : Nat} (h : lockHeld s lock = false) (ch : Nat) (m : FwMsg) (l : LongCommand) :
    startLong ch m lock l s = fwReply ch m fwAccepted [] (modMgmt (fun g => { g with
      locks := SMap.set none g.locks lock (some m.core), long := g.long ++ [l] }) s) := by
  simp only [startLong, h]
  rfl

/-- Where no message waits, no command of firmware's table changes anything (R388). -/
theorem firmwareCommands_of_no_message {s : State} {ch : Fin 64} (h : fwMsg s ch.val = none) (target : Fin 64)
    (t : ScrubTarget) (r : Repair) (ok : Bool) (v : BitVec 32) :
    ∀ c ∈ [Instr.ping ch, .info ch, .attest ch, .idChain ch, .readCapture ch, .scrub ch t, .installTableWrite ch,
      .fuseRepair ch r ok, .rotateId ch, .debugUnlock ch, .mbxRebind ch target v, .sealClear ch],
      exec c s = .next s := by
  have idle : ∀ (cmd : Nat) (f : FwMsg → State → State),
      (Host.Outcome.next (onCommand ch cmd f s) : Out) = .next s :=
    fun cmd f => congrArg _ (onCommand_of_no_message h cmd f)
  simp only [List.forall_mem_cons]
  exact ⟨idle _ _, idle _ _, idle _ _, idle _ _, idle _ _, idle _ _, idle _ _, idle _ _, idle _ _, idle _ _, idle _ _, idle _ _,
    List.forall_mem_nil _⟩

/-! ### Commands whose message waits -/

section Waiting
variable {s : State} {ch : Fin 64} {m : FwMsg} (waits : fwMsg s ch.val = some m)
include waits

theorem exec_ping (h : m.cmd = 0x0001) : exec (.ping ch) s = .next (fwReply ch.val m fwOk [] s) :=
  congrArg Host.Outcome.next (onCommand_of_message waits h _)

theorem exec_info (h : m.cmd = 0x0002) : exec (.info ch) s = .next (fwReply ch.val m fwOk (infoWords s) s) :=
  congrArg Host.Outcome.next (onCommand_of_message waits h _)

theorem exec_attest (h : m.cmd = 0x0010) : exec (.attest ch) s = .next (fwData ch.val m (report s (nonce m)) s) :=
  congrArg Host.Outcome.next (onCommand_of_message waits h _)

theorem exec_idChain (h : m.cmd = 0x0011) :
    exec (.idChain ch) s = .next (fwData ch.val m (Config.certificate s.fuses.serial ++ s.mgmt.links.flatten) s) :=
  congrArg Host.Outcome.next (onCommand_of_message waits h _)

/-- READ_CAPTURE of a position that is down (R388; log entry 60). -/
theorem exec_readCapture_down (h : m.cmd = 0x0020) (posn : (msgWord m 4).toNat ≤ 7)
    (fits : fitsCompute s.fuses.part (msgWord m 4).toNat = true) (down : posnDown s (msgWord m 4).toNat = true) :
    exec (.readCapture ch) s = .next (fwReply ch.val m mbxDomainReset [] s) := by
  refine congrArg Host.Outcome.next ((onCommand_of_message waits h _).trans ?_)
  simp [Nat.not_lt.mpr posn, fits, down]

theorem exec_readCapture_up (h : m.cmd = 0x0020) (posn : (msgWord m 4).toNat ≤ 7)
    (fits : fitsCompute s.fuses.part (msgWord m 4).toNat = true) (up : posnDown s (msgWord m 4).toNat = false) :
    exec (.readCapture ch) s = .next (fwData ch.val m (captureRecord s (msgWord m 4).toNat) s) := by
  refine congrArg Host.Outcome.next ((onCommand_of_message waits h _).trans ?_)
  simp [Nat.not_lt.mpr posn, fits, up]

theorem exec_scrub_notPermitted (h : m.cmd = 0x0021) (notPf0 : m.sender ≠ 0) (notTray : m.sender ≠ 0x50) (t : ScrubTarget) :
    exec (.scrub ch t) s = .next (fwReply ch.val m fwNotPermitted [] s) :=
  congrArg Host.Outcome.next ((onCommand_of_message waits h _).trans (if_pos ⟨notPf0, notTray⟩))

theorem exec_scrub_badArgument (h : m.cmd = 0x0021) (sender : m.sender = 0 ∨ m.sender = 0x50) {t : ScrubTarget}
    (bad : scrubOk s t = false) : exec (.scrub ch t) s = .next (fwReply ch.val m fwBadArgument [] s) := by
  have permitted : ¬(m.sender ≠ 0 ∧ m.sender ≠ 0x50) := by omega
  refine congrArg Host.Outcome.next ((onCommand_of_message waits h _).trans ?_)
  simp only [if_neg permitted, bad]
  rfl

/-- A SCRUB of positions alone waits on the scrub list as a long command (R390). -/
theorem exec_scrub_accepted (h : m.cmd = 0x0021) (sender : m.sender = 0 ∨ m.sender = 0x50) {t : ScrubTarget}
    (good : scrubOk s t = true) (noRange : t.hi.toNat ≤ t.lo.toNat) :
    exec (.scrub ch t) s = .next (fwReply ch.val m fwAccepted [] { s with
      hif := { s.hif with scrubs := s.hif.scrubs ++ [{ ctx := none, ticket := m.ticket, windows := [], posns := t.posns }] }
      mgmt := { s.mgmt with long := s.mgmt.long ++
        [{ core := m.core, ticket := m.ticket, cmd := 0x0021, table := [], repair := none, ok := true }] } }) := by
  have permitted : ¬(m.sender ≠ 0 ∧ m.sender ≠ 0x50) := by omega
  refine congrArg Host.Outcome.next ((onCommand_of_message waits h _).trans ?_)
  simp only [if_neg permitted, good, if_neg (Nat.not_lt.mpr noRange)]
  rfl

/-- Without presence a gated command is refused with NO_PRESENCE (R379). -/
theorem onCommand_withoutPresence (absent : s.mgmt.presence = false) {cmd : Nat} (h : m.cmd = cmd) (f : FwMsg → State → State) :
    (Host.Outcome.next (onCommand ch cmd (fun m => underPresence ch.val m (f m)) s) : Out) =
      .next (fwReply ch.val m fwNoPresence [] s) :=
  congrArg _ ((onCommand_of_message waits h _).trans (underPresence_absent absent ..))

/-! ### Commands under presence (R375, R376, R378, R379, R386, R432) -/

section Present
variable (present : s.mgmt.presence = true)
include present

/-- Under presence a gated command runs its handler on the state it finds. -/
theorem onCommand_underPresence {cmd : Nat} (h : m.cmd = cmd) (f : FwMsg → State → State) :
    (Host.Outcome.next (onCommand ch cmd (fun m => underPresence ch.val m (f m)) s) : Out) = .next (f m s) :=
  congrArg _ ((onCommand_of_message waits h _).trans (underPresence_present present ..))

theorem exec_installTableWrite_checkFailed (h : m.cmd = 0x0030) (bad : tableOk s.fuses.serial (sentTable s m) = false) :
    exec (.installTableWrite ch) s = .next (fwReply ch.val m fwCheckFailed [] s) := by
  refine (onCommand_underPresence waits present h _).trans (congrArg _ ?_)
  simp [bad]

theorem exec_installTableWrite_starts (h : m.cmd = 0x0030) (good : tableOk s.fuses.serial (sentTable s m) = true) :
    exec (.installTableWrite ch) s = .next (startLong ch.val m 0
      { core := m.core, ticket := m.ticket, cmd := 0x0030, table := sentTable s m, repair := none, ok := true } s) := by
  refine (onCommand_underPresence waits present h _).trans (congrArg _ ?_)
  simp [good]

theorem exec_fuseRepair_starts (h : m.cmd = 0x0031) {r : Repair} (names : repairNames s r = true)
    (room : SMap.get 0 s.fuses.wordsUsed (repairHome r) < repairWords (repairHome r)) (fits : repairFits s r = true) (ok : Bool) :
    exec (.fuseRepair ch r ok) s = .next (startLong ch.val m 1
      { core := m.core, ticket := m.ticket, cmd := 0x0031, table := [], repair := some r, ok := ok } s) := by
  refine (onCommand_underPresence waits present h _).trans (congrArg _ ?_)
  simp [names, Nat.not_le.mpr room, fits]

/-- A repair beyond the bypasses of a cell loses its position (R64; log entry 138). -/
theorem exec_fuseRepair_beyondBypasses (h : m.cmd = 0x0031) {r : Repair} (names : repairNames s r = true)
    (beyond : beyondBypasses s r = true) (unfit : repairFits s r = false) {q : Nat} (posn : repairPosn r = some q)
    (enabled : (getPos s q).st = .enabled) (ok : Bool) :
    exec (.fuseRepair ch r ok) s = .next (losePosn q (fwReply ch.val m fwNotPermitted [] s)) := by
  refine (onCommand_underPresence waits present h _).trans (congrArg _ ?_)
  simp [names, unfit, loseBeyond, beyond, posn, enabled]

theorem exec_rotateId_exhausted (h : m.cmd = 0x0032) (last : s.fuses.idGen = 15) :
    exec (.rotateId ch) s = .next (fwReply ch.val m fwNotPermitted [] s) :=
  (onCommand_underPresence waits present h _).trans (congrArg _ (if_pos last))

theorem exec_rotateId (h : m.cmd = 0x0032) (more : s.fuses.idGen ≠ 15) :
    exec (.rotateId ch) s = .next (fwReply ch.val m fwOk [] (raise 0x0A06 (hubUnit (8 + m.core)) {}
      { s with mgmt := { s.mgmt with links := s.mgmt.links ++ [linkRecord s] }
               fuses := { s.fuses with idGen := s.fuses.idGen + 1 } })) :=
  (onCommand_underPresence waits present h _).trans (congrArg _ (if_neg more))

theorem exec_debugUnlock (h : m.cmd = 0x0033) :
    exec (.debugUnlock ch) s = .next (fwReply ch.val m fwOk []
      (raise 0x0A07 (hubUnit (8 + m.core)) {} (modMgmt (fun g => { g with debug := true }) s))) :=
  onCommand_underPresence waits present h _

theorem exec_mbxRebind (h : m.cmd = 0x0034) (target : Fin 64) (v : BitVec 32) :
    exec (.mbxRebind ch target v) s = .next (fwReply ch.val m fwOk [] (rebind target.val v s)) :=
  onCommand_underPresence waits present h _

theorem exec_sealClear (h : m.cmd = 0x0035) :
    exec (.sealClear ch) s = .next (fwReply ch.val m fwOk [] (modMgmt (fun g => { g with sealOpened := false }) s)) :=
  onCommand_underPresence waits present h _

end Present
end Waiting

/-! ### The end of a long command (R379, R384) -/

/-- The oldest long command of a ticket leaves the list and ends. -/
theorem exec_firmwareCommandEnd {s : State} {ticket : BitVec 8} {i : Nat} {l : LongCommand}
    (oldest : placeOf (fun (l : LongCommand) => l.ticket == ticket && decide (l.cmd ≠ 0x0021)) s.mgmt.long = some i)
    (there : s.mgmt.long[i]? = some l) :
    exec (.firmwareCommandEnd ticket) s = .next (endLong l (modMgmt (fun m => { m with long := m.long.eraseIdx i }) s)) := by
  show execFirmwareCommandEnd ticket s = _
  simp only [execFirmwareCommandEnd, oldest, there]

/-- The second check of presence at the end of an INSTALL_TABLE_WRITE. -/
theorem endLong_table {l : LongCommand} (cmd : l.cmd = 0x0030) (noRepair : l.repair = none) (s : State) :
    endLong l s = if s.mgmt.presence then
      logEnd l.ticket fwOk (raise 0x0A04 (hubUnit (8 + l.core)) { arg0 := l.ticket.toNat }
        (modMgmt (fun m => { m with tableFlash := some l.table }) (dropLock 0 s)))
    else logEnd l.ticket fwNoPresence (dropLock 0 s) := by
  have same : (dropLock 0 s).mgmt.presence = s.mgmt.presence := rfl
  simp only [endLong, cmd, noRepair, if_true, same]
  cases s.mgmt.presence <;> rfl

/-- Settles O54: each clause is the law of the command that it speaks of. -/
theorem firmwareCommands : Obligations.FirmwareCommands := by
  intro s ch target t r ok v m l ticket i q n say all p long table fuse rest
  refine ⟨fun idle => firmwareCommands_of_no_message idle target t r ok v, fun waits => ?waiting,
    fun oldest there cmd noRepair => ?ends⟩
  case waiting =>
    refine ⟨exec_ping waits, exec_info waits, exec_attest waits, exec_idChain waits,
      fun h posn fits => ⟨exec_readCapture_down waits h posn fits, exec_readCapture_up waits h posn fits⟩,
      fun h pf0 tray => exec_scrub_notPermitted waits h pf0 tray t,
      fun h sender bad => exec_scrub_badArgument waits h sender bad,
      fun h sender good noRange => exec_scrub_accepted waits h sender good noRange,
      fun absent => ?refuse, fun present => ?act⟩
    case refuse =>
      have refused {cmd : Nat} (h : m.cmd = cmd) := onCommand_withoutPresence waits absent h
      exact ⟨fun h => refused h _, fun h => refused h _, fun h => refused h _, fun h => refused h _, fun h => refused h _,
        fun h => refused h _⟩
    case act =>
      refine ⟨exec_installTableWrite_checkFailed waits present,
        fun h good => ⟨fun held => ?tableBusy, fun free => ?tableAccepted⟩,
        fun h names room fits free => ?repairAccepted,
        fun h names beyond unfit posn enabled =>
          exec_fuseRepair_beyondBypasses waits present h names beyond unfit posn enabled ok,
        exec_rotateId_exhausted waits present, exec_rotateId waits present, exec_debugUnlock waits present,
        fun h => exec_mbxRebind waits present h target v, exec_sealClear waits present⟩
      case tableBusy => rw [exec_installTableWrite_starts waits present h good, startLong_busy held]
      case tableAccepted => rw [exec_installTableWrite_starts waits present h good, startLong_accepted free]
      case repairAccepted => rw [exec_fuseRepair_starts waits present h names room fits, startLong_accepted free]
  case ends =>
    rw [exec_firmwareCommandEnd oldest there, endLong_table cmd noRepair]
    exact ⟨fun absent => congrArg _ (if_neg (by simp [absent])), fun present => congrArg _ (if_pos present)⟩

end Sys2Proof.Machine
end

section
/-! PROOFS. The sequencer instructions that end at issue and END, and how an instruction joins the queue of its unit (R68, R72, R74
to R76). -/

namespace Sys2Proof.Machine

open Sys2Proof.Laws

/-! ### The end of an instruction at issue (R72, R74, R76) -/

/-- A change of the cell that follows the wait of WEN, whatever it does with the semaphores. -/
theorem modCell_after_takeWait (s : State) (c : CellId) (w : BitVec 64) (f : Cell → Cell) :
    modCell (cellNum c) f (takeWait (cellNum c) w s) =
      putCell s (cellNum c) (f { getCell s (cellNum c) with sems := semsTaken s c w }) := by
  unfold takeWait semsTaken
  split
  · exact modCell_putCell (cellNum c) f s _
  · rfl

/-- A body that stays inside its length moves on, and its instruction signals. -/
theorem signalDone_advancePc {s : State} {c : CellId} {w : BitVec 64} {r : Run} {m : SMap (BitVec 8)} {pc : Nat}
    (inside : pc < r.len) (fits : signalFits s c w m) :
    signalDone (cellNum c) w (advancePc (cellNum c) pc
      (putCell s (cellNum c) { getCell s (cellNum c) with run := some r, sems := m })) =
      seqDone s c w (some { r with pc := pc }) m := by
  rw [advancePc_putCell s c r pc m inside, signalDone_putCell s c w _ m fits]

/-- A WAITS may issue when the semaphores hold its COUNT once the wait of WEN is taken (log entry 15). -/
theorem waitsReady_of_held {s : State} {c : CellId} {w : BitVec 64} (wen : waitReady s (cellNum c) w = true)
    (held : fld w 7 0 ≤ (SMap.get 0 (semsTaken s c w) (fld w 48 46)).toNat) : waitsReady (cellNum c) s w = true := by
  refine decide_eq_true (Nat.le_trans held (Nat.le_of_eq ?_))
  unfold semsTaken
  cases hasWait : bit w 57 with
  | false => rfl
  | true =>
    by_cases same : fld w 56 54 = fld w 48 46
    · have up : SMap.get 0 (getCell s (cellNum c)).sems (fld w 48 46) ≠ 0 := by simpa [waitReady, hasWait, same] using wen
      simp only [same, if_true, SMap.get_upd, decide_true, Bool.and_true]
      bv_omega
    · simp [same, SMap.get_upd_ne _ _ _ _ _ (Ne.symm same)]

section Issues
variable {s : State} {c : CellId} {r : Run} {w : BitVec 64} (issue : issues s c r w) {e : ReadErr} (good : e.uncorrected = false)
include issue good

/-- LOOP opens a loop around what follows it (R72, R75). -/
theorem exec_loop (hop : wOp w = 0x06) (inside : r.pc + 1 < r.len) (room : r.loops.length < 4)
    (fits : signalFits s c w (semsTaken s c w)) :
    exec (.loop ⟨c, e⟩) s = .next (seqDone (fetched s c e) c w
      (some { r with pc := r.pc + 1, loops := (r.pc + 1, fld w 15 0) :: r.loops }) (semsTaken s c w)) := by
  refine congrArg Host.Outcome.next ((seqRow_runs c r w s e issue good _ _ _ (by simp [isOp, hop]) rfl).trans ?_)
  rw [if_neg (by omega), modCell_after_takeWait]
  exact signalDone_advancePc (r := { r with loops := (r.pc + 1, fld w 15 0) :: r.loops }) inside fits

/-- ENDL of the last pass through a loop leaves the loop. -/
theorem exec_endl_last (hop : wOp w = 0x07) (inside : r.pc + 1 < r.len) {start : Nat} {rest : List (Nat × Nat)}
    (loops : r.loops = (start, 0) :: rest) (fits : signalFits s c w (semsTaken s c w)) :
    exec (.endl ⟨c, e⟩) s = .next (seqDone (fetched s c e) c w
      (some { r with pc := r.pc + 1, loops := rest }) (semsTaken s c w)) := by
  refine congrArg Host.Outcome.next ((seqRow_runs c r w s e issue good _ _ _ (by simp [isOp, hop]) rfl).trans ?_)
  simp only [loops, if_true, modCell_after_takeWait]
  exact signalDone_advancePc (r := { r with loops := rest }) inside fits

/-- ENDL of a loop with passes left goes back to the loop's first instruction. -/
theorem exec_endl_again (hop : wOp w = 0x07) {start k : Nat} {rest : List (Nat × Nat)}
    (loops : r.loops = (start, k + 1) :: rest) (inside : start < r.len) (fits : signalFits s c w (semsTaken s c w)) :
    exec (.endl ⟨c, e⟩) s = .next (seqDone (fetched s c e) c w
      (some { r with pc := start, loops := (start, k) :: rest }) (semsTaken s c w)) := by
  refine congrArg Host.Outcome.next ((seqRow_runs c r w s e issue good _ _ _ (by simp [isOp, hop]) rfl).trans ?_)
  simp only [loops, Nat.add_one_ne_zero, if_false, Nat.add_sub_cancel, modCell_after_takeWait]
  exact signalDone_advancePc (r := { r with loops := (start, k) :: rest }) inside fits

/-- WAITS takes its COUNT after the wait of WEN (R72, R74). -/
theorem exec_waits (hop : wOp w = 0x08) (inside : r.pc + 1 < r.len) (counts : 0 < fld w 7 0)
    (held : fld w 7 0 ≤ (SMap.get 0 (semsTaken s c w) (fld w 48 46)).toNat)
    (fits : signalFits s c w (SMap.upd 0 (semsTaken s c w) (fld w 48 46) (fun v => v - BitVec.ofNat 8 (fld w 7 0)))) :
    exec (.waits ⟨c, e⟩) s = .next (seqDone (fetched s c e) c w (some { r with pc := r.pc + 1 })
      (SMap.upd 0 (semsTaken s c w) (fld w 48 46) (fun v => v - BitVec.ofNat 8 (fld w 7 0)))) := by
  have ⟨run, _, _, wen, _⟩ := issue
  refine congrArg Host.Outcome.next ((seqRow_runs c r w s e issue good _ _ _ (by simp [isOp, hop])
    (waitsReady_of_held wen held)).trans ?_)
  rw [if_neg (by omega), modCell_after_takeWait]
  have body : (getCell (fetched s c e) (cellNum c)).run = some r := run
  rw [body]
  exact signalDone_advancePc inside fits

/-- END leaves its cell without a body and counts the cell as done for its TILE (R68, R72). -/
theorem exec_endBody (hop : wOp w = 0x02) (idle : unitsIdle (getCell s (cellNum c)) = true)
    (fits : signalFits s c w (semsTaken s c w)) :
    exec (.endBody ⟨c, e⟩) s = .next (tileCellDone r (cellNum c) (seqDone (fetched s c e) c w none (semsTaken s c w))) := by
  refine congrArg Host.Outcome.next ((seqRow_runs c r w s e issue good _ _ _ (by simp [isOp, hop]) idle).trans ?_)
  rw [modCell_after_takeWait]
  exact congrArg (tileCellDone r (cellNum c)) (signalDone_putCell (fetched s c e) c w none _ fits)

end Issues

/-- Settles O8: each instruction by the law of its row; END by what its TILE still waits for. -/
theorem sequencerInstructions : Obligations.SequencerInstructions := by
  refine ⟨fun s c e r w issue good inside => ?rows, fun s c e r w issue good hop idle fits => ?ends⟩
  case rows =>
    have simple {op : Nat} (f : Run → BitVec 64 → Run) (hop : wOp w = op) (len : (f r w).len = r.len)
        (fits : signalFits s c w (semsTaken s c w)) := congrArg (Host.Outcome.next (φ := Fault) (ρ := Refusal))
      (seqSimple_runs s c r w e f op hop issue good (len ▸ inside) fits)
    refine ⟨fun hop => simple _ hop rfl, fun hop fits => ?prog, fun hop => simple _ hop rfl, fun hop => simple _ hop rfl,
      fun hop => exec_loop issue good hop inside, fun hop _ _ => exec_endl_last issue good hop inside,
      fun hop _ _ _ => exec_endl_again issue good hop, fun hop => exec_waits issue good hop inside⟩
    refine (simple _ hop ?_ fits).trans ?_ <;> split <;> rfl
  case ends =>
    have ended := exec_endBody issue good hop idle fits
    have same : startedDesc (seqDone (fetched s c e) c w none (semsTaken s c w)) r.ctx r.key = startedDesc s r.ctx r.key := rfl
    refine ⟨fun absent => ?_, fun d started => ⟨fun last => ?_, fun more => ?_⟩⟩
    · simp only [ended, tileCellDone, same, absent]
    · simp only [ended, tileCellDone, same, started, last, if_true, cellPosn_cellNum]
    · simp only [ended, tileCellDone, same, started, more, if_false]

/-- Settles O10: each unit's instruction joins the queue of its unit, which has room. -/
theorem unitInstructionsIssue : Obligations.UnitInstructionsIssue := by
  intro s c r w e err gap issue good inside s' n k
  refine ⟨fun hop room ok => ?_, fun hop room ok => ?_, fun hop room ok => ?_, fun hop room ok => ?_⟩ <;>
    exact congrArg Host.Outcome.next (unitRow_issues s c r w e issue good inside _ _ _ _ _ (by simp [isOp, hop])
      (decide_eq_true room) ok (fun _ _ => rfl) (fun _ _ => rfl) rfl)

end Sys2Proof.Machine
end

section
/-! PROOFS. NOP, FENCE, DISCARD and SYNC descriptors, and what an update leaves in a sync object and in its arbiter (R23, R82, R274,
R276, R277, R286). -/

namespace Sys2Proof.Machine

/-! ### Changes of a list of places -/

/-- Changes that each leave a state as it is leave it all together. -/
theorem forAll_of_fixed {α : Type} {f : α → State → State} {l : List α} {s : State} (h : ∀ a ∈ l, f a s = s) :
    forAll l f s = s := by
  induction l with
  | nil => rfl
  | cons a l ih =>
    calc forAll l f (f a s) = forAll l f s := by rw [h a List.mem_cons_self]
      _ = s := ih fun b hb => h b (List.mem_cons_of_mem a hb)

theorem getPos_forAll_modPos {f : Pos → Pos} (twice : ∀ p, f (f p) = f p) (l : List Nat) (s : State) (m : Nat) :
    getPos (forAll l (fun n => modPos n f) s) m = if m ∈ l then f (getPos s m) else getPos s m := by
  induction l generalizing s with
  | nil => simp [forAll]
  | cons n l ih =>
    have step : getPos (forAll (n :: l) (fun n => modPos n f) s) m =
        getPos (forAll l (fun n => modPos n f) (modPos n f s)) m := rfl
    rw [step, ih]
    by_cases here : m = n
    · subst here
      simp [twice]
    · simp [getPos_modPos_ne _ _ _ here, here]

/-- Changes of positions leave everything but the positions. -/
theorem forAll_modPos_frame (f : Pos → Pos) (l : List Nat) (s : State) (posns : SMap Pos) :
    { forAll l (fun n => modPos n f) s with posns := posns } = { s with posns := posns } :=
  forAll_keeps (f := fun n => modPos n f) (fun t => { t with posns := posns }) (fun _ _ _ => rfl) s

/-! ### Starting descriptors (R82, R276, R277, R286) -/

section Starting
variable {s : State} {c : Ctx} {d : Desc}

theorem startingConfig_of_kind {kind : Nat} (starting : startingOf s c 0x04 = some d) (hk : dfld d.words 0x10 3 0 = kind) :
    startingConfig s c kind = some d := by
  simp [startingConfig, starting, hk]

theorem exec_nopDescriptor (starting : startingOf s c 0x00 = some d) :
    exec (.nopDescriptor c) s = .next (finishStarting c d stOk 0 s) := by
  show execNopDescriptor c s = _
  simp only [execNopDescriptor, starting]

theorem exec_fence (starting : startingOf s c 0x05 = some d) (plain : dOpf0 d.words = false) (alone : (getCtx s c).started = []) :
    exec (.fence c) s = .next (finishStarting c d stOk 0 s) := by
  show execFence c s = _
  simp [execFence, starting, plain, allComplete, alone]

theorem exec_discard (starting : startingOf s c 0x04 = some d) (kind : dfld d.words 0x10 3 0 = 4) :
    exec (.discard c) s = .next (finishStarting c d stOk 0
      (forAll (configPosns d.words) (fun n => modPos n (fun p => { p with shadowEpoch := none })) s)) := by
  show execDiscard c s = _
  simp only [execDiscard, startingConfig_of_kind starting kind]

/-- A SYNC descriptor with the OP of its row hands its update to the arbiter of an object of its context. -/
theorem syncRow_asks {op : Nat} (starting : startingOf s c 0x06 = some d) (hop : dfld d.words 0x10 18 16 = op)
    (own : inSyncRange (getCtx s c) (dfld d.words 0x10 15 0) = true) (upd : BitVec 32 → SyncOp) :
    syncRow c op upd s = finishStarting c d stOk 0
      (syncRequest (dfld d.words 0x10 15 0) 0 (upd (BitVec.ofNat 32 (dfld d.words 0x18 31 0))) s) := by
  simp only [syncRow, starting, hop, own, if_true]

theorem exec_syncRemoteAdd {k : Nat} (starting : startingOf s c 0x06 = some d) (hop : dfld d.words 0x10 18 16 = 3)
    (bound : boundEntry s c = some k) (mapped : (SMap.get 0 (getPart s k).map (dfld d.words 0x14 13 0)).getLsbD 15 = true) :
    exec (.syncRemoteAdd c) s = .next (finishStarting c d stOk 0 (sendTc0Rank (getPart s k) (dfld d.words 0x14 13 0)
      (tc0Msg s k 5 0 0 0 (BitVec.ofNat 128 (dfld d.words 0x10 15 0 + 2 ^ 32 * dfld d.words 0x18 31 0))) s)) := by
  show execSyncRemoteAdd c s = _
  simp only [execSyncRemoteAdd, starting, hop, bound, mapped, if_true]

end Starting

/-! ### Updates of a sync object (R23, R274) -/

/-- The requester that the pointer names is granted when it asks. -/
theorem roundRobin_at_pointer {ptr n : Nat} {req : Nat → Bool} (inRange : ptr < n) (asks : req ptr = true) :
    roundRobin ptr n req = some ptr := by
  obtain ⟨k, rfl⟩ : ∃ k, n = k + 1 := ⟨n - 1, by omega⟩
  simp [roundRobin, List.range_succ_eq_map, Nat.mod_eq_of_lt inRange, asks]

/-- The oldest update of all is the first of its requester for its object. -/
theorem takeUpdate_first (u : SyncUpd) (rest : List SyncUpd) : takeUpdate u.obj u.requester (u :: rest) = some (u, rest) := by
  simp [takeUpdate]

/-- A table holds what its default and every listed value are. -/
theorem get_of_forall {α : Type} {P : α → Prop} {d : α} {m : SMap α} (atDefault : P d) (listed : ∀ kv ∈ m, P kv.2) (i : Nat) :
    P (SMap.get d m i) := by
  induction m with
  | nil => exact atDefault
  | cons kv m ih =>
    rw [SMap.get]
    split
    · exact listed kv List.mem_cons_self
    · exact ih fun x hx => listed x (List.mem_cons_of_mem kv hx)

theorem waiterSees_of_not_waiting {s : State} {c : Ctx} (h : (getCtx s c).waiting = none) (o : Nat) : waiterSees o c s = s := by
  simp [waiterSees, h]

/-- The state after the grant of an update: the object, its arbiter's pointer and the updates that wait. -/
def granted (u : SyncUpd) (rest : List SyncUpd) (s : State) : State :=
  modHif (fun h => { h with
    syncQ := rest, syncPtr := SMap.set 0 h.syncPtr u.obj.toNat ((u.requester + 1) % 11)
    sync := SMap.upd SyncObj.init h.sync u.obj.toNat (fun v => syncApply v u.op) }) s

theorem getSync_granted (u : SyncUpd) (rest : List SyncUpd) (s : State) :
    getSync (granted u rest s) u.obj.toNat = syncApply (getSync s u.obj.toNat) u.op :=
  SMap.get_upd SyncObj.init s.hif.sync u.obj.toNat (fun v => syncApply v u.op)

theorem getSync_granted_ne (u : SyncUpd) (rest : List SyncUpd) (s : State) {o : Nat} (h : o ≠ u.obj.toNat) :
    getSync (granted u rest s) o = getSync s o :=
  SMap.get_upd_ne SyncObj.init s.hif.sync u.obj.toNat o (fun v => syncApply v u.op) h

/-- The oldest update is granted at once when its requester's turn has come; with no context waiting nothing else changes. -/
theorem exec_syncObjectUpdate {s : State} {u : SyncUpd} {rest : List SyncUpd} (oldest : s.hif.syncQ = u :: rest)
    (valid : u.requester < 11) (turn : SMap.get 0 s.hif.syncPtr u.obj.toNat = u.requester)
    (idle : ∀ kv ∈ s.hif.ctxs, kv.2.waiting = none) :
    exec (.syncObjectUpdate u.obj) s = .next (granted u rest s) := by
  have grant : roundRobin (SMap.get 0 s.hif.syncPtr u.obj.toNat) 11
      (fun r => s.hif.syncQ.any (fun x => x.obj == u.obj && x.requester == r)) = some u.requester := by
    rw [turn]
    exact roundRobin_at_pointer valid (by simp [oldest])
  have first : takeUpdate u.obj u.requester s.hif.syncQ = some (u, rest) := oldest ▸ takeUpdate_first u rest
  show execSyncObjectUpdate u.obj s = _
  simp only [execSyncObjectUpdate, grant, first]
  have noWaiter (c : Ctx) : (getCtx (granted u rest s) c).waiting = none :=
    get_of_forall (P := fun x : Context => x.waiting = none) rfl idle c.toNat
  exact congrArg Host.Outcome.next (forAll_of_fixed fun k _ => waiterSees_of_not_waiting (noWaiter _) _)

theorem exec_syncTimeout {s : State} {c : Ctx} {wr : WaitRec} {d : Desc} {rest : List Desc}
    (waiting : (getCtx s c).waiting = some wr) (front : (getCtx s c).fetched = d :: rest) (unreached : wr.reached = false) :
    exec (.syncTimeout c) s = .next (failFront c d stSyncTimeout (dWaitSync d.words)
      (advanceTo (wr.since + msec (if fld s.hif.syncWait 23 0 = 0 then 10000 else fld s.hif.syncWait 23 0)) s)) := by
  show execSyncTimeout c s = _
  simp [execSyncTimeout, waiting, front, unreached]

theorem exec_syncMessageReceive_own {s : State} {pid : BitVec 12} {obj : BitVec 16} {k : Nat} (bound : entryOfPid s pid = some k)
    (own : inSyncRange (getCtx s (getPart s k).ctx) obj.toNat = true) (v : BitVec 32) :
    exec (.syncMessageReceive pid obj v) s = .next (syncRequest obj.toNat 9 (.add v) s) := by
  show Host.Outcome.next (syncArrives pid obj v s) = _
  simp only [syncArrives, bound, own, if_true]

theorem exec_syncMessageReceive_foreign {s : State} {pid : BitVec 12} {obj : BitVec 16} {k : Nat}
    (bound : entryOfPid s pid = some k) (foreign : inSyncRange (getCtx s (getPart s k).ctx) obj.toNat = false) (v : BitVec 32) :
    exec (.syncMessageReceive pid obj v) s =
      .next (raise 0x0603 (hubUnit 0) { ctx := some (getPart s k).ctx, arg0 := obj.toNat } s) := by
  show Host.Outcome.next (syncArrives pid obj v s) = _
  simp [syncArrives, bound, foreign]

/-- Settles O24: each descriptor by the law of its row, and the grant read field by field. -/
theorem syncAndSimpleDescriptors : Obligations.SyncAndSimpleDescriptors := by
  refine ⟨fun s c d => ⟨exec_nopDescriptor, exec_fence, fun starting kind => ?discard, fun starting own => ?ask,
    fun k starting hop bound mapped => exec_syncRemoteAdd starting hop bound mapped⟩, fun s obj pidObj c pid v => ?objects⟩
  case discard =>
    exact ⟨_, exec_discard starting kind, getPos_forAll_modPos (f := fun p => { p with shadowEpoch := none }) (fun _ => rfl) _ s,
      forAll_modPos_frame _ _ s s.posns⟩
  case ask =>
    exact ⟨fun hop => congrArg _ (syncRow_asks starting hop own .setValue), fun hop => congrArg _ (syncRow_asks starting hop own .add),
      fun hop => congrArg _ (syncRow_asks starting hop own (fun _ => .clearErr))⟩
  case objects =>
    refine ⟨fun u rest oldest hobj valid turn idle => ?grant, fun wr d rest waiting front => exec_syncTimeout waiting front,
      fun k bound own => ?message, fun k bound foreign => exec_syncMessageReceive_foreign bound foreign v⟩
    case grant =>
      subst hobj
      exact ⟨_, exec_syncObjectUpdate oldest valid turn idle, getSync_granted u rest s, rfl, SMap.get_set ..,
        fun o other => getSync_granted_ne u rest s other, rfl, rfl⟩
    case message =>
      rw [exec_syncMessageReceive_own bound own, syncRequest, BitVec.ofNat_toNat, BitVec.setWidth_eq]

end Sys2Proof.Machine
end

section
/-! PROOFS. What TILE queues in the cells, what PROGRAM_BODY writes into program memory, and what CELL_CONFIG and MODES leave in the
shadow and in the staged words (R68, R82 to R84, R86, R283, R284). -/

namespace Sys2Proof.Machine

/-! ### TILE (R68) -/

/-- A change made once in each listed cell. -/
theorem getCell_forAll_modCell_once (f : Cell → Cell) {l : List Nat} (once : l.Nodup) (s : State) (m : Nat) :
    getCell (forAll l (fun n => modCell n f) s) m = if m ∈ l then f (getCell s m) else getCell s m := by
  induction l generalizing s with
  | nil => simp [forAll]
  | cons n l ih =>
    obtain ⟨notLater, rest⟩ := List.nodup_cons.mp once
    have step : getCell (forAll (n :: l) (fun n => modCell n f) s) m =
        getCell (forAll l (fun n => modCell n f) (modCell n f s)) m := rfl
    rw [step, ih rest]
    by_cases here : m = n
    · subst here
      simp [notLater]
    · simp [getCell_modCell_ne _ _ _ here, here]

theorem maskCells_nodup (posn : Nat) (mask : BitVec 256) : (maskCells posn mask).Nodup :=
  (List.nodup_range.filter _).map fun _ _ h => Nat.add_left_cancel h

/-- Changes of cells leave everything but the cells. -/
theorem forAll_modCell_frame (f : Cell → Cell) (l : List Nat) (s : State) (cells : SMap Cell) :
    { forAll l (fun n => modCell n f) s with cells := cells } = { s with cells := cells } :=
  forAll_keeps (f := fun n => modCell n f) (fun t => { t with cells := cells }) (fun _ _ _ => rfl) s

/-- The TILE that a descriptor puts in each named cell (R68, R282). -/
def tileWait (s : State) (c : Ctx) (d : Desc) : TileWait :=
  { ctx := c, key := d.key, pid := BitVec.ofNat 6 (dfld d.words 0x10 5 0), epoch := tileEpoch d.words, step := d.step
    since := s.mgmt.ptb }

/-- The state once every cell that a TILE names has it last in its queue. -/
def tileQueued (s : State) (c : Ctx) (d : Desc) : State :=
  forAll (maskCells (dfld d.words 0x10 10 8) (BitVec.ofNat 256 (dfld d.words 0x20 255 0)))
    (fun n => modCell n (fun k => { k with tiles := k.tiles ++ [tileWait s c d] }))
    (keepStarting c { d with cells := BitVec.ofNat 256 (dfld d.words 0x20 255 0) } s)

theorem exec_tile {s : State} {c : Ctx} {d : Desc} (starting : startingOf s c 0x03 = some d) :
    exec (.tile c) s = .next (tileQueued s c d) := by
  show execTile c s = _
  simp only [execTile, starting]
  rfl

theorem getCtx_tileQueued (s : State) (c : Ctx) (d : Desc) (m : Ctx) : getCtx (tileQueued s c d) m =
    getCtx (keepStarting c { d with cells := BitVec.ofNat 256 (dfld d.words 0x20 255 0) } s) m :=
  (congrArg (fun t => getCtx t m) (forAll_modCell_frame _ _ _ s.cells) :)

/-! ### PROGRAM_BODY (R82, R83) -/

/-- Copies the words of a body and what each was read from into the program memory of a cell. -/
def loadCell (slot : Nat) (words : List (BitVec 64)) (source : List Nat) (n : Nat) (s : State) : State := { s with
  prog := SMap.writeRun 0 s.prog (n * 4096 + slot) words
  progSrc := SMap.writeRun 0 s.progSrc (n * 4096 + slot) source }

/-- A load inside the 4096 slots of a cell changes those slots of that cell. -/
theorem get_loadCell {slot : Nat} {words : List (BitVec 64)} (fits : slot + words.length ≤ 4096) (source : List Nat) (n : Nat)
    (s : State) (m : Nat) {k : Nat} (hk : k < 4096) : SMap.get 0 (loadCell slot words source n s).prog (m * 4096 + k) =
      if m = n ∧ slot ≤ k ∧ k < slot + words.length then words.getD (k - slot) 0 else SMap.get 0 s.prog (m * 4096 + k) := by
  unfold loadCell
  split
  next inside =>
    obtain ⟨rfl, above, below⟩ := inside
    have place : m * 4096 + k = m * 4096 + slot + (k - slot) := by omega
    rw [place, SMap.get_writeRun_in _ _ _ _ _ (by omega)]
  next outside => exact SMap.get_writeRun_out _ _ _ _ _ (by omega)

/-- A load of every listed cell. -/
theorem get_forAll_loadCell {slot : Nat} {words : List (BitVec 64)} (fits : slot + words.length ≤ 4096) (source : List Nat)
    (l : List Nat) (s : State) (m : Nat) {k : Nat} (hk : k < 4096) :
    SMap.get 0 (forAll l (loadCell slot words source) s).prog (m * 4096 + k) =
      if m ∈ l ∧ slot ≤ k ∧ k < slot + words.length then words.getD (k - slot) 0 else SMap.get 0 s.prog (m * 4096 + k) := by
  induction l generalizing s with
  | nil => simp [forAll]
  | cons n l ih =>
    have step : (forAll (n :: l) (loadCell slot words source) s).prog =
        (forAll l (loadCell slot words source) (loadCell slot words source n s)).prog := rfl
    rw [step, ih, get_loadCell fits source n s m hk]
    by_cases slots : slot ≤ k ∧ k < slot + words.length
    · by_cases here : m = n <;> simp [slots, here]
    · simp [slots]

theorem forAll_loadCell_frame (slot : Nat) (words : List (BitVec 64)) (source l : List Nat) (s : State) :
    { forAll l (loadCell slot words source) s with prog := s.prog, progSrc := s.progSrc } = s :=
  forAll_keeps (f := loadCell slot words source) (fun t => { t with prog := s.prog, progSrc := s.progSrc }) (fun _ _ _ => rfl) s

/-- The words of a body as they lie in memory. -/
def bodyWords (s : State) (src len : Nat) : List (BitVec 64) :=
  (List.range len).map (fun i => BitVec.ofNat 64 (leAt (memRead s src (8 * len)) (8 * i) 8))

theorem bodyWords_length (s : State) (src len : Nat) : (bodyWords s src len).length = len := by simp [bodyWords]

theorem bodyWords_getD (s : State) (src : Nat) {len k : Nat} (h : k < len) :
    (bodyWords s src len).getD k 0 = BitVec.ofNat 64 (leAt (memRead s src (8 * len)) (8 * k) 8) := by
  simp [bodyWords, h]

/-- The state once every cell that a PROGRAM_BODY names holds the body. -/
def bodyLoaded (s : State) (w : BitVec 512) : State :=
  let len := dfld w 0x14 27 16 + 1
  let src := dfld w 0x18 47 0
  forAll (configCells w) (loadCell (dfld w 0x14 11 0) (bodyWords s src len) ((List.range len).map (fun i => src + 8 * i + 1))) s

/-- A body that fits into program memory lands in its slots of the named cells. -/
theorem get_bodyLoaded {w : BitVec 512} (fits : dfld w 0x14 11 0 + (dfld w 0x14 27 16 + 1) ≤ 4096) (s : State) (m : Nat) {k : Nat}
    (hk : k < 4096) : SMap.get 0 (bodyLoaded s w).prog (m * 4096 + k) =
      if m ∈ configCells w ∧ dfld w 0x14 11 0 ≤ k ∧ k < dfld w 0x14 11 0 + (dfld w 0x14 27 16 + 1) then
        (bodyWords s (dfld w 0x18 47 0) (dfld w 0x14 27 16 + 1)).getD (k - dfld w 0x14 11 0) 0
      else SMap.get 0 s.prog (m * 4096 + k) := by
  have length := bodyWords_length s (dfld w 0x18 47 0) (dfld w 0x14 27 16 + 1)
  have law := get_forAll_loadCell (length.symm ▸ fits)
    ((List.range (dfld w 0x14 27 16 + 1)).map (fun i => dfld w 0x18 47 0 + 8 * i + 1)) (configCells w) s m hk
  rwa [length] at law

section Configurations
variable {s : State} {c : Ctx} {d : Desc} (starting : startingOf s c 0x04 = some d)
include starting

theorem exec_programBody_conflict (kind : dfld d.words 0x10 3 0 = 1) (locked : unlocked s (dfld d.words 0x18 47 0) = false) {k : Nat}
    (clash : lowest ((configCells d.words).map (bodyClash s (dfld d.words 0x14 11 0) (dfld d.words 0x14 27 16 + 1))) = some k) :
    exec (.programBody c) s = .next (finishStarting c d stConfigConflict k s) := by
  show execProgramBody c s = _
  simp [execProgramBody, startingConfig_of_kind starting kind, locked, clash]

theorem exec_programBody (kind : dfld d.words 0x10 3 0 = 1) (locked : unlocked s (dfld d.words 0x18 47 0) = false)
    (free : lowest ((configCells d.words).map (bodyClash s (dfld d.words 0x14 11 0) (dfld d.words 0x14 27 16 + 1))) = none) :
    exec (.programBody c) s = .next (finishStarting c d stOk 0 (bodyLoaded s d.words)) := by
  show execProgramBody c s = _
  simp only [execProgramBody, startingConfig_of_kind starting kind, locked, free]
  rfl

/-! ### CELL_CONFIG and MODES (R82, R84, R283, R284) -/

/-- Writes the items that an image selects into the shadow of a cell. -/
def withImage (bs : List Byte) (k : Cell) : Cell := { k with shadow := writeItems bs k.shadow }

theorem exec_cellConfig (kind : dfld d.words 0x10 3 0 = 2) (locked : unlocked s (dfld d.words 0x18 47 0) = false) {t : State}
    (opened : openShadows (BitVec.ofNat 16 (dfld d.words 0x10 31 16)) (configPosns d.words) s = .inr t)
    (good : imageRefused (memRead s (dfld d.words 0x18 47 0) 576) (configCells d.words) = none) :
    exec (.cellConfig c) s = .next (finishStarting c d stOk 0 (forAll (configCells d.words)
      (fun n => modCell n (withImage (memRead s (dfld d.words 0x18 47 0) 576))) t)) := by
  show execCellConfig c s = _
  simp only [execCellConfig, startingConfig_of_kind starting kind, locked, opened, good]
  rfl

theorem exec_cellConfig_badEpoch (kind : dfld d.words 0x10 3 0 = 2) (locked : unlocked s (dfld d.words 0x18 47 0) = false) {k : Nat}
    (refused : openShadows (BitVec.ofNat 16 (dfld d.words 0x10 31 16)) (configPosns d.words) s = .inl k) :
    exec (.cellConfig c) s = .next (finishStarting c d stBadEpoch k s) := by
  show execCellConfig c s = _
  simp [execCellConfig, startingConfig_of_kind starting kind, locked, refused]

theorem exec_modes (kind : dfld d.words 0x10 3 0 = 3) {t : State}
    (opened : openShadows (BitVec.ofNat 16 (dfld d.words 0x10 31 16)) (configPosns d.words) s = .inr t) :
    exec (.modes c) s = .next (finishStarting c d stOk 0 { t with pwr := { t.pwr with
      staged := SMap.upd 0 t.pwr.staged c.toNat (fun old => mergeMode old (BitVec.ofNat 16 (dfld d.words 0x14 15 0))) } }) := by
  show execModes c s = _
  simp only [execModes, startingConfig_of_kind starting kind, opened]

theorem exec_modes_badEpoch (kind : dfld d.words 0x10 3 0 = 3) {k : Nat}
    (refused : openShadows (BitVec.ofNat 16 (dfld d.words 0x10 31 16)) (configPosns d.words) s = .inl k) :
    exec (.modes c) s = .next (finishStarting c d stBadEpoch k s) := by
  show execModes c s = _
  simp only [execModes, startingConfig_of_kind starting kind, refused]

end Configurations

/-! ### Shadows that open (R84) -/

/-- The shadow of a position opens unless it is open. -/
theorem shadowEpoch_openShadow (e : BitVec 16) (n : Nat) (s : State) (m : Nat) :
    (getPos (openShadow e n s) m).shadowEpoch =
      if m = n then some ((getPos s m).shadowEpoch.getD e) else (getPos s m).shadowEpoch := by
  unfold openShadow
  split
  next f open_ =>
    split
    next here => rw [here, open_, Option.getD_some]
    next => rfl
  next closed =>
    rw [getPos_mapCells]
    split
    next here => rw [here, getPos_modPos_same, closed, Option.getD_none]
    next away => rw [getPos_modPos_ne _ _ _ away]

theorem shadowEpoch_forAll_openShadow (e : BitVec 16) (l : List Nat) (s : State) (m : Nat) :
    (getPos (forAll l (openShadow e) s) m).shadowEpoch =
      if m ∈ l then some ((getPos s m).shadowEpoch.getD e) else (getPos s m).shadowEpoch := by
  induction l generalizing s with
  | nil => simp [forAll]
  | cons n l ih =>
    have step : getPos (forAll (n :: l) (openShadow e) s) m = getPos (forAll l (openShadow e) (openShadow e n s)) m := rfl
    rw [step, ih, shadowEpoch_openShadow]
    by_cases here : m = n <;> simp [here]

/-- A change of some cells that leaves a part of each cell leaves that part of all cells. -/
theorem forAll_modCell_keeps {β : Type} (g : Cell → β) {f : Cell → Cell} (hf : ∀ k, g (f k) = g k) (l : List Nat) (s : State)
    (m : Nat) : g (getCell (forAll l (fun n => modCell n f) s) m) = g (getCell s m) := by
  refine forAll_keeps (fun t => g (getCell t m)) (fun n _ t => ?_) s
  by_cases here : m = n
  · subst here
    rw [getCell_modCell_same, hf]
  · rw [getCell_modCell_ne _ _ _ here]

theorem cfg_openShadow (e : BitVec 16) (n : Nat) (s : State) (m : Nat) :
    (getCell (openShadow e n s) m).cfg = (getCell s m).cfg := by
  unfold openShadow
  split
  · rfl
  · exact forAll_modCell_keeps (f := fun k => { k with shadow := k.cfg }) Cell.cfg (fun _ => rfl) _ _ m

theorem openShadow_frame (e : BitVec 16) (n : Nat) (s : State) (cells : SMap Cell) (posns : SMap Pos) :
    { openShadow e n s with cells := cells, posns := posns } = { s with cells := cells, posns := posns } := by
  unfold openShadow
  split
  · rfl
  · exact congrArg (fun t : State => { t with posns := posns }) (forAll_modCell_frame _ _ _ cells)

/-- What a CONFIG whose epoch every named position takes leaves: the shadows open under that epoch, the active configurations, and
everything beside cells and positions (log entry 26). -/
theorem openShadows_inr {e : BitVec 16} {l : List Nat} {s t : State} (h : openShadows e l s = .inr t) :
    (∀ n ∈ l, (getPos t n).shadowEpoch = some e) ∧ (∀ m, (getCell t m).cfg = (getCell s m).cfg) ∧
      ∀ cells posns, { t with cells := cells, posns := posns } = { s with cells := cells, posns := posns } := by
  unfold openShadows at h
  split at h
  · cases h
  next taken =>
    cases h
    refine ⟨fun n hn => ?_, fun m => forAll_keeps (fun t => (getCell t m).cfg) (fun n _ t => cfg_openShadow e n t m) s,
      fun cells posns => forAll_keeps (fun t => { t with cells := cells, posns := posns })
        (fun n _ t => openShadow_frame e n t cells posns) s⟩
    have takes : epochTaken s e n = true := by simpa using List.find?_eq_none.mp taken n hn
    rw [shadowEpoch_forAll_openShadow, if_pos hn]
    unfold epochTaken at takes
    dsimp only at takes
    split at takes
    next closed => rw [closed, Option.getD_none]
    next f open_ => rw [open_, Option.getD_some, beq_iff_eq.mp takes]

/-- An image that is written twice leaves what it leaves once. -/
theorem writeItems_writeItems (bs : List Byte) (k : CellCfg) : writeItems bs (writeItems bs k) = writeItems bs k := by
  simp only [writeItems]
  split_ifs <;> rfl

/-- A cell takes an image twice as it takes it once. -/
theorem withImage_withImage (bs : List Byte) (k : Cell) : withImage bs (withImage bs k) = withImage bs k := by
  simp only [withImage, writeItems_writeItems]

/-- Settles O25: the queues cell by cell, and program memory slot by slot. -/
theorem tilesAndBodies : Obligations.TilesAndBodies := by
  refine fun s c d => ⟨fun starting => ?tile, fun starting kind locked => ⟨fun k => exec_programBody_conflict starting kind locked,
    fun free fits => ⟨bodyLoaded s d.words, exec_programBody starting kind locked free, fun n k named inside => ?loaded,
      fun n k slot apart => ?others, ?rest⟩⟩⟩
  case tile =>
    refine ⟨_, exec_tile starting, fun n => ?_, ?_, fun m other => ?_, ?_⟩
    · exact getCell_forAll_modCell_once _ (maskCells_nodup ..) (keepStarting c _ s) n
    · rw [getCtx_tileQueued, keepStarting, getCtx_modCtx_same]
    · rw [getCtx_tileQueued, keepStarting, getCtx_modCtx_ne _ _ _ other]
    · exact congrArg (fun t : State => { t with hif := s.hif }) (forAll_modCell_frame _ _ (keepStarting c _ s) s.cells)
  case loaded =>
    rw [Nat.add_assoc, get_bodyLoaded fits s n (by omega), if_pos ⟨named, by omega, by omega⟩, Nat.add_sub_cancel_left,
      bodyWords_getD s _ inside]
  case others =>
    rw [get_bodyLoaded fits s n slot, if_neg]
    rintro ⟨named, above, below⟩
    rcases apart with notNamed | early | late
    · exact notNamed named
    · omega
    · omega
  case rest => exact forAll_loadCell_frame ..

/-- Settles O26: what opening the shadows leaves, and on top of it the image or the staged word. -/
theorem configurationGoesToShadow : Obligations.ConfigurationGoesToShadow := by
  refine fun s c d starting => ⟨fun t kind locked opened good => ?config, fun t kind opened => ?modes,
    fun k refused => ⟨fun kind => exec_modes_badEpoch starting kind refused,
      fun kind locked => exec_cellConfig_badEpoch starting kind locked refused⟩⟩
  case config =>
    obtain ⟨epochs, active, frame⟩ := openShadows_inr opened
    have cell := getCell_forAll_modCell (withImage_withImage (memRead s (dfld d.words 0x18 47 0) 576)) (configCells d.words) t
    refine ⟨_, exec_cellConfig starting kind locked opened good, fun n => ?_, fun n named => ?_, fun n away => ?_,
      fun n named => ?_, ?_⟩
    · exact (forAll_modCell_keeps Cell.cfg (f := withImage (memRead s (dfld d.words 0x18 47 0) 576)) (fun _ => rfl) _ t n).trans (active n)
    · rw [cell, if_pos named]
      rfl
    · rw [cell, if_neg away]
    · exact (congrArg (fun t => (getPos t n).shadowEpoch) (forAll_modCell_frame _ _ t t.cells) :).trans (epochs n named)
    · exact (congrArg (fun t : State => { t with posns := s.posns }) (forAll_modCell_frame _ _ t s.cells)).trans (frame _ _)
  case modes =>
    obtain ⟨epochs, active, frame⟩ := openShadows_inr opened
    have power : t.pwr = s.pwr := (congrArg State.pwr (frame s.cells s.posns) :)
    refine ⟨_, exec_modes starting kind opened, ?_, ?_, active, epochs, ?_⟩
    · rw [SMap.get_upd, power]
    · rw [power]
    · exact congrArg (fun t : State => { t with pwr := s.pwr }) (frame s.cells s.posns)

end Sys2Proof.Machine
end

section
/-! PROOFS. How a teardown begins, what the change of generation and the end of a teardown leave, and the scrub that follows (R88,
R257, R288 to R290, R324, R390). -/

namespace Sys2Proof.Machine

/-! ### How a teardown begins (R288, R290, R324) -/

section Begins
variable {s : State} {c : Ctx}

theorem exec_teardown {d : Desc} (starting : startingOf s c 0x0E = some d) (alone : (getCtx s c).started = []) :
    exec (.teardown c) s = .next (beginTeardown c (some d) s) := by
  show execTeardown c s = _
  simp [execTeardown, starting, allComplete, alone]

theorem exec_ctxTeardown {f : Fin 64} (live : funcLive s f = true) (own : inFuncRange s f.val c.toNat = true)
    (active : (getCtx s c).st = .active) : exec (.ctxTeardown f c) s = .next (setStatus f.val c 0 (beginTeardown c none s)) := by
  show Host.Outcome.next (teardownCmd f c s) = _
  simp [teardownCmd, live, own, active]

/-- An active context drains and its work stops (stages 1 and 2 of R288). -/
theorem beginTeardown_of_active (active : (getCtx s c).st = .active) (d : Option Desc) :
    beginTeardown c d s = teardownStage2 c (modCtx c (fun x => { x with
      st := .draining, fetchStopped := true, fetched := [], starting := none, waiting := none, tearDesc := d, tearT0 := none }) s) :=
  if_pos active

theorem exec_functionLevelReset_vf {f : Fin 64} (vf : f ≠ 0) (port : Fin 2) :
    exec (.functionLevelReset f port) s = .next (tearAll (fun x => decide (x.func = f)) s) :=
  if_neg vf

theorem exec_contextResetTimeout (draining : (getCtx s c).st = .draining) :
    exec (.contextResetTimeout c) s = .next (forAll (issuingEngines s c) (fun r => startReset r true) s) :=
  if_pos draining

end Begins

/-! ### The change of generation (R77, R176, R257, R288) -/

theorem mapCells_eq (p : Nat → Bool) (f : Cell → Cell) (s : State) :
    mapCells p f s = { s with cells := (mapCells p f s).cells } :=
  forAll_modCell_frame f _ s _

/-- The transfers that are discarded are counted, in the package's registers for that, and the ports' queues are emptied. -/
theorem dropFifos_eq (c : Ctx) (s : State) : ∃ cells dropped ctx,
    dropFifos c s = { s with cells := cells, hif := { s.hif with dropped := dropped, droppedCtx := ctx } } := by
  unfold dropFifos countDropped
  dsimp only
  rw [mapCells_eq]
  split <;> exact ⟨_, _, _, rfl⟩

theorem getCtx_endCopies (c : Ctx) (s : State) : getCtx (endCopies c s) c = { getCtx s c with snapshot := none } :=
  getCtx_modCtx_same c (fun x => { x with snapshot := none }) s

/-- A context in the generation that follows its own, since a moment. -/
def nextGeneration (moment : BitVec 64) (x : Context) : Context := { x with gen := x.gen + 1, tearT0 := some moment }

/-- The state after stage 4 of a teardown. -/
def generationChanged (c : Ctx) (s : State) : State :=
  endCopies c (closeReductions c (dropFifos c (modCtx c (nextGeneration s.mgmt.ptb) s)))

theorem exec_teardownGenerationChange {s : State} {c : Ctx} (draining : (getCtx s c).st = .draining)
    (before : (getCtx s c).tearT0 = none) (done : commitsRun s c = false) :
    exec (.teardownGenerationChange c) s = .next (generationChanged c s) :=
  if_pos ⟨draining, by simp [before], by simp [done]⟩

theorem getCtx_generationChanged (c : Ctx) (s : State) : getCtx (generationChanged c s) c =
    { nextGeneration s.mgmt.ptb (getCtx s c) with snapshot := none } := by
  obtain ⟨_, _, _, dropped⟩ := dropFifos_eq c (modCtx c (nextGeneration s.mgmt.ptb) s)
  rw [generationChanged, getCtx_endCopies, dropped]
  exact congrArg (fun x : Context => { x with snapshot := none }) (getCtx_modCtx_same c (nextGeneration s.mgmt.ptb) s)

theorem generationChanged_frame (c : Ctx) (s : State) : (generationChanged c s).mem = s.mem ∧ (generationChanged c s).acc = s.acc ∧
    (generationChanged c s).prog = s.prog ∧ (generationChanged c s).step = s.step := by
  obtain ⟨_, _, _, dropped⟩ := dropFifos_eq c (modCtx c (nextGeneration s.mgmt.ptb) s)
  rw [generationChanged, dropped]
  exact ⟨rfl, rfl, rfl, rfl⟩

/-! ### The end of a teardown (R257, R288) -/

/-- What the time and the completion of a teardown leave of the state before them: everything beside the host interface, host memory
and the management complex, and of the host interface the scrub list and the generation of the context. -/
def recordsOnly (c : Ctx) (s t : State) : Prop :=
  { t with hif := s.hif, host := s.host, mgmt := s.mgmt } = s ∧ t.hif.scrubs = s.hif.scrubs ∧ (getCtx t c).gen = (getCtx s c).gen

theorem recordsOnly.trans {c : Ctx} {s t u : State} (first : recordsOnly c s t) (second : recordsOnly c t u) : recordsOnly c s u := by
  obtain ⟨frame, scrubs, gen⟩ := first
  obtain ⟨frame', scrubs', gen'⟩ := second
  exact ⟨(congrArg (fun x : State => { x with hif := s.hif, host := s.host, mgmt := s.mgmt }) frame').trans frame,
    scrubs'.trans scrubs, gen'.trans gen⟩

theorem writeCompletion_recordsOnly (c : Ctx) (bytes : Bool → List Byte) (s : State) :
    recordsOnly c s (writeCompletion c bytes s) :=
  ⟨rfl, rfl, by simp [writeCompletion]⟩

theorem signalDesc_recordsOnly (c : Ctx) (w : BitVec 512) (ok : Bool) (requester : Nat) (s : State) :
    recordsOnly c s (signalDesc c w ok requester s) := by
  obtain ⟨_, signalled⟩ := signalDesc_eq c w ok requester s
  rw [signalled]
  exact ⟨rfl, rfl, rfl⟩

theorem teardownRecord_recordsOnly (c : Ctx) (status : Nat) (s : State) : recordsOnly c s (teardownRecord c status s) := by
  unfold teardownRecord
  dsimp only
  split
  next d _ =>
    have written := writeCompletion_recordsOnly c
      (completionBytes d.index status 0x0E (dTag d.words) (getCtx s c).outstanding d.attempt) s
    refine .trans ?_ (signalDesc_recordsOnly ..)
    split
    · exact written.trans ⟨rfl, rfl, rfl⟩
    · exact written
  next => exact writeCompletion_recordsOnly ..

theorem advanceTo_recordsOnly (c : Ctx) (moment : BitVec 64) (s : State) : recordsOnly c s (advanceTo moment s) := by
  unfold advanceTo
  split <;> exact ⟨rfl, rfl, rfl⟩

/-- A context that holds nothing more. -/
def freeContext (x : Context) : Context := { x with
  st := .free, windows := [], posns := 0, holdsStep := false, started := [], fetched := [], tearDesc := none, tearT0 := none
  shrunk := false }

/-- The state that a TEARDOWN_FINISH leaves once its completion is written: the event is raised, the steps of the context are gone,
what it held waits for the scrub, and it is FREE. -/
def freed (c : Ctx) (x : Context) (status : Nat) (s : State) : State :=
  modCtx c freeContext
    (modHif (fun h => { h with scrubs := h.scrubs ++ [{ ctx := some c, ticket := 0, windows := x.windows, posns := x.posns }] })
      (modStep (fun e => { e with held := e.held.filter (fun h => h.ctx != c) })
        (raise 0x0604 (hubUnit 0) { ctx := some c, arg0 := status + 256 * x.gen.toNat, arg1 := x.outstanding } s)))

theorem getCtx_freed (c : Ctx) (x : Context) (status : Nat) (s : State) :
    getCtx (freed c x status s) c = freeContext (getCtx s c) :=
  getCtx_modCtx_same ..

theorem freed_fields (c : Ctx) (x : Context) (status : Nat) (s : State) :
    (freed c x status s).step.held = s.step.held.filter (fun h => h.ctx != c) ∧
      (freed c x status s).hif.scrubs = s.hif.scrubs ++ [{ ctx := some c, ticket := 0, windows := x.windows, posns := x.posns }] ∧
      (freed c x status s).mem = s.mem ∧ (freed c x status s).cells = s.cells := by
  simp [freed]

/-- A teardown ends with its completion and its event, late or not. -/
theorem exec_teardownFinish {s : State} {c : Ctx} {t0 : BitVec 64} (draining : (getCtx s c).st = .draining)
    (changed : (getCtx s c).tearT0 = some t0) : ∃ status recorded, recordsOnly c s recorded ∧
      exec (.teardownFinish c) s = .next (freed c (getCtx s c) status recorded) := by
  have law : exec (.teardownFinish c) s = execTeardownFinish c s := rfl
  by_cases late : (getCtx s c).outstanding = 0
  · have onTime : decide ((getCtx s c).outstanding ≠ 0) = false := by simp [late]
    refine ⟨stOk, _, teardownRecord_recordsOnly c stOk s, law.trans ?_⟩
    simp only [execTeardownFinish, draining, changed, onTime, Bool.false_eq_true, if_false]
    rfl
  · refine ⟨stTeardownLate, _, (advanceTo_recordsOnly c (t0 + msec 2) s).trans (teardownRecord_recordsOnly c stTeardownLate _),
      law.trans ?_⟩
    simp only [execTeardownFinish, draining, changed, decide_eq_true late, if_true]
    rfl

/-! ### The scrub (R289, R390) -/

/-- A range of memory that is zeroed reads 0, and the rest as before. -/
theorem get_memZero (a b : Nat) (s : State) (k : Nat) :
    SMap.get 0 (memZero a b s).mem k = if a ≤ k ∧ k < b then 0 else SMap.get 0 s.mem k := by
  split
  next inside => exact SMap.get_filter_out 0 s.mem _ k fun _ => by simpa using inside
  next outside => exact SMap.get_filter 0 s.mem _ k fun _ => by simp; omega

/-- The scrub of a context that held one window and no position zeroes that window. -/
theorem exec_firmwareScrub {s : State} {k : Ctx} {w : Window} {rest : List Scrub}
    (first : s.hif.scrubs = { ctx := some k, ticket := 0, windows := [w], posns := 0 } :: rest) :
    exec .firmwareScrub s = .next (raise 0x0605 (hubUnit 8) { ctx := some k, arg0 := 0 }
      (modHif (fun h => { h with scrubs := h.scrubs.eraseIdx 0 }) (memZero w.base w.limit s))) := by
  have noPosns : maskPosns 0 = [] := by decide
  have ends : scrubReady s { ctx := some k, ticket := 0, windows := [w], posns := 0 } = true := by rw [scrubReady, noPosns]; rfl
  have ready : placeOf (scrubReady s) s.hif.scrubs = some 0 := by rw [first, placeOf, if_pos ends]
  have found : s.hif.scrubs[0]? = some { ctx := some k, ticket := 0, windows := [w], posns := 0 } := by rw [first]; rfl
  show execFirmwareScrub s = _
  simp only [execFirmwareScrub, ready, found, noPosns]
  rfl

/-- Settles O33: each beginning by its own law; the two stages and the scrub read field by field. -/
theorem teardowns : Obligations.Teardowns := by
  refine ⟨fun s f c d port => ⟨exec_teardown, exec_ctxTeardown, fun _ => rfl, fun active td => beginTeardown_of_active active td,
    fun vf => exec_functionLevelReset_vf vf port, rfl, rfl, rfl, exec_contextResetTimeout⟩,
    fun s c t0 w => ⟨fun draining before done => ?change, fun draining changed => ?finish, fun rest k first => ?scrub⟩⟩
  case change =>
    refine ⟨_, exec_teardownGenerationChange draining before done, ?_, ?_, ?_, generationChanged_frame c s⟩
    · rw [getCtx_generationChanged]
      rfl
    · rw [getCtx_generationChanged]
      rfl
    · rw [getCtx_generationChanged]
      simp [recordsOpen, nextGeneration]
  case finish =>
    obtain ⟨status, recorded, ⟨frame, scrubs, gen⟩, ends⟩ := exec_teardownFinish draining changed
    obtain ⟨held, listed, mem, cells⟩ := freed_fields c (getCtx s c) status recorded
    have freedCtx := getCtx_freed c (getCtx s c) status recorded
    refine ⟨_, ends, by rw [freedCtx]; rfl, ?_, by rw [freedCtx]; rfl, by rw [freedCtx]; rfl, by rw [freedCtx]; rfl, ?_, ?_, ?_, ?_⟩
    · rw [freedCtx]
      exact gen
    · rw [held]
      exact congrArg (fun t : State => t.step.held.filter (fun h => h.ctx != c)) frame
    · rw [listed, scrubs]
    · exact mem.trans (congrArg State.mem frame :)
    · exact cells.trans (congrArg State.cells frame :)
  case scrub =>
    refine ⟨_, exec_firmwareScrub first, ?_, get_memZero w.base w.limit s, rfl, rfl⟩
    simp [memZero, first]

end Sys2Proof.Machine
end

section
/-! PROOFS. The vector operations that an idle D unit takes and that are no reductions: the elementwise ones, PACK4, FCHECK and STCLOSE
(R111, R113, R139, R145). -/

namespace Sys2Proof.Machine

open Sys2Proof.Laws

/-! ### What the D unit runs for each code (R111, R113, R139, R145) -/

section Codes
variable (n : Nat) (o : UnitOp) (s : State)

/-- The rows of an operation's source at an offset, as it reads them when it starts. -/
def opSource (off : BitVec 20) : List Row :=
  areaF32 s.mem (spBase n) off.toNat (fmtAt o.word 30 27) (fld o.word 8 0 + 1)

theorem runVop_elementwise {v : Nat} (code : wVopc o.word = v) (low : v ≤ 0x12) :
    runVop n o s = writeRows n o (elementwiseRows v (opSource n o s o.a) (if isBinary v then opSource n o s o.b else [])) s := by
  simp only [runVop, code]
  rw [if_neg (by omega), if_neg (by omega), if_neg (by omega), if_pos low]
  rfl

theorem runVop_pack4 (code : wVopc o.word = 0x13) :
    runVop n o s = { s with
      mem := spWrite s.mem (spBase n) o.c.toNat (pack4Bytes s.mem (spBase n) o.a.toNat (fld o.word 8 0 + 1)) } := by
  simp [runVop, code]

theorem runVop_fcheck (code : wVopc o.word = 0x30) :
    runVop n o s = if bit o.word 21 then
      observeSlot n (fld o.word 20 9) (fmtAt o.word 30 27) ((opSource n o s o.a).flatten.map (fun x => ⟨x, false, false⟩)) s
      else s := by
  simp [runVop, code, opSource, fmtAt]

theorem runVop_stclose (code : wVopc o.word = 0x31) : runVop n o s = runStclose n o s := by
  simp [runVop, code]

end Codes

/-! ### Elementwise operations (R111) -/

/-- The function `f` is what the code `v` does to an element of each source, the second read as 0 where the code takes one source only,
and `row0` says whether the second comes from row 0 alone. -/
structure ElementwiseCode (v : Nat) (row0 : Bool) (f : BitVec 32 → BitVec 32 → BitVec 32) : Prop where
  code : v ≤ 0x12
  second : usesRow0 v = row0
  value : ∀ a b, elementwise v a (if isBinary v then b else 0) = some (f a b)

theorem ElementwiseCode.rows {v : Nat} {row0 : Bool} {f : BitVec 32 → BitVec 32 → BitVec 32} (law : ElementwiseCode v row0 f)
    (a b : List Row) :
    elementwiseRows v a (if isBinary v then b else []) = (List.range a.length).map (fun p => (List.range 64).map (fun e =>
      f ((a.getD p []).getD e 0) ((b.getD (if row0 then 0 else p) []).getD e 0))) := by
  have second : ∀ p e, (secondRow v (if isBinary v then b else []) p).getD e 0 =
      if isBinary v then (b.getD (if row0 then 0 else p) []).getD e 0 else 0 := by
    intro p e
    rw [secondRow, law.second]
    cases isBinary v <;> cases row0 <;> simp
  simp only [elementwiseRows, elementwiseRow, second, law.value, Option.getD_some]

/-! ### What FCHECK reads (R137, R145) -/

/-- An FCHECK keeps the number of non-finite elements of its source. -/
theorem checkCount_of_fcheck (s : State) (c : CellId) (r : Run) {w : BitVec 64} (err : ReadErr) (op : wOp w = 0x19)
    (code : wVopc w = 0x30) :
    checkCount s (cellNum c) (newOp r w [] err 0) = nonFiniteCount (vopSource s c r w 48 45) := by
  have op' : wOp (newOp r w [] err 0).word = 0x19 := op
  have code' : wVopc (newOp r w [] err 0).word = 0x30 := code
  simp only [checkCount, op', code', decide_true, Bool.and_true, if_true]
  rfl

/-- Counting what a fetch corrected leaves what the statistics of a slot observe. -/
theorem partialsSeen_fetched (s : State) (c : CellId) (e : ReadErr) (w : BitVec 64) (f : Fmt) (seen : List Seen) :
    partialsSeen (fetched s c e) c w f seen = partialsSeen s c w f seen := by
  have config : (getPos (fetched s c e) c.posn.val).slotCfg = (getPos s c.posn.val).slotCfg := by
    simp [fetched, countCorrectedCell, cellPosn_cellNum, getPos]
  simp only [partialsSeen, config]
  rfl

/-! ### How each operation starts in an idle D unit -/

theorem word_of_vopIssues {s : State} {c : CellId} {r : Run} {w : BitVec 64} {v : Nat} (issue : vopIssues s c r w v) :
    wOp w = 0x19 ∧ wVopc w = v := by
  obtain ⟨-, -, op, code, -, -⟩ := issue
  exact ⟨op, code⟩

section Starts
variable {s : State} {c : CellId} {r : Run} {w : BitVec 64} {e er : ReadErr} (good : e.uncorrected = false)
include good

/-- A vector operation other than FCHECK runs with no count to keep. -/
theorem exec_vop_starts {i : Instr} {v : Nat} (row : (i, v) ∈ vopRows c e er) (issue : vopIssues s c r w v) (other : v ≠ 0x30) :
    exec i s = .next (storageError (cellNum c) er (runVop (cellNum c) (startedOp r w er 0)
      (issued (fetched s c e) c r w (fun k => { k with unitD := [startedOp r w er 0] })))) := by
  obtain ⟨-, code⟩ := word_of_vopIssues issue
  rw [exec_vopRow row, vopRow_starts s c r w v e er issue good, checkCount_of_no_fcheck s c r w v er code other]

theorem exec_elementwise {i : Instr} {v : Nat} {row0 : Bool} {f : BitVec 32 → BitVec 32 → BitVec 32}
    (row : (i, v) ∈ vopRows c e er) (law : ElementwiseCode v row0 f) (issue : vopIssues s c r w v) :
    let a := vopSource s c r w 48 45
    let b := vopSource s c r w 44 41
    let rows := (List.range (fld w 8 0 + 1)).map (fun p => (List.range 64).map (fun e =>
      f ((a.getD p []).getD e 0) ((b.getD (if row0 then 0 else p) []).getD e 0)))
    let dst := encodeArea (fmtAt w 26 23) (bit w 22) rows []
    exec i s = .next (vopStarted (fetched s c e) c r w er dst.bytes (fmtAt w 26 23) dst.seen) := by
  intro a b rows dst
  obtain ⟨-, code⟩ := word_of_vopIssues issue
  have result : elementwiseRows v a (if isBinary v then b else []) = rows := by
    rw [law.rows a b, show a.length = fld w 8 0 + 1 from areaF32_length ..]
  have low := law.code
  rw [exec_vop_starts good row issue (by omega), runVop_elementwise _ _ _ code low]
  show Host.Outcome.next (storageError _ _ (writeRows _ _ (elementwiseRows v a (if isBinary v then b else [])) _)) = _
  rw [result, writeRows_started]

theorem exec_pack4 (issue : vopIssues s c r w 0x13) :
    exec (.pack4 ⟨c, e, er⟩) s = .next (storageError (cellNum c) er
      { issued (fetched s c e) c r w (fun k => { k with unitD := [startedOp r w er 0] }) with
        mem := spWrite s.mem (spBase (cellNum c)) (areg r (fld w 40 37)).toNat
          (pack4Bytes s.mem (spBase (cellNum c)) (areg r (fld w 48 45)).toNat (fld w 8 0 + 1)) }) := by
  obtain ⟨-, code⟩ := word_of_vopIssues issue
  rw [exec_vop_starts (er := er) good (by simp [vopRows]) issue (by decide), runVop_pack4 _ _ _ code]
  rfl

/-- FCHECK writes nothing: its unit keeps the count, and its slot's partial sees what was read (R137, R145). -/
theorem exec_fcheck (issue : vopIssues s c r w 0x30) :
    let rows := vopSource s c r w 48 45
    exec (.fcheck ⟨c, e, er⟩) s = .next (storageError (cellNum c) er (issued (fetched s c e) c r w (fun k => { k with
      unitD := [startedOp r w er (nonFiniteCount rows)]
      partials := partialsSeen s c w (fmtAt w 30 27) (rows.flatten.map (fun x => ⟨x, false, false⟩)) }))) := by
  intro rows
  obtain ⟨op, code⟩ := word_of_vopIssues issue
  rw [show exec (.fcheck ⟨c, e, er⟩) s = .next (vopRow ⟨c, e, er⟩ 0x30 s) from exec_vopRow (by simp [vopRows]) s,
    vopRow_starts s c r w _ e er issue good, checkCount_of_fcheck s c r er op code, runVop_fcheck _ _ _ code,
    ← partialsSeen_fetched s c e]
  exact congrArg (fun t => Host.Outcome.next (storageError (cellNum c) er t))
    (observeSlot_issued (fetched s c e) c r w _ _ _ _ _ rfl)

/-- STCLOSE starts the cell's partial of its slot anew, and the message that holds the old one waits at the position's base controller
(R139, R141). -/
theorem exec_stclose (issue : vopIssues s c r w 0x31) :
    let slot := fld w 20 9
    exec (.stclose ⟨c, e, er⟩) s = .next (storageError (cellNum c) er (modPos c.posn.val (fun p => { p with
      partialQ := p.partialQ ++ [{ slot := slot, p := SMap.get Partial.init (getCell s (cellNum c)).partials slot
                                   step := (stepTag s r.step).1, attempt := (stepTag s r.step).2 }] })
      (issued (fetched s c e) c r w (fun k => { k with
        unitD := [startedOp r w er 0], partials := SMap.set Partial.init k.partials slot Partial.init })))) := by
  intro slot
  obtain ⟨-, code⟩ := word_of_vopIssues issue
  rw [exec_vop_starts (er := er) good (by simp [vopRows]) issue (by decide), runVop_stclose _ _ _ code, runStclose, cellPosn_cellNum,
    issued_eq_putCell, getCell_putCell, modCell_putCell]
  rfl

end Starts

/-- Settles O13: each listed operation is one of the first 0x13 rows of the D unit (R111), and its code has the listed function. -/
theorem elementwiseOperations : Obligations.ElementwiseOperations := by
  intro s c e er r w i v row0 f mem issue good
  have row : (i, v) ∈ vopRows c e er :=
    List.mem_of_mem_take (i := 0x13) (List.mem_map_of_mem (f := fun x => (x.1, x.2.1)) mem)
  have law : ElementwiseCode v row0 f := by
    refine List.forall_iff_forall_mem.mp (?_ : List.Forall (fun x => ElementwiseCode x.2.1 x.2.2.1 x.2.2.2) _) _ mem
    and_intros <;> exact ⟨Nat.le_of_ble_eq_true rfl, rfl, fun _ _ => rfl⟩
  exact exec_elementwise good row law issue

/-- Settles O15: each of the three operations by its own law. -/
theorem otherVectorOperations : Obligations.OtherVectorOperations := by
  intro s c e er r w good
  exact ⟨exec_pack4 good, exec_fcheck good, exec_stclose good⟩

end Sys2Proof.Machine
end

section
/-! PROOFS. A pass of form MN in a cell outside every gang: the sites of its bank, what its start counts, and what it leaves alone
(R42, R47, R66, R78, R122). -/

namespace Sys2Proof.Machine

open Sys2Proof.Laws

/-! ### A cell outside every gang (R47) -/

section Alone
variable {s : State} {n : Nat} (alone : (getCell s n).cfg.gang = none)
include alone

theorem gangCell_origin_alone : gangCell s n 0 0 = n := by
  simp only [gangCell, gangOf, alone, Option.getD_none, cellAt, cellPosn, cellX, cellY, BitVec.toNat_ofNat]
  omega

theorem shapeDims_alone : shapeDims (gangOf s n).shape = (1, 1) := by
  simp [gangOf, alone, shapeDims]

theorem gangCells_alone : gangCells s n = [n] := by
  simp [gangCells, shapeDims_alone alone, gangCell_origin_alone alone]

/-- A cell alone writes the one block of a pass of form MN, from its own operands. -/
theorem passMN_alone (i : PassInfo) (o : UnitOp) :
    passMN i o n s = accWrite n i.bank (cellBlock s.mem i o i.k n n (passStart s i n)) s := by
  simp [passMN, shapeDims_alone alone, forAll, gangCell_origin_alone alone]

/-- A first pass into a bank that nothing drains may start: on a FULL bank with KEEP, on an EMPTY one without (R52, R78). -/
theorem passGate_alone {i : PassInfo} (bank : (bankOf (getCell s n) i.bank).st = if i.keep then .full else .empty)
    (idle : draining (getCell s n) i.bank = false) : passGate s n i none = .go := by
  cases keep : i.keep <;> simp [passGate, gangCells_alone alone, keep, bank, idle]

end Alone

/-! ### The registers of a bank (R42, R122) -/

/-- Rows of one length, laid one after another, hold each value at its row's place. -/
theorem getD_flatten_of_uniform {α : Type} {n : Nat} {rows : List (List α)} (uniform : ∀ r ∈ rows, r.length = n) (d : α)
    (p : Nat) {q : Nat} (hq : q < n) : rows.flatten.getD (n * p + q) d = (rows.getD p []).getD q d := by
  induction rows generalizing p with
  | nil => simp
  | cons r rows ih =>
    have length : r.length = n := uniform r List.mem_cons_self
    cases p with
    | zero => simp [List.getElem?_append_left (length ▸ hq)]
    | succ p =>
      have beyond : r.length ≤ n * (p + 1) + q := by rw [length, Nat.mul_succ]; omega
      have rest : n * (p + 1) + q - r.length = n * p + q := by rw [length, Nat.mul_succ]; omega
      rw [List.flatten_cons, List.getD_append_right _ _ _ _ beyond, rest,
        ih (fun r hr => uniform r (List.mem_cons_of_mem _ hr)), List.getD_cons_succ]

section Block
variable (rule : PairRule) (c0 : Nat → Nat → BitVec 32) (as bs : List (List FVal)) (sas sbs : List (List Nat))

theorem length_row_of_mem_blockPass {r : List (BitVec 32)} (h : r ∈ blockPass rule c0 as bs sas sbs) : r.length = 64 := by
  obtain ⟨p, -, rfl⟩ := List.mem_map.mp h
  simp

theorem length_flatten_blockPass : (blockPass rule c0 as bs sas sbs).flatten.length = 4096 := by
  have lengths : (blockPass rule c0 as bs sas sbs).map List.length = List.replicate 64 64 :=
    List.eq_replicate_iff.mpr ⟨by simp [blockPass], fun x hx => by
      obtain ⟨r, hr, rfl⟩ := List.mem_map.mp hx
      exact length_row_of_mem_blockPass rule c0 as bs sas sbs hr⟩
  rw [List.length_flatten, lengths, List.sum_replicate, smul_eq_mul]

theorem getD_flatten_blockPass {p q : Nat} (hp : p < 64) (hq : q < 64) :
    (blockPass rule c0 as bs sas sbs).flatten.getD (64 * p + q) 0 =
      siteSum rule (c0 p q) (siteSteps (as.getD p []) (bs.getD q []) (sas.getD p []) (sbs.getD q [])) := by
  rw [getD_flatten_of_uniform (fun _ h => length_row_of_mem_blockPass rule c0 as bs sas sbs h) 0 p hq]
  simp [blockPass, hp, hq]

/-- A block that has been written reads back site by site. -/
theorem accAt_accWrite_blockPass (s : State) (n : Nat) (b : Bool) {p q : Nat} (hp : p < 64) (hq : q < 64) :
    accAt (accWrite n b (blockPass rule c0 as bs sas sbs) s) n b p q =
      siteSum rule (c0 p q) (siteSteps (as.getD p []) (bs.getD q []) (sas.getD p []) (sbs.getD q [])) := by
  have inside : 64 * p + q < (blockPass rule c0 as bs sas sbs).flatten.length := by
    rw [length_flatten_blockPass]; omega
  rw [accAt, accWrite, Nat.add_assoc, SMap.get_writeRun_in _ _ _ _ _ inside, getD_flatten_blockPass rule c0 as bs sas sbs hp hq]

/-- A block changes no register outside the 4096 of its bank. -/
theorem get_accWrite_blockPass_out (s : State) (n : Nat) (b : Bool) {a : Nat} (out : a < accBase n b ∨ accBase n b + 4096 ≤ a) :
    SMap.get 0 (accWrite n b (blockPass rule c0 as bs sas sbs) s).acc a = SMap.get 0 s.acc a :=
  SMap.get_writeRun_out _ _ _ _ _ (by rwa [length_flatten_blockPass])

end Block

theorem bankOf_setBank_same (b : Bool) (k : Bank) (c : Cell) : bankOf (setBank b k c) b = k := by
  cases b <;> rfl

theorem bankOf_setBank_other (b : Bool) (k : Bank) (c : Cell) : bankOf (setBank b k c) (!b) = bankOf c (!b) := by
  cases b <;> rfl

theorem unitM_setBank (b : Bool) (k : Bank) (c : Cell) : (setBank b k c).unitM = c.unitM := by
  cases b <;> rfl

/-! ### What a pass leaves as it starts (R59, R66, R78) -/

/-- A pass as the array holds it: started, with the cycles that it takes. -/
def passRunning (s : State) (n : Nat) (o : UnitOp) (i : PassInfo) : UnitOp :=
  { o with started := true, left := busyCycles s n i o false }

/-- The cell of a pass that starts: the pass alone in unit M, and the kindling of the gap before it over. -/
def passCell (s : State) (n : Nat) (o : UnitOp) (i : PassInfo) : Cell :=
  { getCell s n with unitM := [passRunning s n o i], kPhase := .off, kLevel := 8 }

/-- The state after a pass of form MN has started in a cell alone: its block, its bank BUSY, and the count of what it corrected. -/
def passStarted (s : State) (n : Nat) (o : UnitOp) (i : PassInfo) : State :=
  countCorrectedCell n o.err.corrected
    (accWrite n i.bank (cellBlock s.mem i o i.k n n (passStart s i n))
      (putCell s n (setBank i.bank { st := .busy, kn := false } (passCell s n o i))))

theorem getCell_passStarted (s : State) (n : Nat) (o : UnitOp) (i : PassInfo) :
    getCell (passStarted s n o i) n = setBank i.bank { st := .busy, kn := false } (passCell s n o i) :=
  getCell_putCell s n _

theorem storageError_of_corrected (n : Nat) {e : ReadErr} (good : e.uncorrected = false) (s : State) :
    storageError n e s = countCorrectedCell n e.corrected s := by
  simp [storageError, good]

theorem startPass_alone {s : State} {n : Nat} {i : PassInfo} {o : UnitOp} (alone : (getCell s n).cfg.gang = none)
    (mn : i.kn = false) (whole : i.seg = false) (good : o.err.uncorrected = false) :
    startPass n i o s = countCorrectedCell n o.err.corrected (modCell n (setBank i.bank { st := .busy, kn := false })
      (accWrite n i.bank (cellBlock s.mem i o i.k n n (passStart s i n)) s)) := by
  have cells : ∀ rows, gangCells (accWrite n i.bank rows s) n = [n] := fun _ => gangCells_alone alone
  simp only [startPass, mn, whole, passMN_alone alone, storageError_of_corrected n good, cells, forAll, List.foldl_cons,
    List.foldl_nil, Bool.false_and, Bool.false_eq_true, if_false]

theorem endKindling_off {s : State} {n : Nat} (gap : Nat) (off : (getCell s n).kPhase = .off) :
    endKindling n gap s = putCell s n { getCell s n with kPhase := .off, kLevel := 8 } := by
  simp [endKindling, off, modCell_eq_putCell]

theorem tryStartM_of_absent {s : State} {n place : Nat} (absent : (getCell s n).unitM[place]? = none) : tryStartM n place s = s := by
  simp [tryStartM, absent]

section Start
variable {s : State} {n : Nat} {o : UnitOp} {i : PassInfo} (queue : (getCell s n).unitM = [o]) (fresh : o.started = false)
  (info : passInfo o.word = some i) (whole : i.seg = false) (flat : ramped s = false) (off : (getCell s n).kPhase = .off)
  (gate : passGate s n i none = .go)
include queue fresh info whole flat off gate

/-- A pass that its bank lets start finds the array warm where no ramp is in force. -/
theorem tryStartM_of_go :
    tryStartM n 0 s = startPass n i (passRunning s n o i) (putCell s n (passCell s n o i)) := by
  have warmed : warm s (getCell s n) = true := by simp [warm, flat]
  simp only [tryStartM, queue, fresh, warmed, info, gate, whole, endKindling_off o.gap off, modCell_putCell, mapAt,
    List.getElem?_cons_zero, ne_eq, not_true_eq_false, decide_false, Bool.false_and, Bool.not_true, Bool.false_eq_true, if_false,
    if_true, Option.isSome_none]
  rfl

/-- The only pass that waits in unit M of a cell alone starts where its bank allows it. -/
theorem startM_alone (alone : (getCell s n).cfg.gang = none) (mn : i.kn = false) (good : o.err.uncorrected = false) :
    startM n s = passStarted s n o i := by
  have first : tryStartM n 0 s = passStarted s n o i := by
    have loose : (getCell (putCell s n (passCell s n o i)) n).cfg.gang = none := by rwa [getCell_putCell]
    rw [tryStartM_of_go queue fresh info whole flat off gate, startPass_alone (o := passRunning s n o i) loose mn whole good]
    exact congrArg (fun t => countCorrectedCell n o.err.corrected (accWrite n i.bank _ t)) (modCell_putCell n _ s _)
  have second : (getCell (passStarted s n o i) n).unitM[1]? = none := by
    rw [getCell_passStarted, unitM_setBank]
    rfl
  rw [startM, first, tryStartM_of_absent second]

end Start

/-- Settles O12: the pass starts, and its block, its cell and the rest of the state are read from what its start leaves. -/
theorem passFillsBank : Obligations.PassFillsBank := by
  intro s c o i n k queue fresh good info mn whole alone flat off bank idle t as bs
  have started : t = passStarted s n o i :=
    startM_alone queue fresh info whole flat off (passGate_alone alone bank idle) alone mn good
  rw [started, getCell_passStarted]
  refine ⟨fun p q hp hq => ?_, fun a out => ?_, ?_, ?_, fun m apart => ?_, ?_⟩
  · exact accAt_accWrite_blockPass _ _ _ _ _ _ _ n i.bank hp hq
  · exact get_accWrite_blockPass_out _ _ _ _ _ _ _ n i.bank out
  · rw [bankOf_setBank_same]
  · rw [bankOf_setBank_other]
    rfl
  · exact getCell_putCell_ne apart _
  · rfl

end Sys2Proof.Machine
end

section
/-! PROOFS. The across and down reductions and TOPK as an idle D unit takes them: the rows and the positions that each writes from
DREG, and what the statistics see (R126 to R131). -/

namespace Sys2Proof.Machine

open Sys2Proof.Laws

/-! ### Reductions (R126 to R130) -/

/-- The function `f` gives the rows that the reduction of code `v` writes from those of its source. -/
structure ReductionCode (v : Nat) (f : List Row → List Row) : Prop where
  low : 0x20 ≤ v
  high : v ≤ 0x27
  rows : ∀ a, reduceRows v a = some (f a)

theorem runVop_reduction (n : Nat) (o : UnitOp) (s : State) {v : Nat} {f : List Row → List Row} (code : wVopc o.word = v)
    (law : ReductionCode v f) : runVop n o s = writeRows n o (f (opSource n o s o.a)) s := by
  obtain ⟨low, high, rows⟩ := law
  simp only [runVop, code]
  rw [if_neg (by omega), if_neg (by omega), if_neg (by omega), if_neg (by omega), if_neg (by omega), rows]
  rfl

theorem exec_reduction {s : State} {c : CellId} {r : Run} {w : BitVec 64} {e er : ReadErr} {i : Instr} {v : Nat}
    {f : List Row → List Row} (row : (i, v) ∈ vopRows c e er) (law : ReductionCode v f) (issue : vopIssues s c r w v)
    (good : e.uncorrected = false) :
    let dst := encodeArea (fmtAt w 26 23) (bit w 22) (f (vopSource s c r w 48 45)) []
    exec i s = .next (vopStarted (fetched s c e) c r w er dst.bytes (fmtAt w 26 23) dst.seen) := by
  intro dst
  have high := law.high
  rw [exec_vop_starts good row issue (by omega), runVop_reduction _ _ _ (word_of_vopIssues issue).2 law]
  exact congrArg Host.Outcome.next (writeRows_started (fetched s c e) c r w er (f (vopSource s c r w 48 45)))

/-! ### TOPK (R131) -/

theorem runVop_topK (n : Nat) (o : UnitOp) (s : State) {k : Nat} (code : wVopc o.word = 0x27 + k) (low : 1 ≤ k) (high : k ≤ 8) :
    runVop n o s = runTopK n o k (opSource n o s o.a) s := by
  simp only [runVop, code]
  rw [if_neg (by omega), if_neg (by omega), if_neg (by omega), if_neg (by omega), if_pos (by omega), Nat.add_sub_cancel_left]
  rfl

/-- The value row and the position row that a TOPK writes, and the selected values that it shows the statistics. -/
theorem runTopK_started (s : State) (c : CellId) (r : Run) (w : BitVec 64) (err : ReadErr) (k : Nat) (rows : List Row) :
    let cand := topK k 0 rows.flatten []
    storageError (cellNum c) err (runTopK (cellNum c) (startedOp r w err 0) k rows
      (issued s c r w (fun k => { k with unitD := [startedOp r w err 0] }))) =
    vopStarted s c r w err (((topRows cand).1 ++ (topRows cand).2).flatMap (fun v => leBytes 4 v.toNat)) .fp32
      (cand.map (fun v => ⟨v.1, false, false⟩)) := by
  intro cand
  exact congrArg (storageError (cellNum c) err) (observeSlot_issued s c r w [startedOp r w err 0] _ .fp32 _ _ rfl)

theorem exec_topK {s : State} {c : CellId} {r : Run} {w : BitVec 64} {e er : ReadErr} {i : Instr} {k : Nat}
    (row : (i, 0x27 + k) ∈ vopRows c e er) (low : 1 ≤ k) (high : k ≤ 8) (issue : vopIssues s c r w (0x27 + k))
    (good : e.uncorrected = false) :
    let cand := topK k 0 (vopSource s c r w 48 45).flatten []
    exec i s = .next (vopStarted (fetched s c e) c r w er
      (((topRows cand).1 ++ (topRows cand).2).flatMap (fun v => leBytes 4 v.toNat)) .fp32
      (cand.map (fun v => ⟨v.1, false, false⟩))) := by
  intro cand
  rw [exec_vop_starts good row issue (by omega), runVop_topK _ _ _ (word_of_vopIssues issue).2 low high]
  exact congrArg Host.Outcome.next (runTopK_started (fetched s c e) c r w er k (vopSource s c r w 48 45))

/-- Settles O14: the reductions are the rows from code 0x20 on and TOPK1 to TOPK8 those from 0x28 on (R126, R131), and each code of
a reduction has the listed rows. -/
theorem reductionsAndSelects : Obligations.ReductionsAndSelects := by
  constructor
  · intro s c e er r w i v f mem issue good
    have row : (i, v) ∈ vopRows c e er :=
      List.mem_of_mem_drop (i := 20) (List.mem_of_mem_take (i := 8) (List.mem_map_of_mem (f := fun x => (x.1, x.2.1)) mem))
    have law : ReductionCode v f := by
      refine List.forall_iff_forall_mem.mp (?_ : List.Forall (fun x => ReductionCode x.2.1 x.2.2) _) _ mem
      and_intros <;> exact ⟨Nat.le_of_ble_eq_true rfl, Nat.le_of_ble_eq_true rfl, fun a => by simp [reduceRows, Function.comp_def]⟩
    exact exec_reduction row law issue good
  · intro s c e er r w i k mem issue good
    have row : (i, 0x27 + k) ∈ vopRows c e er :=
      List.mem_of_mem_drop (i := 28) (List.mem_of_mem_take (i := 8) (List.mem_map_of_mem (f := fun x => (x.1, 0x27 + x.2)) mem))
    have place : k ∈ List.range' 1 8 := List.mem_map_of_mem (f := Prod.snd) mem
    obtain ⟨low, high⟩ := List.mem_range'_1.mp place
    exact exec_topK row low (by omega) issue good

end Sys2Proof.Machine
end

section
/-! PROOFS. The bytes of a statistics record: where its histogram field lies, the shift it carries, and the bins it holds (R141,
R142). -/

namespace Sys2Proof

/-! ### The entries of a table in canonical form -/

/-- What a table reads at an index is its default or one of its entries. -/
theorem SMap.get_eq_default_or_mem {α : Type} (d : α) (m : SMap α) (i : Nat) :
    SMap.get d m i = d ∨ (i, SMap.get d m i) ∈ m := by
  induction m with
  | nil => exact .inl rfl
  | cons kv t ih =>
    rw [SMap.get]
    split
    next at_ => exact .inr (at_ ▸ List.mem_cons_self ..)
    next => exact ih.imp_right (List.mem_cons_of_mem _)

/-- An entry of a table in canonical form is what the table reads at its index. -/
theorem SMap.get_of_mem {α : Type} [DecidableEq α] (d : α) {m : SMap α} {kv : Nat × α} (w : SMap.wf d m = true) (h : kv ∈ m) :
    SMap.get d m kv.1 = kv.2 := by
  suffices all : ∀ lo, SMap.wfFrom d lo m = true → lo ≤ kv.1 ∧ SMap.get d m kv.1 = kv.2 from (all 0 w).2
  clear w
  induction m with
  | nil => cases h
  | cons head t ih =>
    intro lo w
    simp only [SMap.wfFrom, Bool.and_eq_true, decide_eq_true_eq] at w
    obtain ⟨⟨above, -⟩, rest⟩ := w
    rcases List.mem_cons.mp h with rfl | tail
    · exact ⟨above, if_pos rfl⟩
    · obtain ⟨later, read⟩ := ih tail _ rest
      exact ⟨by omega, (if_neg (by omega)).trans read⟩

end Sys2Proof

namespace Sys2Proof.Machine

/-! ### Little-endian bytes and packed codes (R11, R141) -/

@[simp] theorem length_leBytes (n v : Nat) : (leBytes n v).length = n := by
  induction n generalizing v with
  | zero => rfl
  | succ n ih => rw [leBytes, List.length_cons, ih]

/-- Bytes that a number was laid in hold it modulo their span. -/
@[simp] theorem leNat_leBytes (n v : Nat) : leNat (leBytes n v) = v % 256 ^ n := by
  induction n generalizing v with
  | zero => exact (Nat.mod_one v).symm
  | succ n ih => rw [leBytes, leNat, ih, BitVec.toNat_ofNat, Nat.pow_succ' (n := n), Nat.mod_mul (a := 256)]

theorem packCodes_lt (w : Nat) (l : List Nat) : packCodes w l < 2 ^ (w * l.length) := by
  induction l with
  | nil => exact Nat.one_pos
  | cons c t ih =>
    have low : c % 2 ^ w < 2 ^ w := Nat.mod_lt _ (Nat.two_pow_pos w)
    calc c % 2 ^ w + 2 ^ w * packCodes w t
        < 2 ^ w * (packCodes w t + 1) := by rw [Nat.mul_succ]; omega
      _ ≤ 2 ^ w * 2 ^ (w * t.length) := Nat.mul_le_mul_left _ ih
      _ = 2 ^ (w * (c :: t).length) := by rw [← Nat.pow_add, List.length_cons, Nat.mul_succ, Nat.add_comm]

/-- Packed codes that fill their bytes read back whole. -/
theorem leNat_leBytes_packCodes {w n : Nat} {l : List Nat} (fill : w * l.length = 8 * n) :
    leNat (leBytes n (packCodes w l)) = packCodes w l := by
  have wide := packCodes_lt w l
  rw [fill, Nat.pow_mul] at wide
  rw [leNat_leBytes, Nat.mod_eq_of_lt wide]

/-- The code at a place of packed codes. -/
theorem packCodes_code (w : Nat) (l : List Nat) (b : Nat) : packCodes w l / 2 ^ (w * b) % 2 ^ w = l.getD b 0 % 2 ^ w := by
  induction l generalizing b with
  | nil => simp [packCodes]
  | cons c t ih =>
    cases b with
    | zero => simp [packCodes]
    | succ b =>
      rw [packCodes, Nat.mul_succ, Nat.add_comm (w * b), Nat.pow_add, ← Nat.div_div_eq_div_mul,
        Nat.add_mul_div_left _ _ (Nat.two_pow_pos w), Nat.div_eq_of_lt (Nat.mod_lt _ (Nat.two_pow_pos w)), Nat.zero_add, ih,
        List.getD_cons_succ]

/-! ### The shift (R142) -/

/-- Every count fits 20 bits once it is shifted right by `k`. -/
def fitsShift (hist : SMap Nat) (k : Nat) : Bool := hist.all (fun kv => decide (kv.2 / 2 ^ k ≤ 0xFFFFF))

theorem fitsShift_iff {hist : SMap Nat} (w : SMap.wf 0 hist = true) (bins : ∀ kv ∈ hist, kv.1 < 32) (k : Nat) :
    fitsShift hist k = true ↔ ∀ b, b < 32 → SMap.get 0 hist b / 2 ^ k ≤ 0xFFFFF := by
  simp only [fitsShift, List.all_eq_true, decide_eq_true_eq]
  constructor
  · intro fits b _
    rcases SMap.get_eq_default_or_mem 0 hist b with none | entry
    · simp [none]
    · exact fits _ entry
  · intro fits kv entry
    have := fits kv.1 (bins kv entry)
    rwa [SMap.get_of_mem 0 w entry] at this

theorem fitsShift_twelve {hist : SMap Nat} (stopped : ∀ kv ∈ hist, kv.2 ≤ countMax) : fitsShift hist 12 = true := by
  simp only [fitsShift, List.all_eq_true, decide_eq_true_eq]
  intro kv entry
  exact (Nat.div_le_div_right (stopped kv entry)).trans (by decide)

/-- HSHIFT is at most 12, it brings the counts to 20 bits, and no smaller shift does. -/
theorem histShift_least {hist : SMap Nat} (stopped : ∀ kv ∈ hist, kv.2 ≤ countMax) :
    histShift hist ≤ 12 ∧ fitsShift hist (histShift hist) = true ∧ ∀ k, k < histShift hist → fitsShift hist k = false := by
  obtain ⟨shift, found⟩ : ∃ k, (List.range 13).find? (fitsShift hist) = some k :=
    Option.isSome_iff_exists.mp (List.find?_isSome.mpr ⟨12, by decide, fitsShift_twelve stopped⟩)
  have least : histShift hist = shift := congrArg (·.getD 12) found
  rw [List.find?_range_eq_some] at found
  obtain ⟨fits, bound, smaller⟩ := found
  rw [least]
  exact ⟨by have := List.mem_range.mp bound; omega, fits, fun k hk => by simpa using smaller k hk⟩

/-! ### The bytes of a record (R141) -/

@[simp] theorem length_recordBytes (g : RecordTag) (p : Partial) : (recordBytes g p).length = 128 := by
  simp [recordBytes]

/-- HIST takes the last 80 bytes of a record. -/
theorem recordBytes_hist (g : RecordTag) (p : Partial) : (recordBytes g p).drop 0x30 = leBytes 80 (histField p.hist) := by
  rw [recordBytes, List.drop_left' (by simp only [List.length_append, length_leBytes])]

/-- HSHIFT is bits [4:0] of the word at 0x28 of a record. -/
theorem recordBytes_shift (g : RecordTag) (p : Partial) (small : histShift p.hist < 32) :
    leNat (((recordBytes g p).drop 0x28).take 4) % 32 = histShift p.hist := by
  rw [recordBytes, List.append_assoc, List.append_assoc, List.drop_left' (by simp), List.take_left' (length_leBytes ..),
    leNat_leBytes]
  omega

/-- Bin `b` of HIST holds the count shifted right by HSHIFT, in the 20 bits from 20b on. -/
theorem histField_bin (hist : SMap Nat) {b : Nat} (bin : b < 32) (fits : SMap.get 0 hist b / 2 ^ histShift hist ≤ 0xFFFFF) :
    leNat (leBytes 80 (histField hist)) / 2 ^ (20 * b) % 2 ^ 20 = SMap.get 0 hist b / 2 ^ histShift hist := by
  rw [histField, leNat_leBytes_packCodes (by rw [List.length_map, List.length_range]), packCodes_code,
    List.getD_eq_getElem _ _ (by simpa using bin), List.getElem_map, List.getElem_range]
  exact Nat.mod_eq_of_lt (by omega)

/-- Settles O19: the search for HSHIFT ends at a shift of 12 at the latest, and finds the first that fits. -/
theorem histogramField : Obligations.HistogramField := by
  intro g p w entries bs shift count
  have bins : ∀ kv ∈ p.hist, kv.1 < 32 := fun kv h => (entries kv h).1
  obtain ⟨bound, fits, least⟩ := histShift_least fun kv h => (entries kv h).2
  have carried : shift = histShift p.hist := recordBytes_shift g p (by omega)
  rw [fitsShift_iff w bins] at fits
  rw [carried]
  refine ⟨length_recordBytes g p, bound, fits, fun k hk => ?_, fun b hb => ?_⟩
  · have fails := mt (fitsShift_iff w bins k).mpr (Bool.eq_false_iff.mp (least k hk))
    push Not at fails
    exact fails
  · rw [recordBytes_hist]
    exact histField_bin p.hist hb (fits b hb)

end Sys2Proof.Machine
end

section
/-! PROOFS. What a partial that arrives does to its slot, what a write of STAT_RING_TAIL frees, and how the error-rate watch counts
an occurrence and closes its window (R139, R143, R348 to R350). -/

namespace Sys2Proof.Machine

/-! ### Partials and the record ring (R139, R143) -/

section Partial
variable {s : State} {n : Nat} {m : PartialMsg} {rest : List PartialMsg} (head : (getPos s n).partialQ = m :: rest)
include head

/-- The oldest partial on its way leaves the queue and merges. -/
theorem takePartial_of_head : takePartial n s = mergeArrived n m (modPos n (fun q => { q with partialQ := rest }) s) := by
  simp only [takePartial, head]

variable (on : slotEn (SMap.get slotCfgInit (getPos s n).slotCfg m.slot) = true) (stats : s.pwr.modes.stats = true)
include on stats

/-- A partial that does not complete its record waits in its slot, merged with those before it. -/
theorem takePartial_merges
    (short : (SMap.get Merged.init (getPos s n).merged m.slot).count + 1 <
      slotCells (SMap.get slotCfgInit (getPos s n).slotCfg m.slot)) :
    let old := SMap.get Merged.init (getPos s n).merged m.slot
    takePartial n s = modPos n (fun q => { q with
      merged := SMap.set Merged.init q.merged m.slot { count := old.count + 1, p := mergePartials old.p m.p } })
      (modPos n (fun q => { q with partialQ := rest }) s) := by
  simp [takePartial_of_head head, mergeArrived, on, stats, Nat.not_le.mpr short]

/-- The partial that completes its record empties the slot and closes the record. -/
theorem takePartial_closes
    (full : slotCells (SMap.get slotCfgInit (getPos s n).slotCfg m.slot) ≤
      (SMap.get Merged.init (getPos s n).merged m.slot).count + 1) :
    takePartial n s = closeRecord n m.slot m.step m.attempt false
      (mergePartials (SMap.get Merged.init (getPos s n).merged m.slot).p m.p)
      (modPos n (fun q => { q with merged := SMap.set Merged.init q.merged m.slot Merged.init })
        (modPos n (fun q => { q with partialQ := rest }) s)) := by
  simp [takePartial_of_head head, mergeArrived, on, stats, full]

end Partial

/-- A value of STAT_RING_TAIL that frees records up to HEAD and not past it (R143). -/
def tailFits (p : Pos) (t : Nat) : Prop :=
  t < statRingSize p ∧ (t + statRingSize p - p.ringTail.toNat) % statRingSize p ≤
    (p.ringHead.toNat + statRingSize p - p.ringTail.toNat) % statRingSize p

theorem writeStatTail_of_fits {s : State} {n : Nat} {v : BitVec 32} (fits : tailFits (getPos s n) (fld v 15 0)) :
    writeStatTail n v s = modPos n (fun p => { p with ringTail := BitVec.ofNat 16 (fld v 15 0) }) s := by
  obtain ⟨inRing, upToHead⟩ := fits
  simp [writeStatTail, inRing, upToHead]

theorem writeStatTail_of_not_fits {s : State} {n : Nat} {v : BitVec 32} (past : ¬tailFits (getPos s n) (fld v 15 0)) :
    writeStatTail n v s = raise 0x0602 (posUnit n 0x22)
      { ctx := holderOf s n, posn := some n, arg0 := statTailOffset n % 4096 + 65536 * fld v 15 0 } s := by
  rw [writeStatTail, if_neg]
  · rfl
  · simpa [tailFits] using past

theorem exec_statRingTailWrite {s : State} {posn : Posn} (enabled : (getPos s posn.val).st = .enabled) (v : BitVec 32) :
    exec (.statRingTailWrite posn v) s = .next (writeStatTail posn.val v s) :=
  if_pos enabled

/-! ### One occurrence (R348 to R350) -/

section Add
variable (src : WatchSource) (b : BankEng)

@[simp] theorem watchAdd_window : (watchAdd src b).window = b.window := by cases src <;> rfl
@[simp] theorem watchAdd_advised : (watchAdd src b).advised = b.advised := by cases src <;> rfl
@[simp] theorem watchAdd_watchCfg : (watchAdd src b).watchCfg = b.watchCfg := by cases src <;> rfl

end Add

theorem watchPeriod_watchAdd (src : WatchSource) (s : State) : watchPeriod (modBank (watchAdd src) s) = watchPeriod s := by
  simp only [watchPeriod, modBank_bank, watchAdd_watchCfg]

theorem autoBank_of_manual {s : State} (manual : s.pwr.modes.autoBank = false) : autoBank s = s := by
  simp [autoBank, manual]

/-- A window raises one advisory and no more. -/
theorem advise_of_advised {s : State} (h : s.bank.advised = true) : advise s = s := by
  simp [advise, h]

/-- The first advisory of a window names the sources at their thresholds and the start of the window. -/
theorem advise_of_not_advised {s : State} (quiet : s.bank.advised = false) (manual : s.pwr.modes.autoBank = false) :
    advise s = raise 0x0901 (hubUnit 0x0C)
      { ctx := stepHolder s, arg0 := watchBits s, arg1 := s.bank.window * watchPeriod s }
      (modBank (fun b => { b with
        advised := true, advSrc := BitVec.ofNat 4 (watchBits s), advCount := satUp b.advCount 1 }) s) := by
  rw [advise, if_neg (by simp [quiet])]
  exact autoBank_of_manual manual

theorem watchTake_of_not_hit {s : State} {src : WatchSource} (h : watchHit (modBank (watchAdd src) s) src = false) :
    watchTake src s = modBank (watchAdd src) s :=
  if_neg (by simp [h])

/-- The first source of a window that reaches its threshold raises the advisory, on the counts with this occurrence. -/
theorem watchTake_advises {s : State} {src : WatchSource} (hit : watchHit (modBank (watchAdd src) s) src = true)
    (quiet : s.bank.advised = false) (manual : s.pwr.modes.autoBank = false) :
    let one := modBank (watchAdd src) s
    watchTake src s = raise 0x0901 (hubUnit 0x0C)
      { ctx := stepHolder s, arg0 := watchBits one, arg1 := s.bank.window * watchPeriod s }
      (modBank (fun b => { b with
        advised := true, advSrc := BitVec.ofNat 4 (watchBits one), advCount := satUp b.advCount 1 }) one) := by
  intro one
  have unraised : (modBank (watchAdd src) s).bank.advised = false := (watchAdd_advised src s.bank).trans quiet
  rw [watchTake, if_pos hit, advise_of_not_advised unraised manual, watchPeriod_watchAdd, modBank_bank, watchAdd_window]
  rfl

theorem watchTake_of_advised {s : State} {src : WatchSource} (hit : watchHit (modBank (watchAdd src) s) src = true)
    (again : s.bank.advised = true) : watchTake src s = modBank (watchAdd src) s :=
  (if_pos hit).trans (advise_of_advised ((watchAdd_advised src s.bank).trans again))

/-! ### Which window an occurrence counts in (R349) -/

theorem takeOccurrence_of_off {s : State} (off : bit s.bank.watchCfg 16 = false) (now : Nat) (src : WatchSource) (stamp : Nat) :
    takeOccurrence now src stamp s = s := by
  simp [takeOccurrence, off]

section Window
variable {s : State} {now stamp : Nat} (on : bit s.bank.watchCfg 16 = true)
  (still : (now - 10000) / watchPeriod s ≤ s.bank.window)
include on still

theorem takeOccurrence_of_present (src : WatchSource) (present : stamp / watchPeriod s = s.bank.window) :
    takeOccurrence now src stamp s = watchTake src s := by
  simp [takeOccurrence, on, Nat.not_lt.mpr still, present]

theorem takeOccurrence_of_next (src : WatchSource) (following : stamp / watchPeriod s = s.bank.window + 1) :
    takeOccurrence now src stamp s = modBank (fun b => { b with early := b.early ++ [src] }) s := by
  simp [takeOccurrence, on, Nat.not_lt.mpr still, following]

end Window

theorem deliverWatch_of_one {s : State} {src : WatchSource} {t : BitVec 64} (one : s.bank.arrivals = [(src, t)]) :
    deliverWatch s = takeOccurrence t.toNat src t.toNat (modBank (fun b => { b with arrivals := [] }) s) := by
  rw [deliverWatch, one]
  rfl

/-! ### The next window (R349) -/

@[simp] theorem advanceTo_bank (t : BitVec 64) (s : State) : (advanceTo t s).bank = s.bank := by
  rw [advanceTo]
  split <;> rfl

/-- A window none of whose occurrences came early opens with its counts at 0. -/
theorem openWindow_of_no_early {s : State} (nothing : s.bank.early = []) (k : Nat) :
    openWindow k s = modBank (fun b => { b with
      mem := 0, fec := 0, drop := 0, retrain := 0, window := k, early := [], advised := false }) s := by
  simp [openWindow, nothing, forAll]

/-- Settles O20: an occurrence of the present window is added and advises or not by its threshold; the other clauses are the
branches of the operations above. -/
theorem statisticsAndWatch : Obligations.StatisticsAndWatch := by
  constructor
  · intro s posn m rest v n p cfg old sum taken size t fits
    refine ⟨fun head on stats => ⟨fun short => ?_, fun full => ?_⟩, fun enabled ok => ?_, fun enabled past => ?_⟩
    · exact congrArg Host.Outcome.next (takePartial_merges head on stats short)
    · exact congrArg Host.Outcome.next (takePartial_closes head on stats full)
    · rw [exec_statRingTailWrite enabled, writeStatTail_of_fits ok]
    · exact ⟨_, by rw [exec_statRingTailWrite enabled, writeStatTail_of_not_fits past]⟩
  · intro s src stamp v u k one end_
    refine ⟨fun t arrival => deliverWatch_of_one arrival, fun off => ?_, fun on still => ?_, fun nothing => ?_⟩
    · exact congrArg Host.Outcome.next (takeOccurrence_of_off off ..)
    · have counted (present : k = v.bank.window) : exec (.watchOccurrence src stamp) s = .next (watchTake src v) :=
        congrArg Host.Outcome.next (takeOccurrence_of_present on still src present)
      refine ⟨fun present below => ?_, fun present hit quiet manual => ?_, fun present hit again => ?_, fun following => ?_⟩
      · rw [counted present, watchTake_of_not_hit below]
      · rw [counted present, watchTake_advises hit quiet manual]
      · rw [counted present, watchTake_of_advised hit again]
      · exact congrArg Host.Outcome.next (takeOccurrence_of_next on still src following)
    · exact congrArg Host.Outcome.next (openWindow_of_no_early (by simpa using nothing) _)

end Sys2Proof.Machine
end

section
/-! PROOFS. When a SNAP is turned away or armed, and how the copy of a snapshot ends (R172 to R176). -/

namespace Sys2Proof.Machine

/-! ### SNAP (R172, R173, R176) -/

section Snap
variable {s : State} {c : Ctx} {d : Desc}

/-- A SNAP that is turned away completes with its status and the low word of its step. -/
def snapTurnedAway (c : Ctx) (d : Desc) (status : Nat) (s : State) : State :=
  finishStarting c d status ((BitVec.ofNat 64 (dfld d.words 0x10 63 0)).toNat % 2 ^ 32) s

theorem exec_snap_busy (starting : startingOf s c 0x0B = some d) (busy : (getCtx s c).snapshot.isSome = true) :
    exec (.snap c) s = .next (snapTurnedAway c d stSnapBusy s) := by
  show execSnap c s = _
  simp only [execSnap, starting, busy, if_true]
  rfl

theorem exec_snap_late (starting : startingOf s c 0x0B = some d) (room : (getCtx s c).snapshot = none)
    (late : boundaryPassed s (BitVec.ofNat 64 (dfld d.words 0x10 63 0)) = true) :
    exec (.snap c) s = .next (snapTurnedAway c d stSnapLate s) := by
  show execSnap c s = _
  simp only [execSnap, starting, room, Option.isSome_none, Bool.false_eq_true, if_false, late, if_true]
  rfl

/-- COUNT of the list that a SNAP names (R173). -/
def snapCount (s : State) (d : Desc) : Nat := leAt (memRead s (dfld d.words 0x18 47 0) 64) 0 8 % 8192

/-- The list that a SNAP names, as far as its COUNT reaches. -/
def snapList (s : State) (d : Desc) : List Byte :=
  memRead s (dfld d.words 0x18 47 0) (64 + 32 * (min (snapCount s d) 4096))

/-- The snapshot that a SNAP arms by its list (R173). -/
def armedSnapshot (s : State) (d : Desc) : Snapshot :=
  { key := d.key, step := BitVec.ofNat 64 (dfld d.words 0x10 63 0), hostDest := decide (bitsOf (leAt (snapList s d) 0 8) 16 16 = 0)
    destAddr := BitVec.ofNat 64 (leAt (snapList s d) 8 8), peerRank := BitVec.ofNat 14 (leAt (snapList s d) 0x10 4)
    trailerOff := BitVec.ofNat 64 (leAt (snapList s d) 0x18 8), entries := snapEntries (snapList s d) (snapCount s d)
    taken := none }

/-- With no snapshot held and its boundary ahead, the list decides whether a SNAP is armed. -/
theorem exec_snap_of_list (starting : startingOf s c 0x0B = some d) (room : (getCtx s c).snapshot = none)
    (ahead : boundaryPassed s (BitVec.ofNat 64 (dfld d.words 0x10 63 0)) = false) {good : Bool}
    (judged : snapListOk s c (dfld d.words 0x18 47 0) (snapCount s d) (snapList s d) = good) :
    exec (.snap c) s = .next (if good then
        modCtx c (fun x => { x with snapshot := some (armedSnapshot s d) }) (keepStarting c d s)
      else snapTurnedAway c d stSnapRefused s) := by
  show execSnap c s = _
  simp only [snapList, snapCount] at judged
  simp only [execSnap, starting, room, Option.isSome_none, Bool.false_eq_true, if_false, ahead, judged]
  cases good <;> rfl

end Snap

/-! ### The end of a copy (R174 to R176) -/

/-- What the end of the copy of a context's snapshot leaves, by how it ends. -/
def snapshotEnded (c : Ctx) (sn : Snapshot) (l : List (List Byte)) (ptb : BitVec 64) (s : State) : CopyEnd → State
  | .accepted => completeKey c sn.key stOk 0 0 (modCtx c (fun x => { x with snapshot := none }) (writeSnapshot c sn l ptb s))
  | .peerRefused =>
    completeKey c sn.key stSnapRefused (sn.step.toNat % 2 ^ 32) 0 (modCtx c (fun x => { x with snapshot := none }) s)
  | .pathLost => snapLost c s
  | .readFailed => clearCheck (snapLost c s)

/-- A snapshot whose content has been taken ends with its copy. -/
theorem exec_snapshotComplete {s : State} {c : Ctx} {sn : Snapshot} {l : List (List Byte)} {ptb : BitVec 64}
    (held : (getCtx s c).snapshot = some sn) (taken : sn.taken = some (l, ptb)) (e : CopyEnd) :
    exec (.snapshotComplete c e) s = .next (snapshotEnded c sn l ptb s e) := by
  show execSnapshotComplete c e s = _
  simp only [execSnapshotComplete, held, taken]
  cases e <;> rfl

/-- Settles O43: the checks of SNAP in their order, and each end of a copy by its law. -/
theorem snapshots : Obligations.Snapshots := by
  refine fun s c d sn l ptb => ⟨fun starting => ⟨exec_snap_busy starting, fun room late => ?late,
    fun room ahead bad => ?refused, fun room ahead good => ?armed⟩, fun held taken => ?ended⟩
  case late => exact exec_snap_late starting room (decide_eq_true late)
  case refused => exact exec_snap_of_list starting room (decide_eq_false ahead) bad
  case armed => exact exec_snap_of_list starting room (decide_eq_false ahead) good
  case ended =>
    have ends := exec_snapshotComplete held taken
    exact ⟨ends .accepted, ends .peerRefused, ends .pathLost, ends .readFailed⟩

end Sys2Proof.Machine
end

section
/-! PROOFS. How STEP_OPEN opens a step and completes once its fence has drained, and how VARIANT binds a block or aborts the step
(R85, R156 to R158, R287, R295, R298, R310). -/

namespace Sys2Proof.Machine

open Sys2Proof.Laws

/-! ### Places in a list -/

theorem placeOf_append_of_none {α : Type} {p : α → Bool} {l : List α} {a : α} (absent : placeOf p l = none)
    (fits : p a = true) : placeOf p (l ++ [a]) = some l.length := by
  induction l with
  | nil => simp [placeOf, fits]
  | cons b l ih =>
    rw [placeOf] at absent
    by_cases hb : p b = true
    · simp [hb] at absent
    · have rest : placeOf p l = none := by simpa [hb] using absent
      simp [placeOf, hb, ih rest]

theorem placeOf_eq_none_of_find? {α : Type} {p : α → Bool} {l : List α} (absent : l.find? p = none) : placeOf p l = none := by
  induction l with
  | nil => rfl
  | cons b l ih =>
    obtain ⟨hb, rest⟩ : ¬p b = true ∧ l.find? p = none := by simpa using absent
    simp [placeOf, hb, ih rest]

theorem mapAt_append_length {α : Type} (f : α → α) (l : List α) (a : α) : mapAt f l.length (l ++ [a]) = l ++ [f a] := by
  induction l with
  | nil => rfl
  | cons b l ih => simp [mapAt, ih]

/-! ### What a STEP fence leaves beside the cells and positions (R85, R440) -/

/-- A state but for its cells, its positions, its power block and its counter of free values. -/
def unfenced (s : State) : State := { s with cells := [], posns := [], pwr := State.reset.pwr, free := 0 }

theorem unfenced_countCooling (n : Nat) (s : State) : unfenced (countCooling n s) = unfenced s := by
  obtain h | ⟨cycles, level, free, h⟩ := countCooling_eq n s
  · rw [h]
  · rw [h]
    rfl

theorem unfenced_restCells (p : Nat → Bool) (f : Cell → Cell) (s : State) : unfenced (restCells p f s) = unfenced s := by
  rw [restCells, mapCells_eq]
  exact forAll_keeps unfenced (fun n _ => unfenced_countCooling n) s

theorem unfenced_fencePosn (n : Nat) (s : State) : unfenced (fencePosn n s).2 = unfenced s := by
  unfold fencePosn
  dsimp only
  split
  · exact unfenced_restCells ..
  · split <;> exact unfenced_restCells ..

theorem unfenced_fencePosns (l : List Nat) (s : State) : unfenced (fencePosns l s).2 = unfenced s := by
  induction l generalizing s with
  | nil => rfl
  | cons n l ih => exact (ih (fencePosn n s).2).trans (unfenced_fencePosn n s)

theorem unfenced_applyModes (c : Ctx) (s : State) : unfenced (applyModes c s).2 = unfenced s := by
  unfold applyModes
  dsimp only
  split
  · rfl
  · split <;> rfl

/-- A STEP fence puts the staged registers in force on a state that differs from its own only as
`unfenced` allows. -/
theorem stepFence_eq (c : Ctx) (s : State) : ∃ t, (stepFence c s).2 = applyStaged t ∧ unfenced t = unfenced s :=
  ⟨_, rfl, (unfenced_fencePosns ..).trans (unfenced_applyModes c s)⟩

/-- Of the step engine a fence changes the two registers that are staged. -/
theorem stepFence_frame (c : Ctx) (s : State) :
    (stepFence c s).2.step = { s.step with cfg := s.step.cfgW, csync := s.step.csyncW } ∧ (stepFence c s).2.hif = s.hif ∧
      (stepFence c s).2.mem = s.mem ∧ (stepFence c s).2.prog = s.prog ∧ (stepFence c s).2.streams = s.streams := by
  obtain ⟨t, fenced, same⟩ := stepFence_eq c s
  rw [fenced]
  exact ⟨congrArg (fun x : State => { x.step with cfg := x.step.cfgW, csync := x.step.csyncW }) same,
    (congrArg State.hif same :), (congrArg State.mem same :), (congrArg State.prog same :), (congrArg State.streams same :)⟩

/-! ### What the end of a descriptor leaves in its context (R270) -/

/-- A context but for its place in the completion ring. -/
def unrecorded (x : Context) : Context := { x with cplWrite := 0, cplPhase := false }

theorem unrecorded_finishDesc (c : Ctx) (d : Desc) (status detail requester : Nat) (s : State) :
    unrecorded (getCtx (finishDesc c d status detail requester s) c) = unrecorded (getCtx s c) := by
  have written (bytes : Bool → List Byte) : unrecorded (getCtx (writeCompletion c bytes s) c) = unrecorded (getCtx s c) := by
    simp [writeCompletion, unrecorded]
  obtain ⟨q, h⟩ := signalDesc_eq c d.words (decide (status = 0)) requester (recordDesc c d status detail s)
  rw [finishDesc, h]
  show unrecorded (getCtx (recordDesc c d status detail s) c) = _
  unfold recordDesc
  dsimp only
  split
  · split <;> exact written _
  · rfl

theorem finishStarting_starting (c : Ctx) (d : Desc) (status detail : Nat) (s : State) :
    (getCtx (finishStarting c d status detail s) c).starting = none := by
  have kept := congrArg Context.starting
    (unrecorded_finishDesc c d status detail 0 (modCtx c (fun x => { x with starting := none }) s))
  exact (kept :).trans (by simp [unrecorded])

theorem finishStarting_hostOnly (c : Ctx) (d : Desc) (status detail : Nat) (s : State) :
    hostOnly s (finishStarting c d status detail s) :=
  hostOnly_trans ⟨_, _, rfl⟩ (finishDesc_hostOnly ..)

/-! ### The fence of a STEP_OPEN (R85, R275, R298) -/

/-- The held step at a place has its sync objects recorded, and the descriptor completes. -/
theorem openFence_frame (c : Ctx) (d : Desc) (i : Nat) (h : Held) (s : State) :
    (openFence c d i h s).step = { s.step with
        held := mapAt (fun k => { k with syncRec := recordSync s c }) i s.step.held
        cfg := s.step.cfgW, csync := s.step.csyncW } ∧
      (getCtx (openFence c d i h s) c).starting = none ∧ (openFence c d i h s).mem = s.mem ∧
      (openFence c d i h s).prog = s.prog ∧ (openFence c d i h s).streams = s.streams := by
  obtain ⟨step, -, mem, prog, streams⟩ := stepFence_frame c (modHeld i (fun k => { k with syncRec := recordSync s c }) s)
  obtain ⟨_, _, ends⟩ : hostOnly _ (openFence c d i h s) := finishStarting_hostOnly ..
  refine ⟨(congrArg State.step ends).trans step, finishStarting_starting .., ?_⟩
  rw [ends]
  exact ⟨mem, prog, streams⟩

theorem starting_of_startingOf {s : State} {c : Ctx} {opcode : Nat} {d : Desc} (h : startingOf s c opcode = some d) :
    (getCtx s c).starting = some d := by
  unfold startingOf at h
  split at h
  next e at_ =>
    split at h
    · exact at_.trans h
    · exact absurd h (by simp)
  next => exact absurd h (by simp)

/-- A STEP_OPEN whose step is held completes once its fence has drained. -/
theorem settleOpen_of_opened {s : State} {c : Ctx} {d : Desc} {i : Nat} {h : Held} (starting : startingOf s c 0x07 = some d)
    (opened : openedBy s c d = some i) (held : s.step.held[i]? = some h) :
    settleOpen c d s = if openDrained s c then openFence c d i h s else s := by
  simp [settleOpen, starting, opened, held]

/-! ### A step that opens (R295, R298) -/

/-- A step that has opened with no cause waiting: nothing is kept for a step to come. -/
theorem chargeOpened_of_no_cause {s : State} {i : Nat} {h : Held} {n : BitVec 64} (place : heldPlace s n = some i)
    (found : heldStep s n = some h) (quiet : openCauses s h = []) :
    chargeOpened n s = modStep (fun e => { e with
      clearNext := false, abortNext := e.abortNext.filter (fun a => decide (n < a.1)), openAttempt := none }) s := by
  simp only [chargeOpened, place, found, quiet]

/-- The step joins the list as its STEP_OPEN passes the checks. -/
def joined (c : Ctx) (d : Desc) (s : State) : State :=
  headWriteBack c (modStep (fun e => { e with held := e.held ++ [openedStep s c d], next := e.next + 1, openWaitSince := none }) s)

theorem joined_eq (c : Ctx) (d : Desc) (s : State) : ∃ release host, joined c d s =
    modCtx c (fun x => { x with release := release }) (modStep (fun e => { e with
      held := e.held ++ [openedStep s c d], next := e.next + 1, openWaitSince := none }) { s with host := host }) :=
  ⟨_, _, rfl⟩

/-- A step that alone carries its number and has no cause waiting is last in the list, and SEQ.NEXT goes on. -/
theorem openStep_of_no_cause {s : State} {c : Ctx} {d : Desc} (new : heldStep s (openedStep s c d).step = none)
    (clear : s.step.clearNext = false) (uncharged : s.step.abortNext = []) :
    ∃ release host, openStep c d s = modCtx c (fun x => { x with release := release }) (modStep (fun e => { e with
      held := e.held ++ [openedStep s c d], next := e.next + 1, openWaitSince := none, clearNext := false, abortNext := []
      openAttempt := none }) { s with host := host }) := by
  have place : heldPlace (joined c d s) (openedStep s c d).step = some s.step.held.length :=
    placeOf_append_of_none (placeOf_eq_none_of_find? new) (beq_self_eq_true _)
  have found : heldStep (joined c d s) (openedStep s c d).step = some (openedStep s c d) := by
    show (s.step.held ++ [openedStep s c d]).find? _ = _
    rw [List.find?_append, show s.step.held.find? (fun h => h.step == (openedStep s c d).step) = none from new]
    simp
  have quiet : openCauses (joined c d s) (openedStep s c d) = [] := by
    simp [openCauses, joined, headWriteBack, clear, uncharged, openedStep]
  obtain ⟨release, host, joins⟩ := joined_eq c d s
  refine ⟨release, host, (chargeOpened_of_no_cause place found quiet).trans ?_⟩
  rw [joins]
  simp [modCtx, modStep, uncharged]

/-- What the fence of a STEP_OPEN looks at is the same once the step has opened as before. -/
theorem openStep_looks {s t : State} {c : Ctx} {release : Nat} {host : Mem} {f : StepEng → StepEng}
    (opens : t = modCtx c (fun x => { x with release := release }) (modStep f { s with host := host })) :
    (getCtx t c).starting = (getCtx s c).starting ∧ openDrained t c = openDrained s c ∧ recordSync t c = recordSync s c := by
  have ctx : getCtx t c = { getCtx s c with release := release } := by
    rw [opens]
    exact getCtx_modCtx_same ..
  refine ⟨by rw [ctx], ?_, ?_⟩
  · rw [openDrained, openDrained, cellsIdle, cellsIdle, ctx, opens]
    rfl
  · rw [recordSync, recordSync, ctx, opens]
    rfl

/-! ### STEP_OPEN (R295, R298) -/

@[simp] theorem advanceTo_step (t : BitVec 64) (s : State) : (advanceTo t s).step = s.step := by
  rw [advanceTo]
  split <;> rfl

section StepOpen
variable {s : State} {c : Ctx} {d : Desc} (starting : startingOf s c 0x07 = some d)
include starting

theorem exec_stepOpen_settles {i : Nat} {h : Held} (opened : openedBy s c d = some i) (held : s.step.held[i]? = some h) :
    exec (.stepOpen c) s = .next (if openDrained s c then openFence c d i h s else s) := by
  show execStepOpen c s = _
  simp only [execStepOpen, starting, opened, Option.isSome_some, if_true, settleOpen_of_opened starting opened held]

/-- A wait for an ember slot that has come to its limit ends in STEP_DEPTH. -/
theorem exec_stepDepthTimeout {t0 : BitVec 64} (waits : s.step.openWaitSince = some t0) :
    exec (.stepDepthTimeout c) s = .next (finishStarting c d stStepDepth s.step.held.length
      (modStep (fun e => { e with openWaitSince := none })
        (advanceTo (t0 + msec (if fld s.hif.syncWait 23 0 = 0 then 10000 else fld s.hif.syncWait 23 0)) s))) := by
  show execStepDepthTimeout c s = _
  simp only [execStepDepthTimeout, starting, waits, modStep_step, advanceTo_step]

variable (first : d.refetched = false) (unopened : openedBy s c d = none)
include first unopened

/-- A STEP_OPEN that is not refetched and has opened no step yet is refused, waits for a slot, or opens its step. -/
theorem exec_stepOpen_first : exec (.stepOpen c) s = .next (match openRefusal s c d.words with
    | some r => finishStarting c d r.1 r.2 s
    | none => if s.pwr.modes.depth ≤ s.step.held.length then
        modStep (fun e => { e with openWaitSince := e.openWaitSince.or (some s.mgmt.ptb) }) s
      else settleOpen c d (openStep c d s)) := by
  show execStepOpen c s = _
  simp only [execStepOpen, starting, unopened, Option.isSome_none, Bool.false_eq_true, if_false, first, Bool.false_and]
  cases openRefusal s c d.words with
  | some r => rfl
  | none => exact (apply_ite Host.Outcome.next ..).symm

/-- What a STEP_OPEN leaves that opens its step: the step is last in the list, and the descriptor has completed if its fence has
drained. -/
theorem exec_stepOpen_opens (passes : openRefusal s c d.words = none) (room : s.step.held.length < s.pwr.modes.depth)
    (new : heldStep s (openedStep s c d).step = none) (clear : s.step.clearNext = false) (uncharged : s.step.abortNext = []) :
    ∃ t, exec (.stepOpen c) s = .next t ∧ t.step.held = s.step.held ++ [openedStep s c d] ∧ t.step.next = s.step.next + 1 ∧
      t.step.number = s.step.number ∧ t.step.cursor = s.step.cursor ∧
      (getCtx t c).starting = (if openDrained s c then none else some d) ∧
      t.mem = s.mem ∧ t.prog = s.prog ∧ t.streams = s.streams := by
  refine ⟨settleOpen c d (openStep c d s), ?_, ?_⟩
  · rw [exec_stepOpen_first starting first unopened, passes]
    exact congrArg _ (if_neg (Nat.not_le.mpr room))
  · obtain ⟨release, host, opens⟩ := openStep_of_no_cause new clear uncharged
    obtain ⟨sameStarting, sameDrained, sameSync⟩ := openStep_looks opens
    have starts : startingOf (openStep c d s) c 0x07 = some d := by rw [startingOf, sameStarting]; exact starting
    have held : (openStep c d s).step.held = s.step.held ++ [openedStep s c d] := by rw [opens]; rfl
    have opened : openedBy (openStep c d s) c d = some s.step.held.length := by
      rw [openedBy, held]
      exact placeOf_append_of_none unopened (by simp [openedStep])
    have last : (openStep c d s).step.held[s.step.held.length]? = some (openedStep s c d) := by simp [held]
    rw [settleOpen_of_opened starts opened last, sameDrained]
    split
    next drained =>
      obtain ⟨step, ended, mem, prog, streams⟩ := openFence_frame c d s.step.held.length (openedStep s c d) (openStep c d s)
      rw [step, ended, mem, prog, streams, held, mapAt_append_length, sameSync, opens]
      exact ⟨rfl, rfl, rfl, rfl, rfl, rfl, rfl, rfl⟩
    next waits =>
      have still : (getCtx (openStep c d s) c).starting = some d := sameStarting.trans (starting_of_startingOf starting)
      rw [still, held, opens]
      exact ⟨rfl, rfl, rfl, rfl, rfl, rfl, rfl, rfl⟩

end StepOpen

/-! ### VARIANT (R156 to R158) -/

theorem leastOf_eq_none_iff (l : List Nat) : leastOf l = none ↔ l = [] := by
  cases l <;> simp [leastOf]

section Variant
variable {s : State} {c : Ctx} {d : Desc} {i : Nat} {h : Held} (starting : startingOf s c 0x0D = some d)
  (alone : (getCtx s c).started = []) (step : d.step = some h.step) (place : heldPlace s h.step = some i)
  (held : s.step.held[i]? = some h)
include starting alone step place held

theorem exec_variant_not_open (closed : h.st ≠ .opened) :
    exec (.variant c) s = .next (finishStarting c d stBadVariant 0 s) := by
  show execVariant c s = _
  simp [execVariant, starting, allComplete, alone, step, place, held, closed]

/-- A block that lies in ember and in the context's windows is judged by its least offence. -/
theorem exec_variant_open (opened : h.st = .opened) (unbound : h.variant = none)
    (above : h.emberBase ≤ dfld d.words 0x10 47 0) (below : dfld d.words 0x10 47 0 + 12352 ≤ h.emberBase + h.emberBytes)
    (reached : reaches (getCtx s c) (dfld d.words 0x10 47 0) 12352 = true)
    {bs : List Byte} (block : memRead s (dfld d.words 0x10 47 0) 12352 = bs) {least : Option Nat}
    (judged : leastOf (variantBad (getCtx s c).posns bs ++ (slotsMeet (variantSlots bs)).toList) = least) :
    exec (.variant c) s = .next (match least with
      | some o => injectAbort i causeProgram (finishStarting c d stBadVariant o s)
      | none => finishStarting c d stOk 0 (modHeld i (fun h => { h with variant := some (variantTable bs) }) s)) := by
  have complete : allComplete s c = true := by simp [allComplete, alone]
  show execVariant c s = _
  simp only [execVariant, starting, complete, step, Option.bind_some, place, held, opened, unbound, above, below, reached, ne_eq,
    not_true_eq_false, Option.isSome_none, decide_true, Bool.and_self, Bool.not_true, Bool.or_self, Bool.false_eq_true, if_false,
    block, judged]
  cases least <;> rfl

end Variant

/-- Settles O34: STEP_OPEN by its first refusal, the slots and its fence; VARIANT by the step it finds and the block's offences. -/
theorem stepsOpen : Obligations.StepsOpen := by
  refine fun s c d t0 i h => ⟨fun starting first unopened => ⟨fun st det refused => ?refused, fun passes full => ?waits,
    exec_stepOpen_opens starting first unopened⟩, fun starting opened held => ⟨fun drained => ?drained, fun waits => ?fence⟩,
    fun starting waits => exec_stepDepthTimeout starting waits, fun starting alone step place held =>
    ⟨exec_variant_not_open starting alone step place held, fun opened unbound above below reached => ?block⟩⟩
  case refused => rw [exec_stepOpen_first starting first unopened, refused]
  case waits =>
    rw [exec_stepOpen_first starting first unopened, passes]
    exact congrArg _ (if_pos full)
  case drained => rw [exec_stepOpen_settles starting opened held, if_pos drained]
  case fence => rw [exec_stepOpen_settles starting opened held, if_neg (by simp [waits])]
  case block =>
    have judged {least : Option Nat} := exec_variant_open starting alone step place held opened unbound above below reached rfl
      (least := least)
    exact ⟨fun good => judged ((leastOf_eq_none_iff _).mpr good), fun o bad => judged bad⟩

end Sys2Proof.Machine
end

section
/-! PROOFS. The canonical form of both memories: reset has it, and every step keeps it (R38, R178). -/

namespace Sys2Proof.Machine

/-- Every command keeps what `Kept` says: each by the lemma of its meaning, in the order of the rows of `exec`. -/
theorem exec_kept (i : Instr) (s : State) {s0 : State} (h0 : Kept s0 s) : OutKept s0 (exec i s) := by
  cases i with
  | nop op => exact execNop_kept op s h0
  | prog op => exact execProg_kept op s h0
  | endBody op => exact execEndBody_kept op s h0
  | seta op => exact execSeta_kept op s h0
  | adda op => exact execAdda_kept op s h0
  | loop op => exact execLoop_kept op s h0
  | endl op => exact execEndl_kept op s h0
  | waits op => exact execWaits_kept op s h0
  | mm op err gap => exact execMm_kept op err gap s h0
  | drain op err => exact execDrain_kept op err s h0
  | sin op => exact execSin_kept op s h0
  | sout op err => exact execSout_kept op err s h0
  | cvt op => exact execCvt_kept op s h0
  | add op => exact execAdd_kept op s h0
  | sub op => exact execSub_kept op s h0
  | mul op => exact execMul_kept op s h0
  | div op => exact execDiv_kept op s h0
  | max op => exact execMax_kept op s h0
  | min op => exact execMin_kept op s h0
  | abs op => exact execAbs_kept op s h0
  | neg op => exact execNeg_kept op s h0
  | sqrt op => exact execSqrt_kept op s h0
  | rsqrt op => exact execRsqrt_kept op s h0
  | recip op => exact execRecip_kept op s h0
  | exp op => exact execExp_kept op s h0
  | log op => exact execLog_kept op s h0
  | cmplt op => exact execCmplt_kept op s h0
  | cmple op => exact execCmple_kept op s h0
  | cmpeq op => exact execCmpeq_kept op s h0
  | mulrow op => exact execMulrow_kept op s h0
  | addrow op => exact execAddrow_kept op s h0
  | pack4 op => exact execPack4_kept op s h0
  | rsumd op => exact execRsumd_kept op s h0
  | rsuma op => exact execRsuma_kept op s h0
  | rssqd op => exact execRssqd_kept op s h0
  | rssqa op => exact execRssqa_kept op s h0
  | rmvd op => exact execRmvd_kept op s h0
  | rmva op => exact execRmva_kept op s h0
  | ramaxd op => exact execRamaxd_kept op s h0
  | ramaxa op => exact execRamaxa_kept op s h0
  | topk1 op => exact execTopk1_kept op s h0
  | topk2 op => exact execTopk2_kept op s h0
  | topk3 op => exact execTopk3_kept op s h0
  | topk4 op => exact execTopk4_kept op s h0
  | topk5 op => exact execTopk5_kept op s h0
  | topk6 op => exact execTopk6_kept op s h0
  | topk7 op => exact execTopk7_kept op s h0
  | topk8 op => exact execTopk8_kept op s h0
  | fcheck op => exact execFcheck_kept op s h0
  | stclose op => exact execStclose_kept op s h0
  | mmComplete c stalls => exact execMmComplete_kept c stalls s h0
  | drainComplete c => exact execDrainComplete_kept c s h0
  | vopComplete c => exact execVopComplete_kept c s h0
  | sinComplete c => exact execSinComplete_kept c s h0
  | soutComplete c => exact execSoutComplete_kept c s h0
  | sorgSignalArrive c => exact execSorgSignalArrive_kept c s h0
  | drainBankFullStart c => exact execDrainBankFullStart_kept c s h0
  | knPartialLeft r => exact execKnPartialLeft_kept r s h0
  | bodyStart c err => exact execBodyStart_kept c err s h0
  | epochStall c => exact execEpochStall_kept c s h0
  | streamUnitArrive c sctx unit => exact execStreamUnitArrive_kept c sctx unit s h0
  | kindleStart c => exact execKindleStart_kept c s h0
  | kindleGapExpiry c => exact execKindleGapExpiry_kept c s h0
  | kindleRampStep c => exact execKindleRampStep_kept c s h0
  | doorbellTail f page v => exact execDoorbellTail_kept f page v s h0
  | doorbellChead f page v => exact execDoorbellChead_kept f page v s h0
  | doorbellEhead f page v => exact execDoorbellEhead_kept f page v s h0
  | descriptorFetch => exact execDescriptorFetch_kept s h0
  | descriptorStart ctx => exact execDescriptorStart_kept ctx s h0
  | nopDescriptor ctx => exact execNopDescriptor_kept ctx s h0
  | copy ctx => exact execCopy_kept ctx s h0
  | stream ctx => exact execStream_kept ctx s h0
  | streamReduce ctx => exact execStreamReduce_kept ctx s h0
  | tile ctx => exact execTile_kept ctx s h0
  | programBody ctx => exact execProgramBody_kept ctx s h0
  | cellConfig ctx => exact execCellConfig_kept ctx s h0
  | modes ctx => exact execModes_kept ctx s h0
  | discard ctx => exact execDiscard_kept ctx s h0
  | fence ctx => exact execFence_kept ctx s h0
  | stepFence ctx => exact execStepFence_kept ctx s h0
  | syncSetValue ctx => exact execSyncSetValue_kept ctx s h0
  | syncAdd ctx => exact execSyncAdd_kept ctx s h0
  | syncClearErr ctx => exact execSyncClearErr_kept ctx s h0
  | syncRemoteAdd ctx => exact execSyncRemoteAdd_kept ctx s h0
  | syncObjectUpdate obj => exact execSyncObjectUpdate_kept obj s h0
  | syncTimeout ctx => exact execSyncTimeout_kept ctx s h0
  | stepOpen ctx => exact execStepOpen_kept ctx s h0
  | stepDepthTimeout ctx => exact execStepDepthTimeout_kept ctx s h0
  | stepVote ctx => exact execStepVote_kept ctx s h0
  | mirrorMap ctx => exact execMirrorMap_kept ctx s h0
  | mirrorUnmap ctx => exact execMirrorUnmap_kept ctx s h0
  | mirrorFill ctx => exact execMirrorFill_kept ctx s h0
  | mirrorAudit ctx => exact execMirrorAudit_kept ctx s h0
  | bankStart ctx peer => exact execBankStart_kept ctx peer s h0
  | bankCancel ctx => exact execBankCancel_kept ctx s h0
  | snap ctx => exact execSnap_kept ctx s h0
  | restore ctx peer => exact execRestore_kept ctx peer s h0
  | restoreComplete ctx peer => exact execRestoreComplete_kept ctx peer s h0
  | variant ctx => exact execVariant_kept ctx s h0
  | teardown ctx => exact execTeardown_kept ctx s h0
  | ctxCreate f ctx read => exact execCtxCreate_kept f ctx read s h0
  | ctxTeardown f ctx => exact execCtxTeardown_kept f ctx s h0
  | ctxQuery f ctx => exact execCtxQuery_kept f ctx s h0
  | hifFuncCfgWrite f v => exact execHifFuncCfgWrite_kept f v s h0
  | teardownGenerationChange ctx => exact execTeardownGenerationChange_kept ctx s h0
  | teardownFinish ctx => exact execTeardownFinish_kept ctx s h0
  | firmwareScrub => exact execFirmwareScrub_kept s h0
  | functionLevelReset f port => exact execFunctionLevelReset_kept f port s h0
  | perstAssert port => exact execPerstAssert_kept port s h0
  | hostLinkDown port => exact execHostLinkDown_kept port s h0
  | engineTurn posn engine turn => exact execEngineTurn_kept posn engine turn s h0
  | chunkReturn posn sctx errs data => exact execChunkReturn_kept posn sctx errs data s h0
  | patrolRead posn pc slot errs => exact execPatrolRead_kept posn pc slot errs s h0
  | stripeRemap posn stripe why => exact execStripeRemap_kept posn stripe why s h0
  | channelRetrain posn ch => exact execChannelRetrain_kept posn ch s h0
  | retrainComplete posn ch => exact execRetrainComplete_kept posn ch s h0
  | mapout posn m => exact execMapout_kept posn m s h0
  | statPartialArrive posn => exact execStatPartialArrive_kept posn s h0
  | statRingTailWrite posn v => exact execStatRingTailWrite_kept posn v s h0
  | edgeFrameReceive e module fr => exact execEdgeFrameReceive_kept e module fr s h0
  | edgeNakReceive e module ack => exact execEdgeNakReceive_kept e module ack s h0
  | edgeSbinitTimeout e => exact execEdgeSbinitTimeout_kept e s h0
  | edgeModuleTrainingDone e near far => exact execEdgeModuleTrainingDone_kept e near far s h0
  | edgeLinkinitDone e => exact execEdgeLinkinitDone_kept e s h0
  | edgeRetrainTrigger e => exact execEdgeRetrainTrigger_kept e s h0
  | edgeQuarantine e => exact execEdgeQuarantine_kept e s h0
  | quarantineTimeout e => exact execQuarantineTimeout_kept e s h0
  | edgeSidebandPoll e mask ctag => exact execEdgeSidebandPoll_kept e mask ctag s h0
  | guestFirewallCheck g inbound unit addr mid ctx => exact execGuestFirewallCheck_kept g inbound unit addr mid ctx s h0
  | flitReceive port a => exact execFlitReceive_kept port a s h0
  | flitNakReceive port ack => exact execFlitNakReceive_kept port ack s h0
  | laneDegrade port => exact execLaneDegrade_kept port s h0
  | laneTrainingDone port near far => exact execLaneTrainingDone_kept port near far s h0
  | fabPortRetrain m => exact execFabPortRetrain_kept m s h0
  | packetReceive port p => exact execPacketReceive_kept port p s h0
  | linkctlIdent port serial farPort digest => exact execLinkctlIdent_kept port serial farPort digest s h0
  | identTimeout port => exact execIdentTimeout_kept port s h0
  | pidBitmap port pids => exact execPidBitmap_kept port pids s h0
  | timeExchange stamps => exact execTimeExchange_kept stamps s h0
  | transitErrReceive port pid => exact execTransitErrReceive_kept port pid s h0
  | syncMessageReceive pid obj value => exact execSyncMessageReceive_kept pid obj value s h0
  | reductionOperandArrive redid shard lo hi offset data => exact execReductionOperandArrive_kept redid shard lo hi offset data s h0
  | partitionValidSet m => exact execPartitionValidSet_kept m s h0
  | partitionValidClear m => exact execPartitionValidClear_kept m s h0
  | rankMapReload m v => exact execRankMapReload_kept m v s h0
  | abortReceive port msg => exact execAbortReceive_kept port msg s h0
  | stepCtrlAbort => exact execStepCtrlAbort_kept s h0
  | castResolveTimeout => exact execCastResolveTimeout_kept s h0
  | voteReceive child msg => exact execVoteReceive_kept child msg s h0
  | voteDrained rollcall msg => exact execVoteDrained_kept rollcall msg s h0
  | resolve port msg => exact execResolve_kept port msg s h0
  | resolveReplay port msg => exact execResolveReplay_kept port msg s h0
  | voteLeaseExpiry => exact execVoteLeaseExpiry_kept s h0
  | ownerRoleDone misses => exact execOwnerRoleDone_kept misses s h0
  | partnerRoleDone record block misses => exact execPartnerRoleDone_kept record block misses s h0
  | abortDrainDone => exact execAbortDrainDone_kept s h0
  | roundLeaseExpiry => exact execRoundLeaseExpiry_kept s h0
  | rollCallResend => exact execRollCallResend_kept s h0
  | rootFallback => exact execRootFallback_kept s h0
  | roundHaltTimeout => exact execRoundHaltTimeout_kept s h0
  | promotionPullDone pulled maps lists embers stepNumber cursors next =>
    exact execPromotionPullDone_kept pulled maps lists embers stepNumber cursors next s h0
  | pairTimeout => exact execPairTimeout_kept s h0
  | pair b => exact execPair_kept b s h0
  | pairOk b => exact execPairOk_kept b s h0
  | pairRefused b => exact execPairRefused_kept b s h0
  | map b => exact execMap_kept b s h0
  | mapOk b => exact execMapOk_kept b s h0
  | mapRefused b => exact execMapRefused_kept b s h0
  | unmap b => exact execUnmap_kept b s h0
  | ownerDone b => exact execOwnerDone_kept b s h0
  | mirrorDone b => exact execMirrorDone_kept b s h0
  | auditStart b => exact execAuditStart_kept b s h0
  | auditLate b => exact execAuditLate_kept b s h0
  | auditDigest b => exact execAuditDigest_kept b s h0
  | shadowCfgWrite v => exact execShadowCfgWrite_kept v s h0
  | shadowStateLoaded state stepNumber cursor => exact execShadowStateLoaded_kept state stepNumber cursor s h0
  | shadowRecordReceive step outcome mask digests => exact execShadowRecordReceive_kept step outcome mask digests s h0
  | shadowTimeout => exact execShadowTimeout_kept s h0
  | snapshotComplete ctx e => exact execSnapshotComplete_kept ctx e s h0
  | bankSign e => exact execBankSign_kept e s h0
  | bankDone => exact execBankDone_kept s h0
  | watchOccurrence src stamp => exact execWatchOccurrence_kept src stamp s h0
  | watchWindowClose => exact execWatchWindowClose_kept s h0
  | mailboxSend ch mid v => exact execMailboxSend_kept ch mid v s h0
  | mailboxAck ch mid v => exact execMailboxAck_kept ch mid v s h0
  | mailboxStatusClear ch mid v => exact execMailboxStatusClear_kept ch mid v s h0
  | mailboxTimeout ch => exact execMailboxTimeout_kept ch s h0
  | ping ch => exact execPing_kept ch s h0
  | info ch => exact execInfo_kept ch s h0
  | attest ch => exact execAttest_kept ch s h0
  | idChain ch => exact execIdChain_kept ch s h0
  | readCapture ch => exact execReadCapture_kept ch s h0
  | scrub ch target => exact execScrub_kept ch target s h0
  | installTableWrite ch => exact execInstallTableWrite_kept ch s h0
  | fuseRepair ch r readback => exact execFuseRepair_kept ch r readback s h0
  | rotateId ch => exact execRotateId_kept ch s h0
  | debugUnlock ch => exact execDebugUnlock_kept ch s h0
  | mbxRebind ch target v => exact execMbxRebind_kept ch target v s h0
  | mbxRebindGo v => exact execMbxRebindGo_kept v s h0
  | sealClear ch => exact execSealClear_kept ch s h0
  | firmwareCommandEnd ticket => exact execFirmwareCommandEnd_kept ticket s h0
  | presenceAssert => exact execPresenceAssert_kept s h0
  | presenceEnd => exact execPresenceEnd_kept s h0
  | sealOpened => exact execSealOpened_kept s h0
  | sealToggle returns => exact execSealToggle_kept returns s h0
  | fwLockExpired lock core => exact execFwLockExpired_kept lock core s h0
  | heartbeat => exact execHeartbeat_kept s h0
  | ptbSample => exact execPtbSample_kept s h0
  | eventRecordWrite => exact execEventRecordWrite_kept s h0
  | evtRingEnable v => exact execEvtRingEnable_kept v s h0
  | evtRingTailWrite v => exact execEvtRingTailWrite_kept v s h0
  | managementBoot => exact execManagementBoot_kept s h0
  | dieInventory => exact execDieInventory_kept s h0
  | hbmTraining failed => exact execHbmTraining_kept failed s h0
  | fabricDiscovery => exact execFabricDiscovery_kept s h0
  | hostLinkTraining port width rate => exact execHostLinkTraining_kept port width rate s h0
  | rasResetEngine m v captured => exact execRasResetEngine_kept m v captured s h0
  | rasResetPartition m v captured => exact execRasResetPartition_kept m v captured s h0
  | rasResetChipRequest m v => exact execRasResetChipRequest_kept m v s h0
  | engineWatchdog posn engine stateError captured => exact execEngineWatchdog_kept posn engine stateError captured s h0
  | captureLeaseExpiry => exact execCaptureLeaseExpiry_kept s h0
  | partitionResetDone posn => exact execPartitionResetDone_kept posn s h0
  | partitionResetTimeout posn => exact execPartitionResetTimeout_kept posn s h0
  | pkgResetAssert captured => exact execPkgResetAssert_kept captured s h0
  | pkgResetDeassert => exact execPkgResetDeassert_kept s h0
  | pwrGoodRise straps => exact execPwrGoodRise_kept straps s h0
  | pwrGoodFall => exact execPwrGoodFall_kept s h0
  | thermtrip => exact execThermtrip_kept s h0
  | pllLockLoss p => exact execPllLockLoss_kept p s h0
  | dampControl avgW => exact execDampControl_kept avgW s h0
  | telemetryUpdate tdie tposn thub pkgW => exact execTelemetryUpdate_kept tdie tposn thub pkgW s h0
  | i3cPrivateWrite offset data => exact execI3cPrivateWrite_kept offset data s h0
  | i3cDynamicAddress addr => exact execI3cDynamicAddress_kept addr s h0
  | flashRead => exact execFlashRead_kept s h0
  | flashProgram => exact execFlashProgram_kept s h0
  | flashErase => exact execFlashErase_kept s h0
  | flashOpDone => exact execFlashOpDone_kept s h0
  | extest => exact execExtest_kept s h0
  | samplePreload => exact execSamplePreload_kept s h0
  | idcode => exact execIdcode_kept s h0
  | clamp => exact execClamp_kept s h0
  | highz => exact execHighz_kept s h0
  | extestPulse => exact execExtestPulse_kept s h0
  | extestTrain => exact execExtestTrain_kept s h0
  | posnSel => exact execPosnSel_kept s h0
  | wirAccess => exact execWirAccess_kept s h0
  | dwrAccess => exact execDwrAccess_kept s h0
  | mbist => exact execMbist_kept s h0
  | laneTest => exact execLaneTest_kept s h0
  | fuseAccess => exact execFuseAccess_kept s h0
  | bypass => exact execBypass_kept s h0
  | debugWindowWrite m code word v => exact execDebugWindowWrite_kept m code word v s h0
  | registerWrite m offset size v => exact execRegisterWrite_kept m offset size v s h0
  | edgeSidebandUp e => exact execEdgeSidebandUp_kept e s h0
  | linkinitModuleFail e module => exact execLinkinitModuleFail_kept e module s h0
  | hostDmaError ctx => exact execHostDmaError_kept ctx s h0
  | contextResetTimeout ctx => exact execContextResetTimeout_kept ctx s h0
  | engineResetTimeout posn engine => exact execEngineResetTimeout_kept posn engine s h0
  | engineResetDone posn engine => exact execEngineResetDone_kept posn engine s h0
  | bankSignTimeout => exact execBankSignTimeout_kept s h0
  | vfEnable port => exact execVfEnable_kept port s h0
  | reservedOpcode op => exact execReservedOpcode_kept op s h0

theorem Kept.canonical {s t : State} (h : Kept s t) (wf : s.canonical = true) : t.canonical = true :=
  h.2.2 wf

/-- Settles O5: a tick keeps the canonical form, and so does every command; the queue is no part of it. -/
theorem stepKeepsCanonical : Obligations.StepKeepsCanonical := by
  intro s t wf ran
  cases queue : s.pending with
  | nil =>
    rw [step, queue] at ran
    exact (Host.Outcome.next.inj ran ▸ tick_kept s .rfl).canonical wf
  | cons c rest =>
    rw [step, queue] at ran
    exact (exec_kept c { s with pending := rest } .rfl t ran).canonical wf

/-- Settles O4: both memories of reset are the empty table, which reads 0 everywhere. -/
theorem resetIsCanonical : Obligations.ResetIsCanonical := by
  have empty : State.reset.mem = [] := rfl
  refine ⟨rfl, fun a n => ?_⟩
  rw [memRead, empty, SMap.readRun_get]
  simp [SMap.get]

end Sys2Proof.Machine
end

section
/-! PROOFS. COPY and STREAM: the checks that both make, the binding of a free stream context and its refusals (R195, R196, R279,
R280, R299). -/

namespace Sys2Proof.Machine

/-! ### The checks that COPY and STREAM make (R178, R299) -/

/-- Neither side of a request names memory of HBM that is still unlocked. -/
def sidesLocked (s : State) (r : StreamReq) : Prop := sideUnlocked s r.src = false ∧ sideUnlocked s r.dst = false

/-- An EMBER request has a step whose ember area takes it; another request needs none. -/
def emberTakes (s : State) (c : Ctx) (r : StreamReq) : Prop :=
  r.ember = true → (emberStep s c).any (fun h => emberFits h r.dst r.length) = true

/-- What a descriptor that asks for a stream answers, `goesOn` once it has passed the checks; `off` is the byte offset of the
destination in the descriptor. -/
def checkedStream (c : Ctx) (d : Desc) (r : StreamReq) (off : Nat) (goesOn s : State) : State :=
  if sideUnlocked s r.src || sideUnlocked s r.dst then refuseStream c d r.ember stMemUnlocked 0 (keepStarting c d s)
  else if r.ember && (emberStep s c).isNone then finishStarting c d stBadTarget 2 s
  else if r.ember && !((emberStep s c).any (fun h => emberFits h r.dst r.length)) then
    refuseStream c d r.ember stBadTarget off (keepStarting c d s)
  else goesOn

section Checks
variable {s : State} {c : Ctx} {d : Desc} {r : StreamReq} {off : Nat} {goesOn : State}

theorem checkedStream_unlocked (unlocked : ¬sidesLocked s r) :
    checkedStream c d r off goesOn s = refuseStream c d r.ember stMemUnlocked 0 (keepStarting c d s) :=
  if_pos (by simpa [sidesLocked, imp_iff_not_or] using unlocked)

variable (locked : sidesLocked s r)
include locked

theorem checkedStream_passes (takes : emberTakes s c r) : checkedStream c d r off goesOn s = goesOn := by
  obtain ⟨src, dst⟩ := locked
  cases ember : r.ember with
  | false => simp [checkedStream, src, dst, ember]
  | true =>
    have fits := takes ember
    cases step : emberStep s c with
    | none => simp [step] at fits
    | some h =>
      rw [step] at fits
      simp [checkedStream, src, dst, step, fits]

variable (ember : r.ember = true)
include ember

theorem checkedStream_without_step (noStep : emberStep s c = none) :
    checkedStream c d r off goesOn s = finishStarting c d stBadTarget 2 s := by
  obtain ⟨src, dst⟩ := locked
  simp [checkedStream, src, dst, ember, noStep]

theorem checkedStream_outside_ember {h : Held} (step : emberStep s c = some h) (misfits : emberFits h r.dst r.length = false) :
    checkedStream c d r off goesOn s = refuseStream c d r.ember stBadTarget off (keepStarting c d s) := by
  obtain ⟨src, dst⟩ := locked
  simp [checkedStream, src, dst, ember, step, misfits]

end Checks

/-! ### Binding (R195, R196) -/

section Bind
variable {s : State} {c : Ctx} {d : Desc} {r : StreamReq}

/-- The descriptor's start changes nothing of what the binding looks at: the windows, the positions and the stream contexts. -/
theorem bindStream_keepStarting : bindStream c d r (keepStarting c d s) =
    if !(streamInWindows (getCtx s c) r.src r.dst r.length (64 * r.runU) (64 * r.stepU)) then
      refuseStream c d r.ember stStreamWindow 0 (keepStarting c d s)
    else if !(posnAnswers s r.posn) then refuseStream c d r.ember stDomainReset 0 (keepStarting c d s)
    else { keepStarting c d s with
      streams := SMap.set StreamCtx.init s.streams (streamKey r.posn r.sctx) (boundStream s c d r) } := by
  have ctx : getCtx (keepStarting c d s) c = { getCtx s c with starting := none, started := (getCtx s c).started ++ [d] } :=
    getCtx_modCtx_same ..
  have windows : streamInWindows (getCtx (keepStarting c d s) c) = streamInWindows (getCtx s c) := by rw [ctx]; rfl
  have bound : boundStream (keepStarting c d s) c d r = boundStream s c d r := by rw [boundStream, ctx]; rfl
  rw [bindStream, windows, bound]
  rfl

theorem bindStream_outside_windows
    (outside : streamInWindows (getCtx s c) r.src r.dst r.length (64 * r.runU) (64 * r.stepU) = false) :
    bindStream c d r (keepStarting c d s) = refuseStream c d r.ember stStreamWindow 0 (keepStarting c d s) := by
  simp [bindStream_keepStarting, outside]

variable (inside : streamInWindows (getCtx s c) r.src r.dst r.length (64 * r.runU) (64 * r.stepU) = true)
include inside

theorem bindStream_unanswered (silent : posnAnswers s r.posn = false) :
    bindStream c d r (keepStarting c d s) = refuseStream c d r.ember stDomainReset 0 (keepStarting c d s) := by
  simp [bindStream_keepStarting, inside, silent]

theorem bindStream_binds (answers : posnAnswers s r.posn = true) :
    bindStream c d r (keepStarting c d s) = { keepStarting c d s with
      streams := SMap.set StreamCtx.init s.streams (streamKey r.posn r.sctx) (boundStream s c d r) } := by
  simp [bindStream_keepStarting, inside, answers]

end Bind

/-! ### COPY and STREAM -/

/-- The fields of a COPY's request (R279). -/
theorem copyReq_fields {s : State} {c : Ctx} {w : BitVec 512} {r : StreamReq} (asks : copyReq s c w = some r) :
    r.src = sideOf (dfld w 0x10 63 0) ∧ r.dst = sideOf (dfld w 0x18 63 0) ∧ r.length = dfld w 0x20 39 0 ∧
      r.ember = dOpf0 w := by
  obtain ⟨n, -, rfl⟩ := Option.map_eq_some_iff.mp asks
  exact ⟨rfl, rfl, rfl, rfl⟩

@[simp] theorem getStream_keepStarting (c : Ctx) (d : Desc) (s : State) (k : Nat) :
    getStream (keepStarting c d s) k = getStream s k := rfl

section Starting
variable {s : State} {c : Ctx} {d : Desc} {r : StreamReq}

/-- A COPY that has passed the checks binds its context where that is FREE, and waits else. -/
theorem exec_copy_checked (starting : startingOf s c 0x01 = some d) (asks : copyReq s c d.words = some r) :
    exec (.copy c) s = .next (checkedStream c d r 0x18 (if (getStream s (streamKey r.posn r.sctx)).st = .free then
      bindStream c d r (keepStarting c d s) else keepStarting c d s) s) := by
  obtain ⟨src, dst, length, ember⟩ := copyReq_fields asks
  have still : copyReq (keepStarting c d s) c d.words = some r := asks
  show execCopy c s = _
  simp only [execCopy, starting, checkedStream, src, dst, length, ember, tryCopy, still, getStream_keepStarting,
    ← apply_ite Host.Outcome.next] <;> rfl

/-- A STREAM of KIND MOVE that has passed the checks binds its context where that is FREE, and completes STREAM_BUSY else. -/
theorem exec_stream_checked (starting : startingOf s c 0x02 = some d) (move : dfld d.words 0x10 23 20 ≠ 1)
    (asks : streamReq d.words = r) :
    exec (.stream c) s = .next (checkedStream c d r 0x20 (if (getStream s (streamKey r.posn r.sctx)).st ≠ .free then
      refuseStream c d r.ember stStreamBusy r.sctx (keepStarting c d s) else bindStream c d r (keepStarting c d s)) s) := by
  subst asks
  show execStream c s = _
  simp only [execStream, starting, if_neg move, checkedStream, ← apply_ite Host.Outcome.next]

end Starting

/-- Settles O28: COPY and STREAM make the same checks and bind or refuse in the same way; where the stream context is busy they
part. -/
theorem streamsBind : Obligations.StreamsBind := by
  refine fun s c d r => ⟨fun starting asks => ?copy, fun starting move asks => ?stream⟩
  case copy =>
    have checked := exec_copy_checked starting asks
    refine ⟨fun ⟨locked, takes⟩ free => ?opens, fun ⟨locked, takes⟩ busy => ?waits, fun unlocked => ?unlocked,
      fun locked ember noStep => ?noStep, fun h locked ember step misfits => ?outside⟩
    case opens =>
      rw [checked, checkedStream_passes locked takes, if_pos free]
      exact ⟨fun inside answers => congrArg _ (bindStream_binds inside answers),
        fun outside => congrArg _ (bindStream_outside_windows outside),
        fun inside silent => congrArg _ (bindStream_unanswered inside silent)⟩
    case waits => rw [checked, checkedStream_passes locked takes, if_neg busy]; rfl
    case unlocked => rw [checked, checkedStream_unlocked unlocked]; rfl
    case noStep => rw [checked, checkedStream_without_step locked ember noStep]
    case outside => rw [checked, checkedStream_outside_ember locked ember step misfits]; rfl
  case stream =>
    have checked := exec_stream_checked starting move asks
    have opens (locked : sidesLocked s r) (takes : emberTakes s c r)
        (free : (getStream s (streamKey r.posn r.sctx)).st = .free) :
        exec (.stream c) s = .next (bindStream c d r (keepStarting c d s)) := by
      rw [checked, checkedStream_passes locked takes, if_neg (not_not_intro free)]
    refine ⟨fun ⟨locked, takes⟩ free inside answers =>
        (opens locked takes free).trans (congrArg _ (bindStream_binds inside answers)),
      fun ⟨locked, takes⟩ free outside => (opens locked takes free).trans (congrArg _ (bindStream_outside_windows outside)),
      fun ⟨locked, takes⟩ free inside silent =>
        (opens locked takes free).trans (congrArg _ (bindStream_unanswered inside silent)),
      fun ⟨locked, takes⟩ busy => ?busy, fun unlocked => ?unlocked, fun locked ember noStep => ?noStep,
      fun h locked ember step misfits => ?outside⟩
    case busy => rw [checked, checkedStream_passes locked takes, if_pos busy]; rfl
    case unlocked => rw [checked, checkedStream_unlocked unlocked]; rfl
    case noStep => rw [checked, checkedStream_without_step locked ember noStep]
    case outside => rw [checked, checkedStream_outside_ember locked ember step misfits]; rfl

end Sys2Proof.Machine
end

section
/-! PROOFS. The guest firewall: which access passes, what one that passes does, and what a denial leaves (R198, R216 to R221). -/

namespace Sys2Proof.Machine

/-! ### Reading a firewall after a change -/

@[simp] theorem getGfw_modGfw_same (g : Nat) (f : Gfw → Gfw) (s : State) : getGfw (modGfw g f s) g = f (getGfw s g) :=
  SMap.get_upd ..

theorem getGfw_modGfw_ne (g : Nat) (f : Gfw → Gfw) (k : Nat) (h : k ≠ g) (s : State) :
    getGfw (modGfw g f s) k = getGfw s k :=
  SMap.get_upd_ne _ _ _ _ _ h

/-- Changing a firewall twice is one change. -/
theorem modGfw_modGfw (g : Nat) (f h : Gfw → Gfw) (s : State) : modGfw g f (modGfw g h s) = modGfw g (fun w => f (h w)) s := by
  simp only [modGfw, SMap.upd, SMap.get_set, SMap.set_set]

/-! ### The rule that decides (R217) -/

section Decides
variable {s : State} {g addr mid : Nat} {c : Ctx} {r : GfwRule} {write : Bool}

/-- An inbound access that its rule permits keeps the context of its requester. -/
theorem gfwPermit_inbound (en : (getGfw s g).en = true) (rule : gfwMatch (getGfw s g) true (addr / 64 * 64) mid c = some r)
    (may : bit r.attr (if write then 3 else 2) = true) : gfwPermit s g true write addr mid c = some c := by
  cases write <;> simpa [gfwPermit, en, rule] using may

/-- An outbound access takes the context of its rule, whose windows must hold it too. -/
theorem gfwPermit_outbound (en : (getGfw s g).en = true) (rule : gfwMatch (getGfw s g) false (addr / 64 * 64) mid c = some r)
    (may : bit r.attr (if write then 3 else 2) = true)
    (held : reaches (getCtx s (BitVec.ofNat 12 (fld r.attr 31 20))) (addr / 64 * 64) 64 = true) :
    gfwPermit s g false write addr mid c = some (BitVec.ofNat 12 (fld r.attr 31 20)) := by
  cases write <;> simpa [gfwPermit, en, rule, held] using may

theorem gfwPermit_without_rule {inbound : Bool}
    (unruled : (getGfw s g).en = false ∨ gfwMatch (getGfw s g) inbound (addr / 64 * 64) mid c = none) :
    gfwPermit s g inbound write addr mid c = none := by
  rcases unruled with off | unmatched
  · simp [gfwPermit, off]
  · simp [gfwPermit, unmatched]

end Decides

/-- No rule lets a guest reach a cell scratchpad. -/
theorem gfwMatch_scratchpads {w : Gfw} {unit mid : Nat} {c : Ctx} (h : inScratchpads unit = true) :
    gfwMatch w false unit mid c = none := by
  simp [gfwMatch, h]

/-! ### What passes, what is denied and what is dropped (R216, R218 to R220) -/

/-- A unit moves to or from memory that answers. -/
theorem unitMove_answered {s : State} {addr : BitVec 48} (answers : dpaStop s (addr.toNat / 64 * 64) = none) (g : Nat)
    (write : Bool) (data : List Byte) :
    unitMove g write addr data s = if write then memWrite (addr.toNat / 64 * 64) data s
      else gfwAnswer g addr (some (memRead s (addr.toNat / 64 * 64) 64)) s := by
  simp [unitMove, answers]

/-- A firewall after a denial: the count, the capture of the first one, and the time of its last event (R219). -/
def deniedGfw (inbound write : Bool) (addr mid : Nat) (last : Option (BitVec 64)) (w : Gfw) : Gfw :=
  { w with
    viol := satUp w.viol 1, vaddr := if bit w.vaddr 63 then w.vaddr else gfwVaddr inbound write addr mid, lastEvent := last }

/-- A denial changes its firewall and raises at most an event (R219). -/
theorem gfwDeny_eq (g : Nat) (inbound write : Bool) (addr mid : Nat) (s : State) :
    ∃ last mgmt, gfwDeny g inbound write addr mid s =
      { modGfw g (deniedGfw inbound write addr mid last) s with mgmt := mgmt } := by
  rw [gfwDeny]
  dsimp only
  split_ifs
  · rw [modGfw_modGfw]
    exact ⟨_, _, rfl⟩
  · exact ⟨(getGfw s g).lastEvent, s.mgmt, rfl⟩

/-- The generation of a context does not change as its outstanding count falls. -/
theorem outDown_gen (c : Ctx) (gen : BitVec 8) (s : State) : (getCtx (outDown c gen s) c).gen = (getCtx s c).gen := by
  unfold outDown
  dsimp only
  split
  · rw [getCtx_modCtx_same]
  · rfl

theorem outDown_dropped (c : Ctx) (gen : BitVec 8) (s : State) :
    (outDown c gen s).hif.dropped = s.hif.dropped ∧ (outDown c gen s).mem = s.mem := by
  unfold outDown
  dsimp only
  split
  · exact ⟨rfl, rfl⟩
  · exact ⟨rfl, rfl⟩

/-- A guest's transfer whose generation is past is discarded and counted (R198, R218). -/
theorem guestArrive_stale {y : GuestAccess} {s : State} (stale : y.gen ≠ (getCtx s y.ctx).gen) (g : Nat) :
    (guestArrive g y s).hif.dropped = satUp s.hif.dropped 1 ∧ (guestArrive g y s).mem = s.mem := by
  obtain ⟨dropped, mem⟩ := outDown_dropped y.ctx y.gen s
  have discards : guestArrive g y s = countDropped y.ctx 1 (outDown y.ctx y.gen s) :=
    if_pos (by rw [outDown_gen]; exact stale)
  rw [discards, ← dropped, ← mem]
  exact ⟨rfl, rfl⟩

/-! ### GUEST_FIREWALL_CHECK (R216 to R221) -/

section Check
variable {s : State} {g : Fin 2} {u : Option (List Byte)} {addr : BitVec 48} {mid : BitVec 8} {c : Ctx}

theorem exec_firewall_absent (part : s.fuses.part ≠ .zsn8g) (inbound : Bool) :
    exec (.guestFirewallCheck g inbound u addr mid c) s = .next s :=
  if_neg part

variable (part : s.fuses.part = .zsn8g)
include part

theorem exec_firewall_inbound :
    exec (.guestFirewallCheck g true u addr mid c) s = .next (guestIn g.val u.isSome addr mid.toNat c (u.getD []) s) :=
  if_pos part

theorem exec_firewall_outbound :
    exec (.guestFirewallCheck g false u addr mid c) s = .next (guestOut g.val u.isSome addr (u.getD []) s) :=
  if_pos part

end Check

section Access
variable {s : State} {g mid : Nat} {write : Bool} {addr : BitVec 48} {c k : Ctx} {data : List Byte}

theorem gfwCheck_permitted {inbound : Bool} (checked : inbound = true ∨ (getPos s (6 + g)).st ≠ .inReset)
    (permit : gfwPermit s g inbound write addr.toNat mid c = some k) :
    gfwCheck g inbound write addr.toNat mid c s = (some k, s) := by
  have heard : (!inbound && decide ((getPos s (6 + g)).st = .inReset)) = false := by
    rcases checked with h | h <;> simp [h]
  rw [gfwCheck, heard, permit]
  rfl

/-- An inbound access that passes moves its unit to or from the guest's memory. -/
theorem guestIn_permitted (permit : gfwPermit s g true write addr.toNat mid c = some c) (own : guestOf s addr.toNat = some g) :
    guestIn g write addr mid c data s = unitMove g write addr data s := by
  simp [guestIn, gfwCheck_permitted (.inl rfl) permit, own]

/-- A denied access to the memory of a guest changes the firewall alone, and what holds the events; a read is answered with an
error (R219). -/
theorem guestIn_denied (denied : gfwPermit s g true write addr.toNat mid c = none) :
    ∃ last mgmt, guestIn g write addr mid c data s = { modGfw g (fun w => { deniedGfw true write addr.toNat mid last w with
      answers := if write then w.answers else w.answers ++ [(addr, none)] }) s with mgmt := mgmt } := by
  obtain ⟨last, mgmt, denial⟩ := gfwDeny_eq g true write addr.toNat mid s
  refine ⟨last, mgmt, ?_⟩
  have answered : guestIn g write addr mid c data s = if write then gfwDeny g true write addr.toNat mid s
      else gfwAnswer g addr none (gfwDeny g true write addr.toNat mid s) := by
    simp [guestIn, gfwCheck, denied]
  rw [answered, denial]
  cases write with
  | true => rfl
  | false => exact congrArg (fun t : State => { t with mgmt := mgmt }) (modGfw_modGfw g _ _ s)

theorem guestOut_own (own : guestOf s addr.toNat = some g) : guestOut g write addr data s = unitMove g write addr data s := by
  simp [guestOut, own]

variable (foreign : ¬guestOf s addr.toNat = some g)
include foreign

/-- An outbound access that passes goes on its way. -/
theorem guestOut_permitted (up : (getPos s (6 + g)).st ≠ .inReset)
    (permit : gfwPermit s g false write addr.toNat 0 0 = some k) :
    guestOut g write addr data s = gfwPass g write addr k data s := by
  rw [guestOut, if_neg foreign, gfwCheck_permitted (.inr up) permit]

/-- A write of a guest in reset is dropped without a check. -/
theorem guestOut_inReset (down : (getPos s (6 + g)).st = .inReset) : guestOut g true addr data s = s := by
  simp [guestOut, gfwCheck, foreign, down]

end Access

/-- Settles O47: the access by the rule that decides it; what passes, what goes on its way, and the denial read field by field. -/
theorem guestFirewall : Obligations.GuestFirewall := by
  intro s g u addr mid c y write data w unit own
  refine ⟨fun part inb => exec_firewall_absent part inb, fun part en own answers r rule may => ?inbound,
    fun part own answers => ?direct, fun part en up foreign r rule may held => ?outbound, gfwMatch_scratchpads,
    fun stale => guestArrive_stale stale g.val, fun part unruled => ?denied, fun part down foreign written => ?reset⟩
  case inbound =>
    rw [exec_firewall_inbound part, guestIn_permitted (gfwPermit_inbound en rule may) own, unitMove_answered answers]
    rfl
  case direct =>
    rw [exec_firewall_outbound part, guestOut_own own, unitMove_answered answers]
    rfl
  case outbound =>
    rw [exec_firewall_outbound part, guestOut_permitted foreign up (gfwPermit_outbound en rule may held)]
    rfl
  case denied =>
    obtain ⟨last, mgmt, denies⟩ := guestIn_denied (data := data) (gfwPermit_without_rule (write := write) unruled)
    have after := getGfw_modGfw_same g.val (fun w => { deniedGfw true write addr.toNat mid.toNat last w with
      answers := if write then w.answers else w.answers ++ [(addr, none)] }) s
    exact ⟨_, (exec_firewall_inbound part).trans (congrArg _ denies), (congrArg Gfw.viol after :),
      (congrArg Gfw.passed after :),
      (congrArg Gfw.answers after :), (congrArg Gfw.vaddr after :), fun k other => getGfw_modGfw_ne g.val _ k other s,
      rfl, rfl, rfl⟩
  case reset =>
    rw [exec_firewall_outbound part, show u.isSome = true from written, guestOut_inReset foreign down]

end Sys2Proof.Machine
end

section
/-! PROOFS. The memory controllers: what the patrol finds, the remap of a stripe, the retrain of a channel and the map-out of a
pseudo-channel (R182 to R190). -/

namespace Sys2Proof.Machine

/-! ### A pseudo-channel after a change -/

section Chan
variable (n q : Nat) (f : PChan → PChan) (s : State)

@[simp] theorem getChan_modChan_same : getChan (getPos (modChan n q f s) n) q = f (getChan (getPos s n) q) := by
  simp [getChan, modChan]

theorem getChan_modChan_ne {k : Nat} (h : k ≠ q) : getChan (getPos (modChan n q f s) n) k = getChan (getPos s n) k := by
  simp only [getChan, modChan, getPos_modPos_same]
  exact SMap.get_upd_ne _ _ _ _ _ h

end Chan

/-! ### The patrol (R182 to R184) -/

/-- In a stripe none of whose bursts has failed before, the bursts of a read are those that the decoder reports. -/
theorem burstsOf_of_unfailed {s : State} {a : Nat} {errs : List BurstErr} (inside : ∀ e ∈ errs, e.burst < 64)
    (unfailed : ∀ k, k < 64 → s.failed.contains (a / 64 + k) = false) : burstsOf s a 4096 errs = errs := by
  have known : ((List.range (4096 / 64)).filter (fun i =>
      s.failed.contains (a / 64 + i) && !(errs.any (fun e => decide (e.burst = i))))) = [] := by
    refine List.filter_eq_nil_iff.mpr fun k hk => ?_
    rw [unfailed k (List.mem_range.mp hk)]
    exact Bool.false_ne_true
  have listed : errs.filter (fun e => decide (e.burst < 4096 / 64)) = errs :=
    List.filter_eq_self.mpr fun e he => decide_eq_true (inside e he)
  rw [burstsOf, known, listed]
  exact List.append_nil errs

/-- The marks and tables that say what a slot holds do not change with the counts of a pseudo-channel. -/
theorem slotHolds_modChan {n q : Nat} {f : PChan → PChan} (marks : ∀ c, (f c).wfrom = c.wfrom) (s : State) :
    slotHolds (getPos (modChan n q f s) n) = slotHolds (getPos s n) := by
  have mark (k : Nat) : (getChan (getPos (modChan n q f s) n) k).wfrom = (getChan (getPos s n) k).wfrom := by
    by_cases h : k = q
    · rw [h, getChan_modChan_same, marks]
    · rw [getChan_modChan_ne n q f s h]
  have remap : (getPos (modChan n q f s) n).remap = (getPos s n).remap := by simp [modChan]
  have list : (getPos (modChan n q f s) n).withdrawn = (getPos s n).withdrawn := by simp [modChan]
  funext k slot
  simp only [slotHolds, slotStripe, remapOf, withdrawn, mark, remap, list] <;> rfl

/-- The state in which the patrol reads the bursts of a stripe: its count of corrected bursts starts anew. -/
def patrolled (n l : Nat) (s : State) : State :=
  modPos n (fun p => { p with stripeCe := SMap.set 0 p.stripeCe l 0 }) s

/-- The patrol reads the bursts of a stripe in order. -/
theorem exec_patrolRead {s : State} {posn : Posn} {pc : Fin 64} {slot : BitVec 18} {l a : Nat} {errs : List BurstErr}
    (holds : slotHolds (getPos s posn.val) pc.val slot.toNat = some l) (dpa : stripeDpa s posn.val l = some a)
    (inside : ∀ e ∈ errs, e.burst < 64) (unfailed : ∀ k, k < 64 → s.failed.contains (a / 64 + k) = false) :
    exec (.patrolRead posn pc slot errs) s =
      .next (forAll errs (patrolBurst posn.val pc.val slot.toNat) (patrolled posn.val l s)) := by
  have dpa' : stripeDpa (patrolled posn.val l s) posn.val l = some a := dpa
  have bursts : burstsOf (patrolled posn.val l s) a 4096 errs = errs := burstsOf_of_unfailed inside unfailed
  show execPatrolRead posn pc slot errs s = _
  simp only [execPatrolRead, holds, Option.bind_some, ← patrolled.eq_1, dpa', bursts]

/-- The burst of a slot's stripe that the patrol reads: its address, in a pseudo-channel that works and with no failure known. -/
structure ReadsBurst (s : State) (n q slot l a b : Nat) : Prop where
  holds : slotHolds (getPos s n) q slot = some l
  dpa : stripeDpa s n l = some a
  alive : (getChan (getPos s n) q).dead = false
  unfailed : s.failed.contains ((a + 64 * b) / 64) = false

section Burst
variable {s : State} {n q slot l a b : Nat} (reads : ReadsBurst s n q slot l a b)
include reads

theorem ReadsBurst.result (r : BurstResult) : burstResult s n q (some (a + 64 * b)) r = r := by
  have sound : ((getChan (getPos s n) q).dead || (some (a + 64 * b)).any (fun a => s.failed.contains (a / 64))) = false := by
    rw [reads.alive, Option.any_some, reads.unfailed]
    rfl
  rw [burstResult, if_neg (Bool.eq_false_iff.mp sound)]

/-- A burst that the stack corrected is clean for the controller (R182). -/
theorem patrolBurst_onDie : patrolBurst n q slot { burst := b, onDie := true, result := .clean } s =
    modChan n q (fun c => { c with odce := satUp c.odce 1 }) s := by
  have reads' : ReadsBurst (countOnDie n q s) n q slot l a b := by
    refine ⟨?_, reads.dpa, ?_, reads.unfailed⟩
    · exact (congrFun₂ (slotHolds_modChan (f := fun c => { c with odce := satUp c.odce 1 }) (fun _ => rfl) s) q slot).trans
        reads.holds
    · rw [countOnDie, getChan_modChan_same]
      exact reads.alive
  simp only [patrolBurst, if_true, reads'.holds, Option.bind_some, reads'.dpa, Option.map_some, reads'.result]
  rfl

theorem patrolBurst_corrected : patrolBurst n q slot { burst := b, onDie := false, result := .corrected } s =
    countCorrected n q (some l) s := by
  simp only [patrolBurst, Bool.false_eq_true, if_false, reads.holds, Option.bind_some, reads.dpa, Option.map_some, reads.result]

theorem patrolBurst_failed : patrolBurst n q slot { burst := b, onDie := false, result := .failed } s =
    clearCheck (recordFailed n q l (a + 64 * b) (markFailed (a + 64 * b) s)) := by
  have stripe : slotStripe (getPos s n) q slot = .logical l := by
    have holds := reads.holds
    unfold slotHolds at holds
    split at holds
    next at_ =>
      split at holds
      · cases holds
      · rw [at_, Option.some.inj holds]
    next => cases holds
  simp only [patrolBurst, Bool.false_eq_true, if_false, reads.holds, Option.bind_some, reads.dpa, Option.map_some, reads.result,
    patrolFailed, stripe, slotDpa, SlotStripe.number, Option.isSome_some, if_true, Option.isNone_some]

end Burst

/-- A position after a burst of a stripe that its controller corrected: the counts of the stripe, the channel and the
pseudo-channel (R183, R186, R187). -/
def countedPos (now : BitVec 64) (q l : Nat) (p : Pos) : Pos :=
  { p with
    pchan := SMap.upd PChan.init p.pchan q (fun c => { c with ce := satUp c.ce 1 })
    stripeCe := SMap.upd 0 p.stripeCe l (fun c => c + 1)
    chanCe := SMap.upd [] p.chanCe (q / 2) (fun l => l.filter (fun t => decide ((now - t).toNat < 1000000)) ++ [now]) }

/-- While RETRAIN_CE is 0, the corrected bursts of a channel are counted and do not retrain it (R187). -/
theorem countChannel_of_no_limit {s : State} (never : fld s.memRegs.rasCfg 15 0 = 0) (n ch : Nat) :
    countChannel n ch s = modPos n (fun p => { p with chanCe := SMap.upd [] p.chanCe ch (fun l =>
      l.filter (fun t => decide ((s.mgmt.ptb - t).toNat < 1000000)) ++ [s.mgmt.ptb]) }) s :=
  if_neg fun limit => limit.1 never

/-- While RETRAIN_CE is 0, a corrected burst counts and is an occurrence for the watch (R183, R348). -/
theorem countCorrected_of_no_limit {s : State} (never : fld s.memRegs.rasCfg 15 0 = 0) (n q l : Nat) :
    countCorrected n q (some l) s = modPos n (countedPos s.mgmt.ptb q l) (occur .mem s) := by
  show countChannel n (q / 2) (occur .mem (modPos n _ (modChan n q _ s))) = _
  rw [countChannel_of_no_limit (by exact never)]
  simp only [modPos, modChan, occur, SMap.upd, SMap.get_set, SMap.set_set]
  rfl

/-- The counts of a corrected burst, read one by one. -/
theorem countCorrected_counts {s : State} (never : fld s.memRegs.rasCfg 15 0 = 0) (n q l : Nat) :
    let t := countCorrected n q (some l) s
    SMap.get 0 (getPos t n).stripeCe l = SMap.get 0 (getPos s n).stripeCe l + 1 ∧
      (SMap.get [] (getPos t n).chanCe (q / 2)).getLast? = some s.mgmt.ptb ∧
      (getChan (getPos t n) q).ce = satUp (getChan (getPos s n) q).ce 1 ∧
      t.bank.arrivals = s.bank.arrivals ++ [(.mem, s.mgmt.ptb)] ∧
      (∀ m, m ≠ n → getPos t m = getPos s m) ∧ { t with posns := s.posns, bank := s.bank } = s := by
  have posn : getPos (countCorrected n q (some l) s) n = countedPos s.mgmt.ptb q l (getPos s n) := by
    rw [countCorrected_of_no_limit never, getPos_modPos_same]
    rfl
  dsimp only
  rw [posn, countCorrected_of_no_limit never]
  refine ⟨?_, ?_, ?_, rfl, fun m other => getPos_modPos_ne _ _ _ other _, rfl⟩
  · simp [countedPos]
  · simp [countedPos]
  · simp [countedPos, getChan]

@[simp] theorem getPos_markFailed (a m : Nat) (s : State) : getPos (markFailed a s) m = getPos s m := by
  rw [markFailed]
  split <;> rfl

/-- A failed burst counts once for its pseudo-channel (R184). -/
theorem recordFailed_ue (n q l arg1 : Nat) (s : State) :
    (getChan (getPos (recordFailed n q l arg1 s) n) q).ue = satUp (getChan (getPos s n) q).ue 1 := by
  have counted : getChan (getPos (recordFailed n q l arg1 s) n) q = getChan (getPos (countFailed n q l s) n) q := by
    simp only [recordFailed, getPos_raise, getPos_modPos_same]
    rfl
  rw [counted, countFailed, getChan_modChan_same]

/-! ### The remap of a stripe (R185, R186, R190) -/

section Remap
variable {s : State} {posn : Posn} {stripe : BitVec 24} {why : RemapCause}

/-- A stripe that held a failed burst or gathered enough corrected ones is dealt with by the first case that applies. -/
theorem exec_stripeRemap {bad : Bool} (below : stripe.toNat < stripesPerPosn)
    (failed : (why.failed || (getPos s posn.val).failedStripes.contains stripe.toNat) = bad)
    (asked : bad = true ∨ (fld s.memRegs.rasCfg 23 16 ≠ 0 ∧
      fld s.memRegs.rasCfg 23 16 ≤ SMap.get 0 (getPos s posn.val).stripeCe stripe.toNat)) :
    exec (.stripeRemap posn stripe why) s = .next (
      if withdrawn (getPos s posn.val) stripe.toNat then clearStripe posn.val stripe.toNat s
      else if bad && commitRunning s && (stripeDpa s posn.val stripe.toNat).any (fun a => mirroredArea s a 4096) then s
      else mapStripe posn.val stripe.toNat bad why.pulled (posUnit posn.val (0x40 + chanOf (getPos s posn.val) stripe.toNat))
        (leaveEntry posn.val stripe.toNat (clearStripe posn.val stripe.toNat s))) := by
  have goesOn : (!(bad || (decide (fld s.memRegs.rasCfg 23 16 ≠ 0) &&
      decide (fld s.memRegs.rasCfg 23 16 ≤ SMap.get 0 (getPos s posn.val).stripeCe stripe.toNat)))) = false := by
    rcases asked with bad | ⟨limited, worn⟩
    · rw [bad]; rfl
    · rw [decide_eq_true limited, decide_eq_true worn, Bool.and_self, Bool.or_true]; rfl
  show execStripeRemap posn stripe why s = _
  simp only [execStripeRemap, failed, goesOn, Bool.false_eq_true, if_false, if_neg (Nat.not_le.mpr below),
    ← apply_ite Host.Outcome.next]

/-- The lowest FREE entry takes the stripe. -/
theorem mapStripe_takes {n l r : Nat} (free : lowestFree (getPos s n) = some r) (bad : Bool)
    (pulled : Option (List (Nat × Byte))) (src : BitVec 12) :
    let map := modPos n (fun p => { p with
      remap := SMap.set Remap.init p.remap r { st := .mapped, home := BitVec.ofNat 24 l } }) s
    mapStripe n l bad pulled src s = saveRemap n (raise 0x0302 src { posn := some n, arg0 := r, arg1 := l }
      (if bad then restoreStripe n l pulled map else map)) := by
  simp only [mapStripe, free]

theorem mapStripe_withdraws {n : Nat} (full : lowestFree (getPos s n) = none) (l : Nat) (bad : Bool)
    (pulled : Option (List (Nat × Byte))) (src : BitVec 12) :
    mapStripe n l bad pulled src s = saveRemap n (withdraw n l s) := by
  simp only [mapStripe, full]

/-- The entry that a stripe leaves is the one that the position held it in. -/
theorem leaveEntry_clearStripe (n l : Nat) : leaveEntry n l (clearStripe n l s) = match remapOf (getPos s n) l with
    | some o => modPos n (fun p => { p with remap := SMap.set Remap.init p.remap o { st := .bad, home := 0 } })
        (clearStripe n l s)
    | none => clearStripe n l s := by
  have same : remapOf (getPos (clearStripe n l s) n) l = remapOf (getPos s n) l := by
    rw [clearStripe, getPos_modPos_same]
    rfl
  rw [leaveEntry, same] <;> rfl

end Remap

/-! ### The retrain of a channel (R187) -/

/-- The two pseudo-channels of a channel, where both are in one state. -/
theorem chans_filter {s : State} {n ch : Nat} {st : PcState} (pc0 : (getChan (getPos s n) (2 * ch)).st = st)
    (pc1 : (getChan (getPos s n) (2 * ch + 1)).st = st) :
    [2 * ch, 2 * ch + 1].filter (fun q => decide ((getChan (getPos s n) q).st = st)) = [2 * ch, 2 * ch + 1] := by
  simp [pc0, pc1]

/-- A pseudo-channel goes into its retrain, its last reserve slot saved. -/
def holdChan (slot : List Byte) (q : Nat) (p : Pos) : Pos :=
  { p with
    pchan := SMap.upd PChan.init p.pchan q (fun c => { c with st := .retrain, retrains := satUp c.retrains 1 })
    saveBuf := SMap.set [] p.saveBuf q slot }

/-- A position whose channel is held for its retrain, in both pseudo-channels. -/
def holdBoth (s : State) (n ch : Nat) : Pos :=
  holdChan (saveSlot s n (2 * ch + 1)) (2 * ch + 1) (holdChan (saveSlot s n (2 * ch)) (2 * ch) (getPos s n))

/-- A channel that runs is held in both pseudo-channels. -/
theorem retrainChannel_runs {s : State} {n ch : Nat} (pc0 : (getChan (getPos s n) (2 * ch)).st = .normal)
    (pc1 : (getChan (getPos s n) (2 * ch + 1)).st = .normal) :
    retrainChannel n ch s = occur .retrain (raise 0x0303 (posUnit n (0x40 + 2 * ch)) { posn := some n }
      (modPos n (fun _ => holdBoth s n ch) s)) := by
  have both : ([2 * ch, 2 * ch + 1].isEmpty) = false := rfl
  simp only [retrainChannel, chans_filter pc0 pc1, both, Bool.false_eq_true, if_false]
  simp only [forAll, List.foldl_cons, List.foldl_nil, modChan, modPos, SMap.upd, SMap.get_set, SMap.set_set]
  rfl

theorem getChan_holdChan_same (slot : List Byte) (q : Nat) (p : Pos) : getChan (holdChan slot q p) q =
    { getChan p q with st := .retrain, retrains := satUp (getChan p q).retrains 1 } := by
  simp [getChan, holdChan]

theorem getChan_holdChan_ne (slot : List Byte) {q k : Nat} (h : k ≠ q) (p : Pos) :
    getChan (holdChan slot q p) k = getChan p k := by
  simp only [getChan, holdChan]
  exact SMap.get_upd_ne _ _ _ _ _ h

theorem saveBuf_holdChan_same (slot : List Byte) (q : Nat) (p : Pos) : SMap.get [] (holdChan slot q p).saveBuf q = slot :=
  SMap.get_set ..

theorem saveBuf_holdChan_ne (slot : List Byte) {q k : Nat} (h : k ≠ q) (p : Pos) :
    SMap.get [] (holdChan slot q p).saveBuf k = SMap.get [] p.saveBuf k :=
  SMap.get_set_ne _ _ _ _ _ h

theorem getChan_holdBoth (s : State) (n ch q : Nat) : getChan (holdBoth s n ch) q = if q / 2 = ch then
    { getChan (getPos s n) q with st := .retrain, retrains := satUp (getChan (getPos s n) q).retrains 1 }
    else getChan (getPos s n) q := by
  by_cases pc1 : q = 2 * ch + 1
  · subst pc1
    rw [if_pos (by omega), holdBoth, getChan_holdChan_same, getChan_holdChan_ne _ (by omega)]
  rw [holdBoth, getChan_holdChan_ne _ pc1]
  by_cases pc0 : q = 2 * ch
  · subst pc0
    rw [if_pos (by omega), getChan_holdChan_same]
  · rw [if_neg (by omega), getChan_holdChan_ne _ pc0]

theorem saveBuf_holdBoth (s : State) (n : Nat) {ch q : Nat} (h : q / 2 = ch) :
    SMap.get [] (holdBoth s n ch).saveBuf q = saveSlot s n q := by
  by_cases pc1 : q = 2 * ch + 1
  · rw [pc1, holdBoth, saveBuf_holdChan_same]
  · obtain rfl : q = 2 * ch := by omega
    rw [holdBoth, saveBuf_holdChan_ne _ pc1, saveBuf_holdChan_same]

/-- When both pseudo-channels pass, their saved bursts are written back in order, and what waited is released. -/
theorem exec_retrainComplete {s : State} {posn : Posn} {ch : Fin 32}
    (pc0 : (getChan (getPos s posn.val) (2 * ch.val)).st = .retrain)
    (pc1 : (getChan (getPos s posn.val) (2 * ch.val + 1)).st = .retrain) :
    exec (.retrainComplete posn ch) s = .next (releaseChannel posn.val ch.val
      (modChan posn.val (2 * ch.val + 1) (fun c => { c with st := .normal }) (writeBack posn.val (2 * ch.val + 1)
        (modChan posn.val (2 * ch.val) (fun c => { c with st := .normal }) (writeBack posn.val (2 * ch.val) s))))) := by
  have both : ([2 * ch.val, 2 * ch.val + 1].isEmpty) = false := rfl
  show execRetrainComplete posn ch s = _
  simp only [execRetrainComplete, chans_filter pc0 pc1, both, Bool.false_eq_true, if_false, forAll, List.foldl_cons,
    List.foldl_nil]

/-! ### The map-out of a pseudo-channel (R188) -/

section Mapout
variable {s : State} {posn : Posn} {m : MapoutInput}

theorem exec_mapout_retrain (st : (getChan (getPos s posn.val) m.pc.val).st = .retrain) :
    exec (.mapout posn m) s = .next (limpChan posn.val m.pc.val m.dead s) := by
  show execMapout posn m s = _
  simp only [execMapout, st]

theorem exec_mapout_limp (st : (getChan (getPos s posn.val) m.pc.val).st = .limp) :
    exec (.mapout posn m) s = .next (if pcWaits s posn.val m.pc.val || commitRunning s then s
      else mapoutStart posn.val m.pc.val m.pulled s) := by
  show execMapout posn m s = _
  simp only [execMapout, st, ← apply_ite Host.Outcome.next]

theorem exec_mapout_mapout (st : (getChan (getPos s posn.val) m.pc.val).st = .mapout) :
    exec (.mapout posn m) s = .next (if commitRunning s then s else mapoutFinish posn.val m.pc.val m.pulled s) := by
  show execMapout posn m s = _
  simp only [execMapout, st, ← apply_ite Host.Outcome.next]

end Mapout

/-- Settles O31: the patrol burst by burst; the remap by its first case; the retrain in both pseudo-channels; and the map-out by
the state of the pseudo-channel. -/
theorem memoryControllers : Obligations.MemoryControllers := by
  refine ⟨?patrol, ?remap, ?retrain⟩
  case patrol =>
    intro s posn pc slot l a b n q holds dpa inside aligned alive unfailed seen
    have reads : ReadsBurst seen n q slot.toNat l a b := by
      have posn_ : getPos seen n = { getPos s n with stripeCe := SMap.set 0 (getPos s n).stripeCe l 0 } := getPos_modPos_same ..
      refine ⟨by rw [posn_]; exact holds, dpa, by rw [posn_]; exact alive, ?_⟩
      rw [Nat.add_mul_div_left a b (by decide)]
      exact unfailed b inside
    have one (e : BurstErr) (h : e.burst = b) :
        exec (.patrolRead posn pc slot [e]) s = .next (patrolBurst n q slot.toNat e seen) :=
      exec_patrolRead holds dpa (by simpa [h] using inside) unfailed
    refine ⟨exec_patrolRead holds dpa (by simp) unfailed, (one _ rfl).trans (congrArg _ (patrolBurst_onDie reads)),
      fun never => ?corrected, (one _ rfl).trans (congrArg _ (patrolBurst_failed reads)), ?failed⟩
    case corrected =>
      obtain ⟨stripe, chan, ce, arrivals, others, frame⟩ := countCorrected_counts (s := seen) never n q l
      have anew : SMap.get 0 (getPos seen n).stripeCe l = 0 := by simp [seen]
      have chans : getChan (getPos seen n) q = getChan (getPos s n) q := by simp only [seen, getPos_modPos_same]; rfl
      refine ⟨_, (one _ rfl).trans (congrArg _ (patrolBurst_corrected reads)), by rw [stripe, anew], chan, by rw [ce, chans],
        arrivals, fun m other => (others m other).trans (getPos_modPos_ne _ _ _ other _), ?_⟩
      exact congrArg (fun t : State => { t with posns := s.posns }) frame
    case failed =>
      have chans : getChan (getPos (markFailed (a + 64 * b) seen) n) q = getChan (getPos s n) q := by
        simp only [seen, getPos_markFailed, getPos_modPos_same]; rfl
      rw [recordFailed_ue, chans]
  case remap =>
    intro s posn stripe pulled n p l waits calm gone map told worn below
    have leaves : leaveEntry n l (clearStripe n l s) = gone := leaveEntry_clearStripe n l
    have number : BitVec.ofNat 24 l = stripe := BitVec.ofNat_toNat ..
    have failed := exec_stripeRemap (s := s) (posn := posn) (why := ⟨true, pulled⟩) (bad := true) below rfl (.inl rfl)
    refine ⟨fun lost => failed.trans (congrArg _ (if_pos lost)), fun there => ?_⟩
    have stays : ¬withdrawn (getPos s posn.val) stripe.toNat = true := Bool.eq_false_iff.mp there
    rw [if_neg stays, Bool.true_and, leaves] at failed
    refine ⟨fun idle r free => ?restored, fun ⟨sound, worn⟩ r free => ?kept, fun idle full => ?full,
      fun busy => failed.trans (congrArg _ (if_pos busy))⟩
    case restored =>
      refine (failed.trans (congrArg _ (if_neg (Bool.eq_false_iff.mp idle)))).trans ?_
      rw [mapStripe_takes free, number]
      rfl
    case kept =>
      rw [exec_stripeRemap (why := ⟨false, pulled⟩) below sound (.inr worn), if_neg stays, leaves, mapStripe_takes free,
        number]
      rfl
    case full =>
      refine (failed.trans (congrArg _ (if_neg (Bool.eq_false_iff.mp idle)))).trans ?_
      rw [mapStripe_withdraws full]
  case retrain =>
    intro s posn ch pc dead pulled n st
    have held := getPos_modPos_same n (fun _ => holdBoth s n ch.val)
    refine ⟨fun pc0 pc1 => ⟨_, congrArg Host.Outcome.next (retrainChannel_runs pc0 pc1), fun q => ?chans, fun q hq => ?saved,
      List.length_append .., rfl, fun m other => getPos_modPos_ne n (fun _ => holdBoth s n ch.val) m other s, rfl⟩,
      exec_retrainComplete, fun retrain => exec_mapout_retrain (m := ⟨pc, dead, pulled⟩) retrain,
      fun limp free idle => (exec_mapout_limp (m := ⟨pc, dead, pulled⟩) limp).trans (congrArg _ (if_neg ?limp)),
      fun mapout idle => (exec_mapout_mapout (m := ⟨pc, dead, pulled⟩) mapout).trans (congrArg _ (if_neg ?mapout)), ?stays⟩
    case chans => exact (congrArg (getChan · q) (held s)).trans (getChan_holdBoth ..)
    case saved => exact (congrArg (fun p => SMap.get [] p.saveBuf q) (held s)).trans (saveBuf_holdBoth s n hq)
    case limp => simp [n, free, idle]
    case mapout => simp [idle]
    case stays =>
      rintro (⟨limp, busy⟩ | ⟨mapout, busy⟩)
      · refine (exec_mapout_limp (m := ⟨pc, dead, pulled⟩) limp).trans (congrArg _ (if_pos ?_))
        rcases busy with first | busy <;> simp [n, *]
      · exact (exec_mapout_mapout (m := ⟨pc, dead, pulled⟩) mapout).trans (congrArg _ (if_pos busy))

end Sys2Proof.Machine
end

section
/-! PROOFS. The return of a chunk, and in-fabric reductions: opening one member's part and pairing operands (R134, R135, R184,
R187, R196, R198, R248 to R251, R281). -/

namespace Sys2Proof.Machine

/-! ### A chunk out of flight (R196, R288) -/

theorem streamKey_posn (n : Nat) (sctx : BitVec 17) : streamKey n sctx.toNat / 131072 = n := by
  have := sctx.isLt
  unfold streamKey
  omega

/-- The outstanding count of a context is no part of the streams. -/
@[simp] theorem getStream_outDown (c : Ctx) (gen : BitVec 8) (s : State) (k : Nat) :
    getStream (outDown c gen s) k = getStream s k := by
  unfold outDown
  dsimp only
  split <;> rfl

/-- A stream holds its oldest chunk no more. -/
@[simp] theorem getStream_chunkBack (k : Nat) (s : State) :
    getStream (chunkBack k s) k = { getStream s k with inflight := (getStream s k).inflight.drop 1 } := by
  simp [chunkBack]

/-! ### CHUNK_RETURN (R187, R196, R198) -/

/-- The oldest chunk of a stream comes to its turn: the generation is current, no earlier chunk waits at a channel, and the
destination and the edges take it. -/
def chunkComes (s : State) (k posn : Nat) : Prop :=
  streamLive s (getStream s k) = true ∧ queuedChunks s k = 0 ∧ landable s k (getStream s k) = true ∧
    edgeHeld s posn (getStream s k) = false

section Return
variable {s : State} {k : Nat} {errs : List BurstErr} {data : List Byte} {ch : Chunk} {rest : List Chunk}
  (flight : (getStream s k).inflight = ch :: rest) (bound : (getStream s k).st ≠ .free)
include flight bound

theorem returnChunk_held (comes : chunkComes s k (k / 131072)) {n q : Nat}
    (held : chunkHold s (getStream s k) ch.off = some (n, q)) :
    returnChunk k errs data s = modPos n (fun p => { p with chanQ := SMap.upd [] p.chanQ q (fun l =>
      l ++ [{ key := k, desc := (getStream s k).key, errs := errs, data := data }]) }) s := by
  obtain ⟨live, first, lands, crosses⟩ := comes
  simp [returnChunk, flight, bound, live, first, lands, crosses, held]

theorem returnChunk_served (comes : chunkComes s k (k / 131072)) (free : chunkHold s (getStream s k) ch.off = none) :
    returnChunk k errs data s = serveChunk k ch errs data s := by
  obtain ⟨live, first, lands, crosses⟩ := comes
  simp [returnChunk, flight, bound, live, first, lands, crosses, free]

/-- A chunk of a passed generation is discarded and counted; the stream context stays while more are in flight. -/
theorem returnChunk_stale (stale : streamLive s (getStream s k) = false) (more : rest ≠ [])
    (turn : queuedChunks s k ≤ rest.length) :
    returnChunk k errs data s = countDropped (getStream s k).owner 1 (chunkBack k s) := by
  have still : (getStream (countDropped (getStream s k).owner 1 (chunkBack k s)) k).inflight = rest := by
    show (getStream (chunkBack k s) k).inflight = rest
    rw [getStream_chunkBack, flight]
    rfl
  have discards : returnChunk k errs data s = discardChunk k s := by
    simp only [returnChunk, flight, if_neg bound, stale, Bool.not_false, if_true, if_neg (Nat.not_lt.mpr turn)]
  rw [discards, discardChunk]
  simp only [still, List.isEmpty_eq_false_iff.mpr more, Bool.false_eq_true, if_false]

end Return

section Serve
variable {s v : State} {k : Nat} {errs : List BurstErr} {data : List Byte} {ch : Chunk} {rest : List Chunk}

theorem serveChunk_stops {st : Nat} (stop : stopAt s (getStream s k) ch.off = some st) :
    serveChunk k ch errs data s = stopStream k ch.off st (chunkBack k s) := by
  simp only [serveChunk, stop]

variable (goes : stopAt s (getStream s k) ch.off = none) (flight : (getStream v k).inflight = ch :: rest)
include goes flight

theorem serveChunk_failed (verdict : chunkVerdict (getStream s k) ch.off ch.len errs s = (true, v)) :
    serveChunk k ch errs data s = endStream k stStreamUe ((getStream s k).acked / 64) (chunkBack k v) := by
  simp only [serveChunk, goes, verdict, flight, List.isEmpty_cons, Bool.false_eq_true, if_false, if_true]

theorem serveChunk_good (verdict : chunkVerdict (getStream s k) ch.off ch.len errs s = (false, v))
    (here : ∀ r b, (getStream s k).src ≠ .fabric r b) :
    serveChunk k ch errs data s = landAndFinish k ch ch.data (chunkBack k v) := by
  simp only [serveChunk, goes, verdict, flight, List.isEmpty_cons, Bool.false_eq_true, if_false]

end Serve

/-- A chunk lands in memory of the package that is neither a cell's nor a guest's, and is acknowledged there. -/
theorem landAndFinish_memory {s : State} {k : Nat} {ch : Chunk} {a : BitVec 48} (dst : (getStream s k).dst = .dpa a)
    (plain : (getStream s k).ember = none) (here : ∀ r b, (getStream s k).src ≠ .fabric r b)
    (noCell : cellOf s a.toNat = none) (noGuest : guestOf s (a.toNat + ch.off) = none) (bs : List Byte) :
    landAndFinish k ch bs s = finishStream k (modStream k (fun t => { t with acked := t.acked + ch.len })
      (memWrite (a.toNat + ch.off) bs s)) := by
  have lands : landChunk k (getStream s k) ch.off bs s = memWrite (a.toNat + ch.off) bs s := by
    simp only [landChunk, dst, noCell, guardedWrite, noGuest]
  have uncounted (t : State) : countEmber (getStream s k) ch.len t = t := by
    simp only [countEmber, plain, Option.bind_none]
  simp only [landAndFinish, lands, uncounted]

section Finish
variable {s : State} {k : Nat}

theorem finishStream_unfinished (unfinished : (getStream s k).inflight ≠ [] ∨ (getStream s k).acked ≠ (getStream s k).length) :
    finishStream k s = s := by
  refine if_neg fun ⟨_, empty, all, _⟩ => ?_
  rcases unfinished with more | short
  · exact more (List.isEmpty_iff.mp empty)
  · exact short all

theorem finishStream_finished (done : (getStream s k).st = .done) (empty : (getStream s k).inflight = [])
    (all : (getStream s k).acked = (getStream s k).length) (copied : (getStream s k).copies = 0) :
    finishStream k s = endStream k stOk 0 s :=
  if_pos ⟨done, List.isEmpty_iff.mpr empty, all, .inl copied⟩

end Finish

/-! ### Places in a list -/

theorem placeOf_append_isSome {α : Type} {p : α → Bool} {x : α} (h : p x = true) (l : List α) :
    ∃ m, placeOf p (l ++ [x]) = some m := by
  induction l with
  | nil => exact ⟨0, by simp [placeOf, h]⟩
  | cons y ys ih =>
    obtain ⟨m, hm⟩ := ih
    rw [List.cons_append, placeOf]
    split
    · exact ⟨0, rfl⟩
    · exact ⟨m + 1, by rw [hm]; rfl⟩

theorem any_of_placeOf {α : Type} {p : α → Bool} {l : List α} {j : Nat} (h : placeOf p l = some j) : l.any p = true := by
  by_contra noneHolds
  have absent : placeOf p l = none := placeOf_eq_none_of_find? (by simpa using noneHolds)
  simp [absent] at h

theorem mapAt_getElem? {α : Type} (f : α → α) (i : Nat) (l : List α) : (mapAt f i l)[i]? = l[i]?.map f := by
  induction l generalizing i with
  | nil => cases i <;> rfl
  | cons y ys ih =>
    cases i with
    | zero => rfl
    | succ i => simpa [mapAt] using ih i

/-! ### Opening a reduction (R248, R249, R281) -/

section Reduce
variable {s : State} {c : Ctx} {d : Desc} (starting : startingOf s c 0x02 = some d) (reduce : dfld d.words 0x10 23 20 = 1)
  (locked : [dfld d.words 0x20 47 0, dfld d.words 0x28 47 0, dfld d.words 0x38 47 0].any (unlocked s) = false)
  {r : Reduction} (new : newReduction c d (readNodes s (dfld d.words 0x38 47 0) (dfld d.words 0x38 63 48)) = r)
include starting reduce locked new

theorem exec_streamReduce_busy (busy : (getStream s r.stream).st ≠ .free) :
    exec (.streamReduce c) s = .next (finishStarting c d stStreamBusy (dfld d.words 0x10 16 0) s) := by
  show execStreamReduce c s = _
  simp only [execStreamReduce, starting, reduce, locked, new, busy, ne_eq, not_true_eq_false, not_false_eq_true, if_true,
    if_false, Bool.false_eq_true]

variable (free : (getStream s r.stream).st = .free)
  (inside : redInWindows (getCtx s c) d.words (readNodes s (dfld d.words 0x38 47 0) (dfld d.words 0x38 63 48)) = true)
  (answers : posnAnswers s (dfld d.words 0x10 19 17) = true)
include free inside answers

theorem exec_streamReduce_opens {g : State} (room : redWindows r ≤ 128 - s.fab.windowsUsed) (may : mayRead r s = (true, g)) :
    exec (.streamReduce c) s = .next (openRed c d r g) := by
  show execStreamReduce c s = _
  simp only [execStreamReduce, starting, reduce, locked, new, free, inside, answers, may, ne_eq, not_true_eq_false, if_true,
    if_false, Bool.false_eq_true, Bool.not_true, if_neg (Nat.not_lt.mpr room)]

theorem exec_streamReduce_full (full : 128 - s.fab.windowsUsed < redWindows r) :
    exec (.streamReduce c) s = .next (chargeCause causeProgram
      (finishStarting c d stRedNobuf (128 - s.fab.windowsUsed) s)) := by
  show execStreamReduce c s = _
  simp only [execStreamReduce, starting, reduce, locked, new, free, inside, answers, ne_eq, not_true_eq_false, if_false,
    Bool.false_eq_true, Bool.not_true, if_pos full]

end Reduce

/-- The state in which a member's part of a reduction is open and its leaves have not sent yet. -/
def reductionOpened (c : Ctx) (d : Desc) (r : Reduction) (s : State) : State :=
  modFab (fun f => { f with
    reductions := f.reductions.filter (fun q => !(q.done && q.redid == r.redid)) ++ [r]
    windowsUsed := f.windowsUsed + redWindows r })
    (modStream r.stream (fun _ => redStream (keepStarting c d s) c d) (keepStarting c d s))

/-- Where no check sums of outputs are kept, a reduction opens, and its leaves send. -/
theorem openRed_opens {s : State} (c : Ctx) (d : Desc) {r : Reduction} (notDone : r.done = false)
    (plain : tracksOutputs s = false) :
    ∃ m, redPlace (reductionOpened c d r s) r.redid true = some m ∧
      openRed c d r s = finishRed m (pumpLeaves m (reductionOpened c d r s)) := by
  have unsummed : sumContribution d r (keepStarting c d s) = keepStarting c d s := by
    refine if_neg ?_
    rw [show tracksOutputs (keepStarting c d s) = false from plain]
    exact Bool.false_ne_true
  obtain ⟨m, place⟩ : ∃ m, redPlace (reductionOpened c d r s) r.redid true = some m :=
    placeOf_append_isSome (by simp [notDone]) _
  refine ⟨m, place, ?_⟩
  unfold openRed
  rw [unsummed]
  show (match redPlace (reductionOpened c d r s) r.redid true with
    | none => reductionOpened c d r s
    | some i => finishRed i (pumpLeaves i (reductionOpened c d r s))) = _
  rw [place]

/-! ### An operand at its node (R134, R135, R249, R250) -/

section Operand
variable {s : State} {redid : BitVec 16} {o : RedOperand} {i j : Nat} {r : Reduction} {n : RedNode}

/-- What no open reduction takes is discarded and counted, and the step aborts. -/
theorem arriveOperand_stray (stray : redPlace s redid true = none)
    (runs : s.step.held.any (fun h => decide (h.st = .aborting) || decide (h.st = .halted)) = false) :
    arriveOperand redid o s = chargeCause causeProgram (modFab (fun f => { f with drop := satUp f.drop 1 }) s) := by
  have still : redPlace (modFab (fun f => { f with drop := satUp f.drop 1 }) s) redid true = none := stray
  simp only [arriveOperand, stray, redStray, runs, Bool.false_eq_true, if_false, still]

variable (red : s.fab.reductions[i]? = some r) (node : placeOf (takesOperand o) r.nodes = some j) (nth : r.nodes[j]? = some n)
include red node

theorem arriveOperand_taken (place : redPlace s redid true = some i) :
    arriveOperand redid o s =
      finishRed i (pumpLeaves i (pairOperand 16 i { o with data := realElements s i o.off o.data } s)) := by
  simp only [arriveOperand, place, red, Option.map_some, Option.getD_some, any_of_placeOf node, if_true]

include nth

theorem pairOperand_waits (alone : r.operands.find? (partnerOperand n o) = none) (fuel : Nat) :
    pairOperand (fuel + 1) i o s = modRed i (fun r => { r with operands := r.operands ++ [o] }) s := by
  simp only [pairOperand, red, node, nth, alone]

theorem pairOperand_lands {q : RedOperand} (partner : r.operands.find? (partnerOperand n o) = some q) (lands : n.land = true)
    (toOne : n.bcast = false) (fuel : Nat) :
    pairOperand (fuel + 1) i o s =
      let sum := if o.lo < q.lo then List.zipWith fadd o.data q.data else List.zipWith fadd q.data o.data
      landRed i n.shard o.off sum (modRed i (fun r => { r with sent := SMap.upd 0 r.sent j (fun k => k + sum.length) })
        (modRed i (fun r => { r with operands := r.operands.filter (fun z => !(partnerOperand n o z)) }) s)) := by
  have left : List.zipWith fadd (if o.lo < q.lo then o.data else q.data) (if o.lo < q.lo then q.data else o.data) =
      if o.lo < q.lo then List.zipWith fadd o.data q.data else List.zipWith fadd q.data o.data := by
    split <;> rfl
  have still : (modRed i (fun r => { r with
      operands := r.operands.filter (fun z => !(partnerOperand n o z)) }) s).fab.reductions[i]? =
        some { r with operands := r.operands.filter (fun z => !(partnerOperand n o z)) } := by
    show (mapAt _ i s.fab.reductions)[i]? = _
    rw [mapAt_getElem?, red]
    rfl
  simp only [pairOperand, red, node, nth, partner, left, emitNode, still, lands, toOne, if_true, Bool.false_eq_true, if_false]

end Operand

/-- Settles O30: the return of a chunk by the first check that stops it; a reduction as it opens, and an operand by whether its
partner waits. -/
theorem chunksLandAndReductionsPair : Obligations.ChunksLandAndReductionsPair := by
  refine ⟨?chunks, ?reductions⟩
  case chunks =>
    intro s v posn sctx errs data ch rest src a k t back landed comes flight bound
    have arrives (c : comes) : chunkComes s k (k / 131072) := by rw [streamKey_posn]; exact c
    refine ⟨fun comes free goes source here inflight acked dst ember src length st copies =>
        ⟨fun verdict noCell noGuest => ?lands, fun verdict => ?failed⟩,
      fun n q comes held => congrArg _ (returnChunk_held flight bound (arrives comes) held),
      fun st comes free stop => ?stops, fun stale more turn => congrArg _ (returnChunk_stale flight bound stale more turn)⟩
    case failed =>
      exact congrArg _ ((returnChunk_served flight bound (arrives comes) free).trans (serveChunk_failed goes inflight verdict))
    case stops =>
      exact congrArg _ ((returnChunk_served flight bound (arrives comes) free).trans (serveChunk_stops stop))
    case lands =>
      have stream : getStream back k = { getStream v k with inflight := rest } := by
        rw [getStream_chunkBack, inflight]
        rfl
      have after : getStream landed k = { getStream v k with inflight := rest, acked := (getStream v k).acked + ch.len } := by
        show getStream (modStream k _ (memWrite _ _ back)) k = _
        rw [getStream_modStream_same, getStream_memWrite, stream]
      have finishes : exec (.chunkReturn posn sctx errs data) s = .next (finishStream k landed) := by
        refine congrArg Host.Outcome.next ((returnChunk_served flight bound (arrives comes) free).trans
          ((serveChunk_good goes inflight verdict (by rw [source]; exact here)).trans
            (landAndFinish_memory ?_ ?_ ?_ noCell noGuest ch.data)))
        · rw [stream]; exact dst
        · rw [stream]; exact ember
        · rw [stream, src]; exact here
      refine ⟨fun more => finishes.trans (congrArg _ (finishStream_unfinished ?_)), fun last done all =>
        finishes.trans (congrArg _ (finishStream_finished ?_ ?_ ?_ ?_))⟩ <;> rw [after]
      · exact more.imp id fun short => by rw [acked, length]; exact short
      · exact st.trans done
      · exact last
      · rw [acked, length]; exact all
      · exact copies
  case reductions =>
    intro s g c d redid shard lo hi off data i j r n w ns new
    refine ⟨fun starting reduce locked => ⟨exec_streamReduce_busy starting reduce locked rfl, fun free inside answers =>
      ⟨fun room may plain => ?opens, exec_streamReduce_full starting reduce locked rfl free inside answers⟩⟩,
      ?operand,
      fun stray runs => congrArg _ (arriveOperand_stray stray runs)⟩
    case opens =>
      obtain ⟨m, place, opens⟩ := openRed_opens c d (r := new) (s := g) rfl plain
      exact ⟨m, place,
        (exec_streamReduce_opens starting reduce locked rfl free inside answers room may).trans (congrArg _ opens)⟩
    case operand =>
      intro o z place red node nth
      have taken : exec (.reductionOperandArrive redid shard lo hi off data) s =
          .next (finishRed i (pumpLeaves i (pairOperand 16 i z s))) := congrArg _ (arriveOperand_taken red node place)
      refine ⟨fun alone => ?waits, fun q partner lands toOne => ?pairs⟩
      case waits => rw [taken, pairOperand_waits (o := z) red node nth alone]
      case pairs => rw [taken, pairOperand_lands (o := z) red node nth partner lands toOne]

end Sys2Proof.Machine
end

section
/-! PROOFS. Die-to-die edges: what a received frame leaves, how an edge trains, and the failures of its training (R204 to R211). -/

namespace Sys2Proof.Machine

/-! ### Reading an edge and its modules after a change -/

@[simp] theorem getEdge_modEdge_same (e : Nat) (f : Edge → Edge) (s : State) : getEdge (modEdge e f s) e = f (getEdge s e) :=
  SMap.get_upd ..

theorem getEdge_modEdge_ne (e : Nat) (f : Edge → Edge) (k : Nat) (h : k ≠ e) (s : State) :
    getEdge (modEdge e f s) k = getEdge s k :=
  SMap.get_upd_ne _ _ _ _ _ h

@[simp] theorem getEdge_occur (src : WatchSource) (s : State) (e : Nat) : getEdge (occur src s) e = getEdge s e := rfl

@[simp] theorem getEdge_raise (code : EventCode) (src : BitVec 12) (a : EvArgs) (s : State) (e : Nat) :
    getEdge (raise code src a s) e = getEdge s e := rfl

/-- Changing an edge twice is one change. -/
theorem modEdge_modEdge (e : Nat) (f g : Edge → Edge) (s : State) :
    modEdge e f (modEdge e g s) = modEdge e (fun x => f (g x)) s := by
  simp only [modEdge, SMap.upd, SMap.get_set, SMap.set_set]

/-- Changes of an edge that make the same of it are the same change. -/
theorem modEdge_congr {e : Nat} {f g : Edge → Edge} {s : State} (h : f (getEdge s e) = g (getEdge s e)) :
    modEdge e f s = modEdge e g s :=
  congrArg (fun x => { s with pkg := { s.pkg with edges := SMap.set Edge.init s.pkg.edges e x } }) h

@[simp] theorem edgeModule_modModule_same (m : Nat) (f : EdgeModule → EdgeModule) (x : Edge) :
    edgeModule (modModule m f x) m = f (edgeModule x m) :=
  SMap.get_upd ..

theorem edgeModule_modModule_ne (m : Nat) (f : EdgeModule → EdgeModule) (x : Edge) {k : Nat} (h : k ≠ m) :
    edgeModule (modModule m f x) k = edgeModule x k :=
  SMap.get_upd_ne _ _ _ _ _ h

/-! ### Frames that leave (R204, R205) -/

/-- The frame that leaves on a module: the next number, ACK and the edge's CTAG, under a good CRC. -/
def outFrame (m : Nat) (k : FrameType) (pc : Piece) (x : Edge) : Frame :=
  let q := edgeModule x m
  let f : Frame :=
    { seq := q.txNext, ack := q.rxNext - 1, ftype := k, ctag := x.ctag, payload := pc.bytes, crc := 0, packet := pc.packet
      last := pc.last }
  { f with crc := crc32 (frameBytes f) }

theorem sent_sendFrame (m : Nat) (k : FrameType) (pc : Piece) (x : Edge) :
    (sendFrame m k pc x).sent = x.sent ++ [(m, outFrame m k pc x)] := rfl

theorem frameGood_outFrame (m : Nat) (k : FrameType) (pc : Piece) (x : Edge) : frameGood (outFrame m k pc x) = true :=
  beq_self_eq_true (crc32 (frameBytes (outFrame m k pc x)))

/-- Discarding frames leaves the state of the edge. -/
theorem st_discardFrame (m : Nat) (x : Edge) : (discardFrame m x).st = x.st := by
  unfold discardFrame
  split
  · rfl
  · dsimp only
    split <;> rfl

/-- The first frame that is discarded is answered with a NAK, unless only IDLE frames are sent. -/
theorem discardFrame_first {m : Nat} {x : Edge} (first : (edgeModule x m).discarding = false) (sends : x.idleOnly = false) :
    discardFrame m x = sendFrame m .nak noPiece (modModule m (fun q => { q with discarding := true }) x) := by
  simp only [discardFrame, first, sends, Bool.false_eq_true, if_false]

/-! ### ACK, NAK and replay (R205) -/

/-- A module whose frames up to a number are acknowledged. -/
def ackedModule (ack : BitVec 8) (q : EdgeModule) : EdgeModule :=
  { q with ackFrom := ack + 1, replay := q.replay.filter (fun f => decide (128 ≤ (ack - f.seq).toNat)) }

theorem edgeModule_ackFrames (m : Nat) (ack : BitVec 8) (x : Edge) (k : Nat) :
    edgeModule (ackFrames m ack x) k = edgeModule (modModule m (ackedModule ack) x) k := rfl

theorem edgeModule_replayFrames_same (m : Nat) (ack : BitVec 8) (x : Edge) :
    edgeModule (replayFrames m ack x) m = ackedModule ack (edgeModule x m) :=
  edgeModule_modModule_same m (ackedModule ack) x

theorem sent_replayFrames (m : Nat) (ack : BitVec 8) (x : Edge) : (replayFrames m ack x).sent =
    x.sent ++ ((edgeModule x m).replay.filter (fun f => decide (128 ≤ (ack - f.seq).toNat))).map (fun f => (m, f)) :=
  congrArg (fun q : EdgeModule => x.sent ++ q.replay.map (fun f => (m, f))) (edgeModule_replayFrames_same m ack x)

/-! ### A DATA frame in order (R204 to R206) -/

/-- Joining a piece changes the packet under way, what has been received, and which packet comes next. -/
theorem joinPiece_eq (fr : Frame) (x : Edge) : ∃ bytes next packets,
    joinPiece fr x = { x with joining := bytes, expected := next, received := packets } := by
  unfold joinPiece
  split_ifs
  · exact ⟨_, _, _, rfl⟩
  · exact ⟨_, _, _, rfl⟩
  · exact ⟨_, _, _, rfl⟩

theorem edgeModule_joinPiece (fr : Frame) (x : Edge) (k : Nat) : edgeModule (joinPiece fr x) k = edgeModule x k := by
  obtain ⟨_, _, _, joined⟩ := joinPiece_eq fr x
  rw [joined]
  rfl

theorem sent_joinPiece (fr : Frame) (x : Edge) : (joinPiece fr x).sent = x.sent := by
  obtain ⟨_, _, _, joined⟩ := joinPiece_eq fr x
  rw [joined]

/-- What joining takes out of a module is frames that wait to be joined. -/
theorem edgeModule_joinPieces (f : Nat) (x : Edge) (k : Nat) :
    { edgeModule (joinPieces f x) k with arrived := [] } = { edgeModule x k with arrived := [] } := by
  induction f generalizing x with
  | zero => rfl
  | succ f ih =>
    rw [joinPieces]
    split
    · rfl
    next m turn =>
      split
      · rfl
      next fr rest waits =>
        rw [ih, edgeModule_joinPiece]
        by_cases here : k = m
        · subst here
          exact congrArg (fun q : EdgeModule => { q with arrived := [] })
            (edgeModule_modModule_same k (fun q => { q with arrived := rest }) x)
        · exact congrArg (fun q : EdgeModule => { q with arrived := [] })
            (edgeModule_modModule_ne m (fun q => { q with arrived := rest }) x here)

theorem sent_joinPieces (f : Nat) (x : Edge) : (joinPieces f x).sent = x.sent := by
  induction f generalizing x with
  | zero => rfl
  | succ f ih =>
    rw [joinPieces]
    split
    · rfl
    · split
      · rfl
      · rw [ih, sent_joinPiece]
        rfl

/-- Nothing is joined where no frame waits. -/
theorem joinPieces_of_none_waiting {x : Edge} (h : ∀ k, (edgeModule x k).arrived = []) (f : Nat) : joinPieces f x = x := by
  cases f with
  | zero => rfl
  | succ f =>
    rw [joinPieces]
    split
    · rfl
    next m turn => rw [h m]

/-- Frames that wait are counted. -/
theorem arrivedFrames_pos {x : Edge} {m : Nat} (h : (edgeModule x m).arrived ≠ []) : 0 < arrivedFrames x := by
  rcases SMap.get_eq_default_or_mem EdgeModule.init x.modules m with absent | listed
  · exact absurd (congrArg EdgeModule.arrived absent) h
  · have counted := List.le_sum_of_mem (List.mem_map_of_mem (f := fun kv : Nat × EdgeModule => kv.2.arrived.length) listed)
    exact Nat.lt_of_lt_of_le (List.length_pos_iff.mpr h) counted

/-- A frame that waits alone, on the module in turn, is joined. -/
theorem joinPieces_alone {x : Edge} {m : Nat} {fr : Frame} (turn : moduleTurn x x.joinTurn = some m)
    (waits : (edgeModule x m).arrived = [fr]) (alone : ∀ k, k ≠ m → (edgeModule x k).arrived = []) :
    joinPieces (arrivedFrames x) x =
      joinPiece fr { (modModule m (fun q => { q with arrived := [] }) x) with joinTurn := m + 1 } := by
  obtain ⟨f, hf⟩ : ∃ f, arrivedFrames x = f + 1 :=
    Nat.exists_eq_add_one.mpr (arrivedFrames_pos (m := m) (by simp [waits]))
  rw [hf, joinPieces]
  simp only [turn, waits]
  refine joinPieces_of_none_waiting (fun k => ?_) f
  rw [edgeModule_joinPiece]
  by_cases here : k = m
  · subst here
    exact congrArg EdgeModule.arrived (edgeModule_modModule_same k (fun q => { q with arrived := [] }) x)
  · exact (congrArg EdgeModule.arrived (edgeModule_modModule_ne m (fun q => { q with arrived := [] }) x here)).trans
      (alone k here)

/-- The last piece of a packet completes it; a packet that this side holds already is dropped (R206). -/
theorem received_joinPiece_last {fr : Frame} (last : fr.last = true) (x : Edge) : (joinPiece fr x).received =
    if fr.packet < x.expected then x.received else x.received ++ [x.joining ++ fr.payload] := by
  unfold joinPiece
  rw [if_pos last]
  split <;> rfl

/-- A module that has taken a DATA frame in order. -/
def takenModule (fr : Frame) (q : EdgeModule) : EdgeModule :=
  let r := ackedModule fr.ack { q with rxNext := fr.seq + 1, discarding := false }
  { r with arrived := r.arrived ++ [fr] }

/-- An edge that has taken a DATA frame in order, which waits to be joined. -/
def frameTaken (m : Nat) (fr : Frame) (x : Edge) : Edge :=
  modModule m (fun q => { q with arrived := q.arrived ++ [fr] })
    (ackFrames m fr.ack (modModule m (fun q => { q with rxNext := fr.seq + 1, discarding := false }) x))

theorem frameTaken_eq (m : Nat) (fr : Frame) (x : Edge) : ∃ modules packets,
    frameTaken m fr x = { x with modules := modules, packets := packets } :=
  ⟨_, _, rfl⟩

theorem takeFrame_data {fr : Frame} (data : fr.ftype = .data) (m : Nat) (x : Edge) :
    takeFrame m fr x = joinPieces (arrivedFrames (frameTaken m fr x)) (frameTaken m fr x) := by
  unfold takeFrame
  simp only [data]
  rfl

theorem edgeModule_frameTaken_same (m : Nat) (fr : Frame) (x : Edge) :
    edgeModule (frameTaken m fr x) m = takenModule fr (edgeModule x m) := by
  simp only [frameTaken, edgeModule_modModule_same, edgeModule_ackFrames, takenModule]

theorem edgeModule_frameTaken_ne {m k : Nat} (h : k ≠ m) (fr : Frame) (x : Edge) :
    edgeModule (frameTaken m fr x) k = edgeModule x k := by
  simp only [frameTaken, edgeModule_modModule_ne _ _ _ h, edgeModule_ackFrames]

/-- What a module takes of a DATA frame beside the frames that wait to be joined. -/
theorem edgeModule_takeFrame_data {fr : Frame} (data : fr.ftype = .data) (m : Nat) (x : Edge) :
    { edgeModule (takeFrame m fr x) m with arrived := [] } = { takenModule fr (edgeModule x m) with arrived := [] } := by
  rw [takeFrame_data data, edgeModule_joinPieces, edgeModule_frameTaken_same]

theorem sent_takeFrame_data {fr : Frame} (data : fr.ftype = .data) (m : Nat) (x : Edge) :
    (takeFrame m fr x).sent = x.sent := by
  rw [takeFrame_data data, sent_joinPieces]
  rfl

/-- The last piece of a packet, on the module in turn and with nothing else waiting, completes the packet. -/
theorem received_takeFrame_data {fr : Frame} (data : fr.ftype = .data) {m : Nat} {x : Edge}
    (turn : moduleTurn x x.joinTurn = some m) (nothing : ∀ k, (edgeModule x k).arrived = []) (last : fr.last = true) :
    (takeFrame m fr x).received =
      if fr.packet < x.expected then x.received else x.received ++ [x.joining ++ fr.payload] := by
  have waits : (edgeModule (frameTaken m fr x) m).arrived = [fr] := by
    rw [edgeModule_frameTaken_same]
    exact congrArg (· ++ [fr]) (nothing m)
  have alone (k : Nat) (h : k ≠ m) : (edgeModule (frameTaken m fr x) k).arrived = [] := by
    rw [edgeModule_frameTaken_ne h, nothing k]
  obtain ⟨modules, packets, taken⟩ := frameTaken_eq m fr x
  have sameTurn : moduleTurn (frameTaken m fr x) (frameTaken m fr x).joinTurn = some m := by rw [taken]; exact turn
  rw [takeFrame_data data, joinPieces_alone sameTurn waits alone, received_joinPiece_last last, taken]
  rfl

/-! ### EDGE_FRAME_RECEIVE (R204, R205, R208, R209) -/

/-- Moments of the CRC errors of a module in the last 1 ms, with one now. -/
def crcRecent (s : State) (e m : Nat) : List (BitVec 64) :=
  (edgeModule (getEdge s e) m).crcTimes.filter (fun t => decide ((s.mgmt.ptb - t).toNat < 1000000)) ++ [s.mgmt.ptb]

/-- The state in which a CRC error is counted and the frame discarded. -/
def crcCounted (e m : Nat) (s : State) : State :=
  occur .fec (modEdge e (fun x => discardFrame m
    { (modModule m (fun q => { q with crcTimes := crcRecent s e m }) x) with crc := satUp x.crc 1 }) s)

theorem st_crcCounted (e m : Nat) (s : State) : (getEdge (crcCounted e m s) e).st = (getEdge s e).st := by
  rw [crcCounted, getEdge_occur, getEdge_modEdge_same, st_discardFrame]
  rfl

theorem edgeCrcError_within {s : State} {e m : Nat}
    (h : fld s.pkg.edgeCfg 15 0 = 0 ∨ (crcRecent s e m).length ≤ fld s.pkg.edgeCfg 15 0) :
    edgeCrcError e m s = crcCounted e m s :=
  if_neg fun past : fld s.pkg.edgeCfg 15 0 ≠ 0 ∧ fld s.pkg.edgeCfg 15 0 < (crcRecent s e m).length => by omega

theorem edgeCrcError_past_limit {s : State} {e m : Nat} (on : fld s.pkg.edgeCfg 15 0 ≠ 0)
    (past : fld s.pkg.edgeCfg 15 0 < (crcRecent s e m).length) :
    edgeCrcError e m s = retrainEdge e (crcCounted e m s) :=
  if_pos (⟨on, past⟩ : fld s.pkg.edgeCfg 15 0 ≠ 0 ∧ fld s.pkg.edgeCfg 15 0 < (crcRecent s e m).length)

/-- A quarantined edge keeps what it received and what it may send. -/
theorem getEdge_quarantineEdge {s : State} {e : Nat} (active : (getEdge s e).st = .active) :
    getEdge (quarantineEdge e s) e = { getEdge s e with
      st := .quarantine, holding := true, quarantined := true, passing := 0xFFFF
      quarantines := satUp (getEdge s e).quarantines 1, enteredAt := s.mgmt.ptb } := by
  rw [quarantineEdge, if_pos active, getEdge_raise, getEdge_occur, getEdge_modEdge_same]

section Receive
variable {s : State} {e : Fin 14} {module : Fin 16} {fr : Frame}

theorem exec_edgeFrameReceive_inactive (off : (getEdge s e.val).mask.getLsbD module.val = false) :
    exec (.edgeFrameReceive e module fr) s = .next s := by
  show execEdgeFrameReceive e module fr s = _
  simp only [execEdgeFrameReceive, off, Bool.not_false, or_true, if_true]

variable (live : (getEdge s e.val).st = .active ∨ (getEdge s e.val).st = .linkinit)
  (on : (getEdge s e.val).mask.getLsbD module.val = true)
include live on

/-- The checks of a frame on an active module, in their order. -/
theorem exec_edgeFrameReceive_checked : exec (.edgeFrameReceive e module fr) s =
    if frameGood fr = false then .next (edgeCrcError e.val module.val s)
    else if fr.ctag ≠ (getEdge s e.val).ctag then
      .next (quarantineEdge e.val (modEdge e.val (fun x => { x with idleOnly := true }) s))
    else if fr.ftype = .reserved ∨ fr.seq ≠ (edgeModule (getEdge s e.val) module.val).rxNext then
      .next (modEdge e.val (discardFrame module.val) s)
    else .next (modEdge e.val (takeFrame module.val fr) s) := by
  have taken : ¬(((getEdge s e.val).st ≠ .active ∧ (getEdge s e.val).st ≠ .linkinit) ∨
      (!(getEdge s e.val).mask.getLsbD module.val) = true) := by
    simp only [on, Bool.not_true, Bool.false_eq_true, or_false]
    tauto
  refine (if_neg taken).trans ?_
  cases frameGood fr <;> rfl

theorem exec_edgeFrameReceive_bad (bad : frameGood fr = false) :
    exec (.edgeFrameReceive e module fr) s = .next (edgeCrcError e.val module.val s) := by
  rw [exec_edgeFrameReceive_checked live on, if_pos bad]

variable (good : frameGood fr = true)
include good

theorem exec_edgeFrameReceive_otherTag (other : fr.ctag ≠ (getEdge s e.val).ctag) :
    exec (.edgeFrameReceive e module fr) s =
      .next (quarantineEdge e.val (modEdge e.val (fun x => { x with idleOnly := true }) s)) := by
  rw [exec_edgeFrameReceive_checked live on, if_neg (ne_false_of_eq_true good), if_pos other]

variable (tag : fr.ctag = (getEdge s e.val).ctag)
include tag

theorem exec_edgeFrameReceive_outOfOrder (gap : fr.seq ≠ (edgeModule (getEdge s e.val) module.val).rxNext) :
    exec (.edgeFrameReceive e module fr) s = .next (modEdge e.val (discardFrame module.val) s) := by
  rw [exec_edgeFrameReceive_checked live on, if_neg (ne_false_of_eq_true good), if_neg (not_not.mpr tag), if_pos (.inr gap)]

theorem exec_edgeFrameReceive_data (data : fr.ftype = .data)
    (order : fr.seq = (edgeModule (getEdge s e.val) module.val).rxNext) :
    exec (.edgeFrameReceive e module fr) s = .next (modEdge e.val (takeFrame module.val fr) s) := by
  have inOrder : ¬(fr.ftype = .reserved ∨ fr.seq ≠ (edgeModule (getEdge s e.val) module.val).rxNext) := by
    simp [data, order]
  rw [exec_edgeFrameReceive_checked live on, if_neg (ne_false_of_eq_true good), if_neg (not_not.mpr tag), if_neg inOrder]

end Receive

/-! ### Training (R207 to R211) -/

/-- An edge whose modules have trained: those that pass on both sides go on. -/
def moduleTrained (near far : BitVec 16) (x : Edge) : Edge :=
  { x with st := .mbtrain, passing := x.passing &&& near &&& far }

/-- An edge whose width has been decided from the modules that pass: the lowest of them are active under a new CTAG, and the other
side is told (R207, R208). -/
def widthDecided (x : Edge) : Edge :=
  let w := widthOf (modulesOf x.passing).length
  let mask := maskOf ((modulesOf x.passing).take w)
  { x with
    st := .linkinit, width := w, mask := mask, ctag := x.ctag + 1, idleOnly := false
    sideband := x.sideband ++ [(mask, x.ctag + 1)], farMask := mask, farCtag := x.ctag + 1 }

/-- A decided width that is lower than the one before counts for the watch. -/
theorem decideWidth_of_width {s : State} {e : Nat} (enough : widthOf (modulesOf (getEdge s e).passing).length ≠ 0) :
    decideWidth e s = modEdge e widthDecided
      (if widthOf (modulesOf (getEdge s e).passing).length < (getEdge s e).width then occur .drop s else s) := by
  refine (if_neg enough).trans ?_
  split <;> exact modEdge_congr rfl

/-- An occurrence for the watch and a change of an edge do not depend on each other. -/
theorem modEdge_ite_occur (p : Prop) [Decidable p] (src : WatchSource) (e : Nat) (f : Edge → Edge) (s : State) :
    (if p then occur src (modEdge e f s) else modEdge e f s) = modEdge e f (if p then occur src s else s) := by
  split <;> rfl

@[simp] theorem getEdge_ite_occur (p : Prop) [Decidable p] (src : WatchSource) (s : State) (e : Nat) :
    getEdge (if p then occur src s else s) e = getEdge s e := by
  split <;> rfl

section Training
variable {s : State} {e : Fin 14} {near far : BitVec 16}

theorem exec_edgeModuleTrainingDone_begins (h : (getEdge s e.val).st = .mbinit ∨ (getEdge s e.val).st = .retrain ∨
    (getEdge s e.val).st = .quarantine) :
    exec (.edgeModuleTrainingDone e near far) s = .next (modEdge e.val (moduleTrained near far) s) := by
  show execEdgeModuleTrainingDone e near far s = _
  unfold execEdgeModuleTrainingDone
  rcases h with h | h | h <;> rw [h] <;> rfl

theorem exec_edgeModuleTrainingDone_decides (h : (getEdge s e.val).st = .mbtrain) :
    exec (.edgeModuleTrainingDone e near far) s =
      .next (decideWidth e.val (modEdge e.val (moduleTrained near far) s)) := by
  show execEdgeModuleTrainingDone e near far s = _
  unfold execEdgeModuleTrainingDone
  rw [h]
  rfl

/-- MBTRAIN ends in LINKINIT where enough modules pass for a width. -/
theorem exec_edgeModuleTrainingDone_width (h : (getEdge s e.val).st = .mbtrain)
    (enough : widthOf (modulesOf (moduleTrained near far (getEdge s e.val)).passing).length ≠ 0) :
    exec (.edgeModuleTrainingDone e near far) s = .next (modEdge e.val (fun x => widthDecided (moduleTrained near far x))
      (if widthOf (modulesOf (moduleTrained near far (getEdge s e.val)).passing).length < (getEdge s e.val).width then
        occur .drop s else s)) := by
  have width := decideWidth_of_width (s := modEdge e.val (moduleTrained near far) s) (e := e.val)
    (by rw [getEdge_modEdge_same]; exact enough)
  rw [exec_edgeModuleTrainingDone_decides h, width, getEdge_modEdge_same, modEdge_ite_occur, modEdge_modEdge]
  rfl

theorem exec_edgeModuleTrainingDone_noWidth (h : (getEdge s e.val).st = .mbtrain)
    (few : widthOf (modulesOf (moduleTrained near far (getEdge s e.val)).passing).length = 0) :
    exec (.edgeModuleTrainingDone e near far) s = .next (failEdge e.val (modEdge e.val (moduleTrained near far) s)) := by
  rw [exec_edgeModuleTrainingDone_decides h]
  refine congrArg Host.Outcome.next (if_pos ?_)
  rw [getEdge_modEdge_same]
  exact few

theorem exec_edgeSbinit (h : (getEdge s e.val).st = .sbinit) :
    exec (.edgeSidebandUp e) s = .next (modEdge e.val (fun x => { x with st := .mbinit }) s) ∧
      exec (.edgeSbinitTimeout e) s = .next (failEdge e.val (advanceTo ((getEdge s e.val).enteredAt + msec 1) s)) :=
  ⟨if_pos h, if_pos h⟩

/-- LINKINIT is done: the edge is ACTIVE and sends its packets again. -/
theorem exec_edgeLinkinitDone (h : (getEdge s e.val).st = .linkinit) (later : s.pwr.stage ≠ 4) :
    exec (.edgeLinkinitDone e) s =
      let up := modEdge e.val (fun x => resendPackets { x with
        st := .active, holding := false, linkFailed := false, fromRetrain := false, quarantined := false, lastTry := false
        idleOnly := false }) s
      .next (if (getEdge s e.val).fromRetrain && decide ((getEdge s e.val).width < 16) then raise 0x0404 (edgeUnit e.val) {} up
        else up) := by
  refine (if_pos h).trans (congrArg Host.Outcome.next ?_)
  refine if_neg fun stage4 => later ?_
  have stage := stage4.1
  split at stage <;> exact stage

/-- The first module that fails in LINKINIT takes the edge back to MBINIT. -/
theorem exec_linkinitModuleFail_first (h : (getEdge s e.val).st = .linkinit) (first : (getEdge s e.val).linkFailed = false)
    (module : Fin 16) : exec (.linkinitModuleFail e module) s = .next (modEdge e.val (fun x => { x with
      passing := x.passing &&& ~~~((1 : BitVec 16) <<< module.val), linkFailed := true, st := .mbinit }) s) := by
  show execLinkinitModuleFail e module s = _
  simp only [execLinkinitModuleFail, h, first, if_true, Bool.false_eq_true, if_false]
  exact congrArg Host.Outcome.next (modEdge_congr (by rw [first]; rfl))

end Training

end Sys2Proof.Machine
end

section
/-! PROOFS. What links send as time goes on: the pool and the packet in turn at an UP port, and the pieces of an edge (R204, R208,
R226 to R228, R234 to R236). -/

namespace Sys2Proof.Machine

/-! ### The round-robin rule (R23) -/

/-- What the rule grants is a requester that asks. -/
theorem roundRobin_some {ptr n : Nat} {req : Nat → Bool} {i : Nat} (h : roundRobin ptr n req = some i) :
    i < n ∧ req i = true := by
  obtain ⟨k, hk, rfl⟩ := List.mem_map.mp (List.mem_of_find?_eq_some h)
  exact ⟨Nat.mod_lt _ (Nat.zero_lt_of_lt (List.mem_range.mp hk)), List.find?_some h⟩

/-- Where the rule grants nothing, nobody asks. -/
theorem not_asks_of_roundRobin_none {ptr n : Nat} {req : Nat → Bool} (h : roundRobin ptr n req = none) {i : Nat} (hi : i < n) :
    req i = false := by
  have order : (ptr + (n - ptr % n + i) % n) % n = i := by
    have inRange := Nat.mod_lt ptr (Nat.zero_lt_of_lt hi)
    rw [Nat.add_mod_mod, ← Nat.mod_add_mod, show ptr % n + (n - ptr % n + i) = i + n by omega, Nat.add_mod_right,
      Nat.mod_eq_of_lt hi]
  have asked := List.find?_eq_none.mp h _ (List.mem_map.mpr
    ⟨(n - ptr % n + i) % n, List.mem_range.mpr (Nat.mod_lt _ (Nat.zero_lt_of_lt hi)), rfl⟩)
  rw [order] at asked
  exact Bool.eq_false_iff.mpr asked

/-! ### The pool in turn (R234 to R236) -/

/-- SHARE of a transit entry has 4 bits. -/
theorem shareOf_lt (s : State) (port : Nat) : shareOf s port < 16 := by
  unfold shareOf
  cases hit : (transits (tableBytes s)).find? (fun r => decide (s.fab.selfIdx = some r.pkg) && decide (r.outPort = port)) with
  | none => exact Nat.zero_lt_of_lt (Nat.lt_succ_self 15)
  | some r =>
    obtain ⟨j, _, rfl⟩ := List.mem_map.mp (List.mem_of_find?_eq_some hit)
    exact Nat.mod_lt _ (Nat.two_pow_pos 4)

/-- Of the pools of a class that is ready, the one whose slot comes is ready, or else the transit pool, whose slots are none. -/
theorem transit_ready_of_no_slot {share : Nat} (few : share < 16) {q : FabPort} {c ptr : Nat}
    (ready : (poolReady q (c + 1) || poolReady q (c + 5)) = true)
    (noSlot : roundRobin ptr 16 (fun k => poolReady q (if k < share then c + 5 else c + 1)) = none) :
    poolReady q (c + 5) = true := by
  have localSlot := not_asks_of_roundRobin_none noSlot (i := 15) (by omega)
  rw [if_neg (by omega)] at localSlot
  simpa [localSlot] using ready

/-- The pool in turn is ready, and is one of TC0's while one of those is ready. -/
theorem nextPool_ready {share : Nat} (few : share < 16) {q q1 : FabPort} {pool : Nat} (h : nextPool share q = some (pool, q1)) :
    pool < 8 ∧ poolReady q pool = true ∧ (poolReady q 0 = true ∨ poolReady q 4 = true → pool = 0 ∨ pool = 4) := by
  unfold nextPool at h
  split at h
  next i granted =>
    cases h
    obtain ⟨low, ready⟩ := roundRobin_some granted
    exact ⟨by omega, ready, fun _ => by omega⟩
  next noTc0 =>
    have noTc0Ready : ¬(poolReady q 0 = true ∨ poolReady q 4 = true) := by
      have first := not_asks_of_roundRobin_none noTc0 (i := 0) (by omega)
      have second := not_asks_of_roundRobin_none noTc0 (i := 1) (by omega)
      simp_all
    split at h
    · cases h
    next c granted =>
      obtain ⟨low, ready⟩ := roundRobin_some granted
      dsimp only at h
      split at h
      next k slot =>
        cases h
        refine ⟨by split <;> omega, (roundRobin_some slot).2, fun tc0 => absurd tc0 noTc0Ready⟩
      next noSlot =>
        cases h
        exact ⟨by omega, transit_ready_of_no_slot few ready noSlot, fun tc0 => absurd tc0 noTc0Ready⟩

/-- Choosing the pool moves pointers of the port alone. -/
theorem nextPool_eq {share : Nat} {q q1 : FabPort} {pool : Nat} (h : nextPool share q = some (pool, q1)) :
    ∃ tc0Ptr classPtr poolPtr, q1 = { q with tc0Ptr := tc0Ptr, classPtr := classPtr, poolPtr := poolPtr } := by
  unfold nextPool at h
  dsimp only at h
  split at h
  · cases h; exact ⟨_, _, _, rfl⟩
  · split at h
    · cases h
    · split at h
      · cases h; exact ⟨_, _, _, rfl⟩
      · cases h; exact ⟨_, _, _, rfl⟩

/-- Choosing the packet takes it from where it waits. -/
theorem nextPacket_eq {pool : Nat} {q q2 : FabPort} {o : OutPacket} (h : nextPacket pool q = some (o, q2)) :
    ∃ resend queue inPtr, q2 = { q with resend := resend, queue := queue, inPtr := inPtr } := by
  unfold nextPacket at h
  dsimp only at h
  split at h
  · cases h; exact ⟨_, _, _, rfl⟩
  · cases h; exact ⟨_, _, _, rfl⟩
  · split at h
    · cases h
    · obtain ⟨first, _, taken⟩ := Option.map_eq_some_iff.mp h
      cases taken
      exact ⟨_, _, _, rfl⟩

/-- Choosing what goes next leaves what the flit is made of: the numbers, the credits and what has been sent. -/
theorem chosenPacket_keeps {share pool : Nat} {q q1 q2 : FabPort} {o : OutPacket} (chosen : nextPool share q = some (pool, q1))
    (packet : nextPacket pool q1 = some (o, q2)) :
    q2.sent = q.sent ∧ q2.txNext = q.txNext ∧ q2.rxNext = q.rxNext ∧ q2.credits = q.credits ∧ q2.st = q.st := by
  obtain ⟨_, _, _, moved⟩ := nextPool_eq chosen
  obtain ⟨_, _, _, taken⟩ := nextPacket_eq packet
  rw [taken, moved]
  exact ⟨rfl, rfl, rfl, rfl, rfl⟩

/-! ### The flit that leaves (R226 to R228, R235) -/

/-- The flit that leaves: the next number, ACK and the freed counts, under a good CRC. -/
def outFlit (kind : FlitKind) (pool : Nat) (sop : Bool) (data : List Byte) (q : FabPort) : Flit :=
  let f : Flit :=
    { seq := q.txNext, ack := q.rxNext - 1, kind := kind, tc := Fin.ofNat 4 pool, pool := decide (4 ≤ pool), sop := sop
      crl := freedNow q 0, crt := freedNow q 4, data := data, crc := 0 }
  { f with crc := crc32 (flitBytes f) }

theorem flitGood_outFlit (kind : FlitKind) (pool : Nat) (sop : Bool) (data : List Byte) (q : FabPort) :
    flitGood (outFlit kind pool sop data q) = true :=
  beq_self_eq_true (crc32 (flitBytes (outFlit kind pool sop data q)))

theorem sent_pushFlit (pool : Nat) (first : Bool) (o : OutPacket) (q : FabPort) :
    (pushFlit pool first o q).sent = q.sent ++ [outFlit .data pool first (o.left.head?.getD []) q] := rfl

/-- A flit charges its pool one credit. -/
theorem credits_pushFlit (pool : Nat) (first : Bool) (o : OutPacket) (q : FabPort) :
    SMap.get 0 (pushFlit pool first o q).credits pool = SMap.get 0 q.credits pool - 1 :=
  SMap.get_upd 0 q.credits pool (fun c => c - 1)

/-- A packet under way goes on with the flits that are left. -/
theorem beginPacket_underWay {o : OutPacket} (h : o.left ≠ []) (port : Nat) (s : State) : beginPacket port o s = (o, s) := by
  cases hl : o.left with
  | nil => exact absurd hl h
  | cons a l => simp [beginPacket, hl]

/-- Beginning a packet changes the package's numbers of packets alone. -/
theorem beginPacket_eq (port : Nat) (o : OutPacket) (s : State) :
    ∃ lseq, (beginPacket port o s).2 = modFab (fun f => { f with lseq := lseq }) s := by
  unfold beginPacket
  dsimp only
  split_ifs
  · exact ⟨s.fab.lseq, rfl⟩
  · exact ⟨s.fab.lseq, rfl⟩
  · exact ⟨_, rfl⟩

section Tick
variable {s : State} {port : Nat}

theorem portTick_waits (h : (getPort s port).st ≠ .up ∨ 1024 ≤ (getPort s port).replay.length) : portTick port s = s :=
  if_pos h

theorem portTick_idle (nothing : nextPool (shareOf s port) (getPort s port) = none)
    (settled : owesFlit (getPort s port) = false) : portTick port s = s := by
  unfold portTick
  simp only [nothing, settled, Bool.false_eq_true, if_false]
  exact ite_self s

/-- A flit of the packet in turn goes out of the pool in turn. -/
theorem portTick_data {pool : Nat} {o : OutPacket} {q1 q2 : FabPort} (up : (getPort s port).st = .up)
    (room : (getPort s port).replay.length < 1024) (chosen : nextPool (shareOf s port) (getPort s port) = some (pool, q1))
    (packet : nextPacket pool q1 = some (o, q2)) :
    portTick port s =
      modPort port (fun _ => pushFlit pool o.left.isEmpty (beginPacket port o s).1 q2) (beginPacket port o s).2 := by
  have sends : ¬((getPort s port).st ≠ .up ∨ 1024 ≤ (getPort s port).replay.length) := by
    rw [not_or, not_not]
    exact ⟨up, by omega⟩
  refine (if_neg sends).trans ?_
  simp only [chosen, packet]

end Tick

/-! ### The frame that leaves (R204, R208) -/

section FrameTime
variable {x : Edge} {m : Nat} (turn : moduleTurn x x.sendTurn = some m)
include turn

theorem edgeTick_piece (sends : x.idleOnly = false) {pc : Piece} {rest : List Piece} (waits : x.pieces = pc :: rest) :
    edgeTick x = sendFrame m .data pc { x with pieces := rest, sendTurn := m + 1 } := by
  simp only [edgeTick, turn, sends, waits, Bool.false_eq_true, if_false]

theorem edgeTick_idleOnly (idle : x.idleOnly = true) :
    edgeTick x = sendFrame m .idle noPiece { x with sendTurn := m + 1 } := by
  simp only [edgeTick, turn, idle, if_true]

end FrameTime

/-- The module in turn is active. -/
theorem moduleTurn_active {x : Edge} {n m : Nat} (h : moduleTurn x n = some m) : x.mask.getLsbD m = true := by
  have listed : m ∈ activeModules x := by
    rcases Option.or_eq_some_iff.mp h with found | ⟨_, first⟩
    · exact List.mem_of_find?_eq_some found
    · exact List.mem_of_head? first
  exact (List.mem_filter.mp listed).2

/-- Settles O46: a frame and each stage of training by the law of its command; the pool and the packet in turn, and what is sent of
them, field by field. -/
theorem dieEdges : Obligations.DieEdges := by
  refine ⟨fun s e module fr ack near far mask ctag => ?edge, ?link⟩
  case edge =>
    intro n m x q lim put recent bad retrained seen w trained chosen up far' quiet
    refine ⟨exec_edgeFrameReceive_inactive, fun live on => ⟨fun crc within => ?within, fun crc limited past active => ?past,
      fun good tag _ gap => exec_edgeFrameReceive_outOfOrder live on good tag gap, fun good tag data order => ?data⟩,
      fun already => if_pos already, discardFrame_first, fun active on good other => ?otherTag, fun active => ?nak,
      fun trains => if_neg trains,
      exec_edgeSbinit, exec_edgeModuleTrainingDone_begins, fun trains enough => ?width, fun trains few => ?noWidth,
      exec_edgeLinkinitDone, rfl, fun h first => exec_linkinitModuleFail_first h first module,
      fun active => congrArg Host.Outcome.next (if_pos active),
      fun active => ⟨congrArg Host.Outcome.next (if_pos active), fun differs => ?differs⟩,
      fun sameMask sameTag => ?agrees, fun quarantined down => ?timeout⟩
    case within => rw [exec_edgeFrameReceive_bad live on crc, edgeCrcError_within within]; rfl
    case past =>
      rw [exec_edgeFrameReceive_bad live on crc, edgeCrcError_past_limit limited past]
      exact congrArg Host.Outcome.next (if_pos ((st_crcCounted n m s).trans active))
    case data =>
      have module := edgeModule_takeFrame_data data m x
      refine ⟨_, exec_edgeFrameReceive_data live on good tag data order, ?_⟩
      rw [getEdge_modEdge_same]
      exact ⟨sent_takeFrame_data data m x, (congrArg EdgeModule.ackFrom module :), (congrArg EdgeModule.replay module :),
        (congrArg EdgeModule.rxNext module :), (congrArg EdgeModule.discarding module :), received_takeFrame_data data,
        fun k other => getEdge_modEdge_ne _ _ k other s, rfl⟩
    case otherTag =>
      refine ⟨_, exec_edgeFrameReceive_otherTag (.inl active) on good other, ?_⟩
      rw [getEdge_quarantineEdge (by rw [getEdge_modEdge_same]; exact active), getEdge_modEdge_same]
      exact ⟨rfl, rfl, rfl⟩
    case nak =>
      refine ⟨_, if_pos active, ?_⟩
      rw [getEdge_modEdge_same]
      exact ⟨rfl, rfl, (congrArg EdgeModule.ackFrom (edgeModule_replayFrames_same m ack x) :), sent_replayFrames m ack x⟩
    case width =>
      exact (exec_edgeModuleTrainingDone_width trains enough).trans
        (congrArg Host.Outcome.next (modEdge_congr (by rw [getEdge_ite_occur]; rfl)))
    case noWidth =>
      exact (exec_edgeModuleTrainingDone_noWidth trains few).trans
        (congrArg (fun t => Host.Outcome.next (failEdge n t)) (modEdge_congr rfl))
    case differs =>
      refine (if_pos differs).trans (congrArg Host.Outcome.next (if_pos ?_))
      rw [getEdge_modEdge_same]
      exact active
    case agrees => exact if_neg (by simp [sameMask, sameTag, x, n])
    case timeout => exact if_pos (by simp [x, n, quarantined, down])
  case link =>
    intro s port x m pool pc rest o q1 q2 p q t y
    refine ⟨portTick_waits, portTick_idle, fun chosen => ?pool, fun up room chosen packet => ?data, fun sends waits turn =>
      ⟨outFrame m .data pc { x with pieces := rest, sendTurn := m + 1 }, ?piece⟩, fun idle turn =>
      ⟨outFrame m .idle noPiece { x with sendTurn := m + 1 }, ?idle⟩⟩
    case pool =>
      obtain ⟨low, ready, tc0First⟩ := nextPool_ready (shareOf_lt s p) chosen
      obtain ⟨waits, credit⟩ := Bool.and_eq_true_iff.mp ready
      exact ⟨low, waits, of_decide_eq_true credit, tc0First⟩
    case data =>
      obtain ⟨sent, txNext, rxNext, credits, st⟩ := chosenPacket_keeps chosen packet
      obtain ⟨lseq, begun⟩ := beginPacket_eq p o s
      have tick : t = _ := portTick_data up room chosen packet
      have after : getPort t p = pushFlit pool o.left.isEmpty (beginPacket p o s).1 q2 := by rw [tick, getPort_modPort_same]
      refine ⟨outFlit .data pool o.left.isEmpty ((beginPacket p o s).1.left.head?.getD []) q2, ?_⟩
      rw [after, tick, begun, sent_pushFlit, credits_pushFlit, sent, credits]
      refine ⟨rfl, rfl, txNext, congrArg (· - 1) rxNext, rfl, rfl, rfl, flitGood_outFlit .., fun a l underWay => ?_,
        congrArg (· + 1) txNext, rfl, st.trans up, rfl, rfl⟩
      rw [beginPacket_underWay (by simp [underWay])]
      exact congrArg (fun l => l.head?.getD []) underWay
    case piece =>
      have tick : y = _ := edgeTick_piece turn sends waits
      rw [tick, sent_sendFrame]
      exact ⟨rfl, rfl, rfl, rfl, rfl, rfl, frameGood_outFrame .., rfl, rfl, moduleTurn_active turn⟩
    case idle =>
      have tick : y = _ := edgeTick_idleOnly turn idle
      rw [tick, sent_sendFrame]
      exact ⟨rfl, rfl, rfl, rfl⟩

end Sys2Proof.Machine
end

section
/-! PROOFS. The stages of power-up: what management boot, die inventory, HBM training, fabric discovery and the host links leave
(R212, R213, R240, R241, R372, R373, R390, R409, R411). -/

namespace Sys2Proof.Machine

/-! ### Changes of a list of places, each of its own place -/

/-- Where each change reaches its own place alone, a place listed once holds what its own change makes of it, in a state that the
changes before have kept as `P` says. -/
theorem forAll_at_own_place {β : Type} {P : State → Prop} (get : State → Nat → β) {f : Nat → State → State}
    (kept : ∀ n s, P s → P (f n s)) (away : ∀ n m s, m ≠ n → get (f n s) m = get s m) {l : List Nat} (once : l.Nodup)
    {m : Nat} (listed : m ∈ l) {s : State} (h : P s) : ∃ t, P t ∧ get (forAll l f s) m = get (f m t) m := by
  induction l generalizing s with
  | nil => cases listed
  | cons n l ih =>
    obtain ⟨notLater, rest⟩ := List.nodup_cons.mp once
    rcases List.mem_cons.mp listed with rfl | later
    · refine ⟨s, h, forAll_keeps (f := f) (fun t => get t m) (fun k hk t => away k m t ?_) (f m s)⟩
      rintro rfl
      exact notLater hk
    · exact ih rest later (kept n s h)

/-! ### Management boot (R372, R373) -/

/-- Locking the PLLs changes their status alone. -/
theorem lockAll_eq (s : State) : ∃ pll, lockAll s = modPwr (fun p => { p with pll := pll }) s := by
  refine forAll_invariant (P := fun t => ∃ pll, t = modPwr (fun p => { p with pll := pll }) s) ?_ _ ⟨_, rfl⟩
  rintro n _ ⟨pll, rfl⟩
  exact ⟨_, rfl⟩

theorem lockAll_frame (s : State) : (lockAll s).pwr.stage = s.pwr.stage ∧ (lockAll s).mem = s.mem ∧ (lockAll s).hif = s.hif ∧
    (lockAll s).step = s.step := by
  obtain ⟨pll, locked⟩ := lockAll_eq s
  rw [locked]
  exact ⟨rfl, rfl, rfl, rfl⟩

theorem alertSets_eq (before after : State) : ∃ ibis,
    alertSets before after = modPwr (fun p => { p with ibis := ibis }) after := by
  unfold alertSets
  dsimp only
  split
  · exact ⟨after.pwr.ibis, rfl⟩
  · exact ⟨_, rfl⟩

theorem forAll_modMbx_eq (f : Nat × BitVec 32 → Chan → Chan) (l : List (Nat × BitVec 32)) (s : State) : ∃ chans,
    forAll l (fun kv => modMbx kv.1 (f kv)) s = modMgmt (fun m => { m with chans := chans }) s := by
  refine forAll_invariant (P := fun t => ∃ chans, t = modMgmt (fun m => { m with chans := chans }) s) ?_ l ⟨s.mgmt.chans, rfl⟩
  rintro kv _ ⟨chans, rfl⟩
  exact ⟨_, rfl⟩

theorem forAll_modGfw_eq (f : Nat → Gfw → Gfw) (l : List Nat) (s : State) : ∃ gfw,
    forAll l (fun g => modGfw g (f g)) s = { s with pkg := { s.pkg with gfw := gfw } } := by
  refine forAll_invariant (P := fun t => ∃ gfw, t = { s with pkg := { s.pkg with gfw := gfw } }) ?_ l ⟨s.pkg.gfw, rfl⟩
  rintro g _ ⟨gfw, rfl⟩
  exact ⟨_, rfl⟩

/-- Firmware's configuration changes the bindings and the firewalls, and locks both. -/
theorem loadConfig_eq (s : State) : ∃ chans gfw, loadConfig s =
    { s with mgmt := { s.mgmt with chans := chans, mbxLock := true }, pkg := { s.pkg with gfw := gfw } } := by
  obtain ⟨chans, bound⟩ := forAll_modMbx_eq (fun kv c => { c with bind := kv.2 }) s.mgmt.bindFlash s
  refine ⟨chans, ?_⟩
  unfold loadConfig
  rw [bound]
  dsimp only
  split
  · exact forAll_modGfw_eq _ _ _
  · exact ⟨s.pkg.gfw, rfl⟩

/-- RECOVERY, with the code of what failed. -/
def bootFailed (s : State) : State :=
  modMgmt (fun m => { m with fw := .recovery, fail := BitVec.ofNat 4 (bootFail s) }) (lockAll s)

/-- Firmware that runs from an image that has passed. -/
def bootPassed (s : State) : State :=
  let h := flashRead s 0 256
  modMgmt (fun m => { m with
    fw := .running, fail := 0, fwVersion := BitVec.ofNat 32 (leAt h 0x0C 4)
    fwDigest := imageDigest h (flashRead (lockAll s) 256 (leAt h 8 4)) }) (lockAll s)

section Boot
variable {s : State} (waits : s.mgmt.fw = .boot) (stage : s.pwr.stage = 2) (power : s.pwr.pwrGood = true)
  (released : s.pwr.pkgReset = false)
include waits stage power released

theorem exec_managementBoot_checks : exec .managementBoot s = if bootFail s ≠ 0 then .next (alertSets (lockAll s) (bootFailed s))
    else .next (raise 0x0A01 (hubUnit 8) {} (modPwr (fun p => { p with stage := 3 }) (loadConfig (bootPassed s)))) :=
  if_pos ⟨waits, stage, power, by rw [released]; rfl⟩

theorem exec_managementBoot_fails (bad : bootFail s ≠ 0) :
    exec .managementBoot s = .next (alertSets (lockAll s) (bootFailed s)) := by
  rw [exec_managementBoot_checks waits stage power released, if_pos bad]

theorem exec_managementBoot_runs (good : bootFail s = 0) : exec .managementBoot s =
    .next (raise 0x0A01 (hubUnit 8) {} (modPwr (fun p => { p with stage := 3 }) (loadConfig (bootPassed s)))) := by
  rw [exec_managementBoot_checks waits stage power released, if_neg (not_not.mpr good)]

end Boot

/-! ### Die inventory (R212, R213) -/

/-- A position as DIE_INVENTORY leaves it: its state, and the errata of the dies that are in service. -/
def inventoryPosn (s : State) (n : Nat) (p : Pos) : Pos := { p with
  st := inventoryState s n
  errata := decide (inventoryState s n = .enabled) || decide (inventoryState s n = .guest) }

/-- The state once DIE_INVENTORY has set the positions, the effective level and P. -/
def inventoried (s : State) : State :=
  let t := forAll (List.range 8) (fun n => modPos n (inventoryPosn s n)) s
  { t with pkg := { t.pkg with
    effective := BitVec.ofNat 8 (effectiveLevel s)
    invEnabled := BitVec.ofNat 8 (((List.range 8).map (fun n => if inventoryState s n = .enabled then 2 ^ n else 0)).sum) } }

theorem st_inventoried (s : State) {n : Nat} (hn : n < 8) : (getPos (inventoried s) n).st = inventoryState s n := by
  obtain ⟨t, _, own⟩ := forAll_at_own_place (P := fun _ => True) getPos (f := fun n => modPos n (inventoryPosn s n))
    (fun _ _ => id) (fun n m t other => getPos_modPos_ne n _ m other t) List.nodup_range (List.mem_range.mpr hn) (s := s) trivial
  refine (congrArg Pos.st own).trans ?_
  rw [getPos_modPos_same]
  rfl

/-- What looks neither at the positions nor at the interconnect sees no inventory. -/
theorem inventoried_keeps {β : Type} (g : State → β) (blind : ∀ t posns pkg, g { t with posns := posns, pkg := pkg } = g t)
    (s : State) : g (inventoried s) = g s := by
  have levels (t : State) (pkg : Pkg) : g { t with pkg := pkg } = g t := blind t t.posns pkg
  exact (levels _ _).trans (forAll_keeps (f := fun n => modPos n (inventoryPosn s n)) g (fun _ _ t => blind t _ t.pkg) s)

/-- An edge as DIE_INVENTORY leaves it: DISABLED, or training. -/
def inventoryEdge (e : Nat) (s : State) : State :=
  if edgeDisabled s e then modEdge e (fun x => { x with st := .disabled }) s else startEdge e s

/-- The state that a DIE_INVENTORY leaves. -/
def inventoryDone (s : State) : State := d2dStage (forAll (List.range 14) inventoryEdge
  (raise 0x0401 (hubUnit 8) {} (modPwr (fun p => { p with stage := 4 }) (inventoried s))))

theorem exec_dieInventory {s : State} (stage : s.pwr.stage = 3) (running : s.mgmt.fw = .running) :
    exec .dieInventory s = .next (inventoryDone s) :=
  if_pos ⟨stage, running⟩

/-- What looks neither at the edges nor at the events and the power-up's stage sees no more than the inventory proper. -/
theorem inventoryDone_keeps {β : Type} (g : State → β) (blind : ∀ t edges mgmt pwr,
    g { t with pkg := { t.pkg with edges := edges }, mgmt := mgmt, pwr := pwr } = g t) (s : State) :
    g (inventoryDone s) = g (inventoried s) := by
  have edge (e : Nat) (t : State) : g (inventoryEdge e t) = g t := by
    unfold inventoryEdge startEdge
    split_ifs
    · exact blind t _ t.mgmt t.pwr
    · exact blind t _ t.mgmt t.pwr
    · rfl
  have ended (t : State) : g (d2dStage t) = g t := by
    unfold d2dStage
    split
    · exact blind t t.pkg.edges _ _
    · rfl
  have begun (t : State) : g (raise 0x0401 (hubUnit 8) {} (modPwr (fun p => { p with stage := 4 }) t)) = g t :=
    blind t t.pkg.edges _ _
  exact (ended _).trans ((forAll_keeps g (fun e _ => edge e) _).trans (begun _))

/-! ### HBM training (R390, R409) -/

/-- The state once the positions in service have reloaded their tables (R185). -/
def remapsLoaded (s : State) : State :=
  forAll ((List.range 8).filter (fun n => decide ((getPos s n).st = .enabled) || decide ((getPos s n).st = .guest)))
    (fun n => modPos n (reloadRemap s.mgmt n)) s

/-- What does not look at the positions sees no table that is reloaded. -/
theorem remapsLoaded_keeps {β : Type} (g : State → β) (blind : ∀ t posns, g { t with posns := posns } = g t) (s : State) :
    g (remapsLoaded s) = g s :=
  forAll_keeps (f := fun n => modPos n (reloadRemap s.mgmt n)) g (fun _ _ t => blind t _) s

/-- The windows of the power-up scrub follow from the positions. -/
theorem hbmWindows_congr {s t : State} (h : t.posns = s.posns) : hbmWindows t = hbmWindows s := by
  have same : getPos t = getPos s := funext fun n => congrArg (fun posns => SMap.get Pos.init posns n) h
  simp only [hbmWindows, same]

/-- The state in which the power-up scrub waits, and stage 6 has come. -/
def scrubStarted (u : State) : State :=
  raise 0x0B01 (hubUnit 8) {} (modPwr (fun p => { p with stage := 6 }) (modHif (fun h => { h with
    scrubs := h.scrubs ++ [{ ctx := none, ticket := 0, windows := hbmWindows u, posns := 0 }] }) u))

theorem scrubs_scrubStarted (u : State) : (scrubStarted u).hif.scrubs =
    u.hif.scrubs ++ [{ ctx := none, ticket := 0, windows := hbmWindows (scrubStarted u), posns := 0 }] := by
  have windows : hbmWindows (scrubStarted u) = hbmWindows u := hbmWindows_congr rfl
  rw [windows]
  rfl

theorem scrubStarted_frame (u : State) : (scrubStarted u).hif.ctxs = u.hif.ctxs ∧ (scrubStarted u).cells = u.cells ∧
    (scrubStarted u).step = u.step :=
  ⟨rfl, rfl, rfl⟩

theorem exec_hbmTraining_sound {s : State} (stage : s.pwr.stage = 5) :
    exec (.hbmTraining []) s = .next (scrubStarted (remapsLoaded s)) :=
  if_pos stage

/-! ### Fabric discovery (R240, R241) -/

/-- The end of stage 7 changes the parent in the tree of the time base, the power-up's stage and the events. -/
theorem discoveryDone_keeps {β : Type} (g : State → β) (blind : ∀ t parent mgmt pwr,
    g { t with fab := { t.fab with ptbParent := parent }, mgmt := mgmt, pwr := pwr } = g t) (s : State) :
    g (discoveryDone s) = g s := by
  unfold discoveryDone
  split
  · exact blind s _ _ _
  · rfl

theorem stage_discoveryDone {s : State} (stage : s.pwr.stage = 6) (settled : ∀ p, p < 24 → (getPort s p).st ≠ .training) :
    (discoveryDone s).pwr.stage = 7 := by
  unfold discoveryDone
  rw [if_pos ⟨stage, List.all_eq_true.mpr fun p hp => decide_eq_true (settled p (List.mem_range.mp hp))⟩]
  rfl

/-- The state in which every port is held. -/
def portsHeld (s : State) : State := forAll (List.range 24) (fun p => modPort p (fun q => { q with st := .held })) s

theorem st_portsHeld (s : State) {p : Nat} (hp : p < 24) : (getPort (portsHeld s) p).st = .held := by
  obtain ⟨t, _, own⟩ := forAll_at_own_place (P := fun _ => True) getPort
    (f := fun p => modPort p (fun q => { q with st := .held })) (fun _ _ => id)
    (fun n m t other => getPort_modPort_ne n _ m other t) List.nodup_range (List.mem_range.mpr hp) (s := s) trivial
  refine (congrArg FabPort.st own).trans ?_
  rw [getPort_modPort_same]

/-- What does not look at the ports sees none that is held. -/
theorem portsHeld_keeps {β : Type} (g : State → β)
    (blind : ∀ t ports, g { t with fab := { t.fab with ports := ports } } = g t) (s : State) : g (portsHeld s) = g s :=
  forAll_keeps (f := fun p => modPort p (fun q => { q with st := .held })) g (fun _ _ t => blind t _) s

/-- The state that a FABRIC_DISCOVERY without a good table leaves. -/
def undiscovered (s : State) : State := discoveryDone (raise 0x0502 (hubUnit 3) {} (portsHeld s))

theorem exec_fabricDiscovery_without_table {s : State} (stage : s.pwr.stage = 6) (absent : s.mgmt.tableFlash = none) :
    exec .fabricDiscovery s = .next (undiscovered s) := by
  show execFabricDiscovery s = _
  simp only [execFabricDiscovery, stage, absent, if_true]
  rfl

theorem st_undiscovered (s : State) {p : Nat} (hp : p < 24) : (getPort (undiscovered s) p).st = .held :=
  (discoveryDone_keeps (fun t => (getPort t p).st) (fun _ _ _ _ => rfl) _).trans (st_portsHeld s hp)

theorem stage_undiscovered {s : State} (stage : s.pwr.stage = 6) : (undiscovered s).pwr.stage = 7 := by
  refine stage_discoveryDone ((portsHeld_keeps (fun t => t.pwr.stage) (fun _ _ => rfl) s).trans stage) fun p hp => ?_
  rw [getPort_raise, st_portsHeld s hp]
  decide

theorem undiscovered_frame (s : State) : (undiscovered s).fab.table = s.fab.table ∧ (undiscovered s).mem = s.mem :=
  ⟨(discoveryDone_keeps (fun t => t.fab.table) (fun _ _ _ _ => rfl) _).trans
      (portsHeld_keeps (fun t => t.fab.table) (fun _ _ => rfl) s),
    (discoveryDone_keeps State.mem (fun _ _ _ _ => rfl) _).trans (portsHeld_keeps State.mem (fun _ _ => rfl) s)⟩

/-- A port as FABRIC_DISCOVERY leaves it with a good table. -/
def discoverPort (p : Nat) (s : State) : State :=
  if cabled s p then trainPort p s else modPort p (fun q => { q with st := .notCabled }) s

/-- The state in which a table from the flash is in force. -/
def tableLoaded (t : List Byte) (s : State) : State :=
  modFab (fun f => { f with table := some t, selfIdx := indexOfSerial t s.fuses.serial.toNat }) s

/-- The state but for what discovery changes once the table is in force: the ports, the log of messages between neighbours, the
parent in the tree of the time base, the power-up's stage and the events. -/
def unlinked (s : State) : State := { s with
  fab := { s.fab with ports := [], linkctl := [], ptbParent := 0 }, mgmt := State.reset.mgmt, pwr := State.reset.pwr }

theorem unlinked_discoverPort (p : Nat) (s : State) : unlinked (discoverPort p s) = unlinked s := by
  unfold discoverPort
  split <;> rfl

theorem unlinked_forAll_discoverPort (l : List Nat) (s : State) : unlinked (forAll l discoverPort s) = unlinked s :=
  forAll_keeps unlinked (fun p _ => unlinked_discoverPort p) s

theorem cabled_of_unlinked {s t : State} (h : unlinked t = unlinked s) : cabled t = cabled s :=
  (congrArg cabled h :)

theorem wTableDigest_of_unlinked {s t : State} (h : unlinked t = unlinked s) : wTableDigest t = wTableDigest s :=
  (congrArg wTableDigest h :)

theorem frame_of_unlinked {s t : State} (h : unlinked t = unlinked s) : t.fab.table = s.fab.table ∧
    t.fab.selfIdx = s.fab.selfIdx ∧ t.fuses.serial = s.fuses.serial ∧ t.mem = s.mem :=
  ⟨(congrArg (fun t : State => t.fab.table) h :), (congrArg (fun t : State => t.fab.selfIdx) h :),
    (congrArg (fun t : State => t.fuses.serial) h :), (congrArg State.mem h :)⟩

/-- The identity that a port sends while it trains (R241). -/
def identOf (serial : BitVec 64) (digest p : Nat) : Nat × LinkMsg := (p, .ident serial p (BitVec.ofNat 64 digest))

theorem linkctl_discoverPort (p : Nat) (s : State) : (discoverPort p s).fab.linkctl =
    s.fab.linkctl ++ if cabled s p then [identOf s.fuses.serial (wTableDigest s) p] else [] := by
  unfold discoverPort
  split
  · rfl
  · exact (List.append_nil _).symm

/-- Each cabled port sends its identity, in the order of the ports. -/
theorem linkctl_forAll_discoverPort (l : List Nat) (s : State) : (forAll l discoverPort s).fab.linkctl =
    s.fab.linkctl ++ (l.filter (cabled s)).map (identOf s.fuses.serial (wTableDigest s)) := by
  induction l generalizing s with
  | nil => exact (List.append_nil _).symm
  | cons p l ih =>
    have same := unlinked_discoverPort p s
    obtain ⟨_, _, serial, _⟩ := frame_of_unlinked same
    calc (forAll l discoverPort (discoverPort p s)).fab.linkctl
      _ = (discoverPort p s).fab.linkctl ++ (l.filter (cabled s)).map (identOf s.fuses.serial (wTableDigest s)) := by
        rw [ih, cabled_of_unlinked same, wTableDigest_of_unlinked same, serial]
      _ = s.fab.linkctl ++ ((p :: l).filter (cabled s)).map (identOf s.fuses.serial (wTableDigest s)) := by
        rw [linkctl_discoverPort, List.filter_cons]
        split <;> simp

/-- A cabled port trains, and another is NOT_CABLED. -/
theorem st_forAll_discoverPort (s : State) {p : Nat} (hp : p < 24) :
    (getPort (forAll (List.range 24) discoverPort s) p).st = if cabled s p then .training else .notCabled := by
  have away (n m : Nat) (t : State) (other : m ≠ n) : getPort (discoverPort n t) m = getPort t m := by
    unfold discoverPort
    split
    · exact getPort_modPort_ne n (fun q => { q with st := .training }) m other t
    · exact getPort_modPort_ne n _ m other t
  obtain ⟨t, same, own⟩ := forAll_at_own_place (P := fun t => unlinked t = unlinked s) getPort
    (fun n t h => (unlinked_discoverPort n t).trans h) away List.nodup_range (List.mem_range.mpr hp) rfl
  rw [own, ← cabled_of_unlinked same]
  unfold discoverPort
  split
  · exact congrArg FabPort.st (getPort_modPort_same p (fun q => { q with st := .training }) t)
  · rw [getPort_modPort_same]

/-- The state that a FABRIC_DISCOVERY with a good table leaves. -/
def discovered (t : List Byte) (s : State) : State := discoveryDone (forAll (List.range 24) discoverPort (tableLoaded t s))

theorem exec_fabricDiscovery_with_table {s : State} {t : List Byte} (stage : s.pwr.stage = 6) (flash : s.mgmt.tableFlash = some t)
    (good : tableOk s.fuses.serial t = true) : exec .fabricDiscovery s = .next (discovered t s) := by
  show execFabricDiscovery s = _
  simp only [execFabricDiscovery, stage, flash, good, if_true]
  rfl

theorem unlinked_discovered (t : List Byte) (s : State) : unlinked (discovered t s) = unlinked (tableLoaded t s) :=
  (discoveryDone_keeps unlinked (fun _ _ _ _ => rfl) _).trans (unlinked_forAll_discoverPort _ _)

theorem linkctl_discovered (t : List Byte) (s : State) : (discovered t s).fab.linkctl = s.fab.linkctl ++
    ((List.range 24).filter (cabled (discovered t s))).map (identOf s.fuses.serial (wTableDigest (discovered t s))) := by
  rw [cabled_of_unlinked (unlinked_discovered t s), wTableDigest_of_unlinked (unlinked_discovered t s)]
  exact (discoveryDone_keeps (fun u => u.fab.linkctl) (fun _ _ _ _ => rfl) _).trans
    (linkctl_forAll_discoverPort (List.range 24) (tableLoaded t s))

theorem st_discovered (t : List Byte) (s : State) {p : Nat} (hp : p < 24) :
    (getPort (discovered t s) p).st = if cabled (discovered t s) p then .training else .notCabled := by
  rw [cabled_of_unlinked (unlinked_discovered t s)]
  exact (discoveryDone_keeps (fun u => (getPort u p).st) (fun _ _ _ _ => rfl) _).trans
    (st_forAll_discoverPort (tableLoaded t s) hp)

/-! ### Host links (R409 to R411) -/

/-- The state in which the link of a port whose PERSTn_N is deasserted has trained. -/
def hostLinked (port : Nat) (s : State) : State :=
  modHif (fun h => { h with perst := SMap.set true h.perst port false, linkUp := SMap.set false h.linkUp port true }) s

/-- With one port's link up, the other decides whether every host has its link. -/
theorem hostsUp_hostLinked (port : Fin 2) (s : State) : hostsUp (hostLinked port.val s) =
    (SMap.get true s.hif.perst (1 - port.val) || SMap.get false s.hif.linkUp (1 - port.val)) := by
  fin_cases port <;> simp [hostsUp, hostLinked, SMap.get_set_ne]

theorem exec_hostLinkTraining_early {s : State} (early : s.pwr.stage.toNat < 7) (port : Fin 2) (w : BitVec 5) (r : BitVec 7) :
    exec (.hostLinkTraining port w r) s =
      .next (modHif (fun h => { h with perst := SMap.set true h.perst port.val false }) s) :=
  if_pos early

/-- The state in which stage 8 has ended, where every host has its link. -/
def hostsDone (s : State) : State :=
  let ms := BitVec.ofNat 32 ((s.mgmt.ptb - s.pwr.upAt).toNat / 1000000)
  if s.pwr.stage = 7 ∧ hostsUp s then modPwr (fun p => { p with stage := 8, ms := ms }) s else s

theorem hostsDone_eq (s : State) : ∃ pwr, hostsDone s = { s with pwr := pwr } := by
  unfold hostsDone
  dsimp only
  split
  · exact ⟨_, rfl⟩
  · exact ⟨s.pwr, rfl⟩

theorem stage_hostsDone {s : State} (stage : s.pwr.stage = 7) :
    (hostsDone s).pwr.stage = if hostsUp s = true then 8 else 7 := by
  simp only [hostsDone, stage, true_and]
  split
  · rfl
  · exact stage

theorem exec_hostLinkTraining_stage7 {s : State} (stage : s.pwr.stage = 7) (port : Fin 2) (w : BitVec 5) (r : BitVec 7) :
    exec (.hostLinkTraining port w r) s = .next (raise 0x0B02 (hubUnit (0x40 + port.val))
      { arg0 := packF [(0, port.val), (1, w.toNat), (6, r.toNat)] } (hostsDone (hostLinked port.val s))) := by
  have late : ¬s.pwr.stage.toNat < 7 := by
    rw [stage]
    decide
  exact if_neg late

/-- Settles O56: each stage by the law of its command and what the state after it holds. -/
theorem powerUpStages : Obligations.PowerUpStages := by
  refine fun s failed t port w r => ⟨fun waits stage power released => ⟨fun bad => ?fails, fun good => ?runs⟩,
    fun booted => if_neg fun h => booted h.1, fun stage running => ?inventory, fun stage => ⟨_, if_pos stage, rfl⟩,
    fun stage => ?training, fun stage absent => ?noTable, fun stage flash good => ?table,
    fun early => exec_hostLinkTraining_early early port w r, fun stage => ?host⟩
  case fails =>
    obtain ⟨atStage, mem, hif, step⟩ := lockAll_frame s
    obtain ⟨ibis, alerted⟩ := alertSets_eq (lockAll s) (bootFailed s)
    refine ⟨_, exec_managementBoot_fails waits stage power released bad, ?_⟩
    rw [alerted]
    exact ⟨rfl, rfl, atStage.trans stage, mem, hif, step⟩
  case runs =>
    obtain ⟨_, mem, hif, step⟩ := lockAll_frame s
    obtain ⟨chans, gfw, loaded⟩ := loadConfig_eq (bootPassed s)
    refine ⟨_, exec_managementBoot_runs waits stage power released good, ?_⟩
    rw [loaded]
    exact ⟨rfl, rfl, rfl, rfl, rfl, mem, hif, step⟩
  case inventory =>
    exact ⟨_, exec_dieInventory stage running,
      fun n hn => (inventoryDone_keeps (fun t => (getPos t n).st) (fun _ _ _ _ => rfl) s).trans (st_inventoried s hn),
      inventoryDone_keeps (fun t => t.pkg.effective) (fun _ _ _ _ => rfl) s,
      (inventoryDone_keeps State.mem (fun _ _ _ _ => rfl) s).trans (inventoried_keeps State.mem (fun _ _ _ => rfl) s),
      (inventoryDone_keeps State.hif (fun _ _ _ _ => rfl) s).trans (inventoried_keeps State.hif (fun _ _ _ => rfl) s),
      (inventoryDone_keeps State.cells (fun _ _ _ _ => rfl) s).trans (inventoried_keeps State.cells (fun _ _ _ => rfl) s)⟩
  case training =>
    obtain ⟨ctxs, cells, step⟩ := scrubStarted_frame (remapsLoaded s)
    have hif := remapsLoaded_keeps State.hif (fun _ _ => rfl) s
    refine ⟨_, exec_hbmTraining_sound stage, rfl, (scrubs_scrubStarted _).trans ?_, ctxs.trans (congrArg Hif.ctxs hif),
      cells.trans (remapsLoaded_keeps State.cells (fun _ _ => rfl) s),
      step.trans (remapsLoaded_keeps State.step (fun _ _ => rfl) s)⟩
    rw [hif]
  case noTable =>
    obtain ⟨table, mem⟩ := undiscovered_frame s
    exact ⟨_, exec_fabricDiscovery_without_table stage absent, fun p => st_undiscovered s, table, stage_undiscovered stage, mem⟩
  case table =>
    obtain ⟨table, place, _, mem⟩ := frame_of_unlinked (unlinked_discovered t s)
    exact ⟨_, exec_fabricDiscovery_with_table stage flash good, table, linkctl_discovered t s, place,
      fun p => st_discovered t s, mem⟩
  case host =>
    obtain ⟨pwr, done⟩ := hostsDone_eq (hostLinked port.val s)
    have ends : hostsUp (hostLinked port.val s) = true ↔
        SMap.get true s.hif.perst (1 - port.val) = true ∨ SMap.get false s.hif.linkUp (1 - port.val) = true := by
      rw [hostsUp_hostLinked, Bool.or_eq_true]
    refine ⟨_, exec_hostLinkTraining_stage7 stage port w r,
      (stage_hostsDone (s := hostLinked port.val s) stage).trans (if_congr ends rfl rfl), ?_⟩
    rw [done]
    exact ⟨SMap.get_set .., SMap.get_set .., List.length_append, rfl, rfl⟩

end Sys2Proof.Machine
end

section
/-! PROOFS. What a step on an empty queue does where no unit of the part has anything to do (R246; log entry 2). -/

namespace Sys2Proof.Machine

/-! ### Units that have nothing to do -/

theorem deliverWatch_of_none {s : State} (none : s.bank.arrivals = []) : deliverWatch s = s := by
  rw [deliverWatch, none]
  change { s with bank := { s.bank with arrivals := [] } } = s
  rw [← none]

theorem deliverGuest_of_none {s : State} {g : Nat} (none : (getGfw s g).passed = []) : deliverGuest g s = s :=
  if_pos (List.isEmpty_iff.mpr none)

/-- A port sends no flit where no pool holds one (R235). -/
theorem nextPool_of_no_pool_waits {share : Nat} (few : share < 16) {q : FabPort} (empty : ∀ k < 8, poolWaits q k = false) :
    nextPool share q = none := by
  refine Option.eq_none_iff_forall_ne_some.mpr fun chosen h => ?_
  obtain ⟨low, ready, _⟩ := nextPool_ready few h
  have waits : poolWaits q chosen.1 = true := (Bool.and_eq_true_iff.mp ready).1
  exact Bool.false_ne_true ((empty chosen.1 low).symm.trans waits)

theorem portTick_of_quiet {s : State} {p : Nat} (still : quietPort (getPort s p)) : portTick p s = s := by
  rcases still with down | ⟨empty, settled⟩
  · exact portTick_waits (.inl down)
  · exact portTick_idle (nextPool_of_no_pool_waits (shareOf_lt s p) empty) settled

theorem edgeGoesOn_of_quiet {s : State} {e : Nat} (still : quietEdge (getEdge s e)) : edgeGoesOn e s = s := by
  obtain ⟨noRetrain, noQuarantine, owesNothing⟩ := still
  unfold edgeGoesOn
  split
  next retrains => exact absurd retrains noRetrain
  next quarantined => exact absurd quarantined noQuarantine
  next => rw [owesNothing]; rfl

/-- Where no unit has anything to do, the units leave the state as it is. -/
theorem unitsGoOn_of_quiet {s : State} (h : quiet s) : unitsGoOn s = s := by
  obtain ⟨watch, guests, ports, edges⟩ := h
  unfold unitsGoOn
  simp only [deliverWatch_of_none watch, deliverGuest_of_none (guests 0 (by decide)), deliverGuest_of_none (guests 1 (by decide)),
    forAll_of_fixed fun p hp => portTick_of_quiet (ports p (List.mem_range.mp hp)),
    forAll_of_fixed fun e he => edgeGoesOn_of_quiet (edges e (List.mem_range.mp he))]

/-- That the time base counts on gives no unit anything to do, so a step on an empty queue is that alone. -/
theorem step_of_quiet {s : State} (empty : s.pending = []) (h : quiet s) : step s = .next (idleTick s) := by
  have still : quiet (idleTick s) := h
  calc step s = .next (unitsGoOn (idleTick s)) := by rw [step, empty]; rfl
    _ = .next (idleTick s) := by rw [unitsGoOn_of_quiet still]

/-- Settles O2: the step is the count of the time base alone, by what RATE has gathered. -/
theorem idleStepTicks : Obligations.IdleStepTicks := by
  intro s empty f at_
  refine ⟨fun still lower upper => ?one, fun still gained => ?two, fun still lost => ?none⟩
  all_goals rw [step_of_quiet empty still]
  case one => simp only [idleTick, at_, f, if_neg (not_le.mpr upper), if_neg (not_le.mpr lower)]
  case two => simp only [idleTick, at_, f, if_pos gained]
  case none =>
    have notGained : ¬100000000 ≤ f := by omega
    simp only [idleTick, at_, f, if_neg notGained, if_pos lost, add_zero]

end Sys2Proof.Machine
end

section
/-! PROOFS. Yalxo ports: what a received flit leaves, degrade and training, identity, and the time base's exchanges (R226 to R231,
R241, R243, R245 to R247). -/

namespace Sys2Proof.Machine

/-! ### Ports after shared updates -/

@[simp] theorem getPort_occur (src : WatchSource) (s : State) (m : Nat) : getPort (occur src s) m = getPort s m := rfl

/-- Changing a port twice is one change. -/
theorem modPort_modPort (p : Nat) (f g : FabPort → FabPort) (s : State) :
    modPort p f (modPort p g s) = modPort p (fun q => f (g q)) s := by
  simp only [modPort, SMap.upd, SMap.get_set, SMap.set_set]

/-- What a change of a port keeps reads as before at every port. -/
theorem modPort_keeps {β : Type} (g : FabPort → β) {f : FabPort → FabPort} (blind : ∀ q, g (f q) = g q) (p : Nat) (s : State)
    (m : Nat) : g (getPort (modPort p f s) m) = g (getPort s m) := by
  by_cases here : m = p
  · subst here
    rw [getPort_modPort_same, blind]
  · rw [getPort_modPort_ne _ _ _ here]

/-- A flit discarded changes what a NAK takes with it, and nothing else. -/
theorem discardFlit_keeps {β : Type} (g : FabPort → β) (blind : ∀ q discarding txNext ackSent replay freed sent,
    g { q with discarding := discarding, txNext := txNext, ackSent := ackSent, replay := replay, freed := freed, sent := sent } = g q)
    (q : FabPort) : g (discardFlit q) = g q := by
  unfold discardFlit
  split
  · rfl
  · exact blind q ..

/-! ### A flit that is spoiled (R226, R228, R229) -/

/-- The state once a flit's corrected codewords are counted, for the watch too (R229, R348). -/
def fecCounted (p corrected : Nat) (s : State) : State :=
  forAll (List.range corrected) (fun _ => occur .fec) (modPort p (fun q => { q with feccw := satUp q.feccw corrected }) s)

/-- The state once a spoiled flit is counted and discarded. -/
def flitSpoiled (p corrected : Nat) (s : State) : State :=
  occur .fec (modPort p (fun q => discardFlit { q with crc := satUp q.crc 1 }) (fecCounted p corrected s))

/-- The moments of a lane's uncorrectable codewords in the last 1 ms, the present one among them. -/
def laneTimes (s : State) (p lane : Nat) : List (BitVec 64) :=
  (SMap.get [] (getPort s p).fecTimes lane).filter (fun t => decide ((s.mgmt.ptb - t).toNat < 1000000)) ++ [s.mgmt.ptb]

/-- Counting codewords changes the port's count of them alone. -/
theorem fecCounted_keeps {β : Type} (g : FabPort → β) (blind : ∀ q feccw, g { q with feccw := feccw } = g q) (p corrected : Nat)
    (s : State) (m : Nat) : g (getPort (fecCounted p corrected s) m) = g (getPort s m) :=
  (forAll_keeps (f := fun _ => occur .fec) (fun t => g (getPort t m)) (fun _ _ _ => rfl) _).trans
    (modPort_keeps g (fun q => blind q _) p s m)

theorem getPort_fecCounted_ne {p m : Nat} (other : m ≠ p) (corrected : Nat) (s : State) :
    getPort (fecCounted p corrected s) m = getPort s m :=
  (forAll_keeps (f := fun _ => occur .fec) (fun t => getPort t m) (fun _ _ _ => rfl) _).trans (getPort_modPort_ne _ _ _ other _)

/-- A spoiled flit leaves what it does not count or answer. -/
theorem flitSpoiled_keeps {β : Type} (g : FabPort → β) (blind : ∀ q feccw crc discarding txNext ackSent replay freed sent,
    g { q with feccw := feccw, crc := crc, discarding := discarding, txNext := txNext, ackSent := ackSent, replay := replay
               freed := freed, sent := sent } = g q)
    (p corrected : Nat) (s : State) (m : Nat) : g (getPort (flitSpoiled p corrected s) m) = g (getPort s m) :=
  (modPort_keeps g (fun q => (discardFlit_keeps g (fun q d t a r f n => blind q q.feccw q.crc d t a r f n) _).trans
      (blind q q.feccw _ q.discarding q.txNext q.ackSent q.replay q.freed q.sent)) p _ m).trans
    (fecCounted_keeps g (fun q c => blind q c q.crc q.discarding q.txNext q.ackSent q.replay q.freed q.sent) p corrected s m)

theorem laneTimes_flitSpoiled (p corrected lane : Nat) (s : State) :
    laneTimes (flitSpoiled p corrected s) p lane = laneTimes s p lane := by
  have times := flitSpoiled_keeps FabPort.fecTimes (fun _ _ _ _ _ _ _ _ _ => rfl) p corrected s p
  have now : (flitSpoiled p corrected s).mgmt = s.mgmt :=
    forAll_keeps (f := fun _ => occur .fec) State.mgmt (fun _ _ _ => rfl) _
  rw [laneTimes, laneTimes, times, now]

section Codeword
variable {s : State} {p lane : Nat}

theorem badCodeword_within (h : fld (getPort s p).cfg 15 0 = 0 ∨ (laneTimes s p lane).length ≤ fld (getPort s p).cfg 15 0) :
    badCodeword p lane s = modPort p (fun q => { q with fecTimes := SMap.set [] q.fecTimes lane (laneTimes s p lane) }) s := by
  refine if_neg ?_
  rw [getPort_modPort_same]
  exact fun past : fld (getPort s p).cfg 15 0 ≠ 0 ∧ fld (getPort s p).cfg 15 0 < (laneTimes s p lane).length => by omega

theorem badCodeword_past_limit (on : fld (getPort s p).cfg 15 0 ≠ 0)
    (past : fld (getPort s p).cfg 15 0 < (laneTimes s p lane).length) : badCodeword p lane s =
      degradePort p (modPort p (fun q => { q with fecTimes := SMap.set [] q.fecTimes lane (laneTimes s p lane) }) s) := by
  refine if_pos ?_
  rw [getPort_modPort_same]
  exact ⟨on, past⟩

end Codeword

/-! ### Degrade (R229, R245) -/

theorem transitError_of_no_pair {s : State} {p : Nat} (unnamed : pairsOf s p = []) : transitError p s = s :=
  if_pos (List.isEmpty_iff.mpr unnamed)

theorem sendTc0On_keeps {β : Type} (g : FabPort → β) (blind : ∀ q queue, g { q with queue := queue } = g q) (msg : Tc0)
    (port : Nat) (s : State) (m : Nat) : g (getPort (sendTc0On msg port s) m) = g (getPort s m) := by
  unfold sendTc0On
  dsimp only
  split
  · rfl
  · split
    · rfl
    · unfold sendOn
      split
      · rfl
      · exact modPort_keeps g (fun q => blind q _) port _ m

/-- A report of a transit error leaves the ports but for what waits to be sent. -/
theorem transitError_keeps {β : Type} (g : FabPort → β) (blind : ∀ q queue, g { q with queue := queue } = g q) (p : Nat)
    (s : State) (m : Nat) : g (getPort (transitError p s) m) = g (getPort s m) := by
  unfold transitError
  split
  · rfl
  · exact (forAll_keeps (fun t => g (getPort t m)) (fun a _ t => sendTc0On_keeps g blind _ a t m) _).trans
      (forAll_keeps (f := raiseTransit) (fun t => g (getPort t m)) (fun _ _ _ => rfl) _)

theorem st_degradePort (p : Nat) (s : State) : (getPort (degradePort p s) p).st = .retrain :=
  (transitError_keeps FabPort.st (fun _ _ => rfl) p _ p).trans (congrArg FabPort.st (getPort_modPort_same ..))

theorem degrades_degradePort (p : Nat) (s : State) :
    (getPort (degradePort p s) p).degrades = satUp (getPort s p).degrades 1 :=
  (transitError_keeps FabPort.degrades (fun _ _ => rfl) p _ p).trans (congrArg FabPort.degrades (getPort_modPort_same ..))

/-! ### FLIT_RECEIVE (R226 to R229) -/

section Receive
variable {s : State} {port : Fin 24} (up : (getPort s port.val).st = .up)
include up

theorem exec_flitReceive_up (a : FlitArrival) : exec (.flitReceive port a) s =
    if !(flitGood a.flit) || a.bad.isSome then .next (spoiledFlit port.val a.bad (fecCounted port.val a.corrected s))
    else if a.flit.seq ≠ (getPort (fecCounted port.val a.corrected s) port.val).rxNext then
      .next (modPort port.val discardFlit (fecCounted port.val a.corrected s))
    else .next (takeFlit port.val a.flit (fecCounted port.val a.corrected s)) :=
  if_neg (not_not.mpr up)

theorem exec_flitReceive_badCrc {fl : Flit} (bad : flitGood fl = false) (corrected : Nat) :
    exec (.flitReceive port ⟨fl, none, corrected⟩) s = .next (flitSpoiled port.val corrected s) := by
  rw [exec_flitReceive_up up, if_pos (by rw [bad]; rfl)]
  rfl

theorem exec_flitReceive_badCodeword (fl : Flit) (lane : Fin 8) (corrected : Nat) :
    exec (.flitReceive port ⟨fl, some lane, corrected⟩) s =
      .next (badCodeword port.val lane.val (flitSpoiled port.val corrected s)) := by
  rw [exec_flitReceive_up up, if_pos (by simp)]
  rfl

variable {fl : Flit} (good : flitGood fl = true)
include good

theorem exec_flitReceive_good (corrected : Nat) : exec (.flitReceive port ⟨fl, none, corrected⟩) s =
    if fl.seq ≠ (getPort s port.val).rxNext then .next (modPort port.val discardFlit (fecCounted port.val corrected s))
    else .next (takeFlit port.val fl (fecCounted port.val corrected s)) := by
  rw [exec_flitReceive_up up, if_neg (by simp [good]), fecCounted_keeps FabPort.rxNext (fun _ _ => rfl)]

end Receive

/-- A port once it has taken a DATA flit: what the flit acknowledges and returns, the next number, and the flit in its pool. -/
def dataTaken (fl : Flit) (q : FabPort) : FabPort :=
  holdFlit fl { addCredits fl.crl fl.crt (ackFlits fl.ack q) with rxNext := fl.seq + 1, discarding := false }

theorem takeFlit_data {fl : Flit} (data : fl.kind = .data) (p : Nat) (s : State) :
    takeFlit p fl s = modPort p (dataTaken fl) s := by
  simp only [takeFlit, data]
  exact modPort_modPort p (holdFlit fl) _ s

theorem held_dataTaken (fl : Flit) (q : FabPort) :
    SMap.get [] (dataTaken fl q).held (if fl.pool then fl.tc.val + 4 else fl.tc.val) =
      SMap.get [] q.held (if fl.pool then fl.tc.val + 4 else fl.tc.val) ++ [fl.data] :=
  SMap.get_upd [] q.held _ (fun l => l ++ [fl.data])

/-- A NAK without a limit is a replay alone. -/
theorem nakArrive_of_no_limit {s : State} {p : Nat} (noLimit : fld (getPort s p).cfg 15 0 = 0) (ack : BitVec 12) :
    nakArrive p ack s = modPort p (nakPort ack) s := by
  refine if_neg ?_
  rw [getPort_modPort_same]
  exact fun past : fld (getPort s p).cfg 15 0 ≠ 0 ∧ _ => past.1 noLimit

theorem exec_fabPortRetrain_up {s : State} {m : Master} {x : Selectors} {p : Nat} (chosen : selectors s m = some x)
    (named : fld x.fabPort 4 0 = p) (up : (getPort s p).st = .up) :
    exec (.fabPortRetrain m) s = .next (occur .retrain (modPort p (fun q => { q with st := .retrain }) s)) := by
  show execFabPortRetrain m s = _
  simp only [execFabPortRetrain, chosen, named, retrainPort, up]

/-! ### Training (R229, R230) -/

/-- The width and the lanes that both ends' masks give a port (R229). -/
def widthFixed (p : Nat) (near far : BitVec 8) (s : State) : State :=
  modPort p (fun q => { q with
    width := laneWidth (lanesOf (near &&& far)).length
    lanes := ((lanesOf (near &&& far)).take (laneWidth (lanesOf (near &&& far)).length)).foldl
      (fun (m : BitVec 8) k => m ||| (1 <<< k)) 0 }) s

section Training
variable {s : State} {port : Fin 24} {near far : BitVec 8}

theorem exec_laneTrainingDone_training (trains : (getPort s port.val).st = .training)
    (some : laneWidth (lanesOf (near &&& far)).length ≠ 0) :
    exec (.laneTrainingDone port near far) s = .next (widthFixed port.val near far s) := by
  show execLaneTrainingDone port near far s = _
  simp only [execLaneTrainingDone, trains, ne_eq, not_true_eq_false, and_false, if_false, some, if_true]
  rfl

theorem exec_laneTrainingDone_retrain (retrains : (getPort s port.val).st = .retrain)
    (some : laneWidth (lanesOf (near &&& far)).length ≠ 0) : exec (.laneTrainingDone port near far) s =
      let up := resumePort port.val near (widthFixed port.val near far s)
      .next (if laneWidth (lanesOf (near &&& far)).length < 8 then raise 0x0506 (portUnit port.val) {} (occur .drop up) else up) := by
  show execLaneTrainingDone port near far s = _
  simp only [execLaneTrainingDone, retrains, ne_eq, not_true_eq_false, false_and, if_false, some, reduceCtorEq]
  exact (apply_ite Host.Outcome.next _ _ _).symm

theorem exec_laneTrainingDone_noWidth (retrains : (getPort s port.val).st = .retrain)
    (none : laneWidth (lanesOf (near &&& far)).length = 0) :
    exec (.laneTrainingDone port near far) s = .next (discoveryDone (portDown port.val s)) := by
  show execLaneTrainingDone port near far s = _
  simp only [execLaneTrainingDone, retrains, ne_eq, not_true_eq_false, false_and, if_false, none, if_true]

end Training

theorem st_sendBitmaps (ports : List Nat) (s : State) (m : Nat) : (getPort (sendBitmaps ports s) m).st = (getPort s m).st :=
  forAll_keeps (f := fun p => sendLink p (.bitmap (validPids s))) (fun t => (getPort t m).st)
    (fun p _ _ => modPort_keeps FabPort.st (f := sendFlit .linkctl 0 false []) (fun _ => rfl) p _ m) _

theorem st_resendPacket (port : Nat) (o : OutPacket) (s : State) (m : Nat) :
    (getPort (resendPacket port o s) m).st = (getPort s m).st := by
  unfold resendPacket
  exact modPort_keeps FabPort.st (by intro _; rfl) port _ m

/-- Moving what a DOWN port holds leaves every port in its state. -/
theorem st_movePackets (p r : Nat) (s : State) (m : Nat) : (getPort (movePackets p r s) m).st = (getPort s m).st :=
  (forAll_keeps (f := resendPacket r) (fun t => (getPort t m).st) (fun o _ t => st_resendPacket r o t m) _).trans
    (modPort_keeps FabPort.st (f := emptyPort) (fun _ => rfl) p s m)

theorem st_takeOver (p : Nat) (s : State) (m : Nat) : (getPort (takeOver p s) m).st = (getPort s m).st :=
  forAll_keeps (f := fun r => movePackets r p) (fun t => (getPort t m).st) (fun r _ t => st_movePackets r p t m) _

theorem st_idleFlits (n : Nat) (q : FabPort) :
    ((List.range n).foldl (fun q _ => sendFlit .idle 0 false [] q) q).st = q.st :=
  List.foldlRecOn (motive := fun r : FabPort => r.st = q.st) _ _ rfl fun _ same _ _ => same

/-- A port that resumes is UP. -/
theorem st_resumePort (p : Nat) (near : BitVec 8) (s : State) : (getPort (resumePort p near s) p).st = .up := by
  unfold resumePort
  dsimp only
  rw [st_takeOver, st_sendBitmaps, getPort_modPort_same, st_idleFlits]
  rfl

/-! ### LINKCTL_IDENT (R241) -/

section Ident
variable {s : State} {port : Fin 24} {serial : BitVec 64} {farPort : BitVec 5} {digest : BitVec 64} {i : Nat}

/-- A port that knows its neighbour from LINKCTL IDENT. -/
def neighbourKnown (p : Nat) (serial : BitVec 64) (farPort : BitVec 5) (s : State) : State :=
  modPort p (fun q => { q with
    nbr := BitVec.ofNat 14 ((indexOfSerial (tableBytes s) serial.toNat).getD 0), nbrPort := farPort }) s

theorem exec_linkctlIdent_notCabled (notCabled : (getPort s port.val).st = .notCabled) :
    exec (.linkctlIdent port serial farPort digest) s =
      .next (holdPort port.val 0x0503 (neighbourKnown port.val serial farPort s)) :=
  if_pos notCabled

variable (trains : (getPort s port.val).st = .training) (own : s.fab.selfIdx = some i)
include trains own

theorem exec_linkctlIdent_training : exec (.linkctlIdent port serial farPort digest) s =
    let known := neighbourKnown port.val serial farPort s
    if indexOfSerial (tableBytes s) serial.toNat = some (portField (tableBytes s) i port.val 13 0) ∧
        farPort.toNat = portField (tableBytes s) i port.val 18 14 then
      if digest.toNat = wTableDigest s then
        .next (discoveryDone (takeOver port.val (sendBitmaps [port.val] (modPort port.val (fun q => { q with st := .up }) known))))
      else .next (holdPort port.val 0x0504 known)
    else .next (holdPort port.val 0x0503 known) := by
  show execLinkctlIdent port serial farPort digest s = _
  simp only [execLinkctlIdent, trains, own, ne_eq, not_true_eq_false, if_false, reduceCtorEq]
  rfl

end Ident

/-! ### The time base (R246, R247) -/

section Exchange
variable {s : State} {i : Nat} (own : s.fab.selfIdx = some i) (child : ptbRoot s = false)

/-- The state once a TIME flit has gone to the parent and the link delay is known. -/
def timeSent (x : TimeStamps) (s : State) : State :=
  modFab (fun f => { f with ptbDelay := timeDelay x }) (sendLink s.fab.ptbParent (.time x.t1) s)

/-- An exchange that does not set PTB steers its rate. -/
theorem steer_of_later (later : (!s.fab.ptbSet && decide (s.pwr.stage.toNat < 7)) = false) (off : Int) :
    steer off s = modFab (fun f => { f with
      ptbMissed := 0, ptbSet := true, ptbOffset := BitVec.ofInt 16 (clampInt 32767 off)
      ptbRate := BitVec.ofInt 16 (clampInt 10000 (100 * off)), ptbState := if -4 ≤ off ∧ off ≤ 4 then 2 else 1 }) s := by
  simp only [steer, later, Bool.false_eq_true, if_false]

/-- The first exchange before stage 8 sets PTB and steers nothing. -/
theorem steer_of_first (first : (!s.fab.ptbSet && decide (s.pwr.stage.toNat < 7)) = true) (off : Int) :
    (steer off s).mgmt.ptb = s.mgmt.ptb + BitVec.ofInt 64 off ∧ (steer off s).fab.ptbSet = true ∧
      (steer off s).fab.ptbRate = 0 ∧ (steer off s).fab.ptbState = 1 := by
  simp only [steer, first, if_true]
  exact ⟨rfl, rfl, rfl, rfl⟩

include own child

theorem exec_timeExchange_good (x : TimeStamps) :
    exec (.timeExchange (some x)) s = .next (steer (timeOffset x) (timeSent x s)) := by
  refine if_neg ?_
  simp [own, child]

theorem exec_timeExchange_missed : exec (.timeExchange none) s = .next (missExchange s) := by
  refine if_neg ?_
  simp [own, child]

end Exchange

/-! ### TRANSIT_ERR (R245) -/

theorem transitArrive_of_own {s : State} {port k : Nat} {p : Packet} (one : validEntries s = [k])
    (wraps : (boxAxis (getPart s k).box (portAxis port)).2.2 = true) : transitArrive port p s = raiseTransit k s := by
  simp only [transitArrive, one, List.filter_cons, wraps, if_true, List.filter_nil, List.isEmpty_cons, Bool.false_eq_true, if_false]
  rfl

theorem transitArrive_of_none {s : State} (none : validEntries s = []) (port : Nat) (p : Packet) :
    transitArrive port p s = transitPacket port p s := by
  simp only [transitArrive, none, List.filter_nil, List.isEmpty_nil, if_true]

/-- Settles O48: each command by the law of what arrives, and the ports after it field by field. -/
theorem yalxoLinks : Obligations.YalxoLinks := by
  intro s port fl lane corrected ack near far pids m x serial digest farPort i k st pid p q lim counted recent spoiled w lanes up
    t known off first
  refine ⟨fun down => ⟨if_pos down, if_neg down, if_neg down, if_neg down⟩, fun isUp => ⟨fun bad => exec_flitReceive_badCrc isUp bad _,
      ?within, ?past, fun already => if_pos already, fun begins => if_neg (ne_true_of_eq_false begins), ?outOfOrder, ?data,
      ?nak, rfl, ?degrade, if_pos isUp, fun chosen named => exec_fabPortRetrain_up chosen named isUp⟩,
    exec_laneTrainingDone_training, fun retrains some => ⟨st_resumePort .., exec_laneTrainingDone_retrain retrains some⟩,
    exec_laneTrainingDone_noWidth, fun trains own => ⟨fun entry far => ⟨?ident, ?digest⟩, ?mismatch⟩, exec_linkctlIdent_notCabled,
    fun trains => if_pos trains, fun own child => ⟨?later, ?first, ?missed⟩, ?ownError, ?transitError⟩
  case within =>
    intro few
    have cfg : (getPort (flitSpoiled p corrected s) p).cfg = q.cfg :=
      flitSpoiled_keeps FabPort.cfg (fun _ _ _ _ _ _ _ _ _ => rfl) p corrected s p
    rw [exec_flitReceive_badCodeword isUp, badCodeword_within (by rw [cfg, laneTimes_flitSpoiled]; exact few), laneTimes_flitSpoiled]
    rfl
  case past =>
    intro limited many
    have cfg : (getPort (flitSpoiled p corrected s) p).cfg = q.cfg :=
      flitSpoiled_keeps FabPort.cfg (fun _ _ _ _ _ _ _ _ _ => rfl) p corrected s p
    refine ⟨_, exec_flitReceive_badCodeword isUp fl lane corrected, ?_⟩
    rw [badCodeword_past_limit (by rw [cfg]; exact limited) (by rw [cfg, laneTimes_flitSpoiled]; exact many)]
    refine ⟨st_degradePort .., (degrades_degradePort ..).trans ?_⟩
    rw [getPort_modPort_same]
    exact congrArg (satUp · 1) (flitSpoiled_keeps FabPort.degrades (fun _ _ _ _ _ _ _ _ _ => rfl) p corrected s p)
  case outOfOrder =>
    intro good gap
    rw [exec_flitReceive_good isUp good, if_pos gap]
    rfl
  case data =>
    intro good order data
    have before := fun {β : Type} (g : FabPort → β) blind => fecCounted_keeps g blind p corrected s p
    refine ⟨modPort p (dataTaken fl) (fecCounted p corrected s), ?_, ?_⟩
    · rw [exec_flitReceive_good isUp good, if_neg (not_not.mpr order), takeFlit_data data]
    · rw [getPort_modPort_same, held_dataTaken]
      refine ⟨rfl, rfl, rfl, congrArg _ (before FabPort.replay fun _ _ => rfl), ?_, fun j other => ?_⟩
      · rw [before FabPort.held fun _ _ => rfl]
      · rw [getPort_modPort_ne _ _ _ other, getPort_fecCounted_ne other]
  case nak =>
    intro noLimit
    exact (if_pos isUp).trans (congrArg Host.Outcome.next (nakArrive_of_no_limit noLimit ack))
  case degrade =>
    intro unnamed
    exact (if_pos isUp).trans (congrArg Host.Outcome.next (transitError_of_no_pair unnamed))
  case ident =>
    intro same
    rw [exec_linkctlIdent_training trains own]
    exact (if_pos ⟨entry, far⟩).trans (if_pos same)
  case digest =>
    intro differs
    rw [exec_linkctlIdent_training trains own]
    exact (if_pos ⟨entry, far⟩).trans (if_neg differs)
  case mismatch =>
    intro other
    rw [exec_linkctlIdent_training trains own]
    exact if_neg fun meets => other.elim (· meets.1) (· meets.2)
  case later =>
    intro later
    rw [exec_timeExchange_good own child, steer_of_later (s := timeSent st s) later]
    rfl
  case first =>
    intro isFirst
    exact ⟨_, exec_timeExchange_good own child st, steer_of_first (s := timeSent st s) isFirst off⟩
  case missed =>
    intro fewer
    exact (exec_timeExchange_missed own child).trans (congrArg Host.Outcome.next (if_pos fewer))
  case ownError =>
    intro one wraps
    exact congrArg Host.Outcome.next (transitArrive_of_own one wraps)
  case transitError =>
    intro none
    exact congrArg Host.Outcome.next (transitArrive_of_none (s := afterTransitMsg s) none p _)

end Sys2Proof.Machine
end

section
/-! PROOFS. The router: where a packet that arrives goes, what its data leave, and how a partition entry becomes VALID (R230, R232,
R242 to R245). -/

namespace Sys2Proof.Machine

/-! ### A packet that arrives (R230, R232, R235) -/

/-- The pool that holds the flits of a packet (R235). -/
def packetPool (s : State) (p : Packet) : Nat := if (entryOfPid s p.pid).isSome then p.tc.val else p.tc.val + 4

/-- The state once a packet's flits have left the receive buffer. -/
def flitsFreed (port : Nat) (p : Packet) (s : State) : State := modPort port (releaseHeld (packetPool s p) p) s

/-- The state once a packet's LSEQ counts among those delivered. -/
def deliveryNoted (port : Nat) (p : Packet) (s : State) : State :=
  modFab (fun f => { f with
    delivered := SMap.upd [] f.delivered (deliveredKey port p) (fun l => (l ++ [p.lseq]).drop (l.length + 1 - 1024)) }) s

section Arrival
variable {s : State} {port k i : Nat} {p : Packet}

theorem packetPool_of_entry (entry : entryOfPid s p.pid = some k) : packetPool s p = p.tc.val := by
  rw [packetPool, entry]
  rfl

theorem packetPool_of_no_entry (unknown : entryOfPid s p.pid = none) : packetPool s p = p.tc.val + 4 := by
  rw [packetPool, unknown]
  rfl

theorem receivePacket_reserved (bad : p.reserved = true) : receivePacket port p s = dropPacket (flitsFreed port p s) :=
  if_pos (by rw [bad, Bool.true_or])

section Good
variable (good : p.reserved = false) (kind : p.pkind.toNat ≤ 4)
include good kind

theorem receivePacket_good : receivePacket port p s =
    if isRepeat s port p then flitsFreed port p s else routePacket port p (deliveryNoted port p (flitsFreed port p s)) := by
  refine if_neg ?_
  simp [good, kind]

theorem receivePacket_repeat (again : isRepeat s port p = true) : receivePacket port p s = flitsFreed port p s := by
  rw [receivePacket_good good kind, if_pos again]

theorem receivePacket_first (first : isRepeat s port p = false) :
    receivePacket port p s = routePacket port p (deliveryNoted port p (flitsFreed port p s)) := by
  rw [receivePacket_good good kind, if_neg (ne_true_of_eq_false first)]

end Good

/-! ### Where a packet that is no message goes (R232, R243, R244) -/

section NoMessage
variable (noMessage : p.pkind ≠ 4)
include noMessage

theorem isFlood_of_no_message : isFlood p = false := by
  rw [isFlood, decide_eq_false noMessage, Bool.false_and]

theorem routePacket_unknown (unknown : entryOfPid s p.pid = none) :
    routePacket port p s = if forSelf s p then dropPacket s else transitPacket port p s := by
  refine (if_neg fun message => noMessage message.1).trans ?_
  rw [unknown]

theorem routePacket_own (entry : entryOfPid s p.pid = some k) (dst : coordIdx (tableBytes s) p.dst = some i)
    (own : s.fab.selfIdx = some i) : routePacket port p s = deliverPacket port k p s := by
  refine (if_neg fun message => noMessage message.1).trans ?_
  simp only [entry, isFlood_of_no_message noMessage, Bool.false_eq_true, if_false, dst, own, if_true]

end NoMessage

/-- Data of a stream for a RANKED entry land and are acknowledged (R243). -/
theorem deliverPacket_data (data : p.pkind = 0) (ranked : (getPart s k).ranked = true) (noPeer : shadowPeer s = none)
    (goesOn : inDrain s (getPart s k).ctx = false) :
    deliverPacket port k p s = ackPacket port (getPart s k) p (landCopy (getPart s k).ctx p s) := by
  have delivered : mayDeliver s k p = true := by rw [mayDeliver, ranked, Bool.true_or]
  have noCopy : copyToFollower port (getPart s k) p s = s := by rw [copyToFollower, noPeer]
  rw [deliverPacket, if_pos delivered]
  simp only [noCopy, data, deliverStream, goesOn, Bool.false_and, Bool.false_eq_true, if_false]
  rfl

end Arrival

/-! ### Where data land (R41, R217, R258) -/

section Land
variable {s : State} {c : Ctx} {p : Packet} (stream : p.tc ≠ 2)
include stream

theorem landCopy_of_stream : landCopy c p s = landPacket c p s :=
  (if_neg fun copy => stream copy.1).trans (if_neg fun copy => stream copy.1)

theorem landCopy_within (within : reaches (getCtx s c) (fld p.target 47 0) p.data.length = true)
    (noCell : inScratchpads (fld p.target 47 0) = false) (noGuest : guestOf s (fld p.target 47 0) = none) :
    landCopy c p s = memWrite (fld p.target 47 0) p.data s := by
  rw [landCopy_of_stream stream]
  refine (if_pos (by rw [within, noCell]; rfl)).trans ?_
  rw [guardedWrite, noGuest]

theorem landCopy_outside (out : reaches (getCtx s c) (fld p.target 47 0) p.data.length = false ∨
    inScratchpads (fld p.target 47 0) = true) : landCopy c p s = s := by
  rw [landCopy_of_stream stream]
  refine if_neg ?_
  rcases out with far | cell
  · simp [far]
  · simp [cell]

end Land

/-! ### Partition entries (R242, R243) -/

/-- Changing an entry twice is one change. -/
theorem modPart_modPart (k : Nat) (f g : Part → Part) (s : State) :
    modPart k f (modPart k g s) = modPart k (fun e => f (g e)) s := by
  simp only [modPart, SMap.upd, SMap.get_set, SMap.set_set]

/-- Bitmaps that are sent leave what neither the ports nor the logs of the links hold. -/
theorem sendBitmaps_keeps {β : Type} (g : State → β) (blind : ∀ s ports bitmaps linkctl,
    g { s with fab := { s.fab with ports := ports, bitmaps := bitmaps, linkctl := linkctl } } = g s) (ports : List Nat) (s : State) :
    g (sendBitmaps ports s) = g s :=
  (forAll_keeps (f := fun p => sendLink p (.bitmap (validPids s))) g (fun _ _ t => blind t _ t.fab.bitmaps _) _).trans
    (blind s s.fab.ports _ s.fab.linkctl)

@[simp] theorem getPart_sendBitmaps (ports : List Nat) (s : State) (k : Nat) : getPart (sendBitmaps ports s) k = getPart s k :=
  sendBitmaps_keeps (fun t => getPart t k) (fun _ _ _ _ => rfl) ports s

@[simp] theorem validPids_sendBitmaps (ports : List Nat) (s : State) : validPids (sendBitmaps ports s) = validPids s :=
  sendBitmaps_keeps validPids (fun _ _ _ _ => rfl) ports s

theorem bitmaps_sendBitmaps (ports : List Nat) (s : State) :
    (sendBitmaps ports s).fab.bitmaps = s.fab.bitmaps ++ ports.map (fun p => (p, validPids s)) :=
  forAll_keeps (f := fun p => sendLink p (.bitmap (validPids s))) (fun t => t.fab.bitmaps) (fun _ _ _ => rfl) _

theorem linkctl_forAll_sendLink (msg : LinkMsg) (ports : List Nat) (s : State) :
    (forAll ports (fun p => sendLink p msg) s).fab.linkctl = s.fab.linkctl ++ ports.map (fun p => (p, msg)) := by
  induction ports generalizing s with
  | nil => exact (List.append_nil _).symm
  | cons p l ih =>
    calc (forAll l (fun p => sendLink p msg) (sendLink p msg s)).fab.linkctl
      _ = (s.fab.linkctl ++ [(p, msg)]) ++ l.map (fun p => (p, msg)) := ih (sendLink p msg s)
      _ = s.fab.linkctl ++ (p :: l).map (fun p => (p, msg)) := by rw [List.append_assoc]; rfl

theorem linkctl_sendBitmaps (ports : List Nat) (s : State) :
    (sendBitmaps ports s).fab.linkctl = s.fab.linkctl ++ ports.map (fun p => (p, .bitmap (validPids s))) :=
  linkctl_forAll_sendLink ..

/-- A partition entry that has become VALID with a rank map. -/
def entryValid (t : List Byte) (map : SMap (BitVec 16)) (e : Part) : Part :=
  { e with valid := true, result := 0, gradeC := gradeOf t map, map := map, abortKey := none, resolved := [] }

section Entries
variable {s : State} {m : Master} {k : Nat} (chosen : selPart s m = some k)
include chosen

theorem exec_partitionValidSet : exec (.partitionValidSet m) s = if (getPart s k).valid then .next s else .next (setValid k s) := by
  show execPartitionValidSet m s = _
  rw [execPartitionValidSet, chosen]

theorem exec_partitionValidSet_passes (clear : (getPart s k).valid = false) (passes : validResult s k = 0) :
    exec (.partitionValidSet m) s = .next (sendBitmaps (upPorts s)
      (modPart k (entryValid (tableBytes s) (readMap s (getPart s k).rmap.toNat)) s)) := by
  rw [exec_partitionValidSet chosen, if_neg (ne_true_of_eq_false clear)]
  exact congrArg Host.Outcome.next (if_pos passes)

theorem exec_partitionValidSet_fails (clear : (getPart s k).valid = false) (fails : validResult s k ≠ 0) :
    exec (.partitionValidSet m) s = .next (modPart k (fun e => { e with result := BitVec.ofNat 3 (validResult s k) }) s) := by
  rw [exec_partitionValidSet chosen, if_neg (ne_true_of_eq_false clear)]
  exact congrArg Host.Outcome.next (if_neg fails)

theorem exec_partitionValidClear (set : (getPart s k).valid = true) : exec (.partitionValidClear m) s =
    .next (sendBitmaps (upPorts s) (modPart k (fun e => { e with valid := false }) s)) := by
  show execPartitionValidClear m s = _
  rw [execPartitionValidClear, chosen]
  exact congrArg Host.Outcome.next (if_pos set)

theorem exec_rankMapReload (v : BitVec 64) : exec (.rankMapReload m v) s = .next (writeRmap k v s) := by
  show execRankMapReload m v s = _
  rw [execRankMapReload, chosen]

end Entries

section Rmap
variable {s : State} {k : Nat}

theorem writeRmap_of_clear (clear : (getPart s k).valid = false) (v : BitVec 64) :
    writeRmap k v s = modPart k (fun e => { e with rmap := BitVec.ofNat 48 (fld v 47 0) }) s := by
  refine if_neg ?_
  rw [getPart_modPart_same]
  exact ne_true_of_eq_false clear

/-- Bits [47:0] of a word are those of FAB_PART_RMAP. -/
theorem toNat_ofNat_fld (v : BitVec 64) : (BitVec.ofNat 48 (fld v 47 0)).toNat = fld v 47 0 :=
  Nat.mod_eq_of_lt (Nat.mod_lt _ (Nat.two_pow_pos 48))

theorem writeRmap_of_valid (set : (getPart s k).valid = true) (v : BitVec 64) : writeRmap k v s =
    modPart k (fun e => { e with rmap := BitVec.ofNat 48 (fld v 47 0), map := readMap s (fld v 47 0) }) s := by
  refine (if_pos (by rw [getPart_modPart_same]; exact set)).trans ?_
  rw [modPart_modPart]
  simp only [toNat_ofNat_fld]
  rfl

end Rmap

/-- Settles O49: packets by where they go, data by where they land, and the entries by the commands that change them. -/
theorem routersAndPartitions : Obligations.RoutersAndPartitions := by
  intro s port p m v k i n free seen map a
  refine ⟨fun up => ⟨fun j entry bad => ?reserved, fun j entry good kind again => ?again, fun j entry good data first own dst ranked noPeer
      goesOn => ?data, fun unknown good kind first => ?unknown⟩, fun stream c => ⟨landCopy_within stream, landCopy_outside stream⟩,
    fun chosen => ⟨fun set => ?set, fun clear passes => ⟨_, exec_partitionValidSet_passes chosen clear passes, ?valid⟩,
      exec_partitionValidSet_fails chosen, exec_partitionValidClear chosen, fun clear => ?rmap, fun set => ?reload⟩⟩
  case reserved =>
    refine (if_pos up).trans (congrArg Host.Outcome.next ?_)
    rw [receivePacket_reserved bad, flitsFreed, packetPool_of_entry entry]
  case again =>
    refine (if_pos up).trans (congrArg Host.Outcome.next ?_)
    rw [receivePacket_repeat good kind again, flitsFreed, packetPool_of_entry entry]
  case data =>
    have noMessage : p.pkind ≠ 4 := by rw [data]; decide
    have kind : p.pkind.toNat ≤ 4 := by rw [data]; decide
    refine (if_pos up).trans (congrArg Host.Outcome.next ?_)
    rw [receivePacket_first good kind first, flitsFreed, packetPool_of_entry entry]
    exact (routePacket_own (s := seen (free p.tc.val)) noMessage entry dst own).trans (deliverPacket_data data ranked noPeer goesOn)
  case unknown =>
    have noMessage : p.pkind ≠ 4 := fun message => by rw [message] at kind; exact absurd kind (by decide)
    refine (if_pos up).trans (congrArg Host.Outcome.next ?_)
    rw [receivePacket_first good (Nat.le_succ_of_le kind) first, flitsFreed, packetPool_of_no_entry unknown]
    exact routePacket_unknown noMessage unknown
  case set => exact (exec_partitionValidSet chosen).trans (if_pos set)
  case valid =>
    refine ⟨(getPart_sendBitmaps ..).trans (getPart_modPart_same ..), fun j other => (getPart_sendBitmaps ..).trans
      (getPart_modPart_ne _ _ _ other _), ?_, ?_, sendBitmaps_keeps (fun t => { t with fab := s.fab }) (fun _ _ _ _ => rfl) _ _⟩
    · rw [validPids_sendBitmaps]
      exact bitmaps_sendBitmaps ..
    · rw [validPids_sendBitmaps]
      exact linkctl_sendBitmaps ..
  case rmap => exact (exec_rankMapReload chosen v).trans (congrArg Host.Outcome.next (writeRmap_of_clear clear v))
  case reload => exact (exec_rankMapReload chosen v).trans (congrArg Host.Outcome.next (writeRmap_of_valid set v))

end Sys2Proof.Machine
end

section
/-! PROOFS. An ABORT that names an open step: what forwarding it leaves, whether the package acts as root after it, and a table of
partition entries out of order, where that changes (R239, R295 to R297, R306). -/

namespace Sys2Proof

/-! ### A change of an entry of an ordered table -/

/-- The entries of an ordered table lie above its bound. -/
theorem SMap.le_of_mem {α : Type} [DecidableEq α] {d : α} {m : SMap α} {lo : Nat} (order : SMap.wfFrom d lo m = true)
    {kv : Nat × α} (h : kv ∈ m) : lo ≤ kv.1 := by
  induction m generalizing lo with
  | nil => cases h
  | cons head t ih =>
    simp only [SMap.wfFrom, Bool.and_eq_true, decide_eq_true_eq] at order
    obtain ⟨⟨low, _⟩, rest⟩ := order
    rcases List.mem_cons.mp h with rfl | inTail
    · exact low
    · exact (Nat.le_succ_of_le low).trans (ih rest inTail)

/-- A value set where an ordered table lists one takes its place, and every other entry stays in its own. -/
theorem SMap.set_eq_map {α : Type} [DecidableEq α] {d : α} {m : SMap α} {lo : Nat} (order : SMap.wfFrom d lo m = true) {i : Nat}
    {v w : α} (notDefault : v ≠ d) (listed : (i, w) ∈ m) :
    SMap.set d m i v = m.map (fun kv => if kv.1 = i then (i, v) else kv) := by
  induction m generalizing lo with
  | nil => cases listed
  | cons head t ih =>
    have tailOrder : SMap.wfFrom d (head.1 + 1) t = true := (Bool.and_eq_true_iff.mp order).2
    have above (kv : Nat × α) (h : kv ∈ t) : head.1 < kv.1 := SMap.le_of_mem tailOrder h
    rcases List.mem_cons.mp listed with rfl | inTail
    · have below : t.filter (fun c => decide (c.1 < i)) = [] := by simpa using fun j u h => (above (j, u) h).le
      have rest : t.filter (fun c => decide (i < c.1)) = t := by simpa using fun j u h => above (j, u) h
      have same : t.map (fun kv => if kv.1 = i then (i, v) else kv) = t :=
        List.map_congr_left (fun kv h => if_neg (above kv h).ne') |>.trans t.map_id
      simp [SMap.set, notDefault, below, rest, same]
    · have before : head.1 < i := above _ inTail
      rw [List.map_cons, ← ih tailOrder inTail]
      simp [SMap.set, before, before.ne, before.not_gt]

end Sys2Proof

namespace Sys2Proof.Machine

/-! ### Forwarding an ABORT (R239) -/

theorem sendTc0On_keepsState {β : Type} (g : State → β) (blind : ∀ s ports tc0 sent,
    g { s with fab := { s.fab with ports := ports, tc0 := tc0, sent := sent } } = g s) (msg : Tc0) (port : Nat) (s : State) :
    g (sendTc0On msg port s) = g s := by
  unfold sendTc0On
  dsimp only
  split
  · rfl
  · split
    · exact blind s s.fab.ports _ s.fab.sent
    · unfold sendOn
      split
      · exact blind s s.fab.ports _ s.fab.sent
      · exact blind s ..

/-- Forwarding an ABORT notes its key in the entry, and else changes what waits to be sent. -/
theorem floodAbort_keeps {β : Type} (g : State → β) (blind : ∀ s ports tc0 sent,
    g { s with fab := { s.fab with ports := ports, tc0 := tc0, sent := sent } } = g s) {k : Nat} {arrival : Option Nat} {msg : Tc0}
    {s : State} (higher : keyHigher msg.step msg.attempt (getPart s k).abortKey = true) :
    g (floodAbort k arrival msg s) = g (modPart k (fun e => { e with abortKey := some (msg.step, msg.attempt) }) s) := by
  unfold floodAbort
  rw [if_pos higher]
  exact forAll_keeps g (fun p _ t => sendTc0On_keepsState g blind msg p t) _

/-! ### The root, where the entries are in order (R298, R305) -/

/-- In an ordered table of entries, the entry that a context is bound to stays the same when an entry that is listed changes and
keeps its VALID and its context. -/
theorem boundEntry_modPart {s : State} {k : Nat} {f : Part → Part} (order : SMap.wf Part.init s.fab.parts = true)
    (valid : (getPart s k).valid = true) (keepsValid : (f (getPart s k)).valid = (getPart s k).valid)
    (keepsCtx : (f (getPart s k)).ctx = (getPart s k).ctx) (c : Ctx) : boundEntry (modPart k f s) c = boundEntry s c := by
  have listed : (k, getPart s k) ∈ s.fab.parts := by
    refine (SMap.get_eq_default_or_mem Part.init s.fab.parts k).resolve_left fun absent => ?_
    rw [getPart, absent] at valid
    cases valid
  have notDefault : f (getPart s k) ≠ Part.init := fun h => by rw [h, valid] at keepsValid; cases keepsValid
  have sameTest : ∀ kv ∈ s.fab.parts, ((fun kv : Nat × Part => kv.2.valid && kv.2.ctx == c) ∘
      fun kv => if kv.1 = k then (k, f (getPart s k)) else kv) kv = (kv.2.valid && kv.2.ctx == c) := by
    intro kv h
    rw [Function.comp_apply]
    split
    next here =>
      have value : getPart s k = kv.2 := here ▸ SMap.get_of_mem Part.init order h
      rw [keepsValid, keepsCtx, value]
    next => rfl
  have samePlace : (Prod.fst ∘ fun kv : Nat × Part => if kv.1 = k then (k, f (getPart s k)) else kv) = Prod.fst := by
    funext kv
    rw [Function.comp_apply]
    split
    next here => exact here.symm
    next => rfl
  show ((SMap.set Part.init s.fab.parts k (f (getPart s k))).find? _).map Prod.fst = _
  rw [SMap.set_eq_map order notDefault listed, List.find?_map, Option.map_map, List.find?_congr sameTest, samePlace]
  rfl

/-- Forwarding an ABORT leaves who is root. -/
theorem isRoot_floodAbort {s : State} {k : Nat} {arrival : Option Nat} {msg : Tc0} (order : SMap.wf Part.init s.fab.parts = true)
    (valid : (getPart s k).valid = true) (higher : keyHigher msg.step msg.attempt (getPart s k).abortKey = true) (c : Ctx) :
    isRoot (floodAbort k arrival msg s) c = isRoot s c := by
  have bound := boundEntry_modPart (f := fun e => { e with abortKey := some (msg.step, msg.attempt) }) order valid rfl rfl c
  rw [floodAbort_keeps (fun t => isRoot t c) (fun _ _ _ _ => rfl) higher]
  unfold isRoot lostEntry
  rw [bound]
  split
  · rfl
  next j _ =>
    by_cases here : j = k
    · subst here
      rw [getPart_modPart_same]
      rfl
    · rw [getPart_modPart_ne _ _ _ here]
      rfl

theorem valid_of_entryOfPid {s : State} {pid : BitVec 12} {k : Nat} (order : SMap.wf Part.init s.fab.parts = true)
    (entry : entryOfPid s pid = some k) : (getPart s k).valid = true := by
  obtain ⟨kv, found, rfl⟩ := Option.map_eq_some_iff.mp entry
  have test := List.find?_some found
  rw [Bool.and_eq_true] at test
  rw [getPart, SMap.get_of_mem Part.init order (List.mem_of_find?_eq_some found)]
  exact test.1

/-! ### An ABORT that names an open step (R239, R297, R306) -/

theorem abortNamed_opened {s : State} {i : Nat} {h : Held} (held : s.step.held[i]? = some h) (opened : h.st = .opened)
    (cause : BitVec 8) : abortNamed i cause s = if isRoot s h.ctx then rootAbort i cause s else resolveAbort i cause s := by
  simp only [abortNamed, held, opened]

section Opened
variable {s : State} {port : Fin 24} {msg : Tc0} {k i : Nat} {h : Held} (entry : entryOfPid s msg.pid = some k)
  (higher : keyHigher msg.step msg.attempt (getPart s k).abortKey = true) (ranked : (getPart s k).ranked = true)
  (holds : (getCtx s (getPart s k).ctx).holdsStep = true) (place : heldPlace s msg.step = some i)
  (step : heldStep s msg.step = some h) (opened : h.st = .opened) (attempt : h.attempt = msg.attempt)
include entry higher ranked holds place step opened attempt

/-- The step engine acts on the ABORT once it is forwarded. -/
theorem exec_abortReceive_opened :
    exec (.abortReceive port msg) s = .next (abortNamed i msg.cause (floodAbort k (some port.val) msg s)) := by
  have keeps := fun {β : Type} (g : State → β) blind => floodAbort_keeps g blind (arrival := some port.val) higher
  have ranked' : (getPart (floodAbort k (some port.val) msg s) k).ranked = true := by
    rw [keeps (fun t => getPart t k) fun _ _ _ _ => rfl, getPart_modPart_same]
    exact ranked
  have holds' : (getCtx (floodAbort k (some port.val) msg s) (getPart (floodAbort k (some port.val) msg s) k).ctx).holdsStep =
      true := by
    rw [keeps (fun t => (getCtx t (getPart t k).ctx).holdsStep) fun _ _ _ _ => rfl, getPart_modPart_same]
    exact holds
  have place' := (keeps (fun t => heldPlace t msg.step) fun _ _ _ _ => rfl).trans place
  have step' := (keeps (fun t => heldStep t msg.step) fun _ _ _ _ => rfl).trans step
  show Host.Outcome.next (routeAbort port.val msg s) = _
  simp [routeAbort, entry, higher, abortArrives, ranked', holds', place', step', opened, isDeclaration, attempt]

/-- With the entries in order, the step aborts by what the package was as the ABORT came: at the root with a RESOLVE over the
partition. -/
theorem exec_abortReceive_in_order (order : SMap.wf Part.init s.fab.parts = true) (held : s.step.held[i]? = some h) :
    exec (.abortReceive port msg) s = .next
      (if isRoot s h.ctx then rootAbort i msg.cause (floodAbort k (some port.val) msg s)
        else resolveAbort i msg.cause (floodAbort k (some port.val) msg s)) := by
  have held' := (floodAbort_keeps (fun t => t.step.held[i]?) (fun _ _ _ _ => rfl) (arrival := some port.val) higher).trans held
  rw [exec_abortReceive_opened entry higher ranked holds place step opened attempt, abortNamed_opened held' opened,
    isRoot_floodAbort order (valid_of_entryOfPid order entry) higher]

end Opened

/-! ### Entries out of order -/

/-- A VALID and RANKED partition entry of context 0. -/
def rankedEntry (pid : BitVec 12) (rank : BitVec 14) : Part :=
  { Part.init with pid := pid, valid := true, ranked := true, rank := rank, ctx := 0 }

/-- Step 0 of context 0 as it opens. -/
def openStepZero : Held := openedStep State.reset 0 plainOpen

/-- Reset, with step 0 of context 0 open, and two entries of the context listed in falling order: rank 1 of partition 6 in entry 1,
then rank 0 of partition 5 in entry 0. -/
def entriesOutOfOrder : State :=
  modStep (fun e => { e with held := [openStepZero] })
    (modCtx 0 (fun x => { x with st := .active, holdsStep := true })
      (modFab (fun f => { f with parts := [(1, rankedEntry 6 1), (0, rankedEntry 5 0)] }) State.reset))

/-- ABORT of step 0, attempt 0, in partition 5. -/
def abortOfOpenStep : Tc0 := { pid := 5, mkind := 1, attempt := 0, cause := causeLoss, origin := 1, step := 0, body := 0 }

/-- The same as the step engine takes the ABORT, once the router has forwarded it. -/
def abortForwarded : State := floodAbort 0 (some 0) abortOfOpenStep entriesOutOfOrder

/-- The ABORT is forwarded, and names the open step of a package that is no root. -/
theorem entriesOutOfOrder_meets_abort_premises :
    entryOfPid entriesOutOfOrder abortOfOpenStep.pid = some 0 ∧
      keyHigher abortOfOpenStep.step abortOfOpenStep.attempt (getPart entriesOutOfOrder 0).abortKey = true ∧
      (getPart entriesOutOfOrder 0).ranked = true ∧
      (getCtx entriesOutOfOrder (getPart entriesOutOfOrder 0).ctx).holdsStep = true ∧
      heldPlace entriesOutOfOrder abortOfOpenStep.step = some 0 ∧
      heldStep entriesOutOfOrder abortOfOpenStep.step = some openStepZero ∧ openStepZero.st = .opened ∧
      openStepZero.attempt = abortOfOpenStep.attempt ∧ isRoot entriesOutOfOrder openStepZero.ctx = false := by
  decide +kernel

/-- Forwarding sets the key of entry 0, which then stands first: the context is bound to rank 0, and the package is root. -/
theorem abortForwarded_isRoot :
    isRoot abortForwarded openStepZero.ctx = true ∧ abortForwarded.step.held[0]? = some openStepZero := by
  decide +kernel

/-- R306: the root floods a RESOLVE of its own, and a member none. -/
theorem abortForwarded_resolved :
    (getPart (rootAbort 0 abortOfOpenStep.cause abortForwarded) 0).resolved ≠
      (getPart (resolveAbort 0 abortOfOpenStep.cause abortForwarded) 0).resolved := by
  decide +kernel

/-- Refutes O36: whether the package is the root is asked once the ABORT is forwarded, which puts the table of partition entries in
order. The clause of a package that is no root takes the table as it was; where its entries are out of order, which no premise
excludes, the package is the root after all and floods a RESOLVE. With the entries in order the clause holds
(`exec_abortReceive_in_order`). -/
theorem not_stepsResolve : ¬ Obligations.StepsResolve := by
  intro claim
  obtain ⟨entry, higher, ranked, holds, place, step, opened, attempt, notRoot⟩ := entriesOutOfOrder_meets_abort_premises
  obtain ⟨root, held⟩ := abortForwarded_isRoot
  obtain ⟨-, -, -, named, -⟩ := claim.1 entriesOutOfOrder 0 abortOfOpenStep 0 0 openStepZero 0
  obtain ⟨member, -⟩ := named entry higher ranked holds place step rfl opened
  have acted : abortNamed 0 abortOfOpenStep.cause abortForwarded = rootAbort 0 abortOfOpenStep.cause abortForwarded := by
    rw [abortNamed_opened held opened, if_pos root]
  have same := Host.Outcome.next.inj ((exec_abortReceive_opened entry higher ranked holds place step opened attempt).symm.trans
    (member attempt notRoot))
  exact abortForwarded_resolved (congrArg (fun t => (getPart t 0).resolved) (acted.symm.trans same))

end Sys2Proof.Machine
end

section
/-! PROOFS. What every step does: it runs the front command, the command answers a next state and leaves the queue, and the factory's
fuses stay; and the values that reset holds. -/

namespace Sys2Proof.Machine

/-- Settles O1: a queue with a front command is the second row of `step`. -/
theorem stepRunsFront : Obligations.StepRunsFront := fun _ _ _ => rfl

/-- Settles O3: each table of reset is empty but for the entries that the spec gives, so each field reads its stated value. -/
theorem resetValues : Obligations.ResetValues := by
  unfold Obligations.ResetValues
  decide +kernel

/-! ### What `Kept` says of the queue and of the fuses (R375, R376, R432) -/

theorem Kept.pending {s t : State} (h : Kept s t) : t.pending = s.pending :=
  congrArg Prod.fst h.1

theorem Kept.factoryFuses {s t : State} (h : Kept s t) : factoryFuses t.fuses = factoryFuses s.fuses :=
  congrArg Prod.snd h.1

theorem Kept.idGen_le {s t : State} (h : Kept s t) : s.fuses.idGen.toNat ≤ t.fuses.idGen.toNat :=
  h.2.1

/-- A step keeps of the fuses what the state in which its command runs has of them. -/
theorem step_kept_fuses {s t : State} (ran : step s = .next t) : ∃ u, u.fuses = s.fuses ∧ Kept u t := by
  cases queue : s.pending with
  | nil =>
    rw [step, queue] at ran
    exact ⟨s, rfl, Host.Outcome.next.inj ran ▸ tick_kept s .rfl⟩
  | cons c rest =>
    rw [step, queue] at ran
    exact ⟨{ s with pending := rest }, rfl, exec_kept c _ .rfl t ran⟩

/-- Settles O6: a tick and every command keep the factory's fuses, and ROTATE_ID alone changes the generation, by one upward and
never past its end. -/
theorem stepKeepsFactoryFuses : Obligations.StepKeepsFactoryFuses := by
  intro s t ran
  obtain ⟨u, fuses, kept⟩ := step_kept_fuses ran
  rw [← fuses]
  exact ⟨kept.factoryFuses, kept.idGen_le⟩

/-! ### Every command answers (log entry 11) -/

/-- A command's outcome is a next state. -/
def Answers (o : Out) : Prop := ∃ t, o = .next t

theorem answers_next (t : State) : Answers (.next t) := ⟨t, rfl⟩

/-- Every row of `exec` answers a next state: the first rows on one path, the others at the end of each path of their checks. -/
theorem exec_answers (i : Instr) (s : State) : Answers (exec i s) := by
  cases i
  case nop | prog | seta | adda | cvt | add | sub | mul | div | max | min | abs | neg | sqrt | rsqrt | recip | exp | log |
      cmplt | cmple | cmpeq | mulrow | addrow | pack4 | rsumd | rsuma | rssqd | rssqa | rmvd | rmva | ramaxd | ramaxa |
      topk1 | topk2 | topk3 | topk4 | topk5 | topk6 | topk7 | topk8 | fcheck | stclose | syncSetValue | syncAdd |
      syncClearErr | ctxCreate | ctxTeardown | ctxQuery | hifFuncCfgWrite | chunkReturn | channelRetrain |
      statPartialArrive | edgeRetrainTrigger | edgeQuarantine | transitErrReceive | syncMessageReceive |
      reductionOperandArrive | abortReceive | stepCtrlAbort | voteReceive | voteDrained | resolve | resolveReplay | pair |
      pairOk | pairRefused | map | mapOk | mapRefused | unmap | ownerDone | mirrorDone | auditStart | auditLate |
      auditDigest | shadowCfgWrite | mailboxSend | mailboxAck | mailboxStatusClear | ping | info | attest | idChain |
      readCapture | scrub | installTableWrite | fuseRepair | rotateId | debugUnlock | mbxRebind | mbxRebindGo | sealClear |
      presenceAssert | presenceEnd | sealOpened | evtRingEnable | evtRingTailWrite | rasResetEngine | rasResetPartition |
      rasResetChipRequest | i3cDynamicAddress | hostDmaError |
      extest | samplePreload | idcode | clamp | highz | extestPulse | extestTrain | posnSel | wirAccess | dwrAccess | mbist |
      laneTest | fuseAccess | bypass => exact answers_next _
  all_goals
    dsimp only [exec, execEndBody, execLoop, execEndl, execWaits, execMm, execDrain, execSin, execSout, execMmComplete,
      execDrainComplete, execVopComplete, execSinComplete, execSoutComplete, execSorgSignalArrive, execDrainBankFullStart,
      execKnPartialLeft, execBodyStart, execEpochStall, execStreamUnitArrive, execKindleStart, execKindleGapExpiry,
      execKindleRampStep, execDoorbellTail, execDoorbellChead, execDoorbellEhead, execDescriptorFetch, execDescriptorStart,
      execNopDescriptor, execCopy, execStream, execStreamReduce, execTile, execProgramBody, execCellConfig, execModes,
      execDiscard, execFence, execStepFence, execSyncRemoteAdd, execSyncObjectUpdate, execSyncTimeout, execStepOpen,
      execStepDepthTimeout, execStepVote, execMirrorMap, execMirrorUnmap, execMirrorFill, execMirrorAudit, execBankStart,
      execBankCancel, execSnap, execRestore, execRestoreComplete, execVariant, execTeardown, execTeardownGenerationChange,
      execTeardownFinish, execFirmwareScrub, execFunctionLevelReset, execPerstAssert, execHostLinkDown, execEngineTurn,
      execPatrolRead, execStripeRemap, execRetrainComplete, execMapout, execStatRingTailWrite, execEdgeFrameReceive,
      execEdgeNakReceive, execEdgeSbinitTimeout, execEdgeModuleTrainingDone, execEdgeLinkinitDone, execQuarantineTimeout,
      execEdgeSidebandPoll, execGuestFirewallCheck, execFlitReceive, execFlitNakReceive, execLaneDegrade,
      execLaneTrainingDone, execFabPortRetrain, execPacketReceive, execLinkctlIdent, execIdentTimeout, execPidBitmap,
      execTimeExchange, execPartitionValidSet, execPartitionValidClear, execRankMapReload, execCastResolveTimeout,
      execVoteLeaseExpiry, execOwnerRoleDone, execPartnerRoleDone, execAbortDrainDone, execRoundLeaseExpiry,
      execRollCallResend, execRootFallback, execRoundHaltTimeout, execPromotionPullDone, execPairTimeout,
      execShadowStateLoaded, execShadowRecordReceive, execShadowTimeout, execSnapshotComplete, execBankSign, execBankDone,
      execWatchOccurrence, execWatchWindowClose, execMailboxTimeout, execFirmwareCommandEnd, execSealToggle,
      execFwLockExpired, execHeartbeat, execPtbSample, execEventRecordWrite, execManagementBoot, execDieInventory,
      execHbmTraining, execFabricDiscovery, execHostLinkTraining, execEngineWatchdog, execCaptureLeaseExpiry,
      execPartitionResetDone, execPartitionResetTimeout, execPkgResetAssert, execPkgResetDeassert, execPwrGoodRise,
      execPwrGoodFall, execThermtrip, execPllLockLoss, execDampControl, execTelemetryUpdate, execI3cPrivateWrite,
      execFlashRead, execFlashProgram, execFlashErase, execFlashOpDone, execDebugWindowWrite, execRegisterWrite,
      execEdgeSidebandUp, execLinkinitModuleFail, execContextResetTimeout, execEngineResetTimeout, execEngineResetDone,
      execBankSignTimeout, execVfEnable, execReservedOpcode]
    repeat' first | with_reducible exact answers_next _ | split

/-- Settles O7: the command answers, and what it answers keeps the queue. -/
theorem commandsComplete : Obligations.CommandsComplete := by
  intro i s
  obtain ⟨t, ran⟩ := exec_answers i s
  exact ⟨t, ran, (exec_kept i s .rfl t ran).pending⟩

end Sys2Proof.Machine
end

section
/-! PROOFS. The TAP's instructions, physical presence and the seal loop, mailbox channels, and doorbells (R267, R378, R380 to R387,
R412, R427 to R430). -/

namespace Sys2Proof.Machine

/-! ### TAP instructions (R427, R428) -/

theorem tapInstr_allowed {allowed : Bool} (h : allowed = true) (code : BitVec 8) (bits : Nat) (b f : Bool) (s : State) :
    tapInstr allowed code bits b f s = .next (loadIr code bits b f s) :=
  congrArg Host.Outcome.next (if_pos h)

theorem tapInstr_refused {allowed : Bool} (h : allowed = false) (code : BitVec 8) (bits : Nat) (b f : Bool) (s : State) :
    tapInstr allowed code bits b f s = .next (refuseIr s) :=
  congrArg Host.Outcome.next (if_neg (ne_true_of_eq_false h))

theorem privateTest_eq_true {s : State} : privateTest s = true ↔ s.fuses.factoryClosed = false ∨ s.mgmt.debug = true := by
  simp [privateTest]

/-- Settles O60: each instruction is a `tapInstr` under the gate of its kind. -/
theorem tapInstructions : Obligations.TapInstructions := by
  intro s load no priv
  refine ⟨rfl, rfl, rfl, fun asserted => ⟨tapInstr_allowed asserted .., tapInstr_allowed asserted .., tapInstr_allowed asserted ..,
    tapInstr_allowed asserted .., tapInstr_allowed asserted ..⟩, fun released i board => ?board, fun may => ?mayAct,
    fun mayNot i priv => ?priv, rfl, rfl⟩
  case board =>
    simp only [List.mem_cons, List.not_mem_nil, or_false] at board
    rcases board with rfl | rfl | rfl | rfl | rfl <;> exact tapInstr_refused released ..
  case mayAct =>
    have acts : privateTest s = true := privateTest_eq_true.mpr may
    exact ⟨tapInstr_allowed acts .., tapInstr_allowed acts .., tapInstr_allowed acts .., tapInstr_allowed acts ..,
      tapInstr_allowed acts .., tapInstr_allowed acts ..⟩
  case priv =>
    have refused : privateTest s = false := eq_false_of_ne_true (mt privateTest_eq_true.mp mayNot)
    simp only [List.mem_cons, List.not_mem_nil, or_false] at priv
    rcases priv with rfl | rfl | rfl | rfl | rfl | rfl <;> exact tapInstr_refused refused ..

/-! ### Presence and the seal loop (R378, R412) -/

theorem openSeal_closed {s : State} (closed : s.mgmt.sealClosed = true) :
    openSeal s = alertSets s (raise 0x0A03 (hubUnit 8) {} (modMgmt (fun m => { m with
      sealClosed := false, sealOpened := true, presence := false, tamper := satUp m.tamper 1 }) s)) :=
  if_pos closed

theorem openSeal_open {s : State} (opened : s.mgmt.sealClosed = false) : openSeal s = s :=
  if_neg (ne_true_of_eq_false opened)

/-- Settles O55: the commands of PRESENCE_N set presence by the loop, and those of the loop open it once or close it. -/
theorem physicalPresence : Obligations.PhysicalPresence := by
  intro s back flipped opened
  refine ⟨rfl, rfl, fun isOpen => ?still, fun closed => ?opens, fun returns => ?closes, fun lost closed => ?toggled⟩
  case still => exact congrArg Host.Outcome.next (openSeal_open isOpen)
  case opens => exact congrArg Host.Outcome.next (openSeal_closed closed)
  case closes =>
    subst returns
    rfl
  case toggled =>
    subst lost
    exact congrArg Host.Outcome.next (openSeal_closed (s := flipped) closed)

/-! ### Mailbox channels (R381 to R387) -/

@[simp] theorem getMbx_modMbx_same (ch : Nat) (f : Chan → Chan) (s : State) : getMbx (modMbx ch f s) ch = f (getMbx s ch) :=
  SMap.get_upd ..

theorem postWords_in_range {w lo : Nat} (low : lo ≤ w) (high : w ≤ 16) (s : State) : postWords w lo s = (w, s) :=
  if_pos ⟨low, high⟩

/-- A channel as a SEND of `w` words by `mid` leaves it (R381). -/
def sentChan (s : State) (ch : Nat) (mid : BitVec 8) (w : Nat) : Chan :=
  { getMbx s ch with
    buf := copyWords w (staging (getMbx s ch) mid) (getMbx s ch).buf, collision := (getMbx s ch).collision || (getMbx s ch).full
    full := true, acked := false, words := BitVec.ofNat 5 w, sender := mid
    since := if (getMbx s ch).full then (getMbx s ch).since else s.mgmt.ptb }

section Channel
variable {s : State} {ch : Nat} {mid : BitVec 8}

theorem sendPost_unbound (unbound : mbxBound s ch mid = false) (v : BitVec 32) : sendPost ch mid v s = s :=
  if_neg (ne_true_of_eq_false unbound)

theorem clearMbxStatus_unbound (unbound : mbxBound s ch mid = false) (v : BitVec 32) : clearMbxStatus ch mid v s = s :=
  if_neg (ne_true_of_eq_false unbound)

theorem clearMbxStatus_bound (bound : mbxBound s ch mid = true) (v : BitVec 32) : clearMbxStatus ch mid v s =
    modMbx ch (fun c => { c with collision := c.collision && !(bit v 1), acked := c.acked && !(bit v 2) }) s :=
  if_pos bound

/-- A SEND by a bound master notifies the other one, and the block answers for a domain that is down (R381, R384). -/
theorem sendPost_bound (bound : mbxBound s ch mid = true) {v : BitVec 32} (low : 1 ≤ fld v 4 0) (high : fld v 4 0 ≤ 16) :
    let told := notify ch (otherMid (getMbx s ch) mid) (modMbx ch (fun _ => sentChan s ch mid (fld v 4 0)) s)
    sendPost ch mid v s = if midDown told (otherMid (getMbx s ch) mid) then blockReply ch mbxDomainReset told else told := by
  refine (if_pos bound).trans ?_
  simp only [postWords_in_range low high, getMbx_modMbx_same]
  rfl

theorem ackPost_refused (refused : ackOk s ch mid = false) (v : BitVec 32) : ackPost ch mid v s = s :=
  if_neg (ne_true_of_eq_false refused)

theorem ackOk_eq_true : ackOk s ch mid = true ↔
    mbxBound s ch mid = true ∧ (getMbx s ch).full = true ∧ (getMbx s ch).sender ≠ mid := by
  simp [ackOk, and_assoc]

/-- An ACK that is accepted leaves its reply and notifies the SENDER, which the reply leaves (R382). -/
theorem ackPost_accepted (accepted : ackOk s ch mid = true) {v : BitVec 32} (high : fld v 20 16 ≤ 16) :
    ackPost ch mid v s = notify ch (getMbx s ch).sender (modMbx ch (fun _ => { getMbx s ch with
      full := false, acked := true, code := BitVec.ofNat 16 (fld v 15 0), ackWords := BitVec.ofNat 5 (fld v 20 16)
      words := BitVec.ofNat 5 (fld v 20 16), acker := mid
      buf := copyWords (fld v 20 16) (staging (getMbx s ch) mid) (getMbx s ch).buf }) s) := by
  refine (if_pos accepted).trans ?_
  simp only [postWords_in_range (Nat.zero_le _) high, putReply, getMbx_modMbx_same, BitVec.ofNat_toNat, BitVec.setWidth_eq]
  rfl

end Channel

/-- Settles O50: a SEND by a bound master, and the three ways of an ACK. -/
theorem mailboxSendAndAck : Obligations.MailboxSendAndAck := by
  intro s ch mid v n c w r sent put told answer
  refine ⟨fun bound low high up => ?send, fun bound full other high => ?ack, fun bound barred => ?barred, fun unbound => ?unbound⟩
  case send => exact congrArg Host.Outcome.next ((sendPost_bound bound low high).trans (if_neg (ne_true_of_eq_false up)))
  case ack => exact congrArg Host.Outcome.next (ackPost_accepted (ackOk_eq_true.mpr ⟨bound, full, other⟩) high)
  case barred =>
    refine congrArg Host.Outcome.next (ackPost_refused (eq_false_of_ne_true fun accepted => ?_) v)
    obtain ⟨-, full, other⟩ := ackOk_eq_true.mp accepted
    rcases barred with empty | own
    · exact ne_true_of_eq_false empty full
    · exact other own
  case unbound =>
    refine congrArg Host.Outcome.next (ackPost_refused (eq_false_of_ne_true fun accepted => ?_) v)
    exact ne_true_of_eq_false unbound (ackOk_eq_true.mp accepted).1

/-- A word with GO set (R386). -/
theorem toNat_setFld_go (v : BitVec 32) : (setFld v 31 31 1).toNat = v.toNat % 2 ^ 31 + 2 ^ 31 := by
  have bound := v.isLt
  simp only [setFld, bitsOf, BitVec.toNat_ofNat]
  omega

theorem bit_setFld_go (v : BitVec 32) : bit (setFld v 31 31 1) 31 = true := by
  have value := toNat_setFld_go v
  rw [bit, BitVec.getLsbD, Nat.testBit_eq_decide_div_mod_eq, value]
  refine decide_eq_true ?_
  omega

theorem fld_setFld_go (v : BitVec 32) : fld (setFld v 31 31 1) 5 0 = fld v 5 0 := by
  rw [fld, fld, toNat_setFld_go]
  simp only [bitsOf]
  omega

theorem execMbxRebindGo_denied {s : State} (absent : s.mgmt.presence = false) (v : BitVec 32) :
    exec (.mbxRebindGo v) s = .next (raise 0x0A02 (hubUnit 6) {} s) :=
  congrArg Host.Outcome.next (if_neg (ne_true_of_eq_false absent))

theorem execMbxRebindGo_present {s : State} (present : s.mgmt.presence = true) (v : BitVec 32) :
    exec (.mbxRebindGo v) s = .next (rebind (fld v 5 0) (rebindWord (setFld v 31 31 1)) (modMgmt (fun m => { m with
      rebind := setFld (setFld (setFld v 31 31 1) 31 31 0) 7 6 0 }) s)) := by
  refine congrArg Host.Outcome.next ((if_pos present).trans ((if_pos (bit_setFld_go v)).trans ?_))
  rw [fld_setFld_go]

/-- Settles O51: what an unbound master may not do, the replies of the block itself, and a rebind under its gate. -/
theorem mailboxRest : Obligations.MailboxRest := by
  intro s ch mid v n c told rebound
  refine ⟨fun unbound => ⟨?send, ?status⟩, fun bound low high down => ?reset, fun bound => ?clear, fun full => ?timeout,
    fun absent => execMbxRebindGo_denied absent v, fun present => execMbxRebindGo_present present v⟩
  case send => exact congrArg Host.Outcome.next (sendPost_unbound unbound v)
  case status => exact congrArg Host.Outcome.next (clearMbxStatus_unbound unbound v)
  case reset => exact congrArg Host.Outcome.next ((sendPost_bound bound low high).trans (if_pos down))
  case clear => exact congrArg Host.Outcome.next (clearMbxStatus_bound bound v)
  case timeout => exact if_pos full

/-! ### Doorbells (R267) -/

section Doorbell
variable {s : State} {f : Fin 64} {page : BitVec 12} (v : BitVec 32)

theorem exec_doorbell_dropped (drops : doorbellCtx s f page = none) : exec (.doorbellTail f page v) s = .next s ∧
    exec (.doorbellChead f page v) s = .next s ∧ exec (.doorbellEhead f page v) s = .next s := by
  simp only [exec, execDoorbellTail, execDoorbellChead, execDoorbellEhead, drops, and_self]

variable {c : Ctx} (live : doorbellCtx s f page = some c)
include live

theorem exec_doorbellTail : exec (.doorbellTail f page v) s =
    if tailOk (getCtx s c) (fld v 15 0) then .next (modCtx c (fun x => { x with tail := fld v 15 0 }) s)
    else .next (doorbellBad c 0x000 (fld v 15 0) s) := by
  simp only [exec, execDoorbellTail, live]

theorem exec_doorbellChead : exec (.doorbellChead f page v) s =
    if headOk (getCtx s c).clog2 (getCtx s c).cplHead (getCtx s c).cplWrite (fld v 15 0) then
      .next (modCtx c (fun x => { x with cplHead := fld v 15 0 }) s)
    else .next (doorbellBad c 0x004 (fld v 15 0) s) := by
  simp only [exec, execDoorbellChead, live]

theorem exec_doorbellEhead : exec (.doorbellEhead f page v) s =
    if headOk (getCtx s c).elog2 (getCtx s c).evtHead (getCtx s c).evtWrite (fld v 15 0) then
      .next (modCtx c (fun x => { x with evtHead := fld v 15 0 }) s)
    else .next (doorbellBad c 0x008 (fld v 15 0) s) := by
  simp only [exec, execDoorbellEhead, live]

end Doorbell

/-- Settles O21: each doorbell by the check of its index. -/
theorem doorbellsMoveIndices : Obligations.DoorbellsMoveIndices := by
  intro s f page v t set bad
  refine ⟨exec_doorbell_dropped v, fun c live => ⟨fun ok => ?tail, fun bad => ?badTail, fun ok => ?chead, fun bad => ?badChead,
    fun ok => ?ehead, fun bad => ?badEhead⟩⟩
  case tail => exact (exec_doorbellTail v live).trans (if_pos ok)
  case badTail => exact (exec_doorbellTail v live).trans (if_neg (ne_true_of_eq_false bad))
  case chead => exact (exec_doorbellChead v live).trans (if_pos ok)
  case badChead => exact (exec_doorbellChead v live).trans (if_neg (ne_true_of_eq_false bad))
  case ehead => exact (exec_doorbellEhead v live).trans (if_pos ok)
  case badEhead => exact (exec_doorbellEhead v live).trans (if_neg (ne_true_of_eq_false bad))

end Sys2Proof.Machine
end

section
/-! PROOFS. The record, the interrupt and the SIG of a descriptor that completes, and how posted entries are fetched and the front
descriptor starts (R23, R263, R265 to R271, R274, R287). -/

namespace Sys2Proof.Machine

open Sys2Proof.Laws

/-! ### The end of a descriptor (R263, R270, R271) -/

theorem length_completionBytes (index : BitVec 16) (status opcode tag detail : Nat) (attempt : BitVec 4) (phase : Bool) :
    (completionBytes index status opcode tag detail attempt phase).length = 16 := by
  simp [completionBytes]

/-- What SIG asks of the arbiters. -/
def sigUpdates (x : Context) (w : BitVec 512) (ok : Bool) (requester : Nat) : List SyncUpd :=
  if dSig w && inSyncRange x (dSigSync w) then
    [{ obj := BitVec.ofNat 16 (dSigSync w), requester := requester, op := if ok then .add 1 else .setError }]
  else []

theorem signalDesc_eq_sigUpdates (c : Ctx) (w : BitVec 512) (ok : Bool) (requester : Nat) (s : State) :
    signalDesc c w ok requester s =
      modHif (fun h => { h with syncQ := h.syncQ ++ sigUpdates (getCtx s c) w ok requester }) s := by
  unfold signalDesc sigUpdates
  split
  · rfl
  · simp only [List.append_nil]
    rfl

/-- The interrupt that a descriptor's record is followed by. -/
def recordMsix (x : Context) (d : Desc) : List Msix :=
  if dIrq d.words then [{ func := x.func, port := x.port, vec := x.vecCpl }] else []

/-- A context once a record has been written at its place in the completion ring. -/
def recordWritten (x : Context) : Context :=
  { x with
    cplWrite := (x.cplWrite + 1) % 2 ^ x.clog2
    cplPhase := if (x.cplWrite + 1) % 2 ^ x.clog2 = 0 then !x.cplPhase else x.cplPhase }

theorem getCtx_writeCompletion (c : Ctx) (bytes : Bool → List Byte) (s : State) :
    getCtx (writeCompletion c bytes s) c = recordWritten (getCtx s c) :=
  getCtx_modCtx_same ..

theorem getCtx_writeCompletion_ne {c m : Ctx} (other : m ≠ c) (bytes : Bool → List Byte) (s : State) :
    getCtx (writeCompletion c bytes s) m = getCtx s m :=
  getCtx_modCtx_ne c _ m other _

section Record
variable {s : State} {c : Ctx} {d : Desc} {status : Nat} (opened : recordsOpen (getCtx s c) = true)
  (recorded : dCpl d.words = true ∨ status ≠ 0)
include opened recorded

theorem recordDesc_eq (detail : Nat) : recordDesc c d status detail s =
    modHif (fun h => { h with msix := h.msix ++ recordMsix (getCtx s c) d })
      (writeCompletion c (completionBytes d.index status (dOpcode d.words) (dTag d.words) detail d.attempt) s) := by
  have writes : (recordsOpen (getCtx s c) && (dCpl d.words || decide (status ≠ 0))) = true := by
    simpa only [opened, Bool.true_and, Bool.or_eq_true, decide_eq_true_eq] using recorded
  refine (if_pos writes).trans ?_
  unfold recordMsix
  split
  · rfl
  · simp only [List.append_nil]
    rfl

/-- A descriptor that completes writes its record, and adds its interrupt and its SIG to those that wait. -/
theorem finishDesc_eq (detail requester : Nat) : finishDesc c d status detail requester s =
    modHif (fun h => { h with
      syncQ := h.syncQ ++ sigUpdates (getCtx s c) d.words (decide (status = 0)) requester
      msix := h.msix ++ recordMsix (getCtx s c) d })
      (writeCompletion c (completionBytes d.index status (dOpcode d.words) (dTag d.words) detail d.attempt) s) := by
  have ctx := getCtx_writeCompletion c (completionBytes d.index status (dOpcode d.words) (dTag d.words) detail d.attempt) s
  rw [finishDesc, recordDesc_eq opened recorded, signalDesc_eq_sigUpdates]
  change modHif (fun h => { h with syncQ := h.syncQ ++ sigUpdates (getCtx (writeCompletion c _ s) c) _ _ _ }) _ = _
  rw [ctx]
  rfl

end Record

/-- A byte of host memory outside the bytes written. -/
theorem hostRead_hostWrite_out {a b n : Nat} {bs : List Byte} (len : bs.length = n) (out : b < a ∨ a + n ≤ b) (s : State) :
    hostRead (hostWrite a bs s) b 1 = hostRead s b 1 :=
  hostRead_hostWrite_apart a b 1 bs s (by omega)

/-- Settles O22: `finishDesc_eq` read field by field, in the state whose starting descriptor has ended. -/
theorem descriptorCompletionRecord : Obligations.DescriptorCompletionRecord := by
  intro s c d status detail x at_ idx opened recorded t
  have here : getCtx (modCtx c (fun x => { x with starting := none }) s) c = { x with starting := none } :=
    getCtx_modCtx_same ..
  have opened' : recordsOpen (getCtx (modCtx c (fun x => { x with starting := none }) s) c) = true := by
    rw [here]
    exact opened
  have ended : t = _ := finishDesc_eq opened' recorded detail 0
  rw [here] at ended
  have len := length_completionBytes d.index status (dOpcode d.words) (dTag d.words) detail d.attempt x.cplPhase
  have host : ∀ a n, hostRead t a n = hostRead (hostWrite at_ (completionBytes d.index status (dOpcode d.words) (dTag d.words) detail
      d.attempt x.cplPhase) s) a n := by
    intro a n
    rw [ended]
    unfold writeCompletion
    dsimp only
    rw [here]
    rfl
  refine ⟨?record, fun a out => (host a 1).trans (hostRead_hostWrite_out len out s), ?ctx, ?interrupt, ?sig,
    fun m other => ?others, ?frame⟩
  case record =>
    rw [host, ← len]
    exact hostRead_hostWrite ..
  case ctx =>
    rw [ended]
    refine (getCtx_writeCompletion c _ _).trans ?_
    rw [here]
    rfl
  case interrupt => rw [ended]; rfl
  case sig =>
    rw [ended]
    show s.hif.syncQ ++ sigUpdates _ _ _ _ = _
    simp only [sigUpdates, decide_eq_true_eq]
    rfl
  case others =>
    rw [ended]
    exact (getCtx_writeCompletion_ne other _ _).trans (getCtx_modCtx_ne _ _ _ other _)
  case frame =>
    obtain ⟨_, _, only⟩ := finishStarting_hostOnly c d status detail s
    rw [show t = _ from only]

/-! ### Fetch (R23, R266, R268) -/

theorem getCtx_headWriteBack (c : Ctx) (s : State) :
    getCtx (headWriteBack c s) c = { getCtx s c with release := releaseOf s c } := by
  unfold headWriteBack
  rw [getCtx_hostWrite, getCtx_modCtx_same]

theorem hostRead_headWriteBack (c : Ctx) (s : State) (a n : Nat) : hostRead (headWriteBack c s) a n =
    hostRead (hostWrite (getCtx s c).headwb.toNat (leBytes 8 (releaseOf s c + 65536 * (getCtx s c).fetch)) s) a n :=
  rfl

/-- The entries that a request of a context reads, in ring order. -/
def fetchDescs (s : State) (c : Ctx) : List Desc :=
  (List.range (fetchCount (getCtx s c))).map (fun k => readDesc s c (s.hif.nextKey + k) ((getCtx s c).fetch + k))

/-- The state once the context with the turn has read its entries, before RELEASE and FETCH are written back. -/
def fetchRead (i : Nat) (s : State) : State :=
  let c : Ctx := BitVec.ofNat 12 i
  let n := fetchCount (getCtx s c)
  modCtx c (fun x => { x with fetched := x.fetched ++ fetchDescs s c, fetch := (x.fetch + n) % 2 ^ x.dlog2 })
    (modHif (fun h => { h with fetchPtr := (i + 1) % 4096, nextKey := h.nextKey + n }) s)

theorem exec_descriptorFetch {s : State} {i : Nat} (turn : roundRobin s.hif.fetchPtr 4096
    (fun c => decide (0 < fetchCount (SMap.get Context.init s.hif.ctxs c))) = some i) :
    exec .descriptorFetch s = .next (headWriteBack (BitVec.ofNat 12 i) (fetchRead i s)) := by
  show execDescriptorFetch s = _
  unfold execDescriptorFetch
  rw [turn]
  rfl

theorem getCtx_fetchRead (i : Nat) (s : State) :
    let x := getCtx s (BitVec.ofNat 12 i)
    getCtx (fetchRead i s) (BitVec.ofNat 12 i) = { x with
      fetched := x.fetched ++ fetchDescs s (BitVec.ofNat 12 i), fetch := (x.fetch + fetchCount x) % 2 ^ x.dlog2 } :=
  getCtx_modCtx_same ..

theorem fetch_hostOnly (c : Ctx) (i : Nat) (s : State) : hostOnly s (headWriteBack c (fetchRead i s)) :=
  hostOnly_trans (t := fetchRead i s) ⟨_, _, rfl⟩ ⟨_, _, rfl⟩

theorem length_fetchDescs (s : State) (c : Ctx) : (fetchDescs s c).length = fetchCount (getCtx s c) := by
  simp [fetchDescs]

theorem fetchDescs_getElem? {s : State} {c : Ctx} {k : Nat} (inRange : k < fetchCount (getCtx s c)) :
    (fetchDescs s c)[k]? = some (readDesc s c (s.hif.nextKey + k) ((getCtx s c).fetch + k)) := by
  simp [fetchDescs, inRange]

/-- Two changes of a context that agree on what it holds are one. -/
theorem modCtx_congr {c : Ctx} {f g : Context → Context} {s : State} (h : f (getCtx s c) = g (getCtx s c)) :
    modCtx c f s = modCtx c g s := by
  have same : f (SMap.get Context.init s.hif.ctxs c.toNat) = g (SMap.get Context.init s.hif.ctxs c.toNat) := h
  simp only [modCtx, SMap.upd, same]

/-! ### The start of the front descriptor (R265, R269, R274, R287) -/

/-- The front descriptor as it starts: under the newest held step, and refetched where its step was pulled (R287, R299). -/
def startedFront (s : State) (c : Ctx) (d : Desc) : Desc :=
  let h := newestHeld s c
  { d with
    step := h.map Held.step, attempt := (h.map Held.attempt).getD 0
    refetched := d.refetched || h.any (fun k => s.step.pulled.contains k.step) }

/-- The state in which the front descriptor starts. -/
def frontBegun (s : State) (c : Ctx) (d : Desc) : State :=
  modCtx c (fun x => { x with
    fetched := x.fetched.drop 1, waiting := none, starting := some (startedFront s c d)
    refetchEnd := if d.refetched then x.refetchEnd else some ((d.index.toNat + 1) % 2 ^ x.dlog2) }) s

/-- What a start does once the front descriptor has left the fetched ones: the checks look at what its context held before. -/
theorem startFront_eq (c : Ctx) (d : Desc) (s : State) : startFront c d s =
    if (startedFront s c d).refetched && refetchOk d.words then
      finishStarting c (startedFront s c d) stOk 0 (frontBegun s c d)
    else match firstOffence (offences (getCtx s c) d.words) with
      | some (off, st) => finishStarting c (startedFront s c d) st off (frontBegun s c d)
      | none =>
        if needsStep (dOpcode d.words) && !(getCtx s c).holdsStep then
          finishStarting c (startedFront s c d) stBadTarget 0 (frontBegun s c d)
        else frontBegun s c d := by
  have begun : getCtx (frontBegun s c d) c = _ := getCtx_modCtx_same ..
  have checks : offences (getCtx (frontBegun s c d) c) d.words = offences (getCtx s c) d.words := by rw [begun]; rfl
  have holds : (getCtx (frontBegun s c d) c).holdsStep = (getCtx s c).holdsStep := by rw [begun]
  rw [← checks, ← holds]
  cases found : newestHeld s c <;> simp only [startFront, startedFront, frontBegun, found] <;> rfl

section Front
variable {s : State} {c : Ctx} {d : Desc} {rest : List Desc}

theorem startFront_again (again : (startedFront s c d).refetched = true) (ok : refetchOk d.words = true) :
    startFront c d s = finishStarting c (startedFront s c d) stOk 0 (frontBegun s c d) := by
  rw [startFront_eq, again, ok]
  rfl

section Runs
variable (runs : (startedFront s c d).refetched = false ∨ refetchOk d.words = false)
include runs

theorem startFront_offends {off st : Nat} (offends : firstOffence (offences (getCtx s c) d.words) = some (off, st)) :
    startFront c d s = finishStarting c (startedFront s c d) st off (frontBegun s c d) := by
  rw [startFront_eq, if_neg (by rw [Bool.and_eq_true]; rintro ⟨a, b⟩; rcases runs with h | h <;> simp_all), offends]

theorem startFront_clean (clean : offences (getCtx s c) d.words = []) : startFront c d s =
    if needsStep (dOpcode d.words) && !(getCtx s c).holdsStep then
      finishStarting c (startedFront s c d) stBadTarget 0 (frontBegun s c d)
    else frontBegun s c d := by
  rw [startFront_eq, if_neg (by rw [Bool.and_eq_true]; rintro ⟨a, b⟩; rcases runs with h | h <;> simp_all), clean]
  rfl

end Runs

section Active
variable (front : (getCtx s c).fetched = d :: rest) (active : (getCtx s c).st = .active)
  (free : (getCtx s c).starting = none) (goes : (getCtx s c).fetchStopped = false)
include front active free goes

/-- DESCRIPTOR_START at the front of an ACTIVE context: without a wait the descriptor starts; with one its object decides. -/
theorem exec_descriptorStart : exec (.descriptorStart c) s =
    if dWait d.words && inSyncRange (getCtx s c) (dWaitSync d.words) then
      let o := getSync s (dWaitSync d.words)
      let latched := (getCtx s c).waiting.any WaitRec.reached
      if o.error && !latched then .next (failFront c d stSyncError (dWaitSync d.words) s)
      else if latched || syncReached o (dWaitValue d.words) then .next (startFront c d s)
      else match (getCtx s c).waiting with
        | some _ => .next s
        | none => .next (modCtx c (fun x => { x with waiting := some { since := s.mgmt.ptb, reached := false } }) s)
    else .next (startFront c d s) := by
  show execDescriptorStart c s = _
  unfold execDescriptorStart
  cases waiting : (getCtx s c).waiting <;> simp [front, active, free, goes, waiting]

/-- Without a wait, with one that was latched, or once its object has reached the value, the descriptor starts. -/
theorem exec_descriptorStart_ready (ready : (!(dWait d.words && inSyncRange (getCtx s c) (dWaitSync d.words)) ||
    (getCtx s c).waiting.any WaitRec.reached || (!(getSync s (dWaitSync d.words)).error &&
      syncReached (getSync s (dWaitSync d.words)) (dWaitValue d.words))) = true) :
    exec (.descriptorStart c) s = .next (startFront c d s) := by
  rw [exec_descriptorStart front active free goes]
  split
  next waits =>
    cases latched : (getCtx s c).waiting.any WaitRec.reached with
    | true => simp
    | false =>
      rw [waits, latched, Bool.not_true, Bool.or_self, Bool.false_or, Bool.and_eq_true, Bool.not_eq_true'] at ready
      obtain ⟨fine, reached⟩ := ready
      simp [fine, reached]
  next => rfl

section Waits
variable (waits : (dWait d.words && inSyncRange (getCtx s c) (dWaitSync d.words)) = true)
include waits

/-- The wait begins where the object has not reached the value. -/
theorem exec_descriptorStart_short (fresh : (getCtx s c).waiting = none) (fine : (getSync s (dWaitSync d.words)).error = false)
    (short : syncReached (getSync s (dWaitSync d.words)) (dWaitValue d.words) = false) : exec (.descriptorStart c) s =
      .next (modCtx c (fun x => { x with waiting := some { since := s.mgmt.ptb, reached := false } }) s) := by
  rw [exec_descriptorStart front active free goes, if_pos waits]
  simp [fresh, fine, short]

/-- An object in ERROR fails a wait that has not been latched. -/
theorem exec_descriptorStart_error (unlatched : (getCtx s c).waiting.any WaitRec.reached = false)
    (error : (getSync s (dWaitSync d.words)).error = true) :
    exec (.descriptorStart c) s = .next (failFront c d stSyncError (dWaitSync d.words) s) := by
  rw [exec_descriptorStart front active free goes, if_pos waits]
  exact if_pos (by rw [error, unlatched]; rfl)

end Waits
end Active
end Front

/-- Settles O23: the fetch is a read and a write-back, and the start of the front descriptor is `exec_descriptorStart` with the checks
of `startFront_eq`. -/
theorem descriptorsAreFetchedAndStarted : Obligations.DescriptorsAreFetchedAndStarted := by
  refine ⟨fun s i turn => ?fetch, fun s c d rest => ?start⟩
  case fetch =>
    intro c x n
    have read : getCtx (fetchRead i s) c = _ := getCtx_fetchRead i s
    have back := getCtx_headWriteBack c (fetchRead i s)
    refine ⟨_, exec_descriptorFetch turn, ?next, ?count, fun k inRange => ?entry, rfl, ?headwb, fun a out => ?host,
      fun m other => ?others, ?frame⟩
    case next => rw [back, read]
    case count => rw [back, read, List.length_append, length_fetchDescs]
    case entry =>
      rw [back, read, List.getElem?_append_right (Nat.le_add_right ..), Nat.add_sub_cancel_left, fetchDescs_getElem? inRange]
      rfl
    case headwb =>
      have same : (getCtx (fetchRead i s) c).headwb = x.headwb := by rw [read]
      rw [back, hostRead_headWriteBack, same]
      exact (congrArg (hostRead _ _) (length_leBytes ..).symm).trans (hostRead_hostWrite ..)
    case host =>
      have same : (getCtx (fetchRead i s) c).headwb = x.headwb := by rw [read]
      rw [hostRead_headWriteBack, same]
      exact hostRead_hostWrite_out (length_leBytes ..) out _
    case others =>
      exact (getCtx_modCtx_ne c _ m other _).trans (getCtx_modCtx_ne c _ m other _)
    case frame =>
      obtain ⟨_, _, only⟩ := fetch_hostOnly c i s
      rw [only]
  case start =>
    intro x o waits latched ready h again front active free goes started begun
    have same : frontBegun s c d = begun := by
      have drop : (getCtx s c).fetched.drop 1 = rest := by rw [front]; rfl
      refine modCtx_congr ?_
      rw [drop]
      rfl
    have go (isReady : ready = true) := exec_descriptorStart_ready (s := s) front active free goes isReady
    rw [← same]
    refine ⟨fun isReady isAgain ok => ?again, fun isReady runs => ⟨fun clean may => ?begins, fun clean needs none => ?target,
      fun off st offends => ?offence⟩, fun waiting fresh fine short => ?waits, fun waiting unlatched error => ?fails⟩
    case again => rw [go isReady, startFront_again isAgain ok]; rfl
    case begins =>
      rw [go isReady, startFront_clean runs clean, if_neg]
      rw [Bool.and_eq_true, Bool.not_eq_true']
      rintro ⟨needs, none⟩
      rcases may with h | h
      · exact ne_true_of_eq_false h needs
      · exact ne_true_of_eq_false none h
    case target => rw [go isReady, startFront_clean runs clean, if_pos (by rw [needs, none]; rfl)]; rfl
    case offence => rw [go isReady, startFront_offends runs offends]; rfl
    case waits => exact exec_descriptorStart_short (s := s) front active free goes waiting fresh fine short
    case fails => exact exec_descriptorStart_error (s := s) front active free goes waiting unlatched error

end Sys2Proof.Machine
end

section
/-! PROOFS. CTX_CMD CREATE and QUERY, and the configuration registers of the functions (R253 to R257, R259, R292). -/

namespace Sys2Proof

/-- A table after the same change of each index of a list. -/
theorem SMap.get_foldl_upd {α : Type} [DecidableEq α] (d : α) {g : α → α} (twice : ∀ a, g (g a) = g a) (l : List Nat) (m : SMap α)
    (i : Nat) : SMap.get d (l.foldl (fun m f => SMap.upd d m f g) m) i =
      if i ∈ l then g (SMap.get d m i) else SMap.get d m i := by
  induction l generalizing m with
  | nil => simp
  | cons k l ih =>
    rw [List.foldl_cons, ih]
    by_cases here : i = k
    · subst here
      simp [twice]
    · simp [SMap.get_upd_ne d m k i g here, here]

end Sys2Proof

namespace Sys2Proof.Machine

/-! ### CREATE and QUERY (R257, R259, R292) -/

section Create
variable {s : State} {f : Fin 64} {c : Ctx} {read : HostReadEnd} (live : funcLive s f = true)
include live

theorem createCmd_failed (failed : createResult s f.val c read ≠ 0) :
    createCmd f c read s = setStatus f.val c (createResult s f.val c read)
      (if createResult s f.val c read = 3 then noteAer f.val read s else s) :=
  (if_neg (by simp [live])).trans (if_pos failed)

theorem createCmd_good (good : createResult s f.val c read = 0) :
    let x := createdContext s f (getCtx s c)
    createCmd f c read s = setStatus f.val c 0 (clearSync x.syncBase x.syncCount (modCtx c (fun _ => x) s)) :=
  (if_neg (by simp [live])).trans (if_neg (not_not_intro good))

end Create

theorem noteAer_good (f : Nat) (s : State) : noteAer f .good s = s := rfl

theorem noteAer_error {read : HostReadEnd} (error : read ≠ .good) (f : Nat) (s : State) :
    noteAer f read s = modHif (fun h => { h with aer := SMap.upd [] h.aer f (fun l => l ++ [read]) }) s :=
  if_neg error

theorem page_setStatus (f : Nat) (c : Ctx) (result : Nat) (s : State) :
    SMap.get FuncPage.init (setStatus f c result s).hif.pages f = { SMap.get FuncPage.init s.hif.pages f with
      statCtx := c, result := BitVec.ofNat 4 result, inRange := inFuncRange s f c.toNat } :=
  SMap.get_upd _ _ f (fun p : FuncPage => { p with statCtx := c, result := BitVec.ofNat 4 result, inRange := inFuncRange s f c.toNat })

/-- Objects of the run that is cleared read as at reset, the others as before. -/
theorem getSync_clearSync (base count : Nat) (s : State) (o : Nat) :
    getSync (clearSync base count s) o = if base ≤ o ∧ o < base + count then SyncObj.init else getSync s o := by
  split
  next inRun => exact SMap.get_filter_out SyncObj.init s.hif.sync _ o fun _ => by simp [inRun.1, inRun.2]
  next outside => exact SMap.get_filter SyncObj.init s.hif.sync _ o fun _ => by simp only [Bool.or_eq_true, decide_eq_true_eq]; omega

/-! ### The configuration of functions (R255, R256) -/

theorem mem_portVfs {s : State} {port : Fin 2} {g : Nat} (small : g < 64) :
    g ∈ portVfs s port ↔ g ≠ 0 ∧ fcPort (funcCfg s g) = port := by
  simp [portVfs, small]

/-- The state once VF Enable is set on a port. -/
def vfEnabledState (port : Fin 2) (s : State) : State :=
  modHif (fun h => { h with
    vfEnabled := SMap.set false h.vfEnabled port.val true, vfBar2 := SMap.set 1 h.vfBar2 port.val (vfPagesOf s port)
    pages := (portVfs s port).foldl (fun m f => SMap.upd FuncPage.init m f (fun p => { p with vfPages := vfPagesOf s port })) h.pages }) s

theorem exec_vfEnable {s : State} {port : Fin 2} (off : SMap.get false s.hif.vfEnabled port.val = false) :
    exec (.vfEnable port) s = .next (vfEnabledState port s) :=
  if_neg (ne_true_of_eq_false off)

theorem vfsOn_vfEnabledState (port : Fin 2) (s : State) : vfsOn (vfEnabledState port s) port.val = true :=
  SMap.get_set ..

theorem vfBar2Of_vfEnabledState (port : Fin 2) (s : State) : vfBar2Of (vfEnabledState port s) port = vfPagesOf s port :=
  (if_pos (vfsOn_vfEnabledState port s)).trans (SMap.get_set ..)

theorem vfPages_vfEnabledState (port : Fin 2) (s : State) {g : Nat} (small : g < 64) :
    (SMap.get FuncPage.init (vfEnabledState port s).hif.pages g).vfPages =
      if g ≠ 0 ∧ fcPort (funcCfg s g) = port then vfPagesOf s port else (SMap.get FuncPage.init s.hif.pages g).vfPages := by
  have pages := SMap.get_foldl_upd FuncPage.init (g := fun p => { p with vfPages := vfPagesOf s port }) (fun _ => rfl)
    (portVfs s port) s.hif.pages g
  refine (congrArg FuncPage.vfPages pages).trans ?_
  rw [if_congr (mem_portVfs small) rfl rfl]
  split <;> rfl

/-- Settles O32: CREATE by the result of its checks, QUERY, and the writes of HIF_FUNC_CFG and of VF Enable. -/
theorem contextsAndFunctions : Obligations.ContextsAndFunctions := by
  refine ⟨fun s f c read live => ?contexts, fun s f v port => ?functions⟩
  case contexts =>
    intro r q status
    refine ⟨fun failed quiet => ?failed, fun unread error => ?unread, fun good => ?good,
      congrArg Host.Outcome.next (if_neg (by simp [live]))⟩
    case failed =>
      refine congrArg Host.Outcome.next ((createCmd_failed live failed).trans (congrArg (setStatus f.val c r) ?_))
      split
      next three =>
        rcases quiet with other | rfl
        · exact absurd three other
        · exact noteAer_good f.val s
      next => rfl
    case unread =>
      have failed : r ≠ 0 := by rw [unread]; decide
      refine congrArg Host.Outcome.next ((createCmd_failed live failed).trans ?_)
      rw [if_pos unread, noteAer_error error, show createResult s f.val c read = 3 from unread]
      rfl
    case good =>
      intro x
      refine ⟨_, congrArg Host.Outcome.next (createCmd_good live good), getCtx_modCtx_same .., rfl, rfl, fun o => getSync_clearSync ..,
        fun m other => getCtx_modCtx_ne _ _ m other _, ?result, rfl⟩
      exact congrArg FuncPage.result (page_setStatus f.val c 0 _)
  case functions =>
    intro kept
    exact ⟨fun taken => congrArg Host.Outcome.next (if_neg (ne_true_of_eq_false taken)),
      fun refused => congrArg Host.Outcome.next (if_pos refused),
      fun off => ⟨_, exec_vfEnable off, vfsOn_vfEnabledState port s, vfBar2Of_vfEnabledState port s,
        fun g small => vfPages_vfEnabledState port s small, rfl, rfl, rfl⟩⟩

end Sys2Proof.Machine
end

section
/-! PROOFS. STEP_VOTE: what refuses it, the ABORT that it injects and the vote that it casts, and the votes of children (R304, R305,
R309). -/

namespace Sys2Proof.Machine

/-! ### Places in a list -/

theorem getElem?_of_placeOf {α : Type} {p : α → Bool} {l : List α} {i : Nat} {a : α} (place : placeOf p l = some i)
    (found : l.find? p = some a) : l[i]? = some a := by
  induction l generalizing i with
  | nil => cases found
  | cons b l ih =>
    by_cases hb : p b = true
    · simp only [placeOf, hb, if_true, Option.some.injEq] at place
      simp only [List.find?_cons, hb, Option.some.injEq] at found
      subst place found
      rfl
    · simp only [placeOf, hb, Bool.false_eq_true, if_false] at place
      obtain ⟨j, rest, rfl⟩ := Option.map_eq_some_iff.mp place
      simp only [List.find?_cons, hb] at found
      exact ih rest found

theorem getElem?_mapAt_same {α : Type} (f : α → α) {l : List α} {i : Nat} {a : α} (at_ : l[i]? = some a) :
    (mapAt f i l)[i]? = some (f a) := by
  induction l generalizing i with
  | nil => cases at_
  | cons b l ih =>
    cases i with
    | zero => exact congrArg (Option.map f) at_
    | succ i => exact ih at_

theorem mapAt_mapAt {α : Type} (f g : α → α) (i : Nat) (l : List α) : mapAt f i (mapAt g i l) = mapAt (fun a => f (g a)) i l := by
  induction l generalizing i with
  | nil => cases i <;> rfl
  | cons b l ih =>
    cases i with
    | zero => rfl
    | succ i => exact congrArg (b :: ·) (ih i)

/-- Changing a held step twice is one change. -/
theorem modHeld_modHeld (i : Nat) (f g : Held → Held) (s : State) :
    modHeld i f (modHeld i g s) = modHeld i (fun h => f (g h)) s := by
  simp only [modHeld, modStep, mapAt_mapAt]

/-! ### What the checks of a vote look at (R149, R304) -/

section Kept
variable (c : Ctx) (d : Desc) (s : State)

theorem getCtx_keepStarting : getCtx (keepStarting c d s) c =
    { getCtx s c with starting := none, started := (getCtx s c).started ++ [d] } :=
  getCtx_modCtx_same ..

theorem reaches_keepStarting (a len : Nat) : reaches (getCtx (keepStarting c d s) c) a len = reaches (getCtx s c) a len := by
  rw [getCtx_keepStarting]
  rfl

theorem posns_keepStarting : (getCtx (keepStarting c d s) c).posns = (getCtx s c).posns := by
  rw [getCtx_keepStarting]

variable {h : Held} (own : h.ctx = c) (mirror : Bool)
include own

theorem entryOk_keepStarting (raw : List Byte) : entryOk (keepStarting c d s) h mirror raw = entryOk s h mirror raw := by
  subst own
  simp only [entryOk, reaches_keepStarting]
  rfl

theorem validLists_keepStarting (umask : BitVec 8) (updl : SMap (BitVec 32)) :
    validLists (keepStarting c d s) h mirror umask updl = validLists s h mirror umask updl := by
  have entries : entryOk (keepStarting c d s) h mirror = entryOk s h mirror := funext (entryOk_keepStarting c d s own mirror)
  have list (n a : Nat) : validList (keepStarting c d s) h mirror n a = validList s h mirror n a := by
    simp only [validList, entries]
    rfl
  simp only [validLists, list, own, posns_keepStarting]

theorem contribution_keepStarting (w : BitVec 512) (lists : Option (SMap (List UpdEntry))) :
    contribution (keepStarting c d s) h w lists = contribution s h w lists := by
  subst own
  have shrunk : (getCtx (keepStarting h.ctx d s) h.ctx).shrunk = (getCtx s h.ctx).shrunk := by rw [getCtx_keepStarting]
  simp only [contribution, shrunk, posns_keepStarting]

end Kept

/-! ### STEP_VOTE (R304, R305) -/

/-- A held step as its STEP_VOTE leaves it, before the vote is cast (R304). -/
def votedStep (s : State) (h : Held) (d : Desc) : Held :=
  let umask := BitVec.ofNat 8 (dfld d.words 0x18 47 40)
  let lists := validLists s h s.pwr.modes.mirror umask (voteLists d.words)
  { h with
    umask := umask, updl := voteLists d.words, lists := lists.getD [], vote := some (contribution s h d.words lists).1
    mask := skipMask h, voteKey := some d.key, mirrored := s.pwr.modes.mirror }

/-- The contribution of a held step by its STEP_VOTE (R146). -/
def voteOf (s : State) (h : Held) (d : Desc) : Outcome3 × BitVec 8 :=
  contribution s h d.words
    (validLists s h s.pwr.modes.mirror (BitVec.ofNat 8 (dfld d.words 0x18 47 40)) (voteLists d.words))

/-- The held step once its vote is cast. -/
def castStep (s : State) (h : Held) (d : Desc) : Held :=
  { votedStep s h d with st := .cast, castAt := s.mgmt.ptb, recordSent := false }

section Vote
variable {s : State} {c : Ctx} {d : Desc} {i : Nat} {h : Held}

theorem opcode_of_startingOf {op : Nat} (starting : startingOf s c op = some d) : dOpcode d.words = op := by
  unfold startingOf at starting
  split at starting
  · split at starting
    next hop =>
      cases starting
      exact hop
    next => cases starting
  · cases starting

theorem exec_stepVote_refused (starting : startingOf s c 0x08 = some d) {status detail : Nat}
    (refused : voteRefusal s c d = some (status, detail)) :
    exec (.stepVote c) s = .next (finishStarting c d status detail s) := by
  show execStepVote c s = _
  simp only [execStepVote, starting, refused]

theorem exec_stepVote_starts (starting : startingOf s c 0x08 = some d) (good : voteRefusal s c d = none) :
    exec (.stepVote c) s = .next (tryVote c d (keepStarting c d s)) := by
  show execStepVote c s = _
  simp only [execStepVote, starting, good]

theorem voteRefusal_of_none (none_ : oldestUncast s = none) :
    voteRefusal s c d = some (stStepOrder, s.step.next.toNat % 2 ^ 32) := by
  simp only [voteRefusal, none_]

section Oldest
variable (oldest : oldestUncast s = some h)
include oldest

theorem voteRefusal_of_other (other : h.step ≠ BitVec.ofNat 64 (dfld d.words 0x10 63 0) ∨ h.ctx ≠ c) :
    voteRefusal s c d = some (stStepOrder, h.step.toNat % 2 ^ 32) := by
  simp only [voteRefusal, oldest]
  exact if_pos other

variable (step : h.step = BitVec.ofNat 64 (dfld d.words 0x10 63 0)) (own : h.ctx = c)
include step own

theorem voteRefusal_of_positions (outside : BitVec.ofNat 8 (dfld d.words 0x18 47 40) &&& (getCtx s c).posns ≠
    BitVec.ofNat 8 (dfld d.words 0x18 47 40)) : voteRefusal s c d = some (stBadTarget, 0x1D) := by
  simp only [voteRefusal, oldest]
  exact (if_neg fun other => other.elim (· step) (· own)).trans (if_pos outside)

theorem voteRefusal_of_good (inside : BitVec.ofNat 8 (dfld d.words 0x18 47 40) &&& (getCtx s c).posns =
    BitVec.ofNat 8 (dfld d.words 0x18 47 40)) : voteRefusal s c d = none := by
  simp only [voteRefusal, oldest]
  exact (if_neg fun other => other.elim (· step) (· own)).trans (if_neg (not_not_intro inside))

end Oldest

/-- A STEP_VOTE that has started casts at once where its step has no other descriptor. -/
theorem tryVote_of_alone (opcode : dOpcode d.words = 0x08) (place : placeOf uncast s.step.held = some i)
    (oldest : oldestUncast s = some h) (fresh : h.voteKey = none)
    (alone : ∀ e ∈ (getCtx s c).started, e.step ≠ some h.step) :
    tryVote c d (keepStarting c d s) = castVote d i h (keepStarting c d s) := by
  have ready : voteReady (keepStarting c d s) c d h.step = true := by
    rw [voteReady, getCtx_keepStarting, List.all_eq_true]
    intro e he
    rcases List.mem_append.mp he with started | added
    · simp [alone e started]
    · simp [List.mem_singleton.mp added, opcode]
  unfold tryVote
  rw [show placeOf uncast (keepStarting c d s).step.held = some i from place,
    show oldestUncast (keepStarting c d s) = some h from oldest]
  exact if_pos (by rw [fresh, ready]; rfl)

theorem castVote_abort (abort : (voteOf s h d).1 = .abort) : castVote d i h s = injectAbort i (voteOf s h d).2 s := by
  unfold voteOf at abort ⊢
  simp only [castVote, abort]

theorem castVote_casts (casts : (voteOf s h d).1 ≠ .abort) : castVote d i h s =
    sendStepRecord h.ctx i (votedStep s h d) (modHeld i (fun _ => votedStep s h d) s) := by
  cases vote : (voteOf s h d).1 with
  | abort => exact absurd vote casts
  | commit | skip =>
    unfold voteOf at vote
    simp only [castVote, votedStep, vote]

theorem voteOf_keepStarting (own : h.ctx = c) : voteOf (keepStarting c d s) h d = voteOf s h d := by
  unfold voteOf
  rw [contribution_keepStarting c d s own, show (keepStarting c d s).pwr = s.pwr from rfl, validLists_keepStarting c d s own]

theorem votedStep_keepStarting (own : h.ctx = c) : votedStep (keepStarting c d s) h d = votedStep s h d := by
  simp only [votedStep, show (keepStarting c d s).pwr = s.pwr from rfl, validLists_keepStarting c d s own,
    contribution_keepStarting c d s own]

end Vote

/-! ### The cast (R304, R305) -/

theorem settleRecords_of_not_follower {s : State} (leads : follower s = false) : settleRecords s = s := by
  refine if_neg fun following => ?_
  rw [follower, following] at leads
  cases leads

/-- A subtree vote waits while a child's is missing. -/
theorem tryTree_of_missing {s : State} {i r : Nat} {h : Held} (held : s.step.held[i]? = some h)
    (child : r ∈ childRanks (rankOf s h.ctx).toNat (rankTotal s h.ctx)) (missing : childVote s h r = none) : tryTree i s = s := by
  have fewer : ((childRanks (rankOf s h.ctx).toNat (rankTotal s h.ctx)).filterMap (childVote s h)).length <
      (childRanks (rankOf s h.ctx).toNat (rankTotal s h.ctx)).length :=
    lt_of_le_of_ne (List.length_filterMap_le ..) fun all => by
      have votes := List.filterMap_length_eq_length.mp all r child
      rw [missing] at votes
      cases votes
  simp only [tryTree, held, fewer, if_true, ite_self]

/-- The cast of a vote that waits for a child's: the step is CAST from now on. -/
theorem castNow_of_missing {s : State} {i r : Nat} {h : Held} (held : s.step.held[i]? = some h) (leads : follower s = false)
    (child : r ∈ childRanks (rankOf s h.ctx).toNat (rankTotal s h.ctx))
    (missing : childVote s { h with st := .cast, castAt := s.mgmt.ptb, recordSent := false } r = none) :
    castNow i s = modHeld i (fun h => { h with st := .cast, castAt := s.mgmt.ptb, recordSent := false }) s := by
  have cast := getElem?_mapAt_same (fun h : Held => { h with st := .cast, castAt := s.mgmt.ptb, recordSent := false }) held
  rw [castNow, tryTree_of_missing (s := modHeld i _ s) cast child missing]
  exact settleRecords_of_not_follower (s := modHeld i _ s) leads

/-! ### Votes of children (R305, R309) -/

section Child
variable {s : State} {msg : Tc0}

theorem exec_voteReceive_unknown (unknown : entryOfPid s msg.pid = none) (child : BitVec 14) :
    exec (.voteReceive child msg) s = .next (dropTc0 s) := by
  show Host.Outcome.next (voteArrives child msg s) = _
  simp only [voteArrives, stepCtxOf, unknown, Option.map_none]

section Known
variable {k : Nat} (entry : entryOfPid s msg.pid = some k) (child : BitVec 14)
include entry

theorem exec_voteReceive_stale (stale : staleVote s msg = true) : exec (.voteReceive child msg) s = .next s := by
  show Host.Outcome.next (voteArrives child msg s) = _
  simp only [voteArrives, stepCtxOf, entry, Option.map_some, stale, if_true]

/-- A vote for a step that is not held yet waits for it. -/
theorem exec_voteReceive_unheld (live : staleVote s msg = false) (unheld : heldPlace s msg.step = none) :
    exec (.voteReceive child msg) s = .next (keepVote child false msg s) := by
  show Host.Outcome.next (voteArrives child msg s) = _
  have still : heldPlace (keepVote child false msg s) msg.step = none := unheld
  simp only [voteArrives, stepCtxOf, entry, Option.map_some, live, Bool.false_eq_true, if_false, still]

end Known

end Child

/-- Settles O35: a STEP_VOTE by what refuses it or by its contribution, and a vote of a child by its partition and its step. -/
theorem votesAreCast : Obligations.VotesAreCast := by
  intro s c d i r h child msg w n umask mirror lists vote voted cast kept at_
  refine ⟨fun starting absent => exec_stepVote_refused starting (voteRefusal_of_none absent),
    fun starting place oldest => ⟨fun other => exec_stepVote_refused starting (voteRefusal_of_other oldest other),
      fun step own outside => exec_stepVote_refused starting (voteRefusal_of_positions oldest step own outside),
      fun step own inside fresh alone => ?votes⟩, fun place => ?acked, fun unknown => exec_voteReceive_unknown unknown child,
    fun k entry => ⟨exec_voteReceive_stale entry child, exec_voteReceive_unheld entry child⟩⟩
  case votes =>
    have runs : exec (.stepVote c) s = .next (castVote d i h kept) :=
      (exec_stepVote_starts starting (voteRefusal_of_good oldest step own inside)).trans
        (congrArg _ (tryVote_of_alone (opcode_of_startingOf starting) place oldest fresh (by rw [step]; exact alone)))
    have sameVote : voteOf kept h d = vote := voteOf_keepStarting own
    have sameStep : votedStep kept h d = voted := votedStep_keepStarting own
    have held : kept.step.held[i]? = some h := getElem?_of_placeOf place oldest
    have sends (casts : vote.1 ≠ .abort) : exec (.stepVote c) s = .next (sendStepRecord c i voted (modHeld i (fun _ => voted) kept)) := by
      rw [runs, castVote_casts (by rw [sameVote]; exact casts), sameStep, own]
    refine ⟨fun abort => ?abort, fun casts unmirrored leads rank missing => ?cast, fun casts on mirrored => ?mirror⟩
    case abort => rw [runs, castVote_abort (by rw [sameVote]; exact abort), sameVote]
    case cast =>
      have direct : sendStepRecord c i voted (modHeld i (fun _ => voted) kept) =
          castNow i (memWrite at_ (stepRecord voted) (modHeld i (fun _ => voted) kept)) := by
        refine if_neg fun sent => ?_
        rw [Bool.and_eq_true] at sent
        rcases unmirrored with off | nowhere
        · exact ne_true_of_eq_false off sent.1
        · exact ne_true_of_eq_false nowhere sent.2
      rw [← own] at rank
      rw [sends casts, direct, castNow_of_missing (s := memWrite at_ (stepRecord voted) (modHeld i (fun _ => voted) kept))
        (getElem?_mapAt_same (fun _ => voted) held) leads rank missing]
      exact congrArg (fun t => Host.Outcome.next (memWrite at_ (stepRecord voted) t)) (modHeld_modHeld ..)
    case mirror =>
      rw [sends casts]
      refine congrArg Host.Outcome.next (if_pos ?_)
      rw [Bool.and_eq_true]
      exact ⟨on, mirrored⟩
  case acked => simp only [recordAcked, place]

end Sys2Proof.Machine
end

section
/-! PROOFS. What the package sends leaves of the state, and the owner and partner roles of a commit (R294, R301, R311, R312). -/

namespace Sys2Proof.Machine

open Sys2Proof.Laws

/-! ### What leaves the package (R230, R232, R237, R345) -/

/-- A reading of the state that no packet and no message that leaves the package changes. -/
def BlindToSends {β : Type} (g : State → β) : Prop :=
  ∀ s ports tc0 sent drop, g { s with fab := { s.fab with ports := ports, tc0 := tc0, sent := sent, drop := drop } } = g s

section Sends
variable {β : Type} {g : State → β} (blind : BlindToSends g)
include blind

theorem BlindToSends.sendOn (port : Nat) (p : Packet) (s : State) : g (sendOn port p s) = g s := by
  unfold Machine.sendOn
  split
  · rfl
  · exact blind s _ s.fab.tc0 _ s.fab.drop

theorem BlindToSends.sendPacket (e : Part) (k dst : Nat) (p : Packet) (s : State) : g (sendPacket e k dst p s) = g s := by
  unfold Machine.sendPacket
  dsimp only
  split
  · rfl
  · split
    · exact blind s s.fab.ports s.fab.tc0 s.fab.sent _
    · exact blind.sendOn ..

theorem BlindToSends.sendTc0To (e : Part) (dst : Nat) (msg : Tc0) (s : State) : g (sendTc0To e dst msg s) = g s := by
  unfold Machine.sendTc0To
  split
  · rfl
  · exact (blind.sendPacket ..).trans (blind s s.fab.ports _ s.fab.sent s.fab.drop)

theorem BlindToSends.sendFence (fop : Nat) (step : BitVec 64) (attempt : BitVec 4) (rest : Nat) (s : State) :
    g (sendFence fop step attempt rest s) = g s := by
  unfold Machine.sendFence
  split
  · exact blind.sendTc0To ..
  · rfl

theorem BlindToSends.sendRange (kind : StepCopy) (c : Ctx) (dst a len at_ : Nat) (s : State) :
    g (sendRange kind c dst a len at_ s) = g s := by
  unfold Machine.sendRange
  split
  · rfl
  · exact forAll_keeps g (fun _ _ t => blind.sendPacket ..) s

theorem BlindToSends.sendFollower (free : ∀ s n, g { s with free := n } = g s) (c : Ctx) (bs : List Byte) (s : State) :
    g (sendFollower c bs s) = g s := by
  unfold Machine.sendFollower
  split
  · exact (blind.sendPacket ..).trans (free ..)
  · rfl

end Sends

/-! ### What a commit writes (R151, R294, R311, R357) -/

section Commits
variable {β : Type} {g : State → β} (blind : ∀ s mem failed, g { s with mem := mem, failed := failed } = g s)
include blind

theorem writeWorking_keeps (e : UpdEntry) (b : Nat) (s : State) : g (writeWorking e b s) = g s := blind ..

theorem writeBs16_keeps (a n b : Nat) (vs : List (BitVec 32)) (s : State) : g (writeBs16 a n b vs s) = g s :=
  (blind ..).trans (blind ..)

theorem writePulled_keeps (p : Nat → Bool) (l : List (Nat × Byte)) (s : State) : g (writePulled p l s) = g s :=
  forAll_keeps g (fun _ _ _ => blind ..) s

theorem commitBlock_keeps (owner : Bool) (e : UpdEntry) (ec : Int) (b : Nat) (s : State) :
    g (commitBlock owner e ec b s) = g s := by
  have written (vs ws : List (BitVec 32)) (bs : List Byte) : g (memWrite (e.w + 4096 * b) bs (if isAdamw e then
      writeBs16 e.v e.elements b ws (writeBs16 e.m e.elements b vs s) else writeBs16 e.m e.elements b vs s)) = g s := by
    refine (blind ..).trans ?_
    split
    · exact (writeBs16_keeps blind ..).trans (writeBs16_keeps blind ..)
    · exact writeBs16_keeps blind ..
  unfold commitBlock
  dsimp only
  split
  · exact (writeWorking_keeps blind ..).trans (written ..)
  · exact written ..

theorem commitOrPull_keeps (owner : Bool) (ms : List CommitMiss) (n i : Nat) (e : UpdEntry) (ec : Int) (b : Nat) (s : State) :
    g (commitOrPull owner ms n i e ec b s) = g s := by
  unfold commitOrPull
  split
  · exact commitBlock_keeps blind ..
  · split
    · rfl
    · dsimp only
      split
      · exact (writeWorking_keeps blind ..).trans (writePulled_keeps blind ..)
      · exact writePulled_keeps blind ..

theorem commitEntry_keeps (owner : Bool) (ms : List CommitMiss) (n i : Nat) (e : UpdEntry) (s : State) :
    g (commitEntry owner ms n i e s) = g s := by
  unfold commitEntry
  dsimp only
  split
  · split
    · rfl
    · split
      · exact (forAll_keeps g (fun _ _ _ => writeWorking_keeps blind ..) _).trans (writePulled_keeps blind ..)
      · exact writePulled_keeps blind ..
  · exact (blind ..).trans (forAll_keeps g (fun _ _ _ => commitOrPull_keeps blind ..) s)

theorem commitList_keeps (owner : Bool) (ms : List CommitMiss) (t : Option VariantTable) (mask : BitVec 1024) (n : Nat)
    (l : List UpdEntry) (s : State) : g (commitList owner ms t mask n l s) = g s := by
  refine forAll_keeps g (fun q _ u => ?_) s
  split
  · exact commitEntry_keeps blind ..
  · rfl

end Commits

theorem readAhead_keeps {β : Type} {g : State → β} (blind : ∀ s bank n, g { s with bank := bank, free := n } = g s)
    (areas : List (Nat × Nat)) (s : State) : g (readAhead areas s) = g s := by
  unfold readAhead
  split
  · rfl
  · dsimp only
    split
    · rfl
    · split
      · exact blind s _ (s.free + 1)
      · exact blind s _ s.free

/-- A commit changes memory and counts what is read ahead of it. -/
theorem commitLists_keeps {β : Type} {g : State → β} (blind : ∀ s mem failed, g { s with mem := mem, failed := failed } = g s)
    (ahead : ∀ s bank n, g { s with bank := bank, free := n } = g s) (owner : Bool) (ms : List CommitMiss)
    (t : Option VariantTable) (mask : BitVec 1024) (lists : SMap (List UpdEntry)) (s : State) :
    g (commitLists owner ms t mask lists s) = g s :=
  (forAll_keeps g (fun _ _ _ => commitList_keeps blind ..) _).trans (readAhead_keeps ahead ..)

/-! ### What a boundary leaves (R172 to R174, R319, R344, R357) -/

/-- What the boundary of a step leaves: memory, the cells and their programs, and the step engine but for its audits. -/
def boundaryView (s : State) : Mem × SMap Cell × SMap (BitVec 64) × StepEng :=
  (s.mem, s.cells, s.prog, { s.step with audit := none, peerAudit := none, auditMismatch := 0 })

theorem boundaryView_blindToSends : BlindToSends boundaryView := fun _ _ _ _ _ => rfl

@[simp] theorem boundaryView_sendRange (kind : StepCopy) (c : Ctx) (dst a len at_ : Nat) (s : State) :
    boundaryView (sendRange kind c dst a len at_ s) = boundaryView s :=
  boundaryView_blindToSends.sendRange ..

@[simp] theorem boundaryView_completeKey (c : Ctx) (key status detail requester : Nat) (s : State) :
    boundaryView (completeKey c key status detail requester s) = boundaryView s := by
  obtain ⟨_, _, only⟩ := completeKey_hostOnly c key status detail requester s
  rw [only]
  rfl

@[simp] theorem boundaryView_audits (f : StepEng → Option Audit) (g : StepEng → Option Audit) (h : StepEng → BitVec 16) (s : State) :
    boundaryView (modStep (fun e => { e with audit := f e, peerAudit := g e, auditMismatch := h e }) s) = boundaryView s := rfl

@[simp] theorem boundaryView_raise (code : EventCode) (src : BitVec 12) (a : EvArgs) (s : State) :
    boundaryView (raise code src a s) = boundaryView s := rfl

/-- A group that differs: it is counted, raised and sent again (R319). -/
def groupResent (a : Audit) (e : MirEntry) (g : Nat) (s : State) : State :=
  let r := groupArea e.own e.length g
  let t := raise 0x0704 (hubUnit 1) { ctx := some a.ctx }
    (modStep (fun t => { t with auditMismatch := satUp t.auditMismatch 1 }) s)
  match mirrorPartner t with
  | some p => sendRange .group a.ctx p r.1 r.2 (e.mir + (r.1 - e.own)) t
  | none => t

/-- A group that is compared counts, and one that differs is sent again as well (R319). -/
def groupCompared (a : Audit) (e : MirEntry) (g : Nat) (same : Bool) (s : State) : State :=
  let t := modAudit (fun a => { a with compared := a.compared + 1, differed := a.differed + (if same then 0 else 1) }) s
  if same then t else groupResent a e g t

/-- A comparison of a group whose digests both sides have given; the last one completes the AUDIT. -/
theorem compareGroup_eq {s : State} {g : Nat} {a : Audit} {ds : List (BitVec 64)} {d : BitVec 64} {e : MirEntry}
    (audit : s.step.audit = some a) (own : a.digests = some ds) (theirs : SMap.get none a.theirs g = some d)
    (entry : SMap.get none s.step.entries a.entry = some e) :
    let same := decide (ds.getD (g - a.first) 0 = d)
    compareGroup g s = if a.compared + 1 = a.groups then
        completeKey a.ctx a.key stOk (a.differed + (if same then 0 else 1)) 10
          (modStep (fun t => { t with audit := none }) (groupCompared a e g same s))
      else groupCompared a e g same s := by
  simp only [compareGroup, audit, own, theirs, entry]
  rfl

@[simp] theorem boundaryView_groupResent (a : Audit) (e : MirEntry) (g : Nat) (s : State) :
    boundaryView (groupResent a e g s) = boundaryView s := by
  unfold groupResent
  dsimp only
  split
  · exact boundaryView_sendRange ..
  · rfl

@[simp] theorem boundaryView_groupCompared (a : Audit) (e : MirEntry) (g : Nat) (same : Bool) (s : State) :
    boundaryView (groupCompared a e g same s) = boundaryView s := by
  unfold groupCompared
  dsimp only
  split
  · rfl
  · exact boundaryView_groupResent ..

theorem boundaryView_compareGroup (g : Nat) (s : State) : boundaryView (compareGroup g s) = boundaryView s := by
  cases audit : s.step.audit with
  | none => simp only [compareGroup, audit]
  | some a =>
    by_cases given : ∃ ds d e, a.digests = some ds ∧ SMap.get none a.theirs g = some d ∧
        SMap.get none s.step.entries a.entry = some e
    · obtain ⟨ds, d, e, own, theirs, entry⟩ := given
      rw [compareGroup_eq audit own theirs entry]
      split
      · exact (boundaryView_completeKey ..).trans (boundaryView_groupCompared ..)
      · exact boundaryView_groupCompared ..
    · unfold compareGroup
      split
      · rfl
      · rename_i b same
        obtain rfl : b = a := Option.some.inj (same.symm.trans audit)
        split
        · exact absurd ⟨_, _, _, ‹_›, ‹_›, ‹_›⟩ given
        · rfl

@[simp] theorem boundaryView_auditBoundary (step : BitVec 64) (s : State) : boundaryView (auditBoundary step s) = boundaryView s := by
  unfold auditBoundary
  split
  · rfl
  · split
    · exact (forAll_keeps boundaryView (fun _ _ _ => boundaryView_compareGroup ..) _).trans rfl
    · rfl

theorem boundaryView_sendFollower (c : Ctx) (bs : List Byte) (s : State) : boundaryView (sendFollower c bs s) = boundaryView s :=
  boundaryView_blindToSends.sendFollower (fun _ _ => rfl) ..

theorem boundaryView_sendShadowState (c : Ctx) (s : State) : boundaryView (sendShadowState c s) = boundaryView s := by
  unfold sendShadowState
  split
  · rfl
  · split
    · rfl
    · exact (boundaryView_sendFollower ..).trans (forAll_keeps boundaryView (fun _ _ _ => boundaryView_sendRange ..) s)

theorem boundaryView_atBoundary (c : Ctx) (step : BitVec 64) (s : State) : boundaryView (atBoundary c step s) = boundaryView s :=
  (boundaryView_sendShadowState ..).trans ((boundaryView_auditBoundary ..).trans rfl)

theorem boundaryView_peerAuditBoundary (step : BitVec 64) (s : State) :
    boundaryView (peerAuditBoundary step s) = boundaryView s := by
  unfold peerAuditBoundary
  split
  · rfl
  · split
    · exact (boundaryView_audits ..).trans (forAll_keeps boundaryView (fun _ _ _ => boundaryView_blindToSends.sendFence ..) s)
    · rfl

theorem boundaryView_sendDigests (h : Held) (s : State) : boundaryView (sendDigests h s) = boundaryView s := by
  unfold sendDigests
  split
  · exact boundaryView_sendFollower ..
  · rfl

theorem boundaryView_signalCsync (s : State) : boundaryView (signalCsync s) = boundaryView s := by
  unfold signalCsync
  split <;> rfl

/-! ### The roles (R294, R301, R311, R312) -/

/-- A package that owes no pull sends none. -/
theorem tryPull_of_no_pull {s : State} (none_ : s.step.pullFor = false) : tryPull s = s := by
  unfold tryPull
  split
  · rfl
  · rw [none_]
    rfl

/-- The state once the lists of a step have run in the owner role, with the step's number and cursor. -/
def ownerWritten (i : Nat) (h : Held) (s : State) : State :=
  modHeld i (fun k => { k with ownerDone := true })
    (modStep (fun e => { e with number := h.step + 1, cursor := e.cursor + BitVec.ofNat 64 h.inbytes })
      (commitLists true [] h.variant h.mask h.lists s))

theorem exec_ownerRoleDone {s : State} {i : Nat} {h : Held} (place : placeOf (fun h => decide (h.st = .committing) && !h.ownerDone)
    s.step.held = some i) (held : s.step.held[i]? = some h) (alone : s.step.peerSteps = []) (misses : List CommitMiss) :
    exec (.ownerRoleDone misses) s = .next (ownerRole i misses h s) := by
  show execOwnerRoleDone misses s = _
  simp [execOwnerRoleDone, place, held, alone]

theorem commitLists_step (owner : Bool) (ms : List CommitMiss) (t : Option VariantTable) (mask : BitVec 1024)
    (lists : SMap (List UpdEntry)) (s : State) : (commitLists owner ms t mask lists s).step = s.step :=
  commitLists_keeps (g := State.step) (fun _ _ _ => rfl) (fun _ _ _ => rfl) ..

theorem commitLists_cells (owner : Bool) (ms : List CommitMiss) (t : Option VariantTable) (mask : BitVec 1024)
    (lists : SMap (List UpdEntry)) (s : State) :
    (commitLists owner ms t mask lists s).cells = s.cells ∧ (commitLists owner ms t mask lists s).prog = s.prog :=
  ⟨commitLists_keeps (g := State.cells) (fun _ _ _ => rfl) (fun _ _ _ => rfl) ..,
    commitLists_keeps (g := State.prog) (fun _ _ _ => rfl) (fun _ _ _ => rfl) ..⟩

theorem step_of_boundaryView {s t : State} (same : boundaryView t = boundaryView s) :
    t.step.held = s.step.held ∧ t.step.number = s.step.number ∧ t.step.cursor = s.step.cursor ∧ t.step.next = s.step.next ∧
      t.step.skipQ = s.step.skipQ ∧ t.step.pullFor = s.step.pullFor ∧ t.step.peerNumber = s.step.peerNumber ∧
      t.step.peerCursor = s.step.peerCursor := by
  exact ⟨congrArg (·.2.2.2.held) same, congrArg (·.2.2.2.number) same, congrArg (·.2.2.2.cursor) same,
    congrArg (·.2.2.2.next) same, congrArg (·.2.2.2.skipQ) same, congrArg (·.2.2.2.pullFor) same,
    congrArg (·.2.2.2.peerNumber) same, congrArg (·.2.2.2.peerCursor) same⟩

theorem step_ownerWritten (i : Nat) (h : Held) (s : State) : (ownerWritten i h s).step = { s.step with
    held := mapAt (fun k => { k with ownerDone := true }) i s.step.held, number := h.step + 1
    cursor := s.step.cursor + BitVec.ofNat 64 h.inbytes } := by
  simp only [ownerWritten, modHeld, modStep_step, commitLists_step]

/-- The owner role of a step that is not mirrored, with no SKIP and no pull waiting: what it has written, past the boundary. -/
theorem ownerRole_eq {s : State} {h : Held} (unmirrored : h.mirrored = false) (noSkip : s.step.skipQ = [])
    (noPull : s.step.pullFor = false) (i : Nat) :
    ∃ u, boundaryView u = boundaryView (ownerWritten i h s) ∧ ownerRole i [] h s = releaseEmber u := by
  let u := atBoundary h.ctx h.step (sendDigests h (signalCsync (ownerWritten i h s)))
  have view : boundaryView u = boundaryView (ownerWritten i h s) :=
    (boundaryView_atBoundary ..).trans ((boundaryView_sendDigests ..).trans (boundaryView_signalCsync _))
  obtain ⟨-, -, -, -, skips, pulls, -, -⟩ := step_of_boundaryView view
  rw [step_ownerWritten] at skips pulls
  refine ⟨u, view, ?_⟩
  have role : ownerRole i [] h s = tryPull (settleSkips u.step.skipQ.length (releaseEmber u)) := by
    simp only [ownerRole, unmirrored]
    rfl
  rw [role, skips, noSkip]
  exact tryPull_of_no_pull (s := releaseEmber u) (pulls.trans noPull)

/-- What the partner role of a step writes: its lists but for a SKIP, and the partner's number and cursor. -/
def partnerWritten (p : PeerStep) (rec1 : List Byte) (s : State) : State :=
  modStep (fun e => { e with
    peerNumber := p.step + 1, peerCursor := e.peerCursor + BitVec.ofNat 64 (leAt rec1 0x10 8)
    peerSteps := e.peerSteps.map (fun q => if q.step = p.step then { q with partnerDone := true } else q) })
    (if p.skip then s else commitLists false [] none p.mask (peerLists s rec1) s)

/-- What the partner role writes, as the end of the role leaves it: all but the partner's steps, which it releases. -/
def partnerView (s : State) : Mem × List Held × BitVec 64 × BitVec 64 × BitVec 64 × Bool :=
  (s.mem, s.step.held, s.step.number, s.step.peerNumber, s.step.peerCursor, s.step.pullFor)

theorem partnerView_of_boundaryView {s t : State} (same : boundaryView t = boundaryView s) : partnerView t = partnerView s :=
  congrArg (fun v => (v.1, v.2.2.2.held, v.2.2.2.number, v.2.2.2.peerNumber, v.2.2.2.peerCursor, v.2.2.2.pullFor)) same

theorem partnerView_partnerWritten (p : PeerStep) (rec1 : List Byte) (s : State) : partnerView (partnerWritten p rec1 s) =
    ((if p.skip then s.mem else (commitLists false [] none p.mask (peerLists s rec1) s).mem), s.step.held, s.step.number, p.step + 1,
      s.step.peerCursor + BitVec.ofNat 64 (leAt rec1 0x10 8), s.step.pullFor) := by
  unfold partnerWritten
  split
  · rfl
  · simp only [partnerView, modStep_step, modStep_mem, commitLists_step]

/-- The partner role of a step with no pull waiting leaves what it has written, past the audit's boundary. -/
theorem partnerView_partnerRole {s : State} (noPull : s.step.pullFor = false) (p : PeerStep) (record : Nat) :
    partnerView (partnerRole p record none [] s) = partnerView (partnerWritten p (memRead s record 64) s) := by
  let w := partnerWritten p (memRead s record 64) s
  let sent := sendFence 9 p.step (BitVec.ofNat 4 (leAt (memRead s record 64) 8 1 % 16)) 0 w
  have role : partnerRole p record none [] s = tryPull (if p.skip then peerAuditBoundary p.step (releasePeers w)
      else releasePeers (peerAuditBoundary p.step sent)) := by
    cases skip : p.skip <;> simp only [partnerRole, w, sent, partnerWritten, skip] <;> rfl
  have view : partnerView (if p.skip then peerAuditBoundary p.step (releasePeers w)
      else releasePeers (peerAuditBoundary p.step sent)) = partnerView w := by
    split
    · exact partnerView_of_boundaryView (s := releasePeers w) (boundaryView_peerAuditBoundary ..)
    · exact partnerView_of_boundaryView (t := peerAuditBoundary p.step sent)
        ((boundaryView_peerAuditBoundary ..).trans (boundaryView_blindToSends.sendFence ..))
  have owes := congrArg (·.2.2.2.2.2) (view.trans (partnerView_partnerWritten p (memRead s record 64) s))
  rw [role, tryPull_of_no_pull (owes.trans noPull), view]

/-- Settles O37: the owner role past its boundary, the partner role by what it writes, and the waits of the partner role. -/
theorem commitRoles : Obligations.CommitRoles := by
  intro s i h p record rec1
  refine ⟨fun place held alone unmirrored noSkip noPull => ?owner, fun first isRecord early resend noPull => ?partner,
    fun waits first => ?waits⟩
  case owner =>
    obtain ⟨u, view, role⟩ := ownerRole_eq (h := h) unmirrored noSkip noPull i
    obtain ⟨steps, number, cursor, next, -, -, -, -⟩ := step_of_boundaryView view
    rw [step_ownerWritten] at steps number cursor next
    obtain ⟨cells, prog⟩ := commitLists_cells true [] h.variant h.mask h.lists s
    refine ⟨releaseEmber u, (exec_ownerRoleDone place held alone []).trans (congrArg _ role), number, cursor, ?_, next, ?_, ?_, ?_⟩
    · rw [releaseEmber, modStep_step, steps]
    · exact congrArg (·.1) view
    · exact (congrArg (·.2.1) view).trans cells
    · exact (congrArg (·.2.2.1) view).trans prog
  case partner =>
    have view := (partnerView_partnerRole noPull p record.toNat).trans (partnerView_partnerWritten p rec1 s)
    refine ⟨partnerRole p record.toNat none [] s, ?_, congrArg (·.2.2.2.1) view, congrArg (·.2.2.2.2.1) view,
      congrArg (·.2.2.1) view, congrArg (·.2.1) view, congrArg (·.1) view⟩
    show execPartnerRoleDone record none [] s = _
    simp [execPartnerRoleDone, first, isRecord, early, resend]
  case waits =>
    show execPartnerRoleDone record none [] s = _
    rcases waits with other | again
    · simp [execPartnerRoleDone, first, other]
    · simp [execPartnerRoleDone, first, again]

end Sys2Proof.Machine
end

section
/-! PROOFS. MIRROR descriptors, and the FENCE messages of pairing, mapping and auditing (R302, R303, R311, R312, R319). -/

namespace Sys2Proof.Machine

/-! ### MIRROR descriptors (R302, R303, R319) -/

section Mirror
variable {s : State} {c : Ctx} {d : Desc} (starting : startingOf s c 0x09 = some d)
include starting

theorem startingMirror_of_op {op : Nat} (hop : dfld d.words 0x10 3 0 = op) : startingMirror s c op = some d := by
  simp [startingMirror, starting, hop]

section Busy
variable (holds : s.step.held.any (fun h => h.ctx == c) = true)
include holds

theorem exec_mirrorMap_busy (hop : dfld d.words 0x10 3 0 = 1) : exec (.mirrorMap c) s = .next (refuseBusy c d s) := by
  show execMirrorMap c s = _
  simp only [execMirrorMap, startingMirror_of_op starting hop, mirrorBusy, holds, Bool.true_or, if_true]

theorem exec_mirrorUnmap_busy (hop : dfld d.words 0x10 3 0 = 2) : exec (.mirrorUnmap c) s = .next (refuseBusy c d s) := by
  show execMirrorUnmap c s = _
  simp only [execMirrorUnmap, startingMirror_of_op starting hop, mirrorBusy, holds, Bool.true_or, if_true]

theorem exec_mirrorFill_busy (hop : dfld d.words 0x10 3 0 = 3) : exec (.mirrorFill c) s = .next (refuseBusy c d s) := by
  show execMirrorFill c s = _
  simp only [execMirrorFill, startingMirror_of_op starting hop, mirrorBusy, holds, Bool.true_or, if_true]

theorem exec_mirrorAudit_busy (hop : dfld d.words 0x10 3 0 = 4) : exec (.mirrorAudit c) s = .next (refuseBusy c d s) := by
  show execMirrorAudit c s = _
  simp only [execMirrorAudit, startingMirror_of_op starting hop, mirrorBusy, holds, Bool.true_or, if_true]

end Busy

section Free
variable (noStep : s.step.held.any (fun h => h.ctx == c) = false)
include noStep

section Off
variable (off : s.pwr.modes.mirror = false)
include off

/-- A MAP of a context that has paired the package goes on as `sendMap`. -/
theorem exec_mirrorMap_paired (hop : dfld d.words 0x10 3 0 = 1) (idle : liveMap s = none)
    (paired : s.step.pairedCtx = some (c, (getCtx s c).gen)) :
    let w : MapWait :=
      { ctx := c, key := d.key, entry := dfld d.words 0x10 11 8, pairing := true, since := s.mgmt.ptb
        e := { own := dfld d.words 0x18 47 0, mir := dfld d.words 0x20 47 0, length := dfld d.words 0x28 39 0 } }
    exec (.mirrorMap c) s = .next (sendMap w (keepStarting c d (modStep (fun t => { t with mapWait := some w }) s))) := by
  show execMirrorMap c s = _
  have by_ : pairedBy s c = true := decide_eq_true paired
  simp [execMirrorMap, startingMirror_of_op starting hop, mirrorBusy, noStep, off, idle, by_]

theorem exec_mirrorUnmap (hop : dfld d.words 0x10 3 0 = 2) : exec (.mirrorUnmap c) s =
    .next (finishStarting c d stOk 0 (sendFence 7 0 0 (mapRest (dfld d.words 0x10 11 8) 0 0 0)
      (modStep (fun t => { t with
        mirror := if s.step.mirror = .unpaired then .unpaired else .paired
        entries := SMap.set none t.entries (dfld d.words 0x10 11 8) none }) s))) := by
  show execMirrorUnmap c s = _
  simp only [execMirrorUnmap, startingMirror_of_op starting hop, mirrorBusy, noStep, off, Bool.false_or, Bool.false_and,
    Bool.false_eq_true, if_false]
  rfl

theorem exec_mirrorFill (hop : dfld d.words 0x10 3 0 = 3) (idle : liveFill s = none) : exec (.mirrorFill c) s =
    .next (finishFill (sendFill c (keepStarting c d (modStep (fun t => { t with
      fill := some { ctx := c, key := d.key, left := fillPackets s c }
      mirror := if t.mirror = .unpaired then .unpaired else .filling }) s)))) := by
  show execMirrorFill c s = _
  simp [execMirrorFill, startingMirror_of_op starting hop, mirrorBusy, noStep, off, idle]

end Off

section Audits
variable (hop : dfld d.words 0x10 3 0 = 4) (idle : s.step.audit = none) {e : MirEntry}
  (entry : SMap.get none s.step.entries (dfld d.words 0x10 11 8) = some e)
include hop idle entry

/-- An AUDIT of an entry: outside the entry it fails, and of no byte it completes at once. -/
theorem exec_mirrorAudit : exec (.mirrorAudit c) s =
    let n := dfld d.words 0x10 11 8
    let own := dfld d.words 0x18 47 0
    let len := dfld d.words 0x28 39 0
    let first := (own - e.own) / groupBytes
    let count := ((own - e.own) + len + groupBytes - 1) / groupBytes - first
    if own < e.own ∨ e.own + e.length < own + len then .next (finishStarting c d stBadTarget 0x18 s)
    else if len = 0 then .next (finishStarting c d stOk 0 s)
    else .next (sendFence 10 (auditStep s) 0 (auditRest n first count) (keepStarting c d (modStep (fun t => { t with
      audit := some { ctx := c, key := d.key, step := auditStep s, entry := n, first := first, groups := count, compared := 0
                      differed := 0, digests := none, theirs := [] } }) s))) := by
  show execMirrorAudit c s = _
  simp only [execMirrorAudit, startingMirror_of_op starting hop, mirrorBusy, noStep, idle, entry]
  simp

end Audits
end Free
end Mirror

theorem sendMap_conflict {w : MapWait} {s : State} (conflict : mapConflict s w.ctx w.entry w.e = true) :
    sendMap w s = refuseMap w 8 s :=
  if_pos conflict

theorem sendMap_free {w : MapWait} {s : State} (free : mapConflict s w.ctx w.entry w.e = false) : sendMap w s =
    sendFence 4 0 0 (mapRest w.entry w.e.own w.e.mir w.e.length)
      (modStep (fun t => { t with mapWait := some { w with pairing := false } }) s) :=
  if_neg (ne_true_of_eq_false free)

/-- The last acknowledgement of a FILL completes it and leaves SYNCED (R303; log entry 49). -/
theorem fillAcked_last {s : State} {f : FillRun} (live : liveFill s = some f) (last : f.left = 1)
    (filling : s.step.mirror = .filling) : fillAcked s = completeKey f.ctx f.key stOk 0 10
      (modStep (fun t => { t with fill := none, mirror := .synced }) s) := by
  obtain ⟨run, started⟩ := Option.filter_eq_some_iff.mp live
  have acked : liveFill (modStep (fun e => { e with fill := e.fill.map (fun f => { f with left := f.left - 1 }) }) s) =
      some { f with left := 0 } := by
    refine Option.filter_eq_some_iff.mpr ⟨?_, started⟩
    rw [modStep_step, run, Option.map_some, last]
  rw [fillAcked, finishFill, acked]
  simp [modStep, filling]

/-- Settles O39: MIRROR by OP, turned away while the context holds a step, and the last acknowledgement of a FILL. -/
theorem mirrorDescriptors : Obligations.MirrorDescriptors := by
  intro s c d e w n own len op noStep busy still wait map1 first count audit starting
  refine ⟨fun holds => ⟨exec_mirrorMap_busy starting holds, exec_mirrorUnmap_busy starting holds, exec_mirrorFill_busy starting holds,
      exec_mirrorAudit_busy starting holds⟩, fun free off hop idle paired => ⟨fun clear => ?sent, fun conflict => ?refused⟩,
    fun free off hop => exec_mirrorUnmap starting free off hop, fun free off hop idle => exec_mirrorFill starting free off hop idle,
    fun f => fillAcked_last, fun free hop idle entry => ⟨fun low high some_ => ?audits, fun outside => ?outside⟩⟩
  case sent => exact (exec_mirrorMap_paired starting free off hop idle paired).trans (congrArg _ (sendMap_free clear))
  case refused => exact (exec_mirrorMap_paired starting free off hop idle paired).trans (congrArg _ (sendMap_conflict conflict))
  case audits =>
    rw [exec_mirrorAudit starting free hop idle entry]
    exact (if_neg fun out => out.elim (Nat.not_lt.mpr low) (Nat.not_lt.mpr high)).trans (if_neg some_)
  case outside =>
    rw [exec_mirrorAudit starting free hop idle entry]
    exact if_pos outside

/-! ### Pairing messages (R302, R311, R312) -/

/-- The other side shows the same part number and the same ENABLED positions. -/
theorem answerReason_of_same {s : State} {b : FenceBody} (part : b.partnum.toNat = partCode s.fuses.part)
    (enabled : b.enabled = enabledMask s) : answerReason s b = none :=
  (if_neg (not_not_intro part)).trans (if_neg (not_not_intro enabled))

theorem answerReason_of_part {s : State} {b : FenceBody} (part : b.partnum.toNat ≠ partCode s.fuses.part) :
    answerReason s b = some 3 :=
  if_pos part

theorem partnerJoins_of_no_round {s : State} (none_ : s.step.round = none) : partnerJoins s = false := by
  simp only [partnerJoins, none_]

theorem joinReason_of_no_round {s : State} (none_ : s.step.round = none) (own : Nat) : joinReason s own = none :=
  if_pos (by rw [partnerJoins_of_no_round none_]; rfl)

section Pair
variable {s : State} {b : FenceBody} {own : Nat} (self : s.fab.selfIdx = some own)
include self

/-- The reason that this side finds first refuses a PAIR. -/
theorem exec_pair_refused {r : Nat} (why : ((pairReason s own own (((stepHolder s).bind (boundEntry s)).map (getPart s))).or
    (joinReason s own)).or (answerReason s b) = some r) :
    exec (.pair b) s = .next (sendFence 3 b.step b.attempt (pairRest s r) s) := by
  show Host.Outcome.next (pairArrives b s) = _
  simp only [pairArrives, self, why]

theorem exec_pair_ok (good : pairReason s own own (((stepHolder s).bind (boundEntry s)).map (getPart s)) = none)
    (part : b.partnum.toNat = partCode s.fuses.part) (enabled : b.enabled = enabledMask s) (noRound : s.step.round = none) :
    exec (.pair b) s = .next (sendFence 2 b.step b.attempt (pairRest s 0) s) := by
  have round : (sendFence 2 b.step b.attempt (pairRest s 0) s).step.round = none :=
    (BlindToSends.sendFence (g := fun t => t.step.round) (fun _ _ _ _ _ => rfl) ..).trans noRound
  show Host.Outcome.next (pairArrives b s) = _
  simp only [pairArrives, self, good, joinReason_of_no_round noRound, answerReason_of_same part enabled, Option.or_none,
    partnerJoins_of_no_round round, Bool.false_eq_true, if_false]

end Pair

section Waiting
variable {s : State} {b : FenceBody} {w : MapWait} (noSpare : s.ras.spareWait = none) (live : liveMap s = some w)
  (pairing : w.pairing = true)
include noSpare live pairing

theorem exec_pairOk (part : b.partnum.toNat = partCode s.fuses.part) (enabled : b.enabled = enabledMask s) :
    exec (.pairOk b) s = .next (sendMap w (modStep (fun t => { t with
      mirror := .paired, partner := BitVec.ofNat 14 ((ownPartner s).getD 0)
      pairedCtx := some (w.ctx, (getCtx s w.ctx).gen) }) s)) := by
  show Host.Outcome.next (pairOkArrives b s) = _
  simp only [pairOkArrives, noSpare, live, pairing, answerReason_of_same part enabled, if_true]

theorem exec_pairRefused : exec (.pairRefused b) s = .next (refuseMap w (if b.enabled ≠ enabledMask s then 4 else 7) s) := by
  show Host.Outcome.next (pairRefusedArrives b s) = _
  simp only [pairRefusedArrives, noSpare, live, pairing, if_true]

theorem exec_pairTimeout : exec .pairTimeout s = .next (refuseMap w 6 (advanceTo (w.since + msec 10) s)) := by
  show execPairTimeout s = _
  simp only [execPairTimeout, noSpare, live, pairing, if_true]

end Waiting

theorem exec_mirrorDone {s : State} {b : FenceBody} {i : Nat} (place : heldPlace s b.step = some i) :
    exec (.mirrorDone b) s = .next (releaseEmber (modHeld i (fun h => { h with mirrorDone := true }) s)) := by
  show Host.Outcome.next (mirrorDoneArrives b s) = _
  simp only [mirrorDoneArrives, place]

/-- The partner's step that its OWNER_DONE names first. -/
def ownerDoneStep (b : FenceBody) : PeerStep :=
  { step := b.step, mask := 0, resolved := false, skip := false, partnerDone := false, ownerDone := true }

theorem exec_ownerDone_first {s : State} {b : FenceBody} (noSteps : s.step.peerSteps = []) (new : s.step.number ≤ b.step) :
    exec (.ownerDone b) s = .next (modStep (fun e => { e with peerSteps := [ownerDoneStep b] }) s) := by
  show Host.Outcome.next (ownerDoneArrives b s) = _
  have late : ¬ b.step < s.step.number := BitVec.not_lt.mpr new
  simp [ownerDoneArrives, releasePeers, setPeerStep, modStep, noSteps, late, ownerDoneStep]

/-! ### Mapping messages (R303) -/

section Map
variable {s : State} {b : FenceBody} {c : Ctx} (holder : stepHolder s = some c)
include holder

theorem mirrorAreaOk_eq_true : mirrorAreaOk s b = true ↔
    (reaches (getCtx s c) b.mir.toNat b.length.toNat = true ∧ guestHolds s b.mir.toNat b.length.toNat = false) ∧
      ∀ kv ∈ s.step.peerEntries, ∀ e, kv.2 = some e → kv.1 ≠ b.entry.toNat →
        areasMeet b.mir.toNat b.length.toNat e.mir e.length = false := by
  have entry (kv : Nat × Option MirEntry) : (decide (kv.1 = b.entry.toNat) || (match kv.2 with
      | some e => !(areasMeet b.mir.toNat b.length.toNat e.mir e.length)
      | none => true)) = true ↔ ∀ e, kv.2 = some e → kv.1 ≠ b.entry.toNat →
        areasMeet b.mir.toNat b.length.toNat e.mir e.length = false := by
    obtain ⟨k, _ | e⟩ := kv
    · simp
    · simp [or_iff_not_imp_left]
  simp only [mirrorAreaOk, holder, Bool.and_eq_true, Bool.not_eq_true', List.all_eq_true]
  exact and_congr_right fun _ => forall₂_congr fun kv _ => entry kv

theorem exec_map_taken (win : reaches (getCtx s c) b.mir.toNat b.length.toNat = true ∧ guestHolds s b.mir.toNat b.length.toNat = false)
    (alone : ∀ kv ∈ s.step.peerEntries, ∀ e, kv.2 = some e → kv.1 ≠ b.entry.toNat →
      areasMeet b.mir.toNat b.length.toNat e.mir e.length = false) :
    exec (.map b) s = .next (sendFence 5 b.step b.attempt (mapRest b.entry.toNat b.own.toNat b.mir.toNat b.length.toNat)
      (modStep (fun t => { t with
        peerEntries := SMap.set none t.peerEntries b.entry.toNat (some ⟨b.own.toNat, b.mir.toNat, b.length.toNat⟩) }) s)) :=
  congrArg Host.Outcome.next (if_pos ((mirrorAreaOk_eq_true holder).mpr ⟨win, alone⟩))

theorem exec_map_refused
    (out : ¬ (reaches (getCtx s c) b.mir.toNat b.length.toNat = true ∧ guestHolds s b.mir.toNat b.length.toNat = false)) :
    exec (.map b) s =
      .next (sendFence 6 b.step b.attempt (mapRest b.entry.toNat b.own.toNat b.mir.toNat b.length.toNat) s) :=
  congrArg Host.Outcome.next (if_neg fun ok => out ((mirrorAreaOk_eq_true holder).mp ok).1)

end Map

section Answer
variable {s : State} {b : FenceBody} {w : MapWait} (live : liveMap s = some w) (mapping : w.pairing = false)
  (same : w.entry = b.entry.toNat)
include live mapping same

theorem exec_mapOk : exec (.mapOk b) s = .next (completeKey w.ctx w.key stOk 0 10 (modStep (fun t => { t with
    mapWait := none, mirror := .paired, entries := SMap.set none t.entries w.entry (some w.e) }) s)) := by
  show Host.Outcome.next (mapOkArrives b s) = _
  simp only [mapOkArrives, live, mapping, same, Bool.not_false, decide_true, Bool.and_self, if_true]

theorem exec_mapRefused : exec (.mapRefused b) s = .next (refuseMap w 7 s) := by
  show Host.Outcome.next (mapRefusedArrives b s) = _
  simp only [mapRefusedArrives, live, mapping, same, Bool.not_false, decide_true, Bool.and_self, if_true]

end Answer

/-- Settles O40: the answers to PAIR and MAP, what each answer leaves at the owner, and the messages that mark a role done. -/
theorem pairingAndMapping : Obligations.PairingAndMapping := by
  refine ⟨fun s b i own w => ?pairing, fun s b c w => ?mapping⟩
  case pairing =>
    intro me refuse same
    refine ⟨fun self => ⟨fun r why => ?_, fun good ⟨part, enabled⟩ noRound => exec_pair_ok self good part enabled noRound,
        fun good noRound part => ?_⟩,
      fun noSpare live pairing => ⟨fun ⟨part, enabled⟩ => exec_pairOk noSpare live pairing part enabled, fun enabled => ?_,
        fun differ => ?_, ?_⟩,
      exec_mirrorDone, fun noSteps new => ⟨_, exec_ownerDone_first noSteps new, rfl, rfl⟩⟩
    · exact exec_pair_refused self (by rw [show pairReason s own own me = some r from why, Option.some_or, Option.some_or])
    · exact exec_pair_refused self (by
        rw [show pairReason s own own me = none from good, joinReason_of_no_round noRound, answerReason_of_part part,
          Option.none_or, Option.none_or])
    · exact (exec_pairRefused noSpare live pairing).trans (by rw [if_neg (not_not_intro enabled)]; rfl)
    · exact (exec_pairRefused noSpare live pairing).trans (by rw [if_pos differ]; rfl)
    · have refused (t : State) : Host.Outcome.next (refuseMap w 6 t) = refuse 6 t := rfl
      exact (exec_pairTimeout noSpare live pairing).trans (refused _)
  case mapping =>
    intro rest area inWin alone
    exact ⟨fun holder win free => exec_map_taken holder win free, fun holder out => exec_map_refused holder out, rfl,
      fun live mapping same => ⟨exec_mapOk live mapping same, exec_mapRefused live mapping same⟩⟩

/-! ### Audit messages (R319) -/

theorem exec_auditLate {s : State} {b : FenceBody} {a : Audit} (audit : s.step.audit = some a) (step : a.step = b.step) :
    let n := if a.step + 1 < s.step.number then s.step.number else a.step + 1
    exec (.auditLate b) s = .next (sendFence 10 n 0 (auditRest a.entry a.first a.groups)
      (modStep (fun t => { t with
        audit := some { a with step := n, compared := 0, differed := 0, digests := none, theirs := [] } }) s)) := by
  show Host.Outcome.next (auditLateArrives b s) = _
  simp only [auditLateArrives, audit, step, if_true, modAudit, modStep, Option.map_some]

/-- A digest of a group of the audit that the partner has not given yet is kept and compared. -/
theorem exec_auditDigest {s : State} {b : FenceBody} {a : Audit} (audit : s.step.audit = some a) (step : a.step = b.step)
    (low : a.first ≤ b.group.toNat) (high : b.group.toNat < a.first + a.groups)
    (new : SMap.get none a.theirs b.group.toNat = none) :
    exec (.auditDigest b) s = .next (compareGroup b.group.toNat (modStep (fun t => { t with
      audit := some { a with theirs := SMap.set none a.theirs b.group.toNat (some b.digest) } }) s)) := by
  show Host.Outcome.next (auditDigestArrives b s) = _
  have fresh : (SMap.get none a.theirs b.group.toNat).isNone = true := Option.isNone_iff_eq_none.mpr new
  simp only [auditDigestArrives, audit]
  rw [if_pos ⟨step, low, high, fresh⟩]
  simp only [modAudit, modStep, audit, Option.map_some]

theorem groupCompared_same {s : State} {a : Audit} (audit : s.step.audit = some a) (e : MirEntry) (g : Nat) :
    groupCompared a e g true s = modStep (fun t => { t with audit := some { a with compared := a.compared + 1 } }) s := by
  simp [groupCompared, modAudit, modStep, audit]

theorem groupCompared_differs {s : State} {a : Audit} (audit : s.step.audit = some a) (e : MirEntry) (g : Nat) :
    groupCompared a e g false s = groupResent a e g (modStep (fun t => { t with
      audit := some { a with compared := a.compared + 1, differed := a.differed + 1 } }) s) := by
  simp [groupCompared, modAudit, modStep, audit]

theorem groupResent_of_partner {s : State} {p : Nat} (partner : mirrorPartner s = some p) (a : Audit) (e : MirEntry) (g : Nat) :
    let r := groupArea e.own e.length g
    groupResent a e g s = sendRange .group a.ctx p r.1 r.2 (e.mir + (r.1 - e.own)) (raise 0x0704 (hubUnit 1) { ctx := some a.ctx }
      (modStep (fun t => { t with auditMismatch := satUp t.auditMismatch 1 }) s)) := by
  have still : mirrorPartner (raise 0x0704 (hubUnit 1) { ctx := some a.ctx }
      (modStep (fun t => { t with auditMismatch := satUp t.auditMismatch 1 }) s)) = some p := partner
  simp only [groupResent, still]

/-- Settles O41: AUDIT_START by this side's boundary, AUDIT_LATE at the owner, and AUDIT_DIGEST by whether the group agrees. -/
theorem auditMessages : Obligations.AuditMessages := by
  intro s b a e ds p g late again area next1 seen mark keep
  refine ⟨fun passed => ?_, fun open_ => ?_, fun audit step => exec_auditLate audit step,
    fun audit step low high new own entry more => ?digest⟩
  · exact congrArg Host.Outcome.next (if_pos passed)
  · exact congrArg Host.Outcome.next (if_neg (ne_true_of_eq_false open_))
  case digest =>
    let kept : Audit := { a with theirs := SMap.set none a.theirs g (some b.digest) }
    have comparison := compareGroup_eq (s := keep kept) (a := kept) rfl own (SMap.get_set ..) entry
    refine ⟨fun same => ?_, fun differ partner => ⟨_, ?_, rfl⟩⟩
    · rw [exec_auditDigest audit step low high new, comparison, if_neg more, decide_eq_true same,
        groupCompared_same (a := kept) rfl]
      rfl
    · rw [exec_auditDigest audit step low high new, comparison, if_neg more, decide_eq_false differ,
        groupCompared_differs (a := kept) rfl]
      exact congrArg Host.Outcome.next (groupResent_of_partner
        (show mirrorPartner (keep { seen with differed := a.differed + 1 }) = some p from partner) kept e g)

end Sys2Proof.Machine
end

section
/-! PROOFS. Event records and the part's ring, the heartbeat and the lock leases (R389 to R393), and what the tray writes and runs
on the flash (R414 to R417). -/

namespace Sys2Proof.Machine

/-! ### The part's event ring (R391, R393, R396) -/

theorem length_eventBytes (e : Event) (phase : Bool) : (eventBytes e phase).length = 32 := by
  simp [eventBytes]

theorem toPartRing_of_off {s : State} {e : Event} (off : bit s.mgmt.evtCtrl 8 = false) (room : s.mgmt.kept.length < 4096) :
    toPartRing e s = modMgmt (fun m => { m with kept := m.kept ++ [e] }) s :=
  (if_neg (ne_true_of_eq_false off)).trans (if_pos room)

theorem hostRead_hostWrite_all {bs : List Byte} {n : Nat} (len : bs.length = n) (a : Nat) (s : State) :
    hostRead (hostWrite a bs s) a n = bs :=
  len ▸ hostRead_hostWrite a bs s

section Front
variable {s : State} {e : Event} {rest : List Event} (front : s.mgmt.queue = e :: rest) (partOnly : e.ctx = none)
include front partOnly

/-- A record that names no context goes to the part's ring alone. -/
theorem exec_eventRecordWrite_partOnly :
    exec .eventRecordWrite s = .next (toPartRing e (modMgmt (fun m => { m with queue := rest }) s)) := by
  show execEventRecordWrite s = _
  simp only [execEventRecordWrite, front, partOnly]

theorem exec_eventRecordWrite_kept (off : bit s.mgmt.evtCtrl 8 = false) (room : s.mgmt.kept.length < 4096) :
    exec .eventRecordWrite s = .next (modMgmt (fun m => { m with queue := rest, kept := m.kept ++ [e] }) s) := by
  rw [exec_eventRecordWrite_partOnly front partOnly, toPartRing_of_off (s := modMgmt (fun m => { m with queue := rest }) s) off room]
  rfl

section On
variable (on : bit s.mgmt.evtCtrl 8 = true)
include on

theorem exec_eventRecordWrite_on : exec .eventRecordWrite s = .next (partRing e (modMgmt (fun m => { m with queue := rest }) s)) :=
  (exec_eventRecordWrite_partOnly front partOnly).trans (congrArg Host.Outcome.next (if_pos on))

theorem exec_eventRecordWrite_lost (full : (s.mgmt.evtHead.toNat + 1) % 2 ^ evtLog2 s = s.mgmt.evtTail.toNat) :
    exec .eventRecordWrite s = .next (modMgmt (fun m => { m with queue := rest, evtLost := satUp m.evtLost 1 }) s) :=
  (exec_eventRecordWrite_on front partOnly on).trans (congrArg Host.Outcome.next (if_pos full))

end On
end Front

/-- A ring with room takes the record at HEAD, moves HEAD on and interrupts. -/
theorem partRing_room {e : Event} {s : State} (room : (s.mgmt.evtHead.toNat + 1) % 2 ^ evtLog2 s ≠ s.mgmt.evtTail.toNat) :
    partRing e s =
      let m := s.mgmt
      let next1 := (m.evtHead.toNat + 1) % 2 ^ evtLog2 s
      let msg : Msix := { func := 0, port := if bit m.evtCtrl 9 then 1 else 0, vec := BitVec.ofNat 6 (fld m.evtCtrl 21 16) }
      modHif (fun h => { h with msix := h.msix ++ [msg] })
        (modMgmt (fun m => { m with
            evtHead := BitVec.ofNat 16 next1, evtPhase := if next1 = 0 then !m.evtPhase else m.evtPhase })
          (hostWrite (m.evtBase.toNat + 32 * m.evtHead.toNat) (eventBytes e m.evtPhase) s)) :=
  if_neg room

theorem exec_eventRecordWrite_empty {s : State} (none_ : s.mgmt.queue = []) : exec .eventRecordWrite s = .next s := by
  show execEventRecordWrite s = _
  simp only [execEventRecordWrite, none_]

theorem exec_evtRingEnable_off {s : State} {v : BitVec 32} (off : bit v 8 = false) :
    exec (.evtRingEnable v) s = .next (modMgmt (fun m => { m with evtCtrl := v &&& evtCtrlMask }) s) :=
  congrArg Host.Outcome.next (if_neg (ne_true_of_eq_false off))

theorem exec_evtRingEnable_on {s : State} {v : BitVec 32} (on : bit v 8 = true) :
    exec (.evtRingEnable v) s =
      .next (forAll s.mgmt.kept partRing (modMgmt (fun m => { m with evtCtrl := v &&& evtCtrlMask, kept := [] }) s)) :=
  congrArg Host.Outcome.next (if_pos on)

theorem exec_fwLockExpired_held {s : State} {lock : Fin 131} {core : Fin 4}
    (held : SMap.get none s.mgmt.locks lock.val = some core.val) : exec (.fwLockExpired lock core) s =
      .next (raise 0x0A0A (hubUnit (8 + core.val)) {} (modMgmt (fun m => { m with
        locks := SMap.set none m.locks lock.val none
        long := m.long.filter (fun l => decide (l.core ≠ core.val) || decide (l.cmd = 0x0021))
        coreResets := m.coreResets ++ [core.val] }) s)) :=
  if_pos held

/-- Settles O52: a record at HEAD, without room, and with EN 0; the ring's registers; PTB, the heartbeat and the lock leases. -/
theorem eventRings : Obligations.EventRings := by
  intro s e rest v lock core m size at_ next1 t
  refine ⟨exec_eventRecordWrite_empty, fun front partOnly => ⟨fun on room => ?written, fun on full => ?_, fun off room => ?_⟩,
    fun off => exec_evtRingEnable_off off, fun on noneKept => ?enabled, fun good => ?_, fun bad => ?_, rfl,
    fun running locked => ?_, fun unlocked => ?_, exec_fwLockExpired_held⟩
  case written =>
    have write := partRing_room (e := e) (s := modMgmt (fun m => { m with queue := rest }) s) room
    refine ⟨_, (exec_eventRecordWrite_on front partOnly on).trans (congrArg Host.Outcome.next write), ?_, fun a out => ?_, rfl, rfl,
      ?_⟩
    · exact hostRead_hostWrite_all (length_eventBytes e m.evtPhase) at_ s
    · exact hostRead_hostWrite_out (length_eventBytes e m.evtPhase) out s
    · dsimp only [modHif, modMgmt, hostWrite]
  · exact exec_eventRecordWrite_lost front partOnly on full
  · exact exec_eventRecordWrite_kept front partOnly off room
  case enabled =>
    rw [exec_evtRingEnable_on on, noneKept]
    show Host.Outcome.next (modMgmt (fun m => { m with evtCtrl := v &&& evtCtrlMask, kept := [] }) s) = _
    rw [← noneKept]
    rfl
  · exact congrArg Host.Outcome.next (if_pos good)
  · exact congrArg Host.Outcome.next (if_neg (ne_true_of_eq_false bad))
  · exact if_pos ⟨running, locked⟩
  · exact if_neg fun both => ne_true_of_eq_false unlocked both.2

/-! ### What the tray writes over I3C and the flash operations (R414 to R417) -/

/-- An I3C write of one word sets the offset and lands the word there. -/
theorem exec_i3cPrivateWrite_word (s : State) (off : BitVec 24) (v : BitVec 32) :
    exec (.i3cPrivateWrite off [v]) s = .next (trayWrite off.toNat v (modPwr (fun p => { p with i3cOffset := off }) s)) :=
  rfl

theorem writeFlash_go {s : State} {v : BitVec 32} (idle : s.pwr.flashBusy = false) (go : bit v 2 = true)
    (op : BitVec.ofNat 2 (fld v 1 0) ≠ 0) : writeFlash v s = modPwr (fun p => { p with
      flashOp := BitVec.ofNat 2 (fld v 1 0), flashAddr := BitVec.ofNat 24 (fld v 31 8), flashBusy := true, flashErr := false
      flashRun := some (BitVec.ofNat 2 (fld v 1 0), BitVec.ofNat 24 (fld v 31 8)) }) s := by
  have starts : decide (BitVec.ofNat 2 (fld v 1 0) ≠ 0) = true := decide_eq_true op
  simp only [writeFlash, modPwr, idle, go, starts, Bool.not_false, Bool.and_self, Bool.or_true, Bool.not_true, Bool.and_false,
    if_true]

/-- The page buffer stands at 0x10100, a word every four bytes (R415). -/
theorem trayWrite_fbuf {k : Nat} (small : k < 64) (v : BitVec 32) (s : State) :
    trayWrite (BitVec.ofNat 24 (0x10100 + 4 * k)).toNat v s =
      modPwr (fun p => { p with fbuf := SMap.set 0 p.fbuf k v }) s := by
  have value : (BitVec.ofNat 24 (0x10100 + 4 * k)).toNat = 0x10100 + 4 * k := by
    rw [BitVec.toNat_ofNat]
    omega
  have index : (0x10100 + 4 * k - 0x10100) / 4 = k := by omega
  rw [value, trayWrite, if_neg (by omega), if_neg (by omega), if_neg (by omega), if_neg (by omega), if_neg (by omega),
    if_pos (by omega), index]

/-- PWR_TRAY_ALERT stands at 0x10008 (R415, R417). -/
theorem trayWrite_alert (v : BitVec 32) (s : State) : trayWrite (0x10008 : BitVec 24).toNat v s = writeAlert v s := by
  simp [trayWrite]

/-- PWR_TRAY_FLASH stands at 0x10040 (R416, R417). -/
theorem trayWrite_flash (v : BitVec 32) (s : State) : trayWrite (0x10040 : BitVec 24).toNat v s = writeFlash v s := by
  simp [trayWrite]

section Ready
variable {s : State} {a : Nat}

theorem exec_flashRead_tray (ready : flashReady s 1 = some a) (tray : trayArea a = true) : exec .flashRead s =
    .next (flashActed (modPwr (fun p => { p with
      fbuf := SMap.run 0 0 ((cut 4 (flashRead s a 256)).map (fun w => BitVec.ofNat 32 (leNat w))) }) s)) := by
  show execFlashRead s = _
  simp only [execFlashRead, ready, pageBytes, tray, if_true]

theorem exec_flashProgram_refused (ready : flashReady s 2 = some a) (tray : trayArea a = false) :
    exec .flashProgram s = .next (flashActed (flashRefuse s)) := by
  show execFlashProgram s = _
  simp only [execFlashProgram, ready, tray, Bool.not_false, if_true]

theorem exec_flashProgram_erased (ready : flashReady s 2 = some a) (tray : trayArea a = true)
    (erased : ∀ b ∈ flashRead s a 256, b = erasedByte) :
    exec .flashProgram s = .next (flashActed (flashWrite a (fbufBytes s) s)) := by
  have all : (flashRead s a 256).all (fun b => decide (b = erasedByte)) = true :=
    List.all_eq_true.mpr fun b mem => decide_eq_true (erased b mem)
  show execFlashProgram s = _
  simp only [execFlashProgram, ready, tray, all, Bool.not_true, Bool.false_eq_true, if_false, if_true]

theorem exec_flashErase_refused (ready : flashReady s 3 = some a) (tray : trayArea a = false) :
    exec .flashErase s = .next (flashActed (flashRefuse s)) := by
  show execFlashErase s = _
  simp only [execFlashErase, ready, tray, Bool.not_false, if_true]

theorem exec_flashErase_tray (ready : flashReady s 3 = some a) (tray : trayArea a = true) : exec .flashErase s =
    .next (flashActed (modPwr (fun p => { p with flash := p.flash.filter (fun kv =>
      decide (kv.1 < a / 65536 * 65536) || decide (a / 65536 * 65536 + 65536 ≤ kv.1)) }) s)) := by
  show execFlashErase s = _
  simp only [execFlashErase, ready, tray, Bool.not_true, Bool.false_eq_true, if_false]

end Ready

/-- A flash whose sector is dropped reads erased in the sector and as before outside it. -/
theorem get_eraseSector (flash : SMap Byte) (sector b : Nat) :
    SMap.get erasedByte (flash.filter (fun kv => decide (kv.1 < sector) || decide (sector + 65536 ≤ kv.1))) b =
      if sector ≤ b ∧ b < sector + 65536 then erasedByte else SMap.get erasedByte flash b := by
  split
  · exact SMap.get_filter_out erasedByte flash _ b fun _ => by simp only [Bool.or_eq_false_iff, decide_eq_false_iff_not]; omega
  · exact SMap.get_filter erasedByte flash _ b fun _ => by simp only [Bool.or_eq_true, decide_eq_true_eq]; omega

/-- Settles O59: the registers that an I3C write of the tray reaches, and each flash operation where it may act. -/
theorem trayAndFlash : Obligations.TrayAndFlash := by
  intro s v addr a k op page at_ acted sector
  refine ⟨fun idle go named => ?_, ?_, fun small => ?_, rfl, fun ready tray => exec_flashRead_tray ready tray,
    fun ready => ⟨fun tray => exec_flashProgram_refused ready tray, fun tray erased => exec_flashProgram_erased ready tray erased⟩,
    fun ready => ⟨fun tray => exec_flashErase_refused ready tray, fun tray => ⟨_, exec_flashErase_tray ready tray,
      get_eraseSector s.pwr.flash sector, rfl, rfl⟩⟩, fun busy acted => ?_, fun running => ?_⟩
  · rw [exec_i3cPrivateWrite_word, trayWrite_flash,
      writeFlash_go (s := modPwr (fun p => { p with i3cOffset := 0x10040 }) s) idle go named]
  · rw [exec_i3cPrivateWrite_word, trayWrite_alert]
    rfl
  · rw [exec_i3cPrivateWrite_word, trayWrite_fbuf small]
  · exact if_pos (by rw [busy, acted]; rfl)
  · refine if_neg fun done => running ?_
    exact Option.isNone_iff_eq_none.mp (Bool.and_eq_true_iff.mp done).2

end Sys2Proof.Machine
end

section
/-! PROOFS. Reset pins, power loss, thermal trips, PLLs, DAMPED and telemetry (R328, R330, R333, R401 to R403, R408, R409, R413). -/

namespace Sys2Proof.Machine

/-! ### What a chip reset leaves (R328) -/

/-- The state but for its package memory. -/
def outsideMem (s : State) : State := { s with mem := [], failed := [] }

theorem outsideMem_clearStaging (keep : Option Nat) (s : State) : outsideMem (clearStaging keep s) = outsideMem s :=
  forAll_keeps outsideMem (f := fun n => memZero (stageBase n) (if keep = some n then captureBase n else stageBase n + 0x8000000))
    (fun _ _ _ => rfl) s

/-- Below the staging SRAMs nothing is cleared. -/
theorem get_clearStaging_low {a : Nat} (low : a < 0x020000000000) (keep : Option Nat) (s : State) :
    SMap.get 0 (clearStaging keep s).mem a = SMap.get 0 s.mem a :=
  forAll_keeps (fun t => SMap.get 0 t.mem a)
    (fun n _ t => (get_memZero _ _ t a).trans (if_neg fun inside => by unfold stageBase at inside; omega)) s

/-- What a capture record changes: the memory, RAS_CAP's registers and the count of free values. -/
def besideCapture (s : State) : State := { outsideMem s with free := 0, ras := State.reset.ras }

theorem besideCapture_writeCapture (r : PendingReset) (complete : Bool) (s : State) :
    besideCapture (writeCapture r complete s) = besideCapture s := by
  unfold writeCapture
  split <;> rfl

theorem get_writeCapture_low {a : Nat} (low : a < 0x020000000000) (r : PendingReset) (complete : Bool) (s : State) :
    SMap.get 0 (writeCapture r complete s).mem a = SMap.get 0 s.mem a := by
  unfold writeCapture
  split
  · rfl
  next n _ => exact SMap.get_writeRun_out 0 s.mem _ a _ (.inl (by unfold captureBase stageBase; omega))

/-- The state at which a chip reset ends, but for the memory. -/
theorem outsideMem_chipReset (keep : Option Nat) (s : State) : outsideMem (chipReset keep s) =
    outsideMem { restart s with
      ras := { (restart s).ras with capCount := s.ras.capCount }
      pwr := { (restart s).pwr with
        pkgReset := true, pwrGood := s.pwr.pwrGood, thermtrip := s.pwr.thermtrip, arithStopped := s.pwr.arithStopped } } :=
  outsideMem_clearStaging ..

theorem get_chipReset_low {a : Nat} (low : a < 0x020000000000) (keep : Option Nat) (s : State) :
    SMap.get 0 (chipReset keep s).mem a = SMap.get 0 s.mem a :=
  get_clearStaging_low low ..

theorem pending_writeCapture (r : PendingReset) (complete : Bool) (s : State) :
    (writeCapture r complete s).pending = s.pending :=
  (congrArg State.pending (besideCapture_writeCapture r complete s) :)

theorem fuses_writeCapture (r : PendingReset) (complete : Bool) (s : State) : (writeCapture r complete s).fuses = s.fuses :=
  (congrArg State.fuses (besideCapture_writeCapture r complete s) :)

theorem pwr_writeCapture (r : PendingReset) (complete : Bool) (s : State) : (writeCapture r complete s).pwr = s.pwr :=
  (congrArg State.pwr (besideCapture_writeCapture r complete s) :)

theorem exec_pkgResetAssert_of_released {s : State} (released : s.pwr.pkgReset = false) (captured : Bool) :
    exec (.pkgResetAssert captured) s = .next (chipReset (capturePosn s 4 0)
      (writeCapture { level := 4, posn := 0, engine := 0, cause := capPkgReset } captured (loseRanks s))) :=
  if_neg (ne_true_of_eq_false released)

/-! ### The loss of the ranks (R333) -/

theorem loseRanks_of_none {s : State} (none_ : ∀ kv ∈ s.fab.parts, (kv.2.valid && kv.2.ranked) = false) : loseRanks s = s :=
  if_neg (ne_true_of_eq_false (List.any_eq_false.mpr fun kv mem => ne_true_of_eq_false (none_ kv mem)))

theorem loseRankIn_of_ranked {s : State} {k : Nat} (valid : (getPart s k).valid = true) (ranked : (getPart s k).ranked = true) :
    loseRankIn k s = raise 0x0803 (hubUnit 1) { ctx := some (getPart s k).ctx, pid := some (getPart s k).pid }
      { modPart k (fun e => { e with ranked := false }) s with
        ras := { s.ras with spareState := .rankLost, spareRank := (getPart s k).rank } } :=
  if_pos (by rw [valid, ranked]; rfl)

/-! ### CLK_ARITH that is stopped (R403) -/

section Stopped
variable {s : State} (stopped : s.pwr.arithStopped = true)
include stopped

/-- No instruction of a cell's sequencer acts. -/
theorem exec_row_stopped {c : CellId} {e er : ReadErr} {gap op : Nat} {i : Instr}
    (row : (i, op) ∈ opRows c e er gap ++ vopRows c e er) : exec i s = .next s := by
  rcases List.mem_append.mp row with row | row
  · obtain ⟨ready, act, law⟩ := exec_opRow row s
    rw [law, Laws.seqRow_stopped _ _ _ _ _ _ stopped]
  · rw [exec_vopRow row s, vopRow, unitRow, Laws.seqRow_stopped _ _ _ _ _ _ stopped]

/-- No operation of a unit, and no phase of kindling, ends or begins. -/
theorem exec_arith_stopped {c : CellId} {e : ReadErr} {n : Nat} {i : Instr}
    (arith : i ∈ ([.mmComplete c n, .drainComplete c, .vopComplete c, .sinComplete c, .soutComplete c, .sorgSignalArrive c,
      .drainBankFullStart c, .knPartialLeft ⟨c, e⟩, .bodyStart c e, .epochStall c, .kindleStart c, .kindleGapExpiry c,
      .kindleRampStep c] : List Instr)) : exec i s = .next s := by
  simp only [List.mem_cons, List.not_mem_nil, or_false] at arith
  obtain rfl | rfl | rfl | rfl | rfl | rfl | rfl | rfl | rfl | rfl | rfl | rfl | rfl := arith
  all_goals exact if_pos stopped

end Stopped

/-! ### DAMPED (R401) -/

section Damped
variable {s : State} {avg : Nat} (damped : s.pwr.modes.draught = .damped)
include damped

theorem exec_dampControl_above (above : dampW s < avg) : exec (.dampControl avg) s =
    .next (modPwr (fun p => { p with frac := if 16 < p.frac.toNat then p.frac - 1 else p.frac }) s) :=
  (if_neg (not_not_intro damped)).trans (if_pos above)

theorem exec_dampControl_below (under : ¬dampW s < avg) (below : 100 * avg < 97 * dampW s) : exec (.dampControl avg) s =
    .next (modPwr (fun p => { p with frac := if p.frac.toNat < 64 then p.frac + 1 else p.frac }) s) :=
  (if_neg (not_not_intro damped)).trans ((if_neg under).trans (if_pos below))

end Damped

theorem limitEvent_within {s : State} {w : Nat} (within : w ≤ fld s.pwr.cap 31 16) : limitEvent w s = s :=
  if_neg fun both => Nat.not_lt.mpr within (of_decide_eq_true (Bool.and_eq_true_iff.mp both).1)

theorem warnEvent_cool {s : State} {td th : Nat} (cool : max td th < s.pwr.warn.toNat) : warnEvent td th s = s :=
  if_neg fun both => Nat.not_le.mpr cool (of_decide_eq_true (Bool.and_eq_true_iff.mp both).1)

/-- Telemetry within its limits raises neither PWR_LIMIT nor THERM_WARN. -/
theorem powerEvents_quiet {s : State} {td th : BitVec 8} {w : BitVec 16} (limit : w.toNat ≤ fld s.pwr.cap 31 16)
    (die : td.toNat < s.pwr.warn.toNat) (hub : th.toNat < s.pwr.warn.toNat) (telem : BitVec 64) :
    warnEvent td.toNat th.toNat (limitEvent w.toNat (modPwr (fun p => { p with telem := telem }) s)) =
      modPwr (fun p => { p with telem := telem }) s := by
  rw [limitEvent_within (s := modPwr (fun p => { p with telem := telem }) s) limit]
  exact warnEvent_cool (max_lt die hub)

theorem exec_pkgResetDeassert_asserted {s : State} (asserted : s.pwr.pkgReset = true) (unloaded : boardLoaded s = false) :
    exec .pkgResetDeassert s = .next (modPwr (fun p => { p with pkgReset := false, upAt := s.mgmt.ptb }) s) := by
  show execPkgResetDeassert s = _
  simp only [execPkgResetDeassert, asserted, unloaded, if_true, Bool.false_eq_true, if_false]
  rfl

/-- Where the package is not in reset the hub gives up its ranks before the power goes. -/
theorem exec_pwrGoodFall_good {s : State} (good : s.pwr.pwrGood = true) : exec .pwrGoodFall s =
    .next (modPwr (fun p => { p with pwrGood := false, i3cDyn := none, i3cOffset := 0 })
      (tapReset (restart (if s.pwr.pkgReset then s else loseRanks s)))) :=
  if_pos good

/-- Settles O58: each pin by the level it had, PLLs by what they clock, DAMPED by the power, and telemetry within the limits. -/
theorem pinsAndPower : Obligations.PinsAndPower := by
  intro s cap straps n avg k td th w frac unlocked telem
  refine ⟨fun asserted => if_pos asserted, fun released => ?reset, loseRanks_of_none, fun valid ranked => ?rank,
    exec_pkgResetDeassert_asserted, fun released => if_neg (ne_true_of_eq_false released),
    fun bad => if_neg (ne_true_of_eq_false bad), fun good => ?fall, fun quiet => ?tripped, fun stopped c e er gap n op i which => ?_,
    fun fresh out => ?trip, ⟨rfl, rfl, rfl, fun p hub => ?pll, rfl⟩, fun other => if_pos other, fun damped above more => ?_,
    fun damped above least => ?_, fun damped under below less => ?_, fun limit die hub => ?telemetry⟩
  case reset =>
    let lost := writeCapture { level := 4, posn := 0, engine := 0, cause := capPkgReset } cap (loseRanks s)
    have out := outsideMem_chipReset (capturePosn s 4 0) lost
    refine ⟨_, exec_pkgResetAssert_of_released released cap, congrArg (·.pwr.pkgReset) out, congrArg (·.pwr.stage) out,
      congrArg (·.mgmt.fw) out, congrArg State.cells out, congrArg State.streams out, congrArg (·.hif.ctxs) out,
      congrArg (·.step.held) out, congrArg State.prog out, (congrArg State.pending out).trans ?_,
      (congrArg (factoryFuses ·.fuses) out).trans ?_, fun noRanks => ⟨(congrArg (·.pwr.flash) out).trans ?_, fun a low => ?_⟩⟩
    · exact (pending_writeCapture ..).trans (loseRanks_kept s (Kept.self s)).pending
    · exact (congrArg factoryFuses (fuses_writeCapture ..)).trans (loseRanks_kept s (Kept.self s)).factoryFuses
    · exact (congrArg Pwr.flash (pwr_writeCapture ..)).trans (by rw [noRanks])
    · rw [get_chipReset_low low, get_writeCapture_low low, noRanks]
  case rank =>
    rw [loseRankIn_of_ranked valid ranked]
    exact ⟨congrArg Part.ranked (getPart_modPart_same k (fun e => { e with ranked := false }) s), rfl, rfl, rfl⟩
  case fall =>
    refine ⟨_, exec_pwrGoodFall_good good, rfl, rfl, rfl, rfl, rfl, rfl, rfl, ?_, fun noRanks => ?_⟩
    · show (if s.pwr.pkgReset then s else loseRanks s).fuses.serial = s.fuses.serial
      split
      · rfl
      · exact (congrArg Fuses.serial (loseRanks_kept s (Kept.self s)).factoryFuses :)
    · show (if s.pwr.pkgReset then s else loseRanks s).pwr.flash = s.pwr.flash
      rw [noRanks, ite_self]
  case tripped =>
    have still : (s.pwr.thermtrip || s.pwr.pkgReset) = true := Bool.or_eq_true_iff.mpr quiet
    show execThermtrip s = _
    simp only [execThermtrip, still, if_true]
  · exact which.elim (exec_row_stopped stopped) (exec_arith_stopped stopped)
  case trip =>
    show execThermtrip s = _
    simp only [execThermtrip, fresh, out, Bool.or_self, Bool.false_eq_true, if_false]
  case pll =>
    simp only [List.mem_cons, List.not_mem_nil, or_false] at hub
    obtain rfl | rfl | rfl | rfl := hub <;> rfl
  · exact (exec_dampControl_above damped above).trans (by simp only [frac, modPwr, more, if_true])
  · exact (exec_dampControl_above damped above).trans (by simp only [modPwr, Nat.not_lt.mpr least, if_false])
  · exact (exec_dampControl_below damped under below).trans (by simp only [frac, modPwr, less, if_true])
  case telemetry => exact congrArg (fun t => Host.Outcome.next (alertSets s t)) (powerEvents_quiet limit die hub telem)

end Sys2Proof.Machine
end

section
/-! PROOFS. RAS_RESET, the watchdog and the ends of resets, and what a partition reset clears (R324 to R328, R330). -/

namespace Sys2Proof.Machine

/-! ### Requests (R325, R326, R328, R347) -/

/-- A reset that takes place at once, or waits for its capture (R330). -/
def resetCaptured (captured : Bool) (r : PendingReset) (s : State) : State :=
  if captured then doReset r (writeCapture r true s) else { s with ras := { s.ras with pending := s.ras.pending ++ [r] } }

theorem startReset_of_ignored {s : State} {r : PendingReset} (ignored : resetIgnored s r = true) (captured : Bool) :
    startReset r captured s = s :=
  if_pos ignored

theorem startReset_of_open {s : State} {r : PendingReset} (open_ : resetIgnored s r = false) (captured : Bool) :
    startReset r captured s = resetCaptured captured r s :=
  if_neg (ne_true_of_eq_false open_)

theorem rasWrite_of_other {m : Master} (other : rasMaster m = none) (v : BitVec 32) (level : Nat) (f : Nat → State → State)
    (s : State) : rasWrite m v level f s = s := by
  simp only [rasWrite, other]

theorem rasWrite_go {m : Master} {v : BitVec 32} {cause level : Nat} (master : rasMaster m = some cause) (go : bit v 31 = true)
    (at_ : fld v 1 0 = level) (f : Nat → State → State) (s : State) : rasWrite m v level f s = f cause (setRasReset v s) := by
  simp only [rasWrite, master, at_, go, and_self, if_true]

/-- An engine of 6 bits that the part has and that is not the commit engine is reset at level 2. -/
theorem engineRequest_of_present {e : Nat} (small : e < 0x40) (present : e < 32 ∨ e = 0x21 ∨ 0x38 ≤ e) (n cause : Nat) :
    engineRequest n e cause = some { level := 2, posn := n, engine := e, cause := cause } := by
  unfold engineRequest
  by_cases transfer : e < 32 ∨ e = 0x21
  · rw [if_pos transfer]
  · rw [if_neg transfer, if_neg (by omega), if_pos (by omega)]

theorem fld_lt_two_pow (v : BitVec k) (hi lo : Nat) : fld v hi lo < 2 ^ (hi + 1 - lo) :=
  Nat.mod_lt _ (Nat.two_pow_pos _)

section Write
variable {s : State} {m : Master} {v : BitVec 32} {cause : Nat} (master : rasMaster m = some cause) (go : bit v 31 = true)
include master go

theorem exec_rasResetEngine (level : fld v 1 0 = 1) (present : fld v 13 8 < 32 ∨ fld v 13 8 = 0x21 ∨ 0x38 ≤ fld v 13 8)
    (captured : Bool) : exec (.rasResetEngine m v captured) s = .next
      (startReset { level := 2, posn := fld v 6 4, engine := fld v 13 8, cause := cause } captured (setRasReset v s)) := by
  show Host.Outcome.next (rasWrite ..) = _
  rw [rasWrite_go master go level]
  simp only [engineRequest_of_present (fld_lt_two_pow v 13 8) present]

theorem exec_rasResetPartition (level : fld v 1 0 = 2) (captured : Bool) : exec (.rasResetPartition m v captured) s = .next
    (startReset { level := 3, posn := fld v 6 4, engine := 0, cause := cause } captured (setRasReset v s)) :=
  congrArg Host.Outcome.next (rasWrite_go master go level ..)

theorem exec_rasResetChipRequest (level : fld v 1 0 = 3) :
    exec (.rasResetChipRequest m v) s = .next (requestChip (setRasReset v s)) :=
  congrArg Host.Outcome.next (rasWrite_go master go level ..)

end Write

theorem exec_engineWatchdog_off {s : State} (off : fld s.ras.wdog 15 0 = 0) (posn : Posn) (engine : BitVec 6) (captured : Bool) :
    exec (.engineWatchdog posn engine false captured) s = .next s :=
  if_pos (by rw [off]; rfl)

theorem exec_engineWatchdog_transfer {s : State} {state : Bool} {engine : BitVec 6}
    (acts : state = true ∨ fld s.ras.wdog 15 0 ≠ 0) (transfer : engine.toNat < 32) (posn : Posn) (captured : Bool) :
    exec (.engineWatchdog posn engine state captured) s = .next (startReset
      { level := 2, posn := posn.val, engine := engine.toNat, cause := if state then capStateError else capWatchdog } captured s) := by
  have on : (!state && decide (fld s.ras.wdog 15 0 = 0)) = false := by
    rcases acts with failed | limited
    · rw [failed]; rfl
    · rw [decide_eq_false limited, Bool.and_false]
  show execEngineWatchdog posn engine state captured s = _
  simp only [execEngineWatchdog, on, engineRequest_of_present engine.isLt (.inl transfer)]
  rfl

/-! ### The ends of resets (R324, R326, R327, R330) -/

/-- The state but for the package's edges. -/
def besideEdges (s : State) : State := { s with pkg := State.reset.pkg }

theorem besideEdges_startEdge (e : Nat) (s : State) : besideEdges (startEdge e s) = besideEdges s := by
  unfold startEdge
  split <;> rfl

theorem besideEdges_resetEdges (n : Nat) (s : State) : besideEdges (resetEdges n s) = besideEdges s :=
  forAll_keeps besideEdges (f := fun e => modEdge e (resetEdge true (decide (edgeNear e = some n)) s.mgmt.ptb))
    (fun _ _ _ => rfl) s

/-- A position that is done with its reset. -/
def posReturned (guest : Bool) (p : Pos) : Pos := { p with st := if guest then .guest else .enabled, errata := true }

section Returning
variable {s : State} {posn : Posn} (inReset : (getPos s posn.val).st = .inReset)
include inReset

theorem exec_partitionResetTimeout_inReset :
    exec (.partitionResetTimeout posn) s = .next (modPos posn.val (fun p => { p with st := .outOfService }) s) :=
  if_pos inReset

theorem exec_partitionResetDone_inReset : exec (.partitionResetDone posn) s =
    .next (forAll ((List.range 14).filter (fun e => (edgeEnds e).contains posn.val)) startEdge
      (lockPlls posn.val (modPos posn.val (posReturned (fitsGuest s.fuses.part posn.val)) s))) :=
  if_pos inReset

end Returning

section EngineEnds
variable {s : State} {posn : Posn} {engine : BitVec 6}

theorem exec_engineResetDone_position (own : engine.toNat < 0x38) : exec (.engineResetDone posn engine) s =
    .next (modPos posn.val (fun p => { p with engReset := p.engReset.filter (fun k => decide (k ≠ engine.toNat)) }) s) :=
  congrArg Host.Outcome.next (if_neg (Nat.not_le.mpr own))

theorem exec_engineResetDone_hub (hub : 0x38 ≤ engine.toNat) : exec (.engineResetDone posn engine) s = .next { s with
    ras := { s.ras with hubReset := s.ras.hubReset.filter (fun k => decide (k ≠ engine.toNat)) } } :=
  congrArg Host.Outcome.next (if_pos hub)

theorem exec_engineResetTimeout_position (own : engine.toNat < 0x38)
    (late : (getPos s posn.val).engReset.contains engine.toNat = true) :
    exec (.engineResetTimeout posn engine) s = .next (partitionReset posn.val capWatchdog s) :=
  (if_neg (Nat.not_le.mpr own)).trans (if_pos late)

theorem exec_engineResetTimeout_hub (hub : 0x38 ≤ engine.toNat) (late : s.ras.hubReset.contains engine.toNat = true) :
    exec (.engineResetTimeout posn engine) s = .next (requestChip s) :=
  (if_pos hub).trans (if_pos late)

end EngineEnds

/-! ### What a partition reset clears (R327) -/

/-- The state in which a partition reset finds its position: what its loss costs has been done. -/
def positionLost (n : Nat) (s : State) : State :=
  endStreamsOf n (bankLostOn n 3 (snapsLostOn n (if fitsGuest s.fuses.part n then s else loseStepOf n s)))

theorem besideEdges_resetPosition (n : Nat) (s : State) :
    let t := positionLost n s
    besideEdges (resetPosition n s) = besideEdges (memZero (stageBase n) (stageBase n + 0x8000000)
      { modPos n (resetPos t.mgmt n) t with
        cells := t.cells.filter (fun kv => decide (cellPosn kv.1 ≠ n))
        sorg := t.sorg.filter (fun g => decide (cellPosn g.1 ≠ n))
        streams := t.streams.filter (fun kv => decide (kv.1 / 131072 ≠ n))
        fuses := { t.fuses with macMap :=
          (t.fuses.macMap.filter (fun kv => decide (cellPosn kv.1 < n)))
            ++ (t.fuses.macMapFused.filter (fun kv => decide (cellPosn kv.1 = n)))
            ++ (t.fuses.macMap.filter (fun kv => decide (n < cellPosn kv.1))) } }) :=
  besideEdges_resetEdges ..

theorem posns_resetPosition (n : Nat) (s : State) : (resetPosition n s).posns =
    SMap.upd Pos.init (positionLost n s).posns n (resetPos (positionLost n s).mgmt n) :=
  (congrArg State.posns (besideEdges_resetPosition n s) :)

theorem cells_resetPosition (n : Nat) (s : State) :
    (resetPosition n s).cells = (positionLost n s).cells.filter (fun kv => decide (cellPosn kv.1 ≠ n)) :=
  (congrArg State.cells (besideEdges_resetPosition n s) :)

theorem streams_resetPosition (n : Nat) (s : State) :
    (resetPosition n s).streams = (positionLost n s).streams.filter (fun kv => decide (kv.1 / 131072 ≠ n)) :=
  (congrArg State.streams (besideEdges_resetPosition n s) :)

theorem mem_resetPosition (n : Nat) (s : State) :
    (resetPosition n s).mem = (memZero (stageBase n) (stageBase n + 0x8000000) (positionLost n s)).mem :=
  (congrArg State.mem (besideEdges_resetPosition n s) :)

/-- Settles O57: requests by master and level, each end of a reset, and what `resetPosition` leaves. -/
theorem resets : Obligations.Resets := by
  refine ⟨fun s m v cap cause posn engine state r rest => ?ladder, fun s n small => ?cleared⟩
  case ladder =>
    intro set n e part eng dog go later
    refine ⟨fun other => ?_, fun master started => ⟨fun level present => ⟨fun open_ => ?_, fun ignored => ?_⟩,
        fun level => ⟨fun open_ => ?_, fun ignored => ?_⟩, exec_rasResetChipRequest master started⟩,
      ?_, fun acts transfer open_ => ?_,
      fun front => ?_, fun none_ => ?_, fun inReset => ⟨exec_partitionResetTimeout_inReset inReset, _,
        exec_partitionResetDone_inReset inReset, ?done⟩, fun back => ⟨if_neg back, if_neg back⟩,
      fun own => ⟨exec_engineResetDone_position own, exec_engineResetTimeout_position own⟩,
      fun hub => ⟨exec_engineResetDone_hub hub, exec_engineResetTimeout_hub hub⟩⟩
    · exact ⟨congrArg Host.Outcome.next (rasWrite_of_other other ..), congrArg Host.Outcome.next (rasWrite_of_other other ..),
        congrArg Host.Outcome.next (rasWrite_of_other other ..)⟩
    · exact (exec_rasResetEngine master started level present cap).trans (congrArg _ (startReset_of_open open_ cap))
    · exact (exec_rasResetEngine master started level present cap).trans (congrArg _ (startReset_of_ignored ignored cap))
    · exact (exec_rasResetPartition master started level cap).trans (congrArg _ (startReset_of_open open_ cap))
    · exact (exec_rasResetPartition master started level cap).trans (congrArg _ (startReset_of_ignored ignored cap))
    · rintro rfl off
      exact exec_engineWatchdog_off off posn engine cap
    · exact (exec_engineWatchdog_transfer acts transfer posn cap).trans (congrArg _ (startReset_of_open open_ cap))
    · show execCaptureLeaseExpiry s = _
      simp only [execCaptureLeaseExpiry, front]
      rfl
    · show execCaptureLeaseExpiry s = _
      simp only [execCaptureLeaseExpiry, none_]
    case done =>
      have only := forAll_keeps besideEdges (f := startEdge)
        (l := (List.range 14).filter (fun e => (edgeEnds e).contains posn.val)) (fun e _ => besideEdges_startEdge e)
        (lockPlls posn.val (modPos posn.val (posReturned (fitsGuest s.fuses.part posn.val)) s))
      have posns := congrArg State.posns only
      refine ⟨(congrArg (fun m => (SMap.get Pos.init m posn.val).st) posns).trans ?_,
        fun k other => (congrArg (SMap.get Pos.init · k) posns).trans ?_,
        (congrArg State.mem only :), (congrArg State.hif only :), (congrArg State.step only :)⟩
      · exact congrArg Pos.st (SMap.get_upd Pos.init s.posns posn.val (posReturned _))
      · exact SMap.get_upd_ne Pos.init s.posns posn.val k _ other
  case cleared =>
    intro t
    refine ⟨?_, fun k own => ?_, fun k own => ?_, fun a low high => ?_, (resetPosition_kept n s (Kept.self s)).factoryFuses⟩
    · rw [getPos, posns_resetPosition, SMap.get_upd]
      rfl
    · rw [getCell, cells_resetPosition]
      exact SMap.get_filter_out Cell.init _ _ k fun _ => decide_eq_false (not_not_intro own)
    · rw [getStream, streams_resetPosition]
      exact SMap.get_filter_out StreamCtx.init _ _ k fun _ => decide_eq_false (not_not_intro own)
    · rw [mem_resetPosition, get_memZero, if_pos ⟨low, high⟩]

end Sys2Proof.Machine
end

section
/-! PROOFS. BANK START, the bank at work and its ends, and RESTORE (R352 to R366). -/

namespace Sys2Proof.Machine

/-! ### BANK START and BANK CANCEL (R352 to R356, R362) -/

section Bank
variable {s : State} {c : Ctx} {d : Desc} {peer : List (Nat × Byte)} (starting : startingOf s c 0x0A = some d)
include starting

section Start
variable (start : dfld d.words 0x10 3 0 = 1)
include start

theorem exec_bankStart_refused {off : Nat} (offends : bankListBad s c (dfld d.words 0x28 47 0) = some off) :
    exec (.bankStart c peer) s = .next (finishStarting c d stBankRefused off s) := by
  show execBankStart c peer s = _
  simp only [execBankStart, starting, start, ne_eq, not_true_eq_false, if_false, offends]

section Good
variable (good : bankListBad s c (dfld d.words 0x28 47 0) = none)
include good

theorem exec_bankStart_busy {r : BankRun} (run : s.bank.run = some r) :
    exec (.bankStart c peer) s = .next (finishStarting c d stBankBusy (r.plan.step.toNat % 2 ^ 32) s) := by
  show execBankStart c peer s = _
  simp only [execBankStart, starting, start, ne_eq, not_true_eq_false, if_false, good, run]

section Idle
variable (idle : s.bank.run = none)
include idle

/-- A good list starts a bank while none is under way: too late, or armed for the step that it names. -/
theorem exec_bankStart_idle : exec (.bankStart c peer) s =
    let p := bankPlan s d.words
    let all := decide (p.step = BitVec.allOnes 64)
    if !all && boundaryPassed s p.step then .next (finishStarting c d stBankLate (p.step.toNat % 2 ^ 32) s)
    else .next (armBank c (some d.key) (all && (oldestUnresolved s c).isNone) peer
      { p with step := if all then (oldestUnresolved s c).getD p.step else p.step } (keepStarting c d s)) := by
  show execBankStart c peer s = _
  simp only [execBankStart, starting, start, ne_eq, not_true_eq_false, if_false, good, idle]

theorem exec_bankStart_late (named : (bankPlan s d.words).step ≠ BitVec.allOnes 64)
    (past : (bankPlan s d.words).step < s.step.number) : exec (.bankStart c peer) s =
      .next (finishStarting c d stBankLate ((bankPlan s d.words).step.toNat % 2 ^ 32) s) := by
  rw [exec_bankStart_idle starting start good idle]
  simp only [decide_eq_false named, boundaryPassed, decide_eq_true past, Bool.not_false, Bool.and_self, if_true]

theorem exec_bankStart_armed (named : (bankPlan s d.words).step ≠ BitVec.allOnes 64)
    (ahead : ¬(bankPlan s d.words).step < s.step.number) : exec (.bankStart c peer) s =
      .next (armBank c (some d.key) false peer (bankPlan s d.words) (keepStarting c d s)) := by
  rw [exec_bankStart_idle starting start good idle]
  simp only [decide_eq_false named, boundaryPassed, decide_eq_false ahead, Bool.and_false, Bool.false_and, Bool.false_eq_true,
    if_false]

/-- STEP all ones without an unresolved step: the bank is marked at once. -/
theorem exec_bankStart_atOnce (all : (bankPlan s d.words).step = BitVec.allOnes 64) (resolved : oldestUnresolved s c = none) :
    exec (.bankStart c peer) s =
      .next (armBank c (some d.key) true peer (bankPlan s d.words) (keepStarting c d s)) := by
  rw [exec_bankStart_idle starting start good idle]
  simp only [decide_eq_true all, resolved, Bool.not_true, Bool.false_and, Bool.false_eq_true, if_false, if_true, Option.isNone_none,
    Bool.and_self, Option.getD_none]

end Idle
end Good
end Start

section Cancel
variable (cancel : dfld d.words 0x10 3 0 = 2)
include cancel

theorem exec_bankCancel_own {r : BankRun} (run : s.bank.run = some r) (own : r.ctx = c) :
    exec (.bankCancel c) s = .next (finishStarting c d stOk 0 (bankLost 6 s)) := by
  show execBankCancel c s = _
  simp only [execBankCancel, starting, cancel, ne_eq, not_true_eq_false, if_false, run, Option.any_some, own, beq_self_eq_true,
    if_true]

theorem exec_bankCancel_none (idle : s.bank.run = none) :
    exec (.bankCancel c) s = .next (finishStarting c d stBankRefused 0 s) := by
  show execBankCancel c s = _
  simp only [execBankCancel, starting, cancel, ne_eq, not_true_eq_false, if_false, idle, Option.any_none, Bool.false_eq_true]

end Cancel
end Bank

/-! ### The bank at work (R357 to R362) -/

/-- The state that a bank leaves when it is done: the manifest with its first 8 bytes last, the engine's registers, and the event. -/
def bankFinished (r : BankRun) (s : State) : State :=
  let m := manifestBody s r ++ r.signature
  let loc := slotLoc r.plan r.slot
  raise 0x0903 (hubUnit 2) { ctx := some r.ctx, arg0 := flag r.slot, arg1 := r.nextStep.toNat }
    (modBank (fun b => { b with run := none, lastAuto := r.auto, lastSlot := r.slot
                                template := if r.auto then b.template else some (r.ctx, r.plan) })
      (writeLoc r.ctx loc 0 (m.take 8) (writeLoc r.ctx loc 8 (m.drop 8) s)))

/-- What the end of the copy of a bank's shards leaves (R357, R362). -/
def bankCopied (r : BankRun) (e : CopyEnd) (s : State) : State :=
  let written := writeShards r s
  match e with
  | .accepted => modBank (fun b => { b with
      run := some { r with st := .signing, signature := idSign written (manifestBody written r) } }) written
  | .readFailed => clearCheck (bankLost 1 s)
  | .pathLost => bankLost 4 s
  | .peerRefused => bankLost 5 s

section Run
variable {s : State} {r : BankRun} (run : s.bank.run = some r)
include run

section Work
variable (banking : r.st = .banking)
include banking

theorem exec_bankSign_banking (e : CopyEnd) : exec (.bankSign e) s = .next (bankCopied r e s) := by
  show execBankSign e s = _
  simp only [execBankSign, run, banking, ne_eq, not_true_eq_false, if_false]
  cases e
  all_goals rfl

theorem exec_bankSignTimeout_banking : exec .bankSignTimeout s = .next (bankLost 7 (writeShards r s)) := by
  show execBankSignTimeout s = _
  simp only [execBankSignTimeout, run, banking]

end Work

section Sign
variable (signing : r.st = .signing)
include signing

theorem exec_bankSignTimeout_signing : exec .bankSignTimeout s = .next (bankLost 7 s) := by
  show execBankSignTimeout s = _
  simp only [execBankSignTimeout, run, signing]

theorem exec_bankDone_keyed {k : Nat} (key : r.key = some k) :
    exec .bankDone s = .next (completeKey r.ctx k stOk 0 0 (bankFinished r s)) := by
  show execBankDone s = _
  simp only [execBankDone, run, signing, ne_eq, not_true_eq_false, if_false, key, bankFinished]

theorem exec_bankDone_auto (key : r.key = none) : exec .bankDone s = .next (bankFinished r s) := by
  show execBankDone s = _
  simp only [execBankDone, run, signing, ne_eq, not_true_eq_false, if_false, key, bankFinished]

end Sign
end Run

/-- Settles O44: BANK by its OP and its list, and the present bank by its state. -/
theorem banking : Obligations.Banking := by
  intro s c d peer r w list p kept done m loc fin
  refine ⟨fun starting start => ⟨fun off => exec_bankStart_refused starting start,
      fun good run => exec_bankStart_busy starting start good run,
      fun good idle named => ⟨exec_bankStart_late starting start good idle named,
        exec_bankStart_armed starting start good idle named⟩, exec_bankStart_atOnce starting start⟩,
    fun starting cancel => ⟨exec_bankCancel_own starting cancel, exec_bankCancel_none starting cancel⟩,
    fun run banking => ⟨exec_bankSign_banking run banking .accepted, exec_bankSign_banking run banking .readFailed,
      exec_bankSign_banking run banking .pathLost, exec_bankSign_banking run banking .peerRefused,
      exec_bankSignTimeout_banking run banking⟩,
    fun run signing => ⟨exec_bankSignTimeout_signing run signing, fun k key => exec_bankDone_keyed run signing key,
      exec_bankDone_auto run signing⟩⟩

/-! ### RESTORE (R363 to R366) -/

theorem outsideMem_writeBs16 (a n b : Nat) (vs : List (BitVec 32)) (s : State) :
    outsideMem (writeBs16 a n b vs s) = outsideMem s :=
  rfl

theorem outsideMem_writeRestored (r : RestoreShard) (bs : List Byte) (s : State) :
    outsideMem (writeRestored r bs s) = outsideMem s := by
  have first : outsideMem (if r.kind = 2 && r.narrow then
      forAll (List.range (momentCount bs.length r.narrow / 1024)) (fun b s =>
        writeBs16 r.dst (momentCount bs.length r.narrow) b (narrowBlock bs (momentCount bs.length r.narrow) b) s) s
      else memWrite r.dst bs s) = outsideMem s := by
    split
    · exact forAll_keeps outsideMem (fun b _ t => outsideMem_writeBs16 ..) s
    · rfl
  unfold writeRestored
  dsimp only
  split
  · exact first
  · exact first

/-- The second pass of a RESTORE: every shard is written as it was read again. -/
def secondPass (peer : List (Nat × Byte)) (r : RestoreRun) (s : State) : State :=
  forAll (r.shards.zip (r.shards.map (fun h => readLoc s peer h.loc 0 h.first.length))) (fun q s => writeRestored q.1 q.2 s) s

theorem outsideMem_secondPass (peer : List (Nat × Byte)) (r : RestoreRun) (s : State) :
    outsideMem (secondPass peer r s) = outsideMem s :=
  forAll_keeps outsideMem (fun q _ t => outsideMem_writeRestored q.1 q.2 t) s

theorem bank_secondPass (peer : List (Nat × Byte)) (r : RestoreRun) (s : State) : (secondPass peer r s).bank = s.bank :=
  (congrArg State.bank (outsideMem_secondPass peer r s) :)

theorem step_secondPass (peer : List (Nat × Byte)) (r : RestoreRun) (s : State) : (secondPass peer r s).step = s.step :=
  (congrArg State.step (outsideMem_secondPass peer r s) :)

theorem getCtx_secondPass (peer : List (Nat × Byte)) (r : RestoreRun) (s : State) (c : Ctx) :
    getCtx (secondPass peer r s) c = getCtx s c := by
  have hif : (secondPass peer r s).hif = s.hif := (congrArg State.hif (outsideMem_secondPass peer r s) :)
  rw [getCtx, hif, getCtx]

/-- The state in which a RESTORE that has passed raises its event (R366). -/
def restored (c : Ctx) (r : RestoreRun) (s : State) : State :=
  modCtx c (fun x => { x with shrunk := false })
    (modStep (fun e => { e with
        number := r.nextStep, next := r.nextStep, cursor := r.cursor, mirror := mirrorAfterRestore e.mirror })
      (modBank (fun b => { b with
        restore := .done, restoreRun := none, restoreCtx := none, restoreStep := BitVec.ofNat 32 r.nextStep.toNat }) s))

section Restore
variable {s : State} {c : Ctx} {peer : List (Nat × Byte)}

section Begin
variable {d : Desc} (starting : startingOf s c 0x0C = some d) (idle : s.bank.restoreRun = none)
include starting idle

theorem exec_restore_refused {st det : Nat}
    (refused : restoreRefusal s c peer (restoreJob s peer d.words) = some (st, det)) :
    exec (.restore c peer) s = .next (finishStarting c d st det s) := by
  show execRestore c peer s = _
  simp only [execRestore, starting, idle, Option.any_none, Bool.false_eq_true, if_false, refused]

theorem exec_restore_begins (good : restoreRefusal s c peer (restoreJob s peer d.words) = none) : exec (.restore c peer) s =
    let j := restoreJob s peer d.words
    let run : RestoreRun :=
      { ctx := c, key := d.key, nextStep := BitVec.ofNat 64 j.own.nextStep
        cursor := BitVec.ofNat 64 (leAt j.own.bytes 0x10 8), signer := j.own.signer
        shards := j.entries.flatMap (restoreShard s peer j) }
    .next (modBank (fun b => { b with restore := .running, restoreRun := some run }) (keepStarting c d s)) := by
  show execRestore c peer s = _
  simp only [execRestore, starting, idle, Option.any_none, Bool.false_eq_true, if_false, good]

end Begin

/-- The first shard that its second reading does not give again, if any. -/
def changedShard (s : State) (peer : List (Nat × Byte)) (r : RestoreRun) : Option Nat :=
  placeOf (fun q => decide (q.1.first ≠ q.2))
    (r.shards.zip (r.shards.map (fun h => readLoc s peer h.loc 0 h.first.length)))

variable {r : RestoreRun}

theorem changedShard_of_same
    (same : r.shards.map RestoreShard.first = r.shards.map (fun h => readLoc s peer h.loc 0 h.first.length)) :
    changedShard s peer r = none := by
  have pairs : r.shards.zip (r.shards.map RestoreShard.first) = r.shards.map (fun h => (h, h.first)) := by
    rw [List.zip_map_right, List.zip_eq_zipWith]
    simp
  refine placeOf_eq_none_of_find? (List.find?_eq_none.mpr fun q mem => ?_)
  rw [← same, pairs] at mem
  obtain ⟨h, _, rfl⟩ := List.mem_map.mp mem
  simp

section Complete
variable (run : s.bank.restoreRun = some r) (own : r.ctx = c)
include run own

theorem exec_restoreComplete_same (same : changedShard s peer r = none) : exec (.restoreComplete c peer) s =
    .next (completeKey c r.key stOk 0 0 (raise 0x0905 (hubUnit 2)
      { ctx := some c, arg0 := leNat (r.signer.take 4), arg1 := r.nextStep.toNat } (restored c r (secondPass peer r s)))) := by
  show execRestoreComplete c peer s = _
  unfold changedShard at same
  simp only [execRestoreComplete, run, own, ne_eq, not_true_eq_false, if_false, same]
  rfl

theorem exec_restoreComplete_differs {i : Nat} (differs : changedShard s peer r = some i) : exec (.restoreComplete c peer) s =
    .next (completeKey c r.key stRestoreDigest i 0 (modBank (fun b => { b with
      restore := .failed, restoreRun := none, restoreCtx := some (c, (getCtx (secondPass peer r s) c).gen) })
      (secondPass peer r s))) := by
  show execRestoreComplete c peer s = _
  unfold changedShard at differs
  simp only [execRestoreComplete, run, own, ne_eq, not_true_eq_false, if_false, differs]
  rfl

end Complete
end Restore

/-- Settles O45: the first check that fails, the first pass, and the second pass by whether it reads the same again. -/
theorem restores : Obligations.Restores := by
  intro s c d peer r j run again
  refine ⟨fun starting idle => ⟨fun st det refused => exec_restore_refused starting idle refused,
      fun good => exec_restore_begins starting idle good⟩,
    fun restoring own same => ⟨restored c r (secondPass peer r s),
      exec_restoreComplete_same restoring own (changedShard_of_same same), ?_, ?_, ?_, fun m other => ?_, rfl⟩,
    fun restoring own i differs => ?_⟩
  · rw [← bank_secondPass peer r s]
    rfl
  · rw [← step_secondPass peer r s]
    rfl
  · rw [restored, getCtx_modCtx_same, ← getCtx_secondPass peer r s]
    rfl
  · rw [restored, getCtx_modCtx_ne _ _ _ other]
    exact getCtx_secondPass peer r s m
  · rw [exec_restoreComplete_differs restoring own differs, getCtx_secondPass]
    rfl

end Sys2Proof.Machine
end

section
/-! PROOFS. Shadow admission at the follower (R344 to R346). -/

namespace Sys2Proof.Machine

/-! ### RAS_SHADOW_CFG (R344, R347) -/

/-- The lower half of a word reads what has been set there. -/
theorem fld_setFld_low (w : BitVec 32) {v : Nat} (small : v < 65536) : fld (setFld w 15 0 v) 15 0 = v := by
  have bound := w.isLt
  simp only [fld, bitsOf, setFld, BitVec.toNat_ofNat]
  omega

/-- The registers of the shadow once RAS_SHADOW_CFG has been written, before its role acts. -/
def shadowCfgSet (v : BitVec 32) (s : State) : State :=
  modRas (fun r => { r with
    shadowCfg := setFld r.shadowCfg 15 0 (fld v 15 0), shadowAdmitW := BitVec.ofNat 16 (fld v 31 16)
    shadowSent := r.shadowSent && decide (fld v 15 14 = 1) }) s

section Written
variable {s : State} (v : BitVec 32)

theorem writeShadowCfg_of_off (off : s.ras.shadowState = .off) : writeShadowCfg v s =
    if fld v 15 14 = 2 then startFollowing (fld v 13 0) (shadowCfgSet v s) else shadowCfgSet v s := by
  have state : (shadowCfgSet v s).ras.shadowState = .off := off
  unfold shadowCfgSet at state ⊢
  simp only [writeShadowCfg, state]

theorem writeShadowCfg_of_left
    (left : s.ras.shadowState = .ejected ∨ s.ras.shadowState = .lost ∨ s.ras.shadowState = .admitted) : writeShadowCfg v s =
    if fld v 15 14 = 0 then modRas (fun r => { r with shadowState := .off }) (shadowCfgSet v s) else shadowCfgSet v s := by
  obtain state | state | state := left
  all_goals
    have still : (shadowCfgSet v s).ras.shadowState = _ := state
    unfold shadowCfgSet at still ⊢
    simp only [writeShadowCfg, still]

end Written

/-- A partition entry with the rank that the map gives a coordinate. -/
def rankTaken (peer : Nat) (e : Part) : Part := { e with ranked := true, rank := BitVec.ofNat 14 (rankAt e peer) }

/-- A package that is told to follow takes the leader's rank where its entry has none. -/
theorem exec_shadowCfgWrite_follow {s : State} {v : BitVec 32} {c : Ctx} {k : Nat} (off : s.ras.shadowState = .off)
    (role : fld v 15 14 = 2) (holder : stepHolder s = some c) (bound : boundEntry s c = some k)
    (free : (getPart s k).ranked = false) : exec (.shadowCfgWrite v) s =
      .next (modRas (fun r => { r with shadowEntry := k })
        (modPart k (rankTaken (fld v 13 0))
          (modRas (fun r => { r with shadowState := .loading, shadowMatched := 0, shadowQ := [] }) (shadowCfgSet v s)))) := by
  have entry : (stepHolder (modRas (fun r => { r with shadowState := .loading, shadowMatched := 0, shadowQ := [] })
      (shadowCfgSet v s))).bind (boundEntry (modRas (fun r => { r with shadowState := .loading, shadowMatched := 0, shadowQ := [] })
      (shadowCfgSet v s))) = some k := by
    show (stepHolder s).bind (boundEntry s) = some k
    rw [holder, Option.bind_some, bound]
  have unranked : (getPart (modRas (fun r => { r with shadowState := .loading, shadowMatched := 0, shadowQ := [] })
      (shadowCfgSet v s)) k).ranked = false := free
  show Host.Outcome.next (writeShadowCfg v s) = _
  rw [writeShadowCfg_of_off v off, if_pos role]
  simp only [startFollowing, entry, unranked, Bool.false_eq_true, if_false]
  rfl

/-- A follower that has left its role is off once its role is 0. -/
theorem exec_shadowCfgWrite_left {s : State} {v : BitVec 32}
    (left : s.ras.shadowState = .ejected ∨ s.ras.shadowState = .lost ∨ s.ras.shadowState = .admitted) (role : fld v 15 14 = 0) :
    exec (.shadowCfgWrite v) s = .next (modRas (fun r => { r with shadowState := .off }) (shadowCfgSet v s)) :=
  congrArg Host.Outcome.next ((writeShadowCfg_of_left v left).trans (if_pos role))

/-! ### The leader's state (R344, R346) -/

/-- A byte of memory that no pulled byte of the area names stays. -/
theorem get_writePulled_other {p : Nat → Bool} {data : List (Nat × Byte)} {a : Nat} (other : ∀ c ∈ data, c.1 = a → p a = false)
    (s : State) : SMap.get 0 (writePulled p data s).mem a = SMap.get 0 s.mem a := by
  refine forAll_keeps (fun t => SMap.get 0 t.mem a) (fun c mem t => ?_) s
  obtain ⟨mem, inArea⟩ := List.mem_filter.mp mem
  have apart : c.1 ≠ a := fun same => Bool.false_ne_true ((other c mem same).symm.trans (same ▸ inArea))
  exact SMap.get_writeRun_out 0 t.mem c.1 a [c.2] (by simp only [List.length_singleton]; omega)

theorem get_writePulled_one {p : Nat → Bool} {a : Nat} (inArea : p a = true) (b : Byte) (s : State) :
    SMap.get 0 (writePulled p [(a, b)] s).mem a = b := by
  have one : [(a, b)].filter (fun c => p c.1) = [(a, b)] :=
    List.filter_eq_self.mpr fun c mem => List.mem_singleton.mp mem ▸ inArea
  rw [writePulled, one]
  exact SMap.get_writeRun_in 0 s.mem a 0 [b] Nat.one_pos

theorem exec_shadowStateLoaded_loading {s : State} (loading : s.ras.shadowState = .loading) (data : List (Nat × Byte))
    (n cursor : BitVec 64) : exec (.shadowStateLoaded data n cursor) s =
      .next (modRas (fun r => { r with shadowState := .following }) (modStep (fun e => { e with number := n, cursor := cursor })
        (writePulled (fun a => reaches (getCtx s (getPart s s.ras.shadowEntry).ctx) a 1) data s))) :=
  if_pos loading

/-! ### Records (R345, R346) -/

section Records
variable {s : State} (following : s.ras.shadowState = .following) (noneWaits : s.ras.shadowQ = [])
include following noneWaits

/-- The first record is settled at once, if it can be. -/
theorem exec_shadowRecordReceive_first (step : BitVec 64) (out : BitVec 2) (mask : List (BitVec 32)) (ds : List (BitVec 64)) :
    let r : ShadowRec := { step := step, outcome := out, mask := maskOfWords mask, digests := ds }
    exec (.shadowRecordReceive step out mask ds) s = .next (settleRecord (modRas (fun q => { q with shadowQ := [r] }) s)) := by
  intro r
  have still : (modRas (fun q => { q with shadowQ := [r] }) s).ras.shadowState = .following := following
  refine (if_pos following).trans (congrArg Host.Outcome.next ?_)
  simp only [modRas, noneWaits, List.nil_append]
  exact if_pos still

end Records

section Settle
variable {s : State} {r : ShadowRec}

section Front
variable {rest : List ShadowRec} (queue : s.ras.shadowQ = r :: rest) (outcome : r.outcome ≠ 2)
include queue outcome

/-- A record of a step that is not held waits, unless it aborts. -/
theorem settleRecord_of_unheld (unheld : heldPlace s r.step = none) : settleRecord s = s := by
  simp only [settleRecord, queue, unheld, outcome, if_false]

/-- A record of a cast step is taken. -/
theorem settleRecord_of_cast {i : Nat} {h : Held} (place : heldPlace s r.step = some i) (held : heldStep s r.step = some h)
    (cast_ : h.st = .cast) : settleRecord s = takeRecord i h r (modRas (fun q => { q with shadowQ := rest }) s) := by
  simp only [settleRecord, queue, place, held, outcome, if_false, cast_, if_true]

end Front

/-- A SKIP compares the digests of the output tensors. -/
theorem takeRecord_skip (skip : r.outcome = 1) (i : Nat) (h : Held) : takeRecord i h r s =
    if h.outCrc.map Prod.snd = r.digests then stepMatches (resolveSkip i s) else stepDiffers r.step (resolveSkip i s) := by
  simp only [takeRecord, skip, if_true]

end Settle

/-- Settles O42: the role, the leader's state, a record before and after its step's cast, and no record in time. -/
theorem shadowAdmission : Obligations.ShadowAdmission := by
  intro s v c k i h data n cur step out mask ds st role r base left
  refine ⟨fun off follow holder bound free => ⟨_, exec_shadowCfgWrite_follow off follow holder bound free, rfl, rfl, rfl, rfl, ?_,
      ?_, fun m other => ?_, ?_⟩, fun gone none_ => ⟨_, exec_shadowCfgWrite_left gone none_, rfl, rfl⟩,
    fun loading => ⟨_, exec_shadowStateLoaded_loading loading data n cur, rfl, ?_, fun a other => get_writePulled_other other s,
      fun a b one reached => ?_⟩, fun following empty unheld outcome => ?_, fun following empty place held cast_ skip => ?_,
    fun follows => ⟨leaveShadow .lost 0x0808 0 s, if_pos ?_, rfl, rfl, ?_, rfl, rfl, rfl⟩⟩
  · exact fld_setFld_low s.ras.shadowCfg (Nat.mod_lt _ (by decide))
  · exact SMap.get_upd Part.init s.fab.parts k (rankTaken (fld v 13 0))
  · exact SMap.get_upd_ne Part.init s.fab.parts k m (rankTaken (fld v 13 0)) other
  · dsimp only [modRas, modPart, shadowCfgSet]
  · exact congrArg (fun e : StepEng => { e with number := n, cursor := cur })
      (writePulled_keeps (g := State.step) (fun _ _ _ => rfl) _ data s)
  · exact one ▸ get_writePulled_one (p := fun a => reaches (getCtx s (getPart s base).ctx) a 1) reached b s
  · exact (exec_shadowRecordReceive_first following empty step out mask ds).trans (congrArg Host.Outcome.next
      (settleRecord_of_unheld (s := modRas (fun q => { q with shadowQ := [r] }) s) (r := r) rfl outcome unheld))
  · have named : r.outcome ≠ 2 := by rw [show r.outcome = 1 from skip]; decide
    have emptied : modRas (fun q => { q with shadowQ := [] }) (modRas (fun q => { q with shadowQ := [r] }) s) = s := by
      show modRas (fun q => { q with shadowQ := [] }) s = s
      rw [← empty]
      rfl
    have settled := settleRecord_of_cast (s := modRas (fun q => { q with shadowQ := [r] }) s) (r := r) rfl named place held cast_
    rw [exec_shadowRecordReceive_first following empty step out mask ds, settled, emptied, takeRecord_skip skip]
    exact ⟨fun same => congrArg _ (if_pos same), fun differ => congrArg _ (if_neg differ)⟩
  · simpa [follower] using follows
  · exact congrArg Part.ranked (getPart_modPart_same _ (fun e => { e with ranked := false }) _)

end Sys2Proof.Machine
end

section
/-! PROOFS. Rounds of DRAINED and REPLAY with their leases, and the promotion of a spare (R315, R317, R335 to R337, R339). -/

namespace Sys2Proof.Machine

/-! ### What moves PTB alone, and what only sends -/

theorem advanceTo_keeps {β : Type} (g : State → β) (blind : ∀ s m, g { s with mgmt := m } = g s) (t : BitVec 64) (s : State) :
    g (advanceTo t s) = g s := by
  unfold advanceTo
  split
  · exact blind ..
  · rfl

theorem BlindToSends.sendTc0 {β : Type} {g : State → β} (blind : BlindToSends g) (ports : List Nat) (msg : Tc0) (s : State) :
    g (sendTc0 ports msg s) = g s :=
  forAll_keeps g (fun port _ t => sendTc0On_keepsState g (fun s ports tc0 sent => blind s ports tc0 sent s.fab.drop) msg port t) s

theorem BlindToSends.sendRollCall {β : Type} {g : State → β} (blind : BlindToSends g) (c : Ctx) (r : Round) (rank : Nat)
    (s : State) : g (sendRollCall c r rank s) = g s := by
  unfold Machine.sendRollCall
  split
  · rfl
  · exact blind.sendTc0To ..

theorem holds_of_placeOf {α : Type} {p : α → Bool} {l : List α} {i : Nat} {a : α} (place : placeOf p l = some i)
    (at_ : l[i]? = some a) : p a = true := by
  induction l generalizing i with
  | nil => cases at_
  | cons b l ih =>
    by_cases first : p b = true
    · obtain rfl : 0 = i := Option.some.inj ((if_pos first).symm.trans place)
      exact Option.some.inj at_ ▸ first
    · obtain ⟨j, rest, rfl⟩ := Option.map_eq_some_iff.mp ((if_neg first).symm.trans place)
      exact ih rest at_

/-! ### A replay (R287, R295, R315) -/

/-- The state but for the program memories. -/
def besideProg (s : State) : State := { s with prog := [], progReload := [] }

theorem besideProg_reloadBodies (s : State) : besideProg (reloadBodies s) = besideProg s := by
  refine forAll_keeps besideProg (fun k _ t => ?_) s
  dsimp only
  split <;> rfl

theorem step_reloadBodies (s : State) : (reloadBodies s).step = s.step :=
  (congrArg State.step (besideProg_reloadBodies s) :)

/-- What a replay leaves in the step engine. -/
theorem step_replayHere (c : Ctx) (r : Round) (s : State) : (replayHere c r s).step = { s.step with
    openAttempt := if s.step.held.any (fun h => h.ctx == c && decide (h.st = .aborting) && h.step == r.step)
      then s.step.openAttempt else some (r.step, r.attempt)
    held := reopenHeld c s.step.held
    votes := s.step.votes.filter (fun v => decide (msgOutcome v.msg ≠ 3)), round := none } := by
  rw [← step_reloadBodies s]
  rfl

/-- Without a step that has halted, every ABORTING step of the context reopens under its next attempt. -/
theorem reopenHeld_of_none_halted {c : Ctx} {l : List Held} (none_ : ∀ x ∈ l, x.ctx = c → x.st ≠ .halted) :
    reopenHeld c l = l.map (fun h =>
      if h.ctx = c ∧ h.st = .aborting then { h with st := .opened, attempt := h.attempt + 1 } else h) := by
  induction l with
  | nil => rfl
  | cons h l ih =>
    have going : ¬ (h.ctx == c && decide (h.st = .halted)) = true := by
      simpa using none_ h List.mem_cons_self
    rw [reopenHeld, if_neg going, ih fun x mem => none_ x (List.mem_cons_of_mem h mem), List.map_cons]
    simp

theorem fetchStopped_replayHere (c : Ctx) (r : Round) (s : State) : (getCtx (replayHere c r s) c).fetchStopped = false := by
  unfold replayHere
  dsimp only
  rw [getCtx_headWriteBack, getCtx_modCtx_same]

/-- What a replay, and what is sent for it, leaves of the state. -/
def replayView (s : State) : SMap Byte × SMap Cell × Ras × StepEng :=
  (s.mem, s.cells, s.ras, { s.step with held := [], votes := [], round := none, openAttempt := none })

theorem replayView_blindToSends : BlindToSends replayView := fun _ _ _ _ _ => rfl

theorem replayView_replayHere (c : Ctx) (r : Round) (s : State) : replayView (replayHere c r s) = replayView s :=
  (congrArg replayView (besideProg_reloadBodies s) :)

theorem replayView_floodOwn (k : Nat) (msg : Tc0) (s : State) : replayView (floodOwn k msg s) = replayView s :=
  replayView_blindToSends.sendTc0 ..

theorem replayView_floodResolve (c : Ctx) (step : BitVec 64) (attempt : BitVec 4) (outcome : Nat) (mask : BitVec 1024) (s : State) :
    replayView (floodResolve c step attempt outcome mask s) = replayView s := by
  unfold floodResolve
  split
  · rfl
  · exact forAll_keeps replayView (fun b _ t => replayView_floodOwn ..) s

theorem replayView_voteUp (c : Ctx) (step : BitVec 64) (attempt : BitVec 4) (outcome : Nat) (mask : BitVec 1024) (s : State) :
    replayView (voteUp c step attempt outcome mask s) = replayView s := by
  unfold voteUp
  split
  · rfl
  · exact forAll_keeps replayView (fun b _ t => replayView_blindToSends.sendTc0To ..) s

theorem replayView_tryDrained (s : State) : replayView (tryDrained s) = replayView s := by
  unfold tryDrained
  split
  · split
    · rfl
    · split
      · split
        · exact (replayView_replayHere ..).trans (replayView_floodResolve ..)
        · exact (replayView_voteUp ..).trans rfl
      · rfl
  · rfl

theorem replayView_castDrained (s : State) : replayView (castDrained s) = replayView s := by
  unfold castDrained
  split
  · split
    · rfl
    · refine (replayView_tryDrained _).trans ?_
      split
      · rfl
      · exact replayView_blindToSends.sendRollCall ..
  · rfl

theorem mem_castDrained (s : State) : (castDrained s).mem = s.mem :=
  congrArg Prod.fst (replayView_castDrained s)

theorem cells_castDrained (s : State) : (castDrained s).cells = s.cells :=
  congrArg (·.2.1) (replayView_castDrained s)

theorem ras_castDrained (s : State) : (castDrained s).ras = s.ras :=
  congrArg (·.2.2.1) (replayView_castDrained s)

/-- Of the step engine only what a replay of the held steps needs changes. -/
theorem step_castDrained (s : State) :
    { (castDrained s).step with held := [], votes := [], round := none, openAttempt := none } =
      { s.step with held := [], votes := [], round := none, openAttempt := none } :=
  congrArg (·.2.2.2) (replayView_castDrained s)

/-! ### The drain and DRAINED (R315, R317, R335) -/

section Ranked
variable {s : State} {c : Ctx} {k : Nat} (bound : boundEntry s c = some k)
include bound

theorem rankOf_of_bound : rankOf s c = (getPart s k).rank := by
  simp only [rankOf, bound]

theorem rankTotal_of_bound : rankTotal s c = rankCount (getPart s k) := by
  simp only [rankTotal, bound]

theorem rankless_of_ranked (ranked : (getPart s k).ranked = true) : rankless s c = false := by
  simp only [rankless, bound, ranked, Bool.not_true]

end Ranked

section Drained
variable {s : State} {c : Ctx} {r : Round} (round : s.step.round = some r) (holder : stepHolder s = some c)
include round

theorem tryDrained_of_draining (own : r.ownDrained = false) : tryDrained s = s := by
  cases holder : stepHolder s with
  | none => simp only [tryDrained, round, holder]
  | some c => simp only [tryDrained, round, holder, own, Bool.not_false, Bool.true_or, if_true]

include holder

theorem tryDrained_of_missing {q : Nat} (child : q ∈ childRanks (rankOf s c).toNat (rankTotal s c))
    (missing : holdsDrained s r false q = false) : tryDrained s = s := by
  have waits : (childRanks (rankOf s c).toNat (rankTotal s c)).all (holdsDrained s r false) = false :=
    List.all_eq_false.mpr ⟨q, child, ne_true_of_eq_false missing⟩
  simp only [tryDrained, round, holder, waits, Bool.false_eq_true, if_false, ite_self]

/-- Once every child's is here, the root floods REPLAY. -/
theorem tryDrained_of_root (drained : r.ownDrained = true) (unsent : r.sentUp = false) (own : follower s = false)
    (ranked : rankless s c = false) (root : rankOf s c = 0)
    (all : ∀ q ∈ childRanks 0 (rankTotal s c), holdsDrained s r false q = true) :
    tryDrained s = replayHere c r (floodResolve c r.step r.attempt 3 0 s) := by
  have children : (childRanks (rankOf s c).toNat (rankTotal s c)).all (holdsDrained s r false) = true := by
    rw [root]
    exact List.all_eq_true.mpr all
  simp only [tryDrained, round, holder, drained, unsent, own, ranked, Bool.not_true, Bool.or_self, Bool.false_eq_true, if_false,
    children, if_true]
  exact if_pos (decide_eq_true root)

/-- A member with a child that has not drained casts its DRAINED and waits. -/
theorem castDrained_of_missing {k q : Nat} (bound : boundEntry s c = some k) (ranked : (getPart s k).ranked = true)
    (member : (getPart s k).rank ≠ 0) (child : q ∈ childRanks (getPart s k).rank.toNat (rankCount (getPart s k)))
    (missing : holdsDrained s r false q = false) :
    castDrained s = sendRollCall c r 0 (modStep (fun e => { e with round := some { r with ownDrained := true } }) s) := by
  let t := modStep (fun e => { e with round := some { r with ownDrained := true } }) s
  have sent {β : Type} {g : State → β} (blind : BlindToSends g) : g (sendRollCall c r 0 t) = g t := blind.sendRollCall ..
  have rank : rankOf t c = (getPart s k).rank := rankOf_of_bound (s := t) bound
  have waits : tryDrained (sendRollCall c r 0 t) = sendRollCall c r 0 t := by
    refine tryDrained_of_missing (r := { r with ownDrained := true }) (c := c) (q := q)
      (sent (g := fun s => s.step.round) fun _ _ _ _ _ => rfl) ((sent (g := stepHolder) fun _ _ _ _ _ => rfl).trans holder) ?_
      ((sent (g := fun s => holdsDrained s { r with ownDrained := true } false q) fun _ _ _ _ _ => rfl).trans missing)
    rw [sent (g := (rankOf · c)) fun _ _ _ _ _ => rfl, sent (g := (rankTotal · c)) fun _ _ _ _ _ => rfl, rank,
      rankTotal_of_bound (s := t) bound]
    exact child
  simp only [castDrained, round, holder, rankless_of_ranked bound ranked, Bool.false_eq_true, if_false]
  exact (congrArg tryDrained (if_neg fun root => member (rank.symm.trans root))).trans waits

end Drained

/-- The state in which the drain of an aborted attempt ends (R315). -/
def drainTime (c : Ctx) (r : Round) (s : State) : State :=
  if (getCtx s c).outstanding = 0 then s else advanceTo (r.startedAt + msec 2) s

theorem drainTime_keeps {β : Type} (g : State → β) (blind : ∀ s m, g { s with mgmt := m } = g s) (c : Ctx) (r : Round) (s : State) :
    g (drainTime c r s) = g s := by
  unfold drainTime
  split
  · rfl
  · exact advanceTo_keeps g blind ..

theorem lastAttempts_drainTime (c : Ctx) (r : Round) (s : State) : lastAttempts (drainTime c r s) = lastAttempts s :=
  drainTime_keeps lastAttempts (fun _ _ => rfl) c r s

theorem mem_lastAttempts {s : State} {i : Nat} {h : Held} (held : s.step.held[i]? = some h) (aborting : h.st = .aborting)
    (last : maxAttempts s ≤ h.attempt.toNat + 1) : i ∈ lastAttempts s := by
  refine List.mem_map.mpr ⟨(h, i), List.mem_filter.mpr ⟨List.mk_mem_zipIdx_iff_getElem?.mpr held, ?_⟩, rfl⟩
  rw [decide_eq_true aborting, decide_eq_true last]
  rfl

theorem aborting_of_place {s : State} {i : Nat} {h : Held} (place : abortingPlace s = some i) (held : s.step.held[i]? = some h) :
    h.st = .aborting :=
  of_decide_eq_true (holds_of_placeOf (p := fun h : Held => decide (h.st = .aborting)) (l := s.step.held) place held)

section DrainDone
variable {s : State} {r : Round} {i : Nat} {h : Held} (round : s.step.round = some r) (place : abortingPlace s = some i)
  (held : s.step.held[i]? = some h)
include round place held

theorem exec_roundHaltTimeout : exec .roundHaltTimeout s = .next (haltRound h.cause i (roundTime s r 4 s)) := by
  show execRoundHaltTimeout s = _
  simp only [execRoundHaltTimeout, round, place, held]

variable (own : r.ownDrained = false) (still : emberRuns s = false)
include own still

theorem exec_abortDrainDone : exec .abortDrainDone s = .next (drainEnds h.ctx r i s) := by
  show execAbortDrainDone s = _
  simp only [execAbortDrainDone, round, place, held, own, still, Bool.or_self, Bool.false_eq_true, if_false]

/-- The oldest step is at its last attempt. -/
theorem exec_abortDrainDone_last (last : maxAttempts s ≤ h.attempt.toNat + 1) : exec .abortDrainDone s =
    .next (modStep (fun e => { e with round := none }) (haltSpent (drainTime h.ctx r s))) := by
  have spent : (lastAttempts (drainTime h.ctx r s)).contains i = true := by
    rw [lastAttempts_drainTime]
    exact List.contains_iff_mem.mpr (mem_lastAttempts held (aborting_of_place place held) last)
  exact (exec_abortDrainDone round place held own still).trans (congrArg Host.Outcome.next (if_pos spent))

/-- No step is at its last attempt. -/
theorem exec_abortDrainDone_more (more : lastAttempts s = []) :
    exec .abortDrainDone s = .next (castDrained (drainTime h.ctx r s)) := by
  have none_ : lastAttempts (drainTime h.ctx r s) = [] := (lastAttempts_drainTime ..).trans more
  have halts : haltSpent (drainTime h.ctx r s) = drainTime h.ctx r s := by rw [haltSpent, none_]; rfl
  have ends : drainEnds h.ctx r i s = castDrained (drainTime h.ctx r s) := by
    show (if (lastAttempts (drainTime h.ctx r s)).contains i then
      modStep (fun e => { e with round := none }) (haltSpent (drainTime h.ctx r s)) else
      castDrained (haltSpent (drainTime h.ctx r s))) = _
    rw [none_, halts]
    rfl
  rw [exec_abortDrainDone round place held own still, ends]

end DrainDone

section Vote
variable {s : State} {msg : Tc0} {q : Nat} (entry : entryOfPid s msg.pid = some q) (roll : Bool)
include entry

theorem exec_voteDrained_stale (stale : staleDrained s msg = true) : exec (.voteDrained roll msg) s = .next s := by
  show Host.Outcome.next (drainedArrives roll msg s) = _
  simp only [drainedArrives, entry, stale, if_true]

theorem exec_voteDrained_new (new : staleDrained s msg = false) :
    exec (.voteDrained roll msg) s = .next (tryDrained (keepVote msg.origin roll msg s)) := by
  show Host.Outcome.next (drainedArrives roll msg s) = _
  simp only [drainedArrives, entry, new, Bool.false_eq_true, if_false]

end Vote

/-- A REPLAY of the round that goes on is forwarded and taken. -/
theorem exec_resolveReplay {s : State} {c : Ctx} {r : Round} {k : Nat} {msg : Tc0} (round : s.step.round = some r)
    (entry : entryOfPid s msg.pid = some k) (ctx : (getPart s k).ctx = c) (step : r.step = msg.step)
    (attempt : r.attempt = msg.attempt) (port : Fin 24) (ranked : rankless (forwardResolve k port.val msg s) c = false) :
    exec (.resolveReplay port msg) s = .next (replayHere c r (forwardResolve k port.val msg s)) := by
  have kept : (forwardResolve k port.val msg s).step.round = some r := by
    unfold forwardResolve
    dsimp only
    split
    · exact round
    · exact (BlindToSends.sendTc0 (g := fun s => s.step.round) (fun _ _ _ _ _ => rfl) ..).trans round
  show Host.Outcome.next (replayArrives port.val msg s) = _
  simp only [replayArrives, entry, ctx, kept]
  exact congrArg Host.Outcome.next (if_pos ⟨step, attempt, ranked⟩)

/-! ### The leases of a round (R336, R337) -/

theorem roundTime_keeps {β : Type} (g : State → β) (blind : ∀ s m, g { s with mgmt := m } = g s) (s : State) (r : Round)
    (drains : Nat) (t : State) : g (roundTime s r drains t) = g t :=
  advanceTo_keeps g blind ..

section Declare
variable {k : Nat} {r : Round} {lost : List Nat} {s : State}

theorem declareLost_nil (k : Nat) (r : Round) (s : State) : declareLost k r [] s = s :=
  rfl

/-- A declaration goes out from the acting root, which takes it itself. -/
def declared (k i : Nat) (msg : Tc0) (s : State) : State := takeDeclaration k i msg (floodAbort k none msg s)

variable {i : Nat} (place : abortingPlace s = some i) (some_ : lost ≠ [])
include place some_

/-- A pair lost, or MIRROR off, is MIRROR_LOST with the ranks up to 4. -/
theorem declareLost_of_pair (pair : pairLost s (getPart s k) r lost = true ∨ s.pwr.modes.mirror = false) :
    declareLost k r lost s = declared k i
      (tc0Msg s k 1 r.attempt causeMirrorLost r.step (declBody ((lost.take 4).map (fun q => (q, 0))))) s := by
  have gone : (pairLost s (getPart s k) r lost || !s.pwr.modes.mirror) = true := by
    rcases pair with pair | off
    · rw [pair, Bool.true_or]
    · rw [off, Bool.not_false, Bool.or_true]
  have nonempty : lost.isEmpty = false := List.isEmpty_eq_false_iff.mpr some_
  simp only [declareLost, nonempty, gone, place, Bool.false_eq_true, if_false, if_true]
  rfl

/-- More than four ranks with their mirrors here halt the step. -/
theorem declareLost_of_many (whole : pairLost s (getPart s k) r lost = false) (on : s.pwr.modes.mirror = true)
    (many : 4 < lost.length) :
    declareLost k r lost s = declared k i (tc0Msg s k 1 r.attempt causeLoss r.step 0) s := by
  have nonempty : lost.isEmpty = false := List.isEmpty_eq_false_iff.mpr some_
  simp only [declareLost, nonempty, whole, on, many, place, Bool.not_true, Bool.or_self, Bool.false_eq_true, if_false, if_true]
  rfl

end Declare

section Lease
variable {s : State} {c : Ctx} {r : Round} {k : Nat} (round : s.step.round = some r) (holder : stepHolder s = some c)
  (bound : boundEntry s c = some k)
include round holder bound

theorem exec_roundLeaseExpiry_member (member : isRoot s c = false) : exec .roundLeaseExpiry s = .next s := by
  show execRoundLeaseExpiry s = _
  simp only [execRoundLeaseExpiry, round, holder, bound, member, Bool.false_eq_true, if_false]

theorem exec_roundLeaseExpiry_root (root : isRoot s c = true) : exec .roundLeaseExpiry s =
    .next (declareLost k r (lostRanks s (getPart s k) r) (roundTime s r 0 s)) := by
  show execRoundLeaseExpiry s = _
  simp only [execRoundLeaseExpiry, round, holder, bound, root, if_true]

variable (ranked : (getPart s k).ranked = true)
include ranked

theorem exec_rollCallResend_member (drained : r.ownDrained = true) (below : 1 < (getPart s k).rank.toNat) :
    exec .rollCallResend s = .next (sendRollCall c r 1 (roundTime s r 1 s)) := by
  have sends : (r.ownDrained && decide (1 < (rankOf s c).toNat) && !(rankless s c)) = true := by
    rw [drained, rankOf_of_bound bound, decide_eq_true below, rankless_of_ranked bound ranked]
    rfl
  show execRollCallResend s = _
  simp only [execRollCallResend, round, holder]
  exact if_pos sends

theorem exec_rootFallback_one (one : (getPart s k).rank = 1) : exec .rootFallback s =
    let root : Round := { r with actingRoot := true }
    let t := modStep (fun e => { e with round := some root }) (roundTime s r 2 s)
    .next (declareLost k root (lostRanks t (getPart t k) root) t) := by
  show execRootFallback s = _
  simp only [execRootFallback, round, holder, bound]
  exact if_pos ⟨(rankOf_of_bound bound).trans one, rankless_of_ranked bound ranked⟩

end Lease

/-! ### Promotion (R339) -/

/-- The state of a spare whose pulls have ended, as it casts DRAINED. -/
def promoted (pulled : List (Nat × Byte)) (maps : List MirMap) (embers : List (BitVec 64)) (n next : BitVec 64)
    (cursors : PulledCursors) (s : State) : State :=
  let t := modStep (fun e => { e with
      number := n, cursor := cursors.own, next := next, peerNumber := n, peerCursor := cursors.peer, mirror := .synced
      pulled := embers })
    (modStep (fun e => { e with entries := mapsOf true maps, peerEntries := mapsOf false maps })
      (writePulled (pulledArea maps) pulled s))
  { t with ras := { t.ras with
    spareState := .promoted
    sparePulled := BitVec.ofNat 32 ((pulled.filter (fun c => pulledArea maps c.1)).length / 2 ^ 20) } }

theorem exec_promotionPullDone_pulling {s : State} (pulling : s.ras.spareState = .pulling) (pulled : List (Nat × Byte))
    (maps : List MirMap) (embers : List (BitVec 64)) (n next : BitVec 64) (cursors : PulledCursors) :
    exec (.promotionPullDone pulled maps [] embers n cursors next) s =
      .next (castDrained (promoted pulled maps embers n next cursors s)) :=
  if_pos pulling

/-- Settles O38: the drain, DRAINED and REPLAY, each lease of a round, and what a spare takes when its pulls end. -/
theorem roundsAndPromotion : Obligations.RoundsAndPromotion := by
  refine ⟨fun s c r i k q h msg port roll => ?rounds, fun s pulled maps embers n cur next pcur pulling => ?promotion⟩
  case rounds =>
    intro own root v lost at0 gone s1 round holder bound ranked leader
    have time {β : Type} (g : State → β) (blind : ∀ s m, g { s with mgmt := m } = g s) : g at0 = g s := roundTime_keeps g blind ..
    refine ⟨fun place held draining still => ⟨exec_abortDrainDone_last round place held draining still,
        fun more member child missing => ?cast⟩, exec_roundHaltTimeout round,
      fun entry => ⟨exec_voteDrained_stale entry roll, fun new draining => ?held, fun new drained unsent first all => ?replay⟩,
      fun entry ctx step attempt there => ⟨exec_resolveReplay round entry ctx step attempt port there, ?_, fun none_ => ?_,
        fetchStopped_replayHere c r s⟩, exec_roundLeaseExpiry_member round holder bound, fun rooted none_ => ?_,
      fun rooted many place whole on => ?_, fun rooted some_ pair place => ?_,
      exec_rollCallResend_member round holder bound ranked, exec_rootFallback_one round holder bound ranked⟩
    case cast =>
      have drained {β : Type} (g : State → β) (blind : ∀ s m, g { s with mgmt := m } = g s) : g s1 = g s :=
        drainTime_keeps g blind h.ctx r s
      refine (exec_abortDrainDone_more round place held draining still more).trans (congrArg Host.Outcome.next ?_)
      have entry : getPart s1 k = getPart s k := drained (getPart · k) fun _ _ => rfl
      refine castDrained_of_missing (s := s1) (c := c) (k := k) (q := q) ((drained (·.step.round) fun _ _ => rfl).trans round)
        ((drained stepHolder fun _ _ => rfl).trans holder) ((drained (boundEntry · c) fun _ _ => rfl).trans bound)
        (entry ▸ ranked) (entry ▸ member) (entry ▸ child)
        ((drained (holdsDrained · r false q) fun _ _ => rfl).trans missing)
    case held => exact (exec_voteDrained_new entry roll new).trans (congrArg _ (tryDrained_of_draining (s := v) round draining))
    case replay =>
      refine (exec_voteDrained_new entry roll new).trans (congrArg Host.Outcome.next ?_)
      refine tryDrained_of_root (s := v) round holder drained unsent leader (rankless_of_ranked (s := v) bound ranked)
        ((rankOf_of_bound (s := v) bound).trans first) ?_
      rw [rankTotal_of_bound (s := v) bound]
      exact all
    · rw [step_replayHere]
    · rw [step_replayHere]
      exact reopenHeld_of_none_halted none_
    · rw [exec_roundLeaseExpiry_root round holder bound rooted, show lostRanks s (getPart s k) r = [] from none_, declareLost_nil]
    · have entry : getPart at0 k = getPart s k := time (getPart · k) fun _ _ => rfl
      have declares := declareLost_of_many (k := k) (r := r) (lost := lost) ((time abortingPlace fun _ _ => rfl).trans place)
        (List.ne_nil_of_length_pos (Nat.lt_trans (by decide) many)) (entry ▸ whole)
        ((time (·.pwr.modes.mirror) fun _ _ => rfl).trans on) many
      rw [exec_roundLeaseExpiry_root round holder bound rooted, declares,
        time (fun t => tc0Msg t k 1 r.attempt causeLoss r.step 0) fun _ _ => rfl]
      rfl
    · have entry : getPart at0 k = getPart s k := time (getPart · k) fun _ _ => rfl
      have declares := declareLost_of_pair (k := k) (r := r) (lost := lost) ((time abortingPlace fun _ _ => rfl).trans place)
        some_ (pair.imp (entry ▸ ·) ((time (·.pwr.modes.mirror) fun _ _ => rfl).trans ·))
      rw [exec_roundLeaseExpiry_root round holder bound rooted, declares,
        time (fun t => tc0Msg t k 1 r.attempt causeMirrorLost r.step _) fun _ _ => rfl]
      rfl
  case promotion =>
    let cursors : PulledCursors := ⟨cur, pcur⟩
    let cast_ := promoted pulled maps embers n next cursors s
    have step := step_castDrained cast_
    have mem : (castDrained cast_).mem = (writePulled (pulledArea maps) pulled s).mem := mem_castDrained cast_
    refine ⟨_, exec_promotionPullDone_pulling pulling pulled maps embers n next cursors, (congrArg StepEng.number step :),
      (congrArg StepEng.cursor step :), (congrArg StepEng.next step :), (congrArg StepEng.mirror step :),
      (congrArg StepEng.peerNumber step :), (congrArg StepEng.peerCursor step :), (congrArg StepEng.pulled step :),
      (congrArg StepEng.entries step :), (congrArg StepEng.peerEntries step :), congrArg Ras.spareState (ras_castDrained cast_),
      fun a other => ?_, fun a b one inside => ?_, (cells_castDrained cast_).trans ?_⟩
    · rw [mem]
      exact get_writePulled_other other s
    · rw [mem, one]
      exact get_writePulled_one inside b s
    · exact writePulled_keeps (g := State.cells) (fun _ _ _ => rfl) _ pulled s

end Sys2Proof.Machine
end
